-- ==== Sys2Proof/Word.lean ====
section
/-!
DEFINITION. The word types of the Tamyen 7640 (R8): byte, half, word, double.
-/

namespace Sys2Proof

/-- A byte is 8 bits (R8). -/
abbrev Byte := BitVec 8

/-- A half is 16 bits (R8). -/
abbrev Half := BitVec 16

/-- A word is 32 bits (R8). -/
abbrev Word := BitVec 32

/-- A double is 64 bits (R8). -/
abbrev Dword := BitVec 64

/-- One bit for each lane of a wave, lane 0 in bit 0 (R9). -/
abbrev LaneMask := BitVec 128

end Sys2Proof
end

