-- ==== Sys2Proof/Config.lean ====
section
/-!
DEFINITION. What one implementation fixes, and the free values. A constant with no body is a value the spec leaves
open: nothing can evaluate it, and a claim that mentions it holds whatever it is (log 5, 6, 8, 12).
-/

namespace Sys2Proof

/-- Cores of the package (R3). -/
def Config.cores : Nat := 256

/-- Register segments of 8 KiB per core (R3). -/
def Config.segments : Nat := 128

/-- Accumulator tiles per core (R3). -/
def Config.tiles : Nat := 8

/-- Expansion slots per core (R3). -/
def Config.expSlots : Nat := 256

/-- Bytes of a core's L1 and scratchpad together: 1,536 KiB (R3). -/
def Config.l1Bytes : Nat := 1536 * 1024

/-- Virtual functions (R3). -/
def Config.virtualFunctions : Nat := 63

/-- Packages of a gang (R3). -/
def Config.gangPackages : Nat := 4096

/-- Bytes of the CXL tier: 8 TiB (R3). -/
def Config.cxlBytes : Nat := 8 * 2 ^ 40

/-- Copies per core (R253). -/
def Config.copies : Nat := 512

/-- Records of a core's coalescer (R175). -/
def Config.coalescer : Nat := 16

/-- Slots of a context's trap ring (R176). -/
def Config.trapSlots : Nat := 2048

/-- Operations of one token-merging unit or beam engine (R336, R349). -/
def Config.unitOps : Nat := 64

/-- Version space of a die in bytes (R170). -/
def Config.versionSpace : Nat := 32 * 1024 * 1024

/-- Segments of a crew's segment table (R301). -/
def Config.crewSegments : Nat := 16384

/-- Entries of a die's translation cache (R357). -/
def Config.tlbEntries : Nat := 16384

/-- Bytes of HBM that one die homes: 192 GiB (R80). -/
def Config.dieBytes : Nat := 192 * 1024 * 1024 * 1024

/-- Bytes of HBM of the package: 768 GiB (R80). -/
def Config.hbmBytes : Nat := 4 * Config.dieBytes

/-- This package's own number in messages (R366). The spec does not number packages otherwise; log 11. -/
opaque Config.package : Nat

/-- Where a physical address outside HBM and outside the CXL tier is homed (R80, R81): the spec gives no rule. -/
inductive Config.Home where
  /-- Memory homed in another package of the gang. -/
  | remote (pkg : Nat)
  /-- Host memory behind the PCIe completer. -/
  | host
  deriving DecidableEq, Repr, Inhabited

/-- FREE (log 8): the home of a frame number that is neither HBM nor CXL. -/
opaque Config.frameHome : Nat → Config.Home

/-- FREE (log 8): the byte host memory returns at an address, fresh for each read. -/
opaque Config.hostByte : Nat → Nat → Byte

/-- FREE (log 63): the context and the 4 KiB page of its register window that a frame outside HBM and CXL is, if any (R377, R378). -/
opaque Config.windowFrame : Nat → Option (Nat × Nat)

/-- Bytes of a function's device-memory aperture: 16 MiB (R376). -/
def Config.apertureBytes : Nat := 2 ^ 24

/-- FREE (log 23): where in device memory a function's aperture lies. -/
opaque Config.apertureStart : Nat → Nat

/-- The device address that the first byte of a function's BAR4 shows; all of the aperture is device memory (R376). -/
def Config.apertureBase (fn : Nat) : Nat := Config.apertureStart fn % (Config.hbmBytes - Config.apertureBytes + 1)

/-- FREE (log 22): the CXL device whose decoder holds an address of the tier (R380). -/
opaque Config.cxlDevice : Nat → Nat

/-- FREE (log 5): one word for each number drawn from the state's counter. -/
opaque Config.freeWord : Nat → Word

/-- FREE (log 6): what FRCP returns for an operand, where it lies within R196's bound. -/
opaque Config.frcp : Word → Word

/-- FREE (log 6): what FRSQ returns for an operand, where it lies within R196's bound. -/
opaque Config.frsq : Word → Word

/-- FREE (log 6): what FEXP2 returns for an operand, where it lies within R196's bound. -/
opaque Config.fexp2 : Word → Word

/-- FREE (log 6): what FLOG2 returns for an operand, where it lies within R196's bound. -/
opaque Config.flog2 : Word → Word

/-- FREE (log 12): byte `i` of the per-boot key of boot number `n` (R384). -/
opaque Config.bootKey : Nat → Nat → Byte

/-- FREE (log 12): the identity certificate chain that a configuration record carries (R385). -/
opaque Config.certChain : List Byte → List Byte

/-- FREE (log 67): the hottest junction in °C at a reading (R383). -/
opaque Config.celsius : Nat → Nat

/-- FREE (log 67): the supply in mV at a reading (R382). -/
opaque Config.millivolts : Nat → Nat

/-- FREE (log 69): what the blocks' snapshot registers hold after latch number `n` (R374). -/
opaque Config.snapshot : Nat → List Byte

/-- FREE (log 62): a reservation on a granule of another package or of the host still stands at its home (R95), asked anew by
each SC. -/
opaque Config.stillReserved : Nat → Bool

/-- FREE (log 12): byte `i` of the ECDSA signature over a report's first 184 bytes, for signing number `n` (R385). -/
opaque Config.signByte : Nat → List Byte → Nat → Byte

end Sys2Proof
end

