-- ==== Sys2Proof/Machine/Tab.lean ====
section
/-!
DEFINITION. Tables: lists of (key, value) pairs with strictly rising keys. Memory, scratchpads, registers and every
numbered collection of the machine are tables. `find`/`put` are partial maps; `rd`/`wr` read an unlisted key as a
default and never list an entry that equals it, so that equal contents are equal data.
-/

namespace Sys2Proof

/-- A finite map from numbers, as data. -/
abbrev Tab (α : Type) := List (Nat × α)

/-- The keys of a table rise strictly. -/
def Tab.Rising {α : Type} : Tab α → Bool
  | [] => true
  | [_] => true
  | (k, _) :: (k', v') :: t => decide (k < k') && Tab.Rising ((k', v') :: t)

/-- The entry at `k`, if there is one. -/
def Tab.find? {α : Type} : Tab α → Nat → Option α
  | [], _ => none
  | (k', v) :: t, k => if k = k' then some v else Tab.find? t k

/-- Set the entry at `k`. -/
def Tab.put {α : Type} : Tab α → Nat → α → Tab α
  | [], k, v => [(k, v)]
  | (k', v') :: t, k, v =>
    if k < k' then (k, v) :: (k', v') :: t
    else if k = k' then (k, v) :: t
    else (k', v') :: Tab.put t k v

/-- Remove the entry at `k`. -/
def Tab.del {α : Type} (t : Tab α) (k : Nat) : Tab α := t.filter (fun e => e.1 != k)

/-- Read with a default for an unlisted key. -/
def Tab.rd {α : Type} (dflt : α) (t : Tab α) (k : Nat) : α := (t.find? k).getD dflt

/-- Write, keeping out every entry that equals the default. -/
def Tab.wr {α : Type} [DecidableEq α] (dflt : α) (t : Tab α) (k : Nat) (v : α) : Tab α :=
  if v = dflt then t.del k else t.put k v

/-- The canonical form: rising keys and no entry equal to the default. -/
def Tab.wf {α : Type} [DecidableEq α] (dflt : α) (t : Tab α) : Bool :=
  Tab.Rising t && t.all (fun e => decide (e.2 ≠ dflt))

/-- Change the entry at `k` where there is one. -/
def Tab.modify {α : Type} (t : Tab α) (k : Nat) (f : α → α) : Tab α :=
  match t.find? k with
  | none => t
  | some v => t.put k (f v)

/-- Change every entry. -/
def Tab.mapV {α : Type} (t : Tab α) (f : Nat → α → α) : Tab α := t.map (fun e => (e.1, f e.1 e.2))

/-- Drop the entries with keys in `[lo, lo + n)`. -/
def Tab.delRange {α : Type} (t : Tab α) (lo n : Nat) : Tab α :=
  t.filter (fun e => !(decide (lo ≤ e.1) && decide (e.1 < lo + n)))

/-- The values of a table, in key order. -/
def Tab.vals {α : Type} (t : Tab α) : List α := t.map (·.2)

/-- The lowest number not a key, among the first `n + 1`. -/
def Tab.freeKey {α : Type} (t : Tab α) : Nat :=
  ((List.range (t.length + 1)).find? (fun k => (t.find? k).isNone)).getD t.length

/-- `n` bytes from `a`, lowest address first. -/
def Tab.bytes (t : Tab Byte) (a n : Nat) : List Byte := (List.range n).map (fun i => t.rd 0 (a + i))

/-- Write bytes from `a` upward. -/
def Tab.wrBytes (t : Tab Byte) (a : Nat) : List Byte → Tab Byte
  | [] => t
  | b :: bs => Tab.wrBytes (t.wr 0 a b) (a + 1) bs

/-- The little-endian number of a byte list (R8). -/
def leNat : List Byte → Nat
  | [] => 0
  | b :: bs => b.toNat + 256 * leNat bs

/-- `n` little-endian bytes of a number (R8). -/
def leBytes : Nat → Nat → List Byte
  | 0, _ => []
  | n + 1, v => BitVec.ofNat 8 v :: leBytes n (v / 256)

/-- Bits `lo + n - 1 .. lo` of a number. -/
def bitsOf (v lo n : Nat) : Nat := (v >>> lo) % 2 ^ n

/-- Bit `i` of a number. -/
def bitOf (v i : Nat) : Bool := v.testBit i

/-- A number's low `n` bits read as two's complement (R15). -/
def sextNat (n v : Nat) : Int := if (v % 2 ^ n) < 2 ^ (n - 1) then (v % 2 ^ n : Nat) else ((v % 2 ^ n : Nat) : Int) - (2 ^ n : Nat)

/-- An integer's low `n` bits. -/
def wrapNat (n : Nat) (v : Int) : Nat := (v % ((2 ^ n : Nat) : Int)).toNat

/-- Round up to a multiple of `m`. -/
def alignUp (v m : Nat) : Nat := (v + m - 1) / m * m

/-- Distinct elements, first occurrences kept. -/
def distinct {α : Type} [DecidableEq α] (l : List α) : List α :=
  (l.foldl (fun acc x => if acc.contains x then acc else x :: acc) []).reverse

end Sys2Proof
end

