-- ==== Sys2Proof/Machine/Num.lean ====
section
/-!
DEFINITION. Number formats and arithmetic (R15 to R36): exact dyadic values, floating-point formats, one rounding of an
exact value, overflow (R29, R30), NaN results (R32 to R36), and the exact sums, products, quotients and roots the
instructions round.
-/

namespace Sys2Proof.Machine

open Sys2Proof

/-! ## Exact values -/

/-- A dyadic rational, `m * 2 ^ e`. -/
structure Dy where
  /-- Significand. -/
  m : Int
  /-- Exponent. -/
  e : Int
  deriving DecidableEq, Repr

/-- `2 ^ n` as an integer, 1 for negative `n`. -/
def pow2 (n : Int) : Int := ((2 ^ n.toNat : Nat) : Int)

/-- The significand of a value at an exponent no larger than its own. -/
def Dy.at (a : Dy) (e : Int) : Int := a.m * pow2 (a.e - e)

/-- Exact sum. -/
def Dy.add (a b : Dy) : Dy := let e := min a.e b.e; ⟨a.at e + b.at e, e⟩

/-- Negation. -/
def Dy.neg (a : Dy) : Dy := ⟨-a.m, a.e⟩

/-- Exact difference. -/
def Dy.sub (a b : Dy) : Dy := a.add b.neg

/-- Exact product. -/
def Dy.mul (a b : Dy) : Dy := ⟨a.m * b.m, a.e + b.e⟩

/-- An integer. -/
def Dy.ofInt (n : Int) : Dy := ⟨n, 0⟩

/-- Times a power of two. -/
def Dy.scale (a : Dy) (n : Int) : Dy := ⟨a.m, a.e + n⟩

/-- Strictly less. -/
def Dy.lt (a b : Dy) : Bool := let e := min a.e b.e; decide (a.at e < b.at e)

/-- Less or equal. -/
def Dy.le (a b : Dy) : Bool := !b.lt a

/-- Equal in value. -/
def Dy.eqv (a b : Dy) : Bool := a.le b && b.le a

/-- Magnitude. -/
def Dy.abs (a : Dy) : Dy := ⟨(a.m.natAbs : Int), a.e⟩

/-- Number of bits of a number. -/
def bitLen (n : Nat) : Nat := if n = 0 then 0 else Nat.log2 n + 1

/-- floor(log2 |a|) of a nonzero value. -/
def Dy.ilog (a : Dy) : Int := (bitLen a.m.natAbs : Int) - 1 + a.e

/-- floor of a value. -/
def Dy.floor (a : Dy) : Int := if 0 ≤ a.e then a.m * pow2 a.e else a.m / pow2 (-a.e)

/-- An integer in rounding mode RM (R27). -/
def Dy.toInt (a : Dy) (rm : Nat) : Int :=
  let f := a.floor
  let d := a.sub (.ofInt f)
  if d.m = 0 then f else
  match rm with
  | 1 => if a.m < 0 then f + 1 else f
  | 2 => f + 1
  | 3 => f
  | _ =>
    let two := d.scale 1
    let one := Dy.ofInt 1
    if two.lt one then f else if one.lt two then f + 1 else if f % 2 = 0 then f else f + 1

/-! ## Formats (R17, R18, R21) -/

/-- A floating-point format (R17). -/
structure Fmt where
  /-- Exponent bits. -/
  eb : Nat
  /-- Mantissa bits. -/
  mb : Nat
  /-- Bias. -/
  bias : Int
  /-- Code of the largest finite magnitude. -/
  top : Nat
  /-- The format has infinities. -/
  hasInf : Bool
  /-- The format has NaN codes. -/
  hasNan : Bool
  deriving DecidableEq, Repr

/-- FP64. -/
def fp64 : Fmt := ⟨11, 52, 1023, 0x7FEFFFFFFFFFFFFF, true, true⟩
/-- FP32. -/
def fp32 : Fmt := ⟨8, 23, 127, 0x7F7FFFFF, true, true⟩
/-- BF16. -/
def bf16 : Fmt := ⟨8, 7, 127, 0x7F7F, true, true⟩
/-- FP16. -/
def fp16 : Fmt := ⟨5, 10, 15, 0x7BFF, true, true⟩
/-- E5M2. -/
def e5m2 : Fmt := ⟨5, 2, 15, 0x7B, true, true⟩
/-- E4M3. -/
def e4m3 : Fmt := ⟨4, 3, 7, 0x7E, false, true⟩
/-- E2M1. -/
def e2m1 : Fmt := ⟨2, 1, 1, 7, false, false⟩

/-- Bits of a format. -/
def Fmt.bits (f : Fmt) : Nat := 1 + f.eb + f.mb

/-- Code of +∞, where the format has one. -/
def Fmt.inf (f : Fmt) : Nat := (2 ^ f.eb - 1) * 2 ^ f.mb

/-- The sign bit. -/
def Fmt.sign (f : Fmt) : Nat := 2 ^ (f.eb + f.mb)

/-- Exponent of the unit of the smallest subnormal. -/
def Fmt.emin (f : Fmt) : Int := 1 - f.bias - f.mb

/-- A number as an instruction reads it: finite with a sign (for zeros) and a value, infinite, or NaN. -/
inductive FNum where
  | fin (neg : Bool) (v : Dy)
  | inf (neg : Bool)
  | nan
  deriving DecidableEq, Repr

/-- The sign of a code. -/
def Fmt.isNeg (f : Fmt) (c : Nat) : Bool := bitOf c (f.eb + f.mb)

/-- The magnitude part of a code. -/
def Fmt.mag (f : Fmt) (c : Nat) : Nat := c % f.sign

/-- A code is a NaN (R18). -/
def Fmt.isNan (f : Fmt) (c : Nat) : Bool := f.hasNan && decide ((if f.hasInf then f.inf else f.top) < f.mag c)

/-- The value of a code (R17, R18). -/
def Fmt.decode (f : Fmt) (c : Nat) : FNum :=
  let neg := f.isNeg c
  let a := f.mag c
  if f.isNan c then .nan
  else if f.hasInf && a == f.inf then .inf neg
  else
    let ex := a / 2 ^ f.mb
    let ma := a % 2 ^ f.mb
    let m : Int := if ex = 0 then ma else (ma + 2 ^ f.mb : Nat)
    let e : Int := if ex = 0 then f.emin else f.emin + ((ex - 1 : Nat) : Int)
    .fin neg ⟨if neg then -m else m, e⟩

/-! ## NaNs (R32 to R36) -/

/-- A generated NaN in FP32 (R32). -/
def qnan32 (cause cls : Nat) : Nat := 0x7FC00000 + cause * 65536 + cls * 4096

/-- A generated NaN in FP64 (R32). -/
def qnan64 (cause cls : Nat) : Nat := 0x7FF8000000000000 + (cause * 65536 + cls * 4096) * 2 ^ 29

/-- A NaN code converted among FP64, FP32, BF16 and FP16, quieted (R35). -/
def nanMove (src dst : Fmt) (c : Nat) : Nat :=
  let p := c % 2 ^ src.mb
  let q := if src.mb ≤ dst.mb then p * 2 ^ (dst.mb - src.mb) else p / 2 ^ (src.mb - dst.mb)
  (if src.isNeg c then dst.sign else 0) + dst.inf + (q ||| 2 ^ (dst.mb - 1))

/-- A generated NaN in a format, as the narrowing of the FP32 form (R32, R35). -/
def Fmt.qnan (f : Fmt) (cause cls : Nat) : Nat :=
  if f.mb = 52 then qnan64 cause cls
  else if f.mb = 3 then 0x7F
  else if f.mb = 2 then 0x7E
  else nanMove fp32 f (qnan32 cause cls)

/-- Quiet a NaN (R36). -/
def Fmt.quiet (f : Fmt) (c : Nat) : Nat := if f.mb ≥ 7 then c ||| 2 ^ (f.mb - 1) else c

/-- A NaN converted from one format to another (R35): eight-bit sources give a generated NaN of cause 0x05, eight-bit
destinations keep only the sign. Between an eight-bit source's sign, which R35 keeps, and the sign 0 of a generated NaN (R32), the
model takes 0 (DESIGN CHOICE, log 65). -/
def nanConv (src dst : Fmt) (c cls : Nat) : Nat :=
  if src.mb ≤ 3 then dst.qnan 0x05 cls
  else if dst.mb = 3 then (if src.isNeg c then 0xFF else 0x7F)
  else if dst.mb = 2 then (if src.isNeg c then 0xFE else 0x7E)
  else nanMove src dst c

/-! ## Rounding (R20, R27, R29, R30) -/

/-- What overflow gives. -/
inductive Ovf where
  /-- R30: IEEE 754-2019. -/
  | ieee
  /-- R29, default: the largest finite value. -/
  | sat
  /-- R29 with .nsat. -/
  | nsat
  deriving DecidableEq, Repr

/-- The directed mode points away from zero for the sign, or the mode is nearest. -/
def awayFor (rm : Nat) (neg : Bool) : Bool := rm == 0 || (rm == 2 && !neg) || (rm == 3 && neg)

/-- The code of infinity, or of E4M3's NaN that stands in for it. -/
def Fmt.infLike (f : Fmt) : Nat := if f.hasInf then f.inf else f.top + 1

/-- Magnitude code of an overflow (R29, R30). -/
def Fmt.overflow (f : Fmt) (rm : Nat) (o : Ovf) (neg : Bool) : Nat :=
  match o with
  | .sat => f.top
  | _ => if awayFor rm neg then f.infLike else f.top

/-- Code of a magnitude and a sign. -/
def Fmt.signed (f : Fmt) (neg : Bool) (a : Nat) : Nat := if neg then f.sign + a else a

/-- Round the magnitude that lies at `q * 2 ^ e`, or strictly between that and the next multiple where `sticky`. With
`sticky` the caller gives `q` more bits than the format has. -/
def Fmt.roundMag (f : Fmt) (rm : Nat) (o : Ovf) (neg : Bool) (q : Nat) (e : Int) (sticky : Bool) : Nat :=
  let u := max (e + (bitLen q : Int) - (f.mb + 1 : Nat)) f.emin
  let k := (u - e).toNat
  let n := if e ≤ u then q / 2 ^ k else q * 2 ^ (e - u).toNat
  let r := if e ≤ u then q % 2 ^ k else 0
  let exact := r == 0 && !sticky
  let up : Bool := match rm with
    | 1 => false
    | 2 => !neg && !exact
    | 3 => neg && !exact
    | _ => if k = 0 then false else decide (2 ^ (k - 1) < r) || (r == 2 ^ (k - 1) && (sticky || n % 2 == 1))
  let n' := if up then n + 1 else n
  let code := n' + (u - f.emin).toNat * 2 ^ f.mb
  f.signed neg (if f.top < code then f.overflow rm o neg else code)

/-- Round a finite value; `neg` is the sign of a zero. -/
def Fmt.round (f : Fmt) (rm : Nat) (o : Ovf) (neg : Bool) (v : Dy) : Nat :=
  if v.m = 0 then f.signed neg 0 else f.roundMag rm o (decide (v.m < 0)) v.m.natAbs v.e false

/-- Round the quotient `num / den * 2 ^ e` of magnitude, with its sign. -/
def Fmt.roundQuot (f : Fmt) (rm : Nat) (o : Ovf) (neg : Bool) (num den : Nat) (e : Int) : Nat :=
  if num = 0 then f.signed neg 0 else
  let k := bitLen den + 80 - bitLen num
  let q := num * 2 ^ k / den
  f.roundMag rm o neg q (e - k) (num * 2 ^ k % den != 0)

/-- Integer square root: the largest `r` with `r * r ≤ n`, by bits from `k` down. -/
def isqrtFrom (n : Nat) : Nat → Nat → Nat
  | 0, r => r
  | k + 1, r => if (r + 2 ^ k) * (r + 2 ^ k) ≤ n then isqrtFrom n k (r + 2 ^ k) else isqrtFrom n k r

/-- Integer square root. -/
def isqrt (n : Nat) : Nat := isqrtFrom n (bitLen n / 2 + 1) 0

/-- Round the square root of a positive value. -/
def Fmt.roundSqrt (f : Fmt) (rm : Nat) (v : Dy) : Nat :=
  let m := v.m.natAbs
  let odd : Bool := v.e % 2 != 0
  let m0 := if odd then 2 * m else m
  let e0 := if odd then v.e - 1 else v.e
  let q := isqrt (m0 * 2 ^ 160)
  f.roundMag rm .ieee false q (e0 / 2 - 80) (q * q != m0 * 2 ^ 160)

/-- The code of a number that is no NaN. -/
def Fmt.encode (f : Fmt) (rm : Nat) (o : Ovf) (x : FNum) : Nat :=
  match x with
  | .fin neg v => f.round rm o neg v
  | .inf neg => f.signed neg (match o with | .sat => f.top | _ => f.infLike)
  | .nan => f.qnan 0 0

/-! ## Exact sums and products with the causes of R33 -/

/-- A product of numbers that are no NaN: 0 times infinity is cause 0x01. -/
def FNum.mul : FNum → FNum → Except Nat FNum
  | .fin s a, .fin t b => .ok (.fin (s != t) (a.mul b))
  | .inf s, .inf t => .ok (.inf (s != t))
  | .inf s, .fin t b => if b.m = 0 then .error 0x01 else .ok (.inf (s != t))
  | .fin s a, .inf t => if a.m = 0 then .error 0x01 else .ok (.inf (s != t))
  | _, _ => .ok .nan

/-- Negation. -/
def FNum.negate : FNum → FNum
  | .fin s a => .fin (!s) a.neg
  | .inf s => .inf (!s)
  | .nan => .nan

/-- The exact sum of terms: infinities of both signs are cause 0x02; the sign of a zero is the terms' where they agree,
else + except toward −∞ (R20). -/
def sumNums (rm : Nat) (l : List FNum) : Except Nat FNum :=
  let pinf := l.contains (.inf false)
  let ninf := l.contains (.inf true)
  if pinf && ninf then .error 0x02
  else if pinf then .ok (.inf false)
  else if ninf then .ok (.inf true)
  else
    let v : Dy := l.foldl (fun (acc : Dy) x => match x with | .fin _ d => acc.add d | _ => acc) ⟨0, 0⟩
    let allNeg := l.all (fun x => match x with | .fin s d => s && d.m == 0 | _ => false)
    let allPos := l.all (fun x => match x with | .fin s d => !s && d.m == 0 | _ => false)
    .ok (.fin (if v.m = 0 then allNeg || (rm == 3 && !allPos) else decide (v.m < 0)) v)

/-- A sum of products, with the causes of R33. Where a product 0 × ∞ and infinities of both signs occur together, the cause is 0x01
(DESIGN CHOICE, log 68). -/
def sumProducts (rm : Nat) (l : List (List FNum)) : Except Nat FNum :=
  let terms : Except Nat (List FNum) := l.foldl (fun acc fs =>
    match acc with
    | .error c => .error c
    | .ok ts =>
      match fs.foldl (fun (p : Except Nat FNum) x => match p with | .error c => .error c | .ok y => y.mul x) (.ok (.fin false ⟨1, 0⟩)) with
      | .error c => .error c
      | .ok t => .ok (ts ++ [t])) (.ok [])
  match terms with
  | .error c => .error c
  | .ok ts => sumNums rm ts

/-- The first NaN among operand codes, quieted (R36). -/
def Fmt.firstNan (f : Fmt) (l : List Nat) : Option Nat := (l.find? f.isNan).map f.quiet

/-- An arithmetic result from operand codes: R36's NaN, or what `k` gives for the operands' values, a cause giving a
generated NaN of class `cls`, a number rounded in RM under R30. -/
def Fmt.arith (f : Fmt) (cls rm : Nat) (ops : List Nat) (k : List FNum → Except Nat FNum) : Nat :=
  match f.firstNan ops with
  | some c => c
  | none =>
    match k (ops.map f.decode) with
    | .error c => f.qnan c cls
    | .ok x => f.encode rm .ieee x

/-- x + y (R191). -/
def Fmt.add (f : Fmt) (cls rm x y : Nat) : Nat := f.arith cls rm [x, y] (sumNums rm)

/-- x − y. -/
def Fmt.sub (f : Fmt) (cls rm x y : Nat) : Nat :=
  f.arith cls rm [x, y] (fun l => match l with | [a, b] => sumNums rm [a, b.negate] | _ => .error 0)

/-- x × y. -/
def Fmt.mul (f : Fmt) (cls rm x y : Nat) : Nat :=
  f.arith cls rm [x, y] (fun l => match l with | [a, b] => a.mul b | _ => .error 0)

/-- x × y + z, one rounding. -/
def Fmt.fma (f : Fmt) (cls rm x y z : Nat) : Nat :=
  f.arith cls rm [x, y, z] (fun l => match l with
    | [a, b, c] => (match a.mul b with | .error e => .error e | .ok p => sumNums rm [p, c])
    | _ => .error 0)

/-- Order of two numbers that are no NaN, by value. -/
def FNum.lt : FNum → FNum → Bool
  | .fin _ a, .fin _ b => a.lt b
  | .inf s, .inf t => s && !t
  | .inf s, .fin _ _ => s
  | .fin _ _, .inf t => !t
  | _, _ => false

/-- The smaller or larger of two codes, with −0 below +0 (R192). -/
def Fmt.minmax (f : Fmt) (larger : Bool) (x y : Nat) : Nat :=
  match f.firstNan [x, y] with
  | some c => c
  | none =>
    let a := f.decode x
    let b := f.decode y
    let xLess := a.lt b || (!b.lt a && f.isNeg x && !f.isNeg y)
    if larger then (if xLess then y else x) else (if xLess || (!b.lt a && f.isNeg x == f.isNeg y) then x else y)

/-- A condition of FCMP (R193). -/
def Fmt.compare (f : Fmt) (cc x y : Nat) : Bool :=
  if f.isNan x || f.isNan y then cc == 1 || cc == 6
  else
    let a := f.decode x
    let b := f.decode y
    let lt := a.lt b
    let gt := b.lt a
    match cc with
    | 0 => !lt && !gt
    | 1 => lt || gt
    | 2 => lt
    | 3 => !gt
    | 4 => gt
    | 5 => !lt
    | 6 => false
    | _ => true

/-! ## Integers (R16, R190) -/

/-- A w-bit value read as signed or unsigned. -/
def readInt (signed : Bool) (w v : Nat) : Int := if signed then sextNat w v else ((v % 2 ^ w : Nat) : Int)

/-- Clamp to the range of a w-bit integer. -/
def clampInt (signed : Bool) (w : Nat) (v : Int) : Int :=
  let lo : Int := if signed then -(2 ^ (w - 1) : Nat) else 0
  let hi : Int := if signed then (2 ^ (w - 1) : Nat) - 1 else (2 ^ w : Nat) - 1
  max lo (min hi v)

/-! ## Fixed-point functions, for R43, R196 and R343 -/

/-- Fraction bits of the fixed-point work. -/
def fxBits : Nat := 256

/-- One. -/
def fxOne : Int := ((2 ^ 256 : Nat) : Int)

/-- Product of two fixed-point numbers. -/
def fxMul (a b : Int) : Int := a * b / fxOne

/-- π, 256 fraction bits. -/
def fxPi : Int := 0x3243F6A8885A308D313198A2E03707344A4093822299F31D0082EFA98EC4E6C89

/-- ln 2, 256 fraction bits. -/
def fxLn2 : Int := 0xB17217F7D1CF79ABC9E3B39803F2F6AF40F343267298B62D8A0D175B8BAAFA2B

/-- A power series: `term` from the previous term and its index, summed over `n` terms. -/
def series (next : Nat → Int → Int) : Nat → Nat → Int → Int → Int
  | 0, _, _, acc => acc
  | n + 1, i, t, acc => series next n (i + 1) (next i t) (acc + t)

/-- cos of a fixed-point angle. -/
def fxCos (x : Int) : Int :=
  series (fun i t => -(fxMul t (fxMul x x)) / ((2 * i + 1) * (2 * i + 2) : Nat)) 40 0 fxOne 0

/-- sin of a fixed-point angle. -/
def fxSin (x : Int) : Int :=
  series (fun i t => -(fxMul t (fxMul x x)) / ((2 * i + 2) * (2 * i + 3) : Nat)) 40 0 x 0

/-- e to a fixed-point power. -/
def fxExp (x : Int) : Int := series (fun i t => fxMul t x / ((i + 1 : Nat) : Int)) 70 0 fxOne 0

/-- The fixed-point value of 2 to a fraction in [0, 1). -/
def fxExp2 (f : Int) : Int := fxExp (fxMul f fxLn2)

/-- Bits of log2 of a fixed-point number in [1, 2), by repeated squaring. -/
def fxLog2Go : Nat → Int → Int → Int
  | 0, _, acc => acc
  | n + 1, y, acc =>
    let q := fxMul y y
    if 2 * fxOne ≤ q then fxLog2Go n (q / 2) (2 * acc + 1) else fxLog2Go n q (2 * acc)

/-- log2 of a positive value, with 128 fraction bits. -/
def Dy.log2Fx (v : Dy) : Dy :=
  let k := v.ilog
  let y := (Dy.mk v.m (v.e - k)).scale 256 |>.floor
  ⟨k * ((2 ^ 128 : Nat) : Int) + fxLog2Go 128 y 0, -128⟩

/-- The spacing of FP32 values at a code (R196). -/
def ulp32 (c : Nat) : Dy := ⟨1, fp32.emin + (((c % 2 ^ 31) / 2 ^ 23 - 1 : Nat) : Int)⟩

end Sys2Proof.Machine
end

