-- ==== Sys2Proof/Machine/Convert.lean ====
section
/-!
DEFINITION. The approximations of R196, the conversions of R197, R198 and R31, block scaling (R21 to R26, R28, R199,
R200) and twiddle factors (R43).
-/

namespace Sys2Proof.Machine

open Sys2Proof

/-! ## FRCP, FRSQ, FEXP2, FLOG2 (R196; log 6) -/

/-- An FP32 code is finite. -/
def fin32 (c : Nat) : Bool := decide (c % 2 ^ 31 < 0x7F800000)

/-- The value of an FP32 code that is finite, else 0. -/
def val32 (c : Nat) : Dy := match fp32.decode c with | .fin _ v => v | _ => ⟨0, 0⟩

/-- A code lies within `k` of its own ulps of a value. -/
def withinUlp (k : Nat) (c : Nat) (v : Dy) : Bool :=
  fin32 c && ((val32 c).sub v).abs.le ((ulp32 c).mul (.ofInt k))

/-- A magnitude is a power of two. -/
def isPow2 (n : Nat) : Bool := n != 0 && n == 2 ^ (bitLen n - 1)

/-- 1 / x of a finite nonzero value, correctly rounded. -/
def rcpExact (v : Dy) : Nat := fp32.roundQuot 0 .ieee (decide (v.m < 0)) 1 v.m.natAbs (-v.e)

/-- FRCP (R196). -/
def frcpBits (x : Nat) : Nat :=
  match fp32.firstNan [x] with
  | some c => c
  | none =>
    match fp32.decode x with
    | .inf s => fp32.signed s 0
    | .nan => x
    | .fin s v =>
      if v.abs.lt ⟨1, -128⟩ then fp32.signed s fp32.inf
      else if isPow2 v.m.natAbs then rcpExact v
      else
        let c := (Config.frcp (BitVec.ofNat 32 x)).toNat
        let u := ulp32 c
        let one := Dy.ofInt 1
        let a := (val32 c).abs
        let ok := fin32 c && fp32.isNeg c == s && ((a.sub u).mul v.abs).le one && one.le ((a.add u).mul v.abs)
        if ok then c else rcpExact v

/-- 1 / √x of a positive value, correctly rounded where x is no power of four. -/
def rsqExact (v : Dy) : Nat :=
  let odd : Bool := v.e % 2 != 0
  let m := if odd then 2 * v.m.natAbs else v.m.natAbs
  let e := if odd then v.e - 1 else v.e
  let k : Nat := 60 + bitLen m
  let q := isqrt (2 ^ (2 * k) / m)
  fp32.roundMag 0 .ieee false q (-(e / 2) - k) (q * q * m != 2 ^ (2 * k))

/-- FRSQ (R196). -/
def frsqBits (x : Nat) : Nat :=
  match fp32.firstNan [x] with
  | some c => c
  | none =>
    match fp32.decode x with
    | .inf s => if s then qnan32 0x03 0 else 0
    | .nan => x
    | .fin s v =>
      if v.m = 0 then fp32.signed s fp32.inf
      else if s then qnan32 0x03 0
      else
        let e := rsqExact v
        if isPow2 v.m.natAbs && v.ilog % 2 == 0 then e
        else
          let c := (Config.frsq (BitVec.ofNat 32 x)).toNat
          let u := (ulp32 c).scale 1
          let one := Dy.ofInt 1
          let lo := (val32 c).sub u
          let hi := (val32 c).add u
          let ok := fin32 c && !fp32.isNeg c && (lo.m ≤ 0 || ((lo.mul lo).mul v).le one) && one.le ((hi.mul hi).mul v)
          if ok then c else e

/-- FEXP2 (R196). -/
def fexp2Bits (x : Nat) : Nat :=
  match fp32.firstNan [x] with
  | some c => c
  | none =>
    match fp32.decode x with
    | .inf s => if s then 0 else fp32.inf
    | .nan => x
    | .fin _ v =>
      if (Dy.ofInt 128).le v then fp32.inf
      else if v.le (.ofInt (-150)) then 0
      else
        let n := v.floor
        let f := (v.sub (.ofInt n)).scale 256 |>.floor
        if (v.sub (.ofInt n)).m = 0 then fp32.roundMag 0 .ieee false 1 n false
        else
          let a : Dy := ⟨fxExp2 f, n - 256⟩
          let c := (Config.fexp2 (BitVec.ofNat 32 x)).toNat
          if withinUlp 2 c a && !fp32.isNeg c then c else fp32.roundMag 0 .ieee false a.m.natAbs a.e true

/-- FLOG2 (R196). -/
def flog2Bits (x : Nat) : Nat :=
  match fp32.firstNan [x] with
  | some c => c
  | none =>
    match fp32.decode x with
    | .inf s => if s then qnan32 0x04 0 else fp32.inf
    | .nan => x
    | .fin s v =>
      if v.m = 0 then fp32.signed true fp32.inf
      else if s then qnan32 0x04 0
      else if isPow2 v.m.natAbs then fp32.round 0 .ieee false (.ofInt v.ilog)
      else
        let a := v.log2Fx
        let c := (Config.flog2 (BitVec.ofNat 32 x)).toNat
        let inside := (Dy.mk 1 (-1)).le v && v.le (.ofInt 2)
        let ok := if inside then fin32 c && ((val32 c).sub a).abs.le ⟨1, -22⟩ else withinUlp 2 c a
        if ok then c else fp32.roundMag 0 .ieee (decide (a.m < 0)) a.m.natAbs a.e true

/-! ## CVT (R197, R198) -/

/-- A format of CVT. -/
inductive CvtFmt where
  /-- A floating-point format. -/
  | flt (f : Fmt)
  /-- An integer: signed, width. -/
  | int (signed : Bool) (w : Nat)
  deriving DecidableEq, Repr

/-- The format of a code (R197). -/
def cvtFmt : Nat → CvtFmt
  | 0 => .flt fp32
  | 1 => .flt fp64
  | 2 => .flt bf16
  | 3 => .flt fp16
  | 4 => .flt e5m2
  | 5 => .flt e4m3
  | 6 => .int true 32
  | 7 => .int false 32
  | 8 => .int true 16
  | 9 => .int false 16
  | 10 => .int true 8
  | 11 => .int false 8
  | 12 => .int true 4
  | 13 => .int false 4
  | 14 => .int true 64
  | _ => .int false 64

/-- Width of a format. -/
def CvtFmt.bits : CvtFmt → Nat
  | .flt f => f.bits
  | .int _ w => w

/-- A code of a float format narrowed with the overflow rule of its width (R29, R30). -/
def ovfFor (f : Fmt) (nsat : Bool) : Ovf := if 17 ≤ f.bits then .ieee else if nsat then .nsat else .sat

/-- CVT of the low bits of `x` (R198); the result's high bits are filled as R186 says, in 32 or 64 bits. -/
def cvtBits (dst src : Nat) (nsat : Bool) (rm x cls : Nat) : Nat :=
  let v := x % 2 ^ (cvtFmt src).bits
  let num : FNum := match cvtFmt src with
    | .flt f => f.decode v
    | .int sg w => .fin (decide (readInt sg w v < 0)) (.ofInt (readInt sg w v))
  match cvtFmt dst with
  | .flt g =>
    match num with
    | .nan => (match cvtFmt src with | .flt f => nanConv f g v cls | .int _ _ => 0)
    | n => g.encode rm (ovfFor g nsat) n
  | .int sg w =>
    let wide := if 33 ≤ w then 64 else 32
    match num with
    | .nan => 0
    | .inf s => wrapNat wide (clampInt sg w (if s then -(2 ^ 70 : Nat) else (2 ^ 70 : Nat)))
    | .fin _ d =>
      let t := d.toInt rm
      let isInt := match cvtFmt src with | .int _ _ => true | .flt _ => false
      let r := if nsat && isInt then readInt sg w (wrapNat w t) else clampInt sg w t
      wrapNat wide r

/-! ## Block scaling (R21 to R26, R28) -/

/-- The element format of a block format code (R184): 1 E4M3, 2 E5M2. -/
def bfFmt (bf : Nat) : Fmt := if bf = 1 then e4m3 else e5m2

/-- The value of a block-scaled element with its side bits, NaN causes of R23 and R35. -/
def blockValue (bf e x c : Nat) : Except Nat FNum :=
  if e = 0xFF then .error 0x05 else
  let sc : Int := (e : Int) - 127
  match bf with
  | 0 =>
    if c % 16 = 8 then
      if x % 128 = 0x7F then .error 0x06
      else match e4m3.decode x with | .fin s v => .ok (.fin s (v.scale sc)) | _ => .error 0x06
    else match e2m1.decode (c % 16) with | .fin s v => .ok (.fin s (v.scale sc)) | _ => .error 0x05
  | 3 =>
    let n := sextNat 8 c
    .ok (.fin (decide (n < 0)) ((Dy.ofInt n).scale sc))
  | _ =>
    match (bfFmt bf).decode (c % 256) with
    | .fin s v => .ok (.fin s (v.scale sc))
    | .inf s => .ok (.inf s)
    | .nan => .error 0x05

/-- CVTX of one element register (R200). -/
def cvtxBits (bf rm a : Nat) : Nat :=
  match blockValue bf (bitsOf a 16 8) (bitsOf a 24 8) (bitsOf a 0 8) with
  | .error c => qnan32 c 0
  | .ok v => fp32.encode rm .ieee v

/-- The pseudo-random word of R28. -/
def rsHash (z lane n : Nat) : Nat :=
  let ctr := (z + 32 * lane + n) % 2 ^ 32
  let h := ctr * 0x9E3779B9 % 2 ^ 32
  let h := h ^^^ (h >>> 16)
  let h := h * 0x85EBCA6B % 2 ^ 32
  h ^^^ (h >>> 13)

/-- R28's choice between enclosing values: true for the upper one. -/
def rsUp (y lo hi : Dy) (h : Nat) : Bool :=
  ((hi.sub lo).mul (.ofInt h)).lt ((y.sub lo).scale 32)

/-- The 15 E2M1 values of codes other than 0b1000, with their codes. -/
def e2m1Set : List (Nat × Dy) :=
  ((List.range 16).filter (· ≠ 8)).map (fun c => (c, match e2m1.decode c with | .fin _ v => v | _ => ⟨0, 0⟩))

/-- The set of a block's values: the 15 and the extra one, under code 8. -/
def blockSet (v : Dy) : List (Nat × Dy) := e2m1Set ++ [(8, v)]

/-- A code is preferred in a tie: an E2M1 value to the extra one, an even mantissa bit to an odd one (R26). -/
def tieBetter (a b : Nat) : Bool := if a = 8 then false else if b = 8 then true else decide (a % 2 < b % 2)

/-- The nearest element of a set, ties by R26. -/
def nearest (set : List (Nat × Dy)) (y : Dy) : Nat × Dy :=
  set.foldl (fun best c =>
    let db := (best.2.sub y).abs
    let dc := (c.2.sub y).abs
    if dc.lt db || (dc.eqv db && tieBetter c.1 best.1) then c else best) (0, ⟨0, 0⟩)

/-- The largest element not above `y`; where none is, the smallest of the set. -/
def below (set : List (Nat × Dy)) (y : Dy) : Nat × Dy :=
  let ok := set.filter (fun c => c.2.le y)
  let pick (l : List (Nat × Dy)) (f : Dy → Dy → Bool) : Nat × Dy :=
    l.foldl (fun best c => if f best.2 c.2 then c else best) (l.headD (0, ⟨0, 0⟩))
  if ok.isEmpty then pick set (fun b c => c.lt b) else pick ok (fun b c => b.lt c)

/-- The smallest element not below `y`; where none is, the largest of the set. -/
def above (set : List (Nat × Dy)) (y : Dy) : Nat × Dy :=
  let ok := set.filter (fun c => y.le c.2)
  let pick (l : List (Nat × Dy)) (f : Dy → Dy → Bool) : Nat × Dy :=
    l.foldl (fun best c => if f best.2 c.2 then c else best) (l.headD (0, ⟨0, 0⟩))
  if ok.isEmpty then pick set (fun b c => b.lt c) else pick ok (fun b c => c.lt b)

/-- R26: the extra byte of an E2M1X block and the extra value. -/
def chooseExtra (ys : List Dy) : Nat × Dy :=
  let cands := ys.map (fun y =>
    let c := e4m3.round 0 .sat false y
    match e4m3.decode c with
    | .fin _ v => if v.m = 0 then (0, Dy.mk 0 0) else (c, v)
    | _ => (0, ⟨0, 0⟩))
  let err (v : Dy) : Dy := ys.foldl (fun acc y => let d := (nearest (blockSet v) y).2.sub y; acc.add (d.mul d)) ⟨0, 0⟩
  let scored := cands.map (fun c => (c, err c.2))
  let better (a b : (Nat × Dy) × Dy) : Bool :=
    a.2.lt b.2 || (a.2.eqv b.2 && (a.1.2.abs.lt b.1.2.abs || (a.1.2.abs.eqv b.1.2.abs && b.1.2.m < 0 && 0 ≤ a.1.2.m)))
  match scored with
  | [] => (0, ⟨0, 0⟩)
  | x :: xs => (xs.foldl (fun best c => if better c best then c else best) x).1

/-- The scale exponent's distance below floor(log2 amax) (R24). -/
def scaleDrop (bf : Nat) : Int := match bf with | 0 => 2 | 1 => 7 | 2 => 14 | _ => 6

/-- One E2M1X element under a mode (R199). -/
def e2m1xElem (v : Dy) (rm z lane : Nat) (y : Dy) : Nat :=
  let set := blockSet v
  let lo := below set y
  let hi := above set y
  match rm with
  | 0 => (nearest set y).1
  | 1 => if y.m < 0 then hi.1 else lo.1
  | 2 => hi.1
  | 3 => lo.1
  | _ =>
    if !(lo.2.lt y && y.lt hi.2) then (nearest set y).1
    else if rsUp y lo.2 hi.2 (rsHash z lane (lane % 32)) then hi.1 else lo.1

/-- One E4M3, E5M2 or INT8 element of a finite input (R199). -/
def narrowElem (bf rm z lane : Nat) (neg : Bool) (y : Dy) : Nat :=
  if bf = 3 then
    let n := if rm = 4 then
        let lo := y.floor
        if (y.sub (.ofInt lo)).m = 0 then lo
        else if rsUp y (.ofInt lo) (.ofInt (lo + 1)) (rsHash z lane (lane % 32)) then lo + 1 else lo
      else y.toInt rm
    wrapNat 8 (clampInt true 8 n)
  else
    let f := bfFmt bf
    if rm = 4 then
      let lo := f.round 3 .sat neg y
      let hi := f.round 2 .sat neg y
      match f.decode lo, f.decode hi with
      | .fin _ a, .fin _ b =>
        if a.lt y && y.lt b then (if rsUp y a b (rsHash z lane (lane % 32)) then hi else lo) else f.round 0 .sat neg y
      | _, _ => f.round 0 .sat neg y
    else f.round rm .sat neg y

/-- CVTQ of one block: 32 FP32 inputs with their lane numbers; the result word of each lane (R199). -/
def cvtqBlock (bf rm : Nat) (nsat : Bool) (z : Nat) (ins : List (Nat × Nat)) : List (Nat × Nat) :=
  let nums := ins.map (fun e => (e.1, fp32.decode e.2))
  let isNan := nums.any (fun e => match e.2 with | .nan => true | .inf _ => nsat | _ => false)
  if isNan then ins.map (fun e => (e.1, 0xFF * 65536)) else
  let maxFin := val32 0x7F7FFFFF
  let val (x : FNum) : Dy := match x with | .fin _ v => v | .inf s => if s then maxFin.neg else maxFin | .nan => ⟨0, 0⟩
  let neg (x : FNum) : Bool := match x with | .fin s _ => s | .inf s => s | .nan => false
  let amax := nums.foldl (fun (m : Dy) e => if m.lt (val e.2).abs then (val e.2).abs else m) ⟨0, 0⟩
  let s : Int := if amax.m = 0 then 0 else max (-127) (min 127 (amax.ilog - scaleDrop bf))
  let code := (s + 127).toNat
  let ys := nums.map (fun e => (val e.2).scale (-s))
  if bf = 0 then
    let ex := chooseExtra ys
    (nums.zip ys).map (fun e => (e.1.1, ex.1 * 2 ^ 24 + code * 65536 + e2m1xElem ex.2 rm z e.1.1 e.2))
  else
    (nums.zip ys).map (fun e =>
      let el := match e.1.2 with
        | .inf sg => if bf = 3 then (if sg then 0x80 else 0x7F) else (bfFmt bf).signed sg (bfFmt bf).top
        | x => narrowElem bf rm z e.1.1 (neg x) e.2
      (e.1.1, code * 65536 + el))

/-! ## TWID (R43) -/

/-- TC(j) and TS(j): cos and sin of πj/4096 correctly rounded to FP32. -/
def twidTable (j : Nat) : Dy × Dy :=
  if j = 0 then (⟨1, 0⟩, ⟨0, 0⟩) else
  let a := fxPi * (j : Int) / 4096
  let r (x : Int) : Dy := val32 (fp32.round 0 .ieee false ⟨x, -256⟩)
  (r (fxCos a), r (fxSin a))

/-- An exact rational rounded to FP32 by RNE: numerator over a positive denominator. -/
def roundRat (num : Int) (den : Nat) : Nat := fp32.roundQuot 0 .ieee (decide (num < 0)) num.natAbs den 0

/-- TWID's result for k and N (R43). -/
def twidBits (k n : Nat) : Nat × Nat :=
  if n = 0 ∨ 2 ^ 24 < n then (qnan32 0x07 0, qnan32 0x07 0) else
  let m := k % n
  let o := 8 * m / n
  -- u = un / n
  let un := if o % 2 = 1 then n - (8 * m - o * n) else 8 * m - o * n
  let j := min (1024 * un / n) 1023
  -- d = dn / n; phi = a / b = dn * PI64 / (4096 * n), PI64 being pm * 2 ^ -51
  let dn := 1024 * un - j * n
  let pm := 0x1921FB54442D18
  let a : Int := ((dn * pm : Nat) : Int)
  let b : Int := ((4096 * n * 2 ^ 51 : Nat) : Int)
  -- cp = (24 b^4 - 12 a^2 b^2 + a^4) / (24 b^4), sp = (6 a b^2 - a^3) / (6 b^3)
  let cpn := 24 * b ^ 4 - 12 * a ^ 2 * b ^ 2 + a ^ 4
  let spn := (6 * a * b ^ 2 - a ^ 3) * 4 * b
  let den := (24 * b ^ 4).natAbs
  let t := twidTable j
  let e := min t.1.e t.2.e
  let tc := t.1.at e
  let ts := t.2.at e
  let rr (x : Int) : Nat := if 0 ≤ e then roundRat (x * pow2 e) den else roundRat x (den * 2 ^ (-e).toNat)
  let c := rr (tc * cpn - ts * spn)
  let s := rr (ts * cpn + tc * spn)
  let ng (x : Nat) : Nat := (x + 2 ^ 31) % 2 ^ 32
  let (cs, sn) := match o with
    | 0 => (c, s) | 1 => (s, c) | 2 => (ng s, c) | 3 => (ng c, s)
    | 4 => (ng c, ng s) | 5 => (ng s, ng c) | 6 => (s, ng c) | _ => (c, ng s)
  let z (x : Nat) : Nat := if x % 2 ^ 31 = 0 then 0 else x
  (z cs, z (ng sn))

end Sys2Proof.Machine
end

