-- ==== Sys2Proof/Syntax.lean ====
section
/-!
DEFINITION. The instructions and events of the machine: one constructor for each row of the opcode table. An
instruction carries the fields of its word (R60, R65); what the fields mean for it is said by its encoding check
(Machine/Encoding.lean) and by its meaning. An event carries what the acting agent chose or brought: which queue entry
is performed next, what the host wrote, what a sensor read.
-/

namespace Sys2Proof

/-- The fields of a register-form instruction word (R60), less the opcode: guard, operands with their class bits,
modifiers. -/
structure Fields where
  /-- PN, bit 55: the guard is inverted. -/
  pn : Bool
  /-- PRED, bits 54:52. -/
  pred : BitVec 3
  /-- D, bits 51:44. -/
  d : BitVec 8
  /-- A, bits 43:36. -/
  a : BitVec 8
  /-- B, bits 35:28. -/
  b : BitVec 8
  /-- C, bits 27:20. -/
  c : BitVec 8
  /-- KD, bit 19. -/
  kd : Bool
  /-- KA, bit 18. -/
  ka : Bool
  /-- KB, bit 17. -/
  kb : Bool
  /-- KC, bit 16. -/
  kc : Bool
  /-- MOD, bits 15:0. -/
  mod : BitVec 16
  deriving DecidableEq, Repr

/-- The fields of an immediate-form word (R65): KB and KC are 0, IMM is bits 35:20 above bits 15:0. -/
structure ImmFields where
  /-- PN, bit 55. -/
  pn : Bool
  /-- PRED, bits 54:52. -/
  pred : BitVec 3
  /-- D, bits 51:44. -/
  d : BitVec 8
  /-- A, bits 43:36. -/
  a : BitVec 8
  /-- KD, bit 19. -/
  kd : Bool
  /-- KA, bit 18. -/
  ka : Bool
  /-- The 32-bit immediate. -/
  imm : Word
  deriving DecidableEq, Repr

/-- A command of the management controller (R381): every register command of BAR0 and of the context windows, and the
snapshot read. -/
inductive MgmtCommand where
  /-- Write a register of BAR0 (bar 0) or of a context window (bar 2). -/
  | write (bar offset : Nat) (val : Dword)
  /-- Read a register of BAR0 or of a context window. -/
  | read (bar offset : Nat)
  /-- Read the snapshot registers the Clave latched. -/
  | snapshot
  /-- Write a copy, 0 or 1, of the configuration record or of the firmware image in flash (R384). -/
  | writeImage (fw : Bool) (copy : Nat) (bytes : List Byte)
  deriving DecidableEq, Repr

/-- What CONTEXT_LOAD registers (R104): code images, and the trap handler, by its kernel's image, crew index and wave (log 21). -/
structure ContextLoad where
  /-- Image addresses. -/
  images : List Nat
  /-- The handler, where the load names one. -/
  handler : Option (Nat × Nat × Nat)
  deriving DecidableEq, Repr

/-- A byte of a function's BAR4 aperture (R376). -/
structure ApertureByte where
  /-- Function. -/
  fn : Nat
  /-- Offset in the aperture. -/
  offset : Nat
  deriving DecidableEq, Repr

/-- What an amount of energy was used by (R113). -/
inductive EnergySource where
  /-- A core, for the waves resident on it. -/
  | core (c : Nat)
  /-- An engine operation in flight, on a compute die. -/
  | operation (op die : Nat)
  /-- The link, on an I/O die, 0 or 1. -/
  | link (die : Nat)
  deriving DecidableEq, Repr

/-- The instructions and events of the opcode table. -/
inductive Instr where
  /-- IADD (R187): Integer add modulo 2^w, register form. -/
  | iadd (f : Fields)
  /-- IADD_IMM (R187): Integer add with a 32-bit immediate. -/
  | iaddImm (f : ImmFields)
  /-- ISUB (R187): Integer subtract modulo 2^w, register form. -/
  | isub (f : Fields)
  /-- ISUB_IMM (R187): Integer subtract with an immediate. -/
  | isubImm (f : ImmFields)
  /-- IADDS (R187): Saturating integer add, register form. -/
  | iadds (f : Fields)
  /-- IADDS_IMM (R187): Saturating integer add with an immediate. -/
  | iaddsImm (f : ImmFields)
  /-- IMUL (R187): Integer multiply, low or high half, register form. -/
  | imul (f : Fields)
  /-- IMUL_IMM (R187): Integer multiply with an immediate. -/
  | imulImm (f : ImmFields)
  /-- IMAD (R187): Integer multiply-add modulo 2^w. -/
  | imad (f : Fields)
  /-- IMIN (R187): Integer minimum, register form. -/
  | imin (f : Fields)
  /-- IMIN_IMM (R187): Integer minimum with an immediate. -/
  | iminImm (f : ImmFields)
  /-- IMAX (R187): Integer maximum, register form. -/
  | imax (f : Fields)
  /-- IMAX_IMM (R187): Integer maximum with an immediate. -/
  | imaxImm (f : ImmFields)
  /-- IAND (R187): Bitwise and, register form. -/
  | iand (f : Fields)
  /-- IAND_IMM (R187): Bitwise and with an immediate. -/
  | iandImm (f : ImmFields)
  /-- IOR (R187): Bitwise or, register form. -/
  | ior (f : Fields)
  /-- IOR_IMM (R187): Bitwise or with an immediate. -/
  | iorImm (f : ImmFields)
  /-- IXOR (R187): Bitwise exclusive or, register form. -/
  | ixor (f : Fields)
  /-- IXOR_IMM (R187): Bitwise exclusive or with an immediate. -/
  | ixorImm (f : ImmFields)
  /-- ISHL (R187): Shift left, register form. -/
  | ishl (f : Fields)
  /-- ISHL_IMM (R187): Shift left by an immediate count. -/
  | ishlImm (f : ImmFields)
  /-- ISHR (R187): Logical shift right, register form. -/
  | ishr (f : Fields)
  /-- ISHR_IMM (R187): Logical shift right by an immediate count. -/
  | ishrImm (f : ImmFields)
  /-- ISRA (R187): Arithmetic shift right, register form. -/
  | isra (f : Fields)
  /-- ISRA_IMM (R187): Arithmetic shift right by an immediate count. -/
  | israImm (f : ImmFields)
  /-- IROT (R187): Rotate left, register form. -/
  | irot (f : Fields)
  /-- IROT_IMM (R187): Rotate left by an immediate count. -/
  | irotImm (f : ImmFields)
  /-- IABS (R188): Integer absolute value. -/
  | iabs (f : Fields)
  /-- INOT (R188): Bitwise complement. -/
  | inot (f : Fields)
  /-- IPOPC (R188): Population count. -/
  | ipopc (f : Fields)
  /-- ICLZ (R188): Count leading zeros. -/
  | iclz (f : Fields)
  /-- IBREV (R188): Bit reversal. -/
  | ibrev (f : Fields)
  /-- IBFE (R189): Bit-field extract. -/
  | ibfe (f : Fields)
  /-- IBFI (R189): Bit-field insert. -/
  | ibfi (f : Fields)
  /-- ICMP (R190): Integer compare into a predicate. -/
  | icmp (f : Fields)
  /-- FADD (R191): Correctly rounded floating add, register form. -/
  | fadd (f : Fields)
  /-- FADD_IMM (R191): Floating add with an FP32 immediate. -/
  | faddImm (f : ImmFields)
  /-- FSUB (R191): Correctly rounded floating subtract, register form. -/
  | fsub (f : Fields)
  /-- FSUB_IMM (R191): Floating subtract with an FP32 immediate. -/
  | fsubImm (f : ImmFields)
  /-- FMUL (R191): Correctly rounded floating multiply, register form. -/
  | fmul (f : Fields)
  /-- FMUL_IMM (R191): Floating multiply with an FP32 immediate. -/
  | fmulImm (f : ImmFields)
  /-- FFMA (R191): Fused multiply-add with one rounding. -/
  | ffma (f : Fields)
  /-- FMIN (R192): Floating minimum, register form. -/
  | fmin (f : Fields)
  /-- FMIN_IMM (R192): Floating minimum with an immediate. -/
  | fminImm (f : ImmFields)
  /-- FMAX (R192): Floating maximum, register form. -/
  | fmax (f : Fields)
  /-- FMAX_IMM (R192): Floating maximum with an immediate. -/
  | fmaxImm (f : ImmFields)
  /-- FABS (R192): Floating absolute value. -/
  | fabs (f : Fields)
  /-- FNEG (R192): Floating negation. -/
  | fneg (f : Fields)
  /-- FCMP (R193): Floating compare into a predicate. -/
  | fcmp (f : Fields)
  /-- FCLASS (R194): Classify a value and extract NaN cause and class. -/
  | fclass (f : Fields)
  /-- FSCALE (R195): Multiply by a power of two with one rounding. -/
  | fscale (f : Fields)
  /-- FROUND (R195): Round to an integral value in the given mode. -/
  | fround (f : Fields)
  /-- FSQRT (R195): Correctly rounded square root. -/
  | fsqrt (f : Fields)
  /-- FRCP (R196): Approximate reciprocal. -/
  | frcp (f : Fields)
  /-- FRSQ (R196): Approximate reciprocal square root. -/
  | frsq (f : Fields)
  /-- FEXP2 (R196): Approximate base-2 exponential. -/
  | fexp2 (f : Fields)
  /-- FLOG2 (R196): Approximate base-2 logarithm. -/
  | flog2 (f : Fields)
  /-- CVT (R198): Convert between formats with rounding and saturation. -/
  | cvt (f : Fields)
  /-- CVTQ (R199): Quantise four 32-lane blocks into a block-scaled format. -/
  | cvtq (f : Fields)
  /-- CVTX (R200): Expand a block-scaled element to FP32. -/
  | cvtx (f : Fields)
  /-- MOV (R201): Copy a 32- or 64-bit register. -/
  | mov (f : Fields)
  /-- MOV_IMM (R201): Write a 32-bit immediate. -/
  | movImm (f : ImmFields)
  /-- LDI (R201): Write a sign-extended immediate to a register pair. -/
  | ldi (f : ImmFields)
  /-- SEL (R202): Select by predicate. -/
  | sel (f : Fields)
  /-- MOVS (R203): Move one lane's value to a uniform register. -/
  | movs (f : Fields)
  /-- BCAST (R203): Broadcast one lane's value to all active lanes. -/
  | bcast (f : Fields)
  /-- SHFL (R205): Shuffle lanes within segments, register form. -/
  | shfl (f : Fields)
  /-- SHFL_IMM (R205): Indexed shuffle across 128 lanes with an immediate. -/
  | shflImm (f : ImmFields)
  /-- VOTE (R206): Wave vote on a predicate. -/
  | vote (f : Fields)
  /-- BALLOT (R206): Write a predicate mask to four uniform registers. -/
  | ballot (f : Fields)
  /-- REDUX (R207): Reduce active lanes in a fixed tree. -/
  | redux (f : Fields)
  /-- SCANW (R208): Prefix combination across the wave. -/
  | scanw (f : Fields)
  /-- BFLY (R210): Radix-2 complex butterfly. -/
  | bfly (f : Fields)
  /-- BFLY4 (R210): Radix-4 complex DFT. -/
  | bfly4 (f : Fields)
  /-- CMUL (R210): Complex multiply with single roundings. -/
  | cmul (f : Fields)
  /-- TWID (R211): Compute a twiddle factor from k and N. -/
  | twid (f : Fields)
  /-- RDTIME (R212): Sample the Tabor counter. -/
  | rdtime (f : Fields)
  /-- LD (R221): Load from device memory at a scope. -/
  | ld (f : Fields)
  /-- LDS (R221): Load from the crew scratchpad. -/
  | lds (f : Fields)
  /-- ST (R222): Store to device memory at a scope. -/
  | st (f : Fields)
  /-- STS (R222): Store to the crew scratchpad. -/
  | sts (f : Fields)
  /-- ATOM (R223): Atomic read-modify-write on device memory. -/
  | atom (f : Fields)
  /-- ATOMS (R223): Atomic read-modify-write on the scratchpad. -/
  | atoms (f : Fields)
  /-- LR (R224): Load and take a reservation on a granule. -/
  | lr (f : Fields)
  /-- SC (R224): Store conditionally on a held reservation. -/
  | sc (f : Fields)
  /-- RED (R225): Combine lanes per address and queue reductions. -/
  | red (f : Fields)
  /-- GATH (R226): Gather elements through the gather/scatter engine. -/
  | gath (f : Fields)
  /-- SCAT (R227): Scatter plainly or with reduction combining. -/
  | scat (f : Fields)
  /-- CONFL (R228): Find repeated keys across the wave. -/
  | confl (f : Fields)
  /-- FENCE (R229): Order the strand's accesses at a scope. -/
  | fence (f : Fields)
  /-- FENCEW (R229): Wave-scope fence that merges lane marks. -/
  | fencew (f : Fields)
  /-- PREF (R230): Prefetch lines into L2 or L1. -/
  | pref (f : Fields)
  /-- STW (R231): Store at home and evaluate wake-word waiters. -/
  | stw (f : Fields)
  /-- MMA (R287): Dense matrix multiply-accumulate into a tile. -/
  | mma (f : Fields)
  /-- MMAS (R288): Sparse multiply-accumulate under bitmaps. -/
  | mmas (f : Fields)
  /-- MMSM (R290): Multiply with online softmax over one key tile. -/
  | mmsm (f : Fields)
  /-- ARESC (R292): Scale or divide tile rows by factors. -/
  | aresc (f : Fields)
  /-- MMASK (R293): Mask tile elements to minus infinity or zero. -/
  | mmask (f : Fields)
  /-- AZERO (R294): Bind and clear a tile, or release it. -/
  | azero (f : Fields)
  /-- ALD (R295): Load a tile from memory. -/
  | ald (f : Fields)
  /-- AST (R295): Store a tile with conversion, optionally releasing it. -/
  | ast (f : Fields)
  /-- MSIDE (R296): Read or write a tile's side registers. -/
  | mside (f : Fields)
  /-- CPY (R267): Copy a contiguous range through the copy engine. -/
  | cpy (f : Fields)
  /-- CPYT (R268): Copy a tensor box through a shape record. -/
  | cpyt (f : Fields)
  /-- CPYG (R269): Gather listed rows through a shape record. -/
  | cpyg (f : Fields)
  /-- RCFENCE (R270): Drop cached shape records after a release. -/
  | rcfence (f : Fields)
  /-- KICK (R275): Store a transform ring's write index as a kick. -/
  | kick (f : Fields)
  /-- CENUM (R308): Open a chunk enumerating every entry state. -/
  | cenum (f : Fields)
  /-- CPRED (R309): Open a chunk from predicted entry states. -/
  | cpred (f : Fields)
  /-- CMERGE (R310): Absorb lanes with coinciding carry sets. -/
  | cmerge (f : Fields)
  /-- CEXIT (R311): Close a chunk, writing exit states. -/
  | cexit (f : Fields)
  /-- CSEAL (R312): Store a state map in the chunk table. -/
  | cseal (f : Fields)
  /-- CCOMP (R313): Compose chunk maps in chunk order. -/
  | ccomp (f : Fields)
  /-- CRES (R314): Resolve chunks from a true state and commit paths. -/
  | cres (f : Fields)
  /-- CABORT (R315): Discard a chunk's or a table range's segments. -/
  | cabort (f : Fields)
  /-- ACOMP (R316): Compose affine steps, diagonal or dense. -/
  | acomp (f : Fields)
  /-- XORD (R326): Set the expansion order from a register. -/
  | xord (f : Fields)
  /-- XORD_IMM (R326): Set the expansion order from an immediate. -/
  | xordImm (f : ImmFields)
  /-- XCLR (R327): Bind and clear an expansion register, or release it. -/
  | xclr (f : Fields)
  /-- XFORM (R328): Add lane sources to a multipole. -/
  | xform (f : Fields)
  /-- XSHIFT (R329): Translate a multipole to a new centre. -/
  | xshift (f : Fields)
  /-- XM2L (R329): Convert a multipole to a local expansion. -/
  | xm2l (f : Fields)
  /-- XLSH (R329): Translate a local expansion. -/
  | xlsh (f : Fields)
  /-- XEVAL (R330): Evaluate potential and gradient at lane targets. -/
  | xeval (f : Fields)
  /-- XADM (R331): Test admissibility into a predicate. -/
  | xadm (f : Fields)
  /-- XLD (R332): Load an expansion record. -/
  | xld (f : Fields)
  /-- XST (R332): Store an expansion record. -/
  | xst (f : Fields)
  /-- TKMATCH (R340): Match tokens on keys and write a merge map. -/
  | tkmatch (f : Fields)
  /-- TKMERGE (R341): Fold rows into partners by size-weighted mean. -/
  | tkmerge (f : Fields)
  /-- TKUNMERGE (R342): Restore token rows through a map. -/
  | tkunmerge (f : Fields)
  /-- TKSIZE (R343): Write ln(size) bias values to the scratchpad. -/
  | tksize (f : Fields)
  /-- NOP (R160): Occupy an issue cycle. -/
  | nop (f : Fields)
  /-- YIELD (R160): End the clause and give way to other waves. -/
  | yield (f : Fields)
  /-- BRA (R155): Branch to an immediate target, splitting the strand. -/
  | bra (f : ImmFields)
  /-- BRX (R156): Branch to register targets. -/
  | brx (f : Fields)
  /-- RET (R156): Return to per-lane register targets. -/
  | ret (f : Fields)
  /-- CALL (R157): Branch and save the return address. -/
  | call (f : ImmFields)
  /-- JOIN (R158): Wait at the next join point. -/
  | join (f : Fields)
  /-- JOINW (R158): Wait at the next join point with a register time limit. -/
  | joinw (f : Fields)
  /-- JOINW_IMM (R158): Wait at the next join point with an immediate time limit. -/
  | joinwImm (f : ImmFields)
  /-- EXIT (R159): End the active lanes. -/
  | exit (f : Fields)
  /-- TRAP (R161): Raise a breakpoint trap. -/
  | trap (f : ImmFields)
  /-- RBACQ (R163): Request register blocks from the core's queue. -/
  | rbacq (f : Fields)
  /-- RBREL (R164): Release register blocks. -/
  | rbrel (f : Fields)
  /-- RBQRY (R165): Query held blocks, free segments and waiters. -/
  | rbqry (f : Fields)
  /-- BINIT (R241): Initialise a barrier object. -/
  | binit (f : Fields)
  /-- BAR (R242): Arrive at a barrier and wait for the phase. -/
  | bar (f : Fields)
  /-- BARA (R242): Arrive and return the phase token. -/
  | bara (f : Fields)
  /-- BARW (R242): Wait for a token's phase to end. -/
  | barw (f : Fields)
  /-- BARX (R242): Expect register-given bytes, arrive and wait. -/
  | barx (f : Fields)
  /-- BARX_IMM (R242): Expect immediate bytes, arrive and wait. -/
  | barxImm (f : ImmFields)
  /-- BARQ (R243): Query a barrier's state and phase. -/
  | barq (f : Fields)
  /-- HTEST (R248): Read a future's state code. -/
  | htest (f : Fields)
  /-- HWAIT (R248): Wait while a future is pending or faulted. -/
  | hwait (f : Fields)
  /-- HCAN (R249): Cancel the operation of a future. -/
  | hcan (f : Fields)
  /-- HMOV (R250): Move a future between handles. -/
  | hmov (f : Fields)
  /-- WWAIT (R245): Wait on a wake word under a condition. -/
  | wwait (f : Fields)
  /-- SYSR (R69): Read a special register. -/
  | sysr (f : Fields)
  /-- SYSW (R70): Write a special register. -/
  | sysw (f : Fields)
  /-- ERET (R118): Finish a trap record by restart or kill. -/
  | eret (f : Fields)
  /-- TEND (R179): End the task and wait at the commit point. -/
  | tend (f : Fields)
  /-- TABRT (R180): Abort and restart the task. -/
  | tabrt (f : Fields)
  /-- TIRREV (R181): Commit the version and make the task irrevocable. -/
  | tirrev (f : Fields)
  /-- TLBINV (R362): Drop cached translations on a die or package. -/
  | tlbinv (f : Fields)
  /-- QUIESCE (R363): Advance the epoch and wait for older items. -/
  | quiesce (f : Fields)
  /-- ICINV (R364): Drop cached clauses on every core. -/
  | icinv (f : Fields)
  /-- ENGRD (R116): Read a word of the selected engine queue entry. -/
  | engrd (f : Fields)
  /-- ENGWR (R117): Write a word of the selected engine queue entry. -/
  | engwr (f : Fields)
  /-- SNAP (R375): Fire the Clave locally or at a gang tick. -/
  | snap (f : Fields)
  /-- GPW (R139): Write a graph parameter at scope system. -/
  | gpw (f : Fields)
  /-- BEAM (R350): Select the best k candidates from scores. -/
  | beam (f : Fields)
  /-- PROOT (R352): Permute page roots or commit a candidate root. -/
  | proot (f : Fields)
  /-- CLAUSE_FETCH (R52): A chosen strand's next clause is read, decoded and started once its flags allow. -/
  | clauseFetch (crew wave : Nat)
  /-- FAIRNESS_SWITCH (R150): A strand's age reaches 4,096 and the wave switches strands. -/
  | fairnessSwitch (crew wave : Nat)
  /-- RESERVATION_EXPIRY (R150): The 64-instruction window after LR ends and the reservation is cleared. -/
  | reservationExpiry (crew wave strand : Nat)
  /-- STRAND_WAKE (R152): A waiting strand becomes runnable after its condition holds. -/
  | strandWake (crew wave strand : Nat)
  /-- JOINW_EXPIRY (R158): A JOINW deadline passes and the strand resumes alone. -/
  | joinwExpiry (crew wave strand : Nat)
  /-- WWAIT_DEADLINE (R245): A WWAIT time limit expires, returning 1 or trapping. -/
  | wwaitDeadline (crew wave strand : Nat)
  /-- RBACQ_GRANT (R163): The head RBACQ request is granted zeroed blocks. -/
  | rbacqGrant (core : Nat)
  /-- SEGMENT_RETURN (R164): A released register segment returns once its writers have completed. -/
  | segmentReturn (crew wave seg : Nat)
  /-- WAVE_RETIRE (R144): An ended wave's last operation completes and its slot and segments free. -/
  | waveRetire (crew wave : Nat)
  /-- ACCESS_PERFORM (R83): An access or engine operation is performed from the issue queue. -/
  | accessPerform (op elem : Nat) (atHome : Bool)
  /-- WRITE_QUEUE_DRAIN (R86): A write-queue entry drains to its home, its version or its segment. -/
  | writeQueueDrain (core idx : Nat)
  /-- INVALIDATION_APPLY (R87): An invalidation entry is applied to a core's L1. -/
  | invalidationApply (core idx : Nat)
  /-- FENCE_COMPLETION (R88): A fence's release conditions hold and it completes with its acquire half. -/
  | fenceCompletion (op : Nat)
  /-- REDUCTION_APPLY (R94): A reduction-queue entry is applied at its home. -/
  | reductionApply (idx : Nat)
  /-- ENGINE_SOURCE_READ (R91): An engine reads a source unit at its home or the scratchpad. -/
  | engineSourceRead (op unit : Nat)
  /-- ENGINE_UNIT_WRITE (R90): An owning engine operation writes a 256-byte unit and may release the line. -/
  | engineUnitWrite (op : Nat)
  /-- LONG_LATENCY_COMPLETION (R56): A long-latency operation completes and its flag counts down. -/
  | longLatencyCompletion (op : Nat)
  /-- MMAS_STEP (R289): An MMAS completes one chunk step, updating STEP and LIVE. -/
  | mmasStep (op : Nat)
  /-- COPY_PERFORM (R252): A queued copy is performed, capturing its record and recording ranges. -/
  | copyPerform (op : Nat) (victim : Nat)
  /-- COPY_UNIT_WRITE (R251): A copy writes one unit of its stream. -/
  | copyUnitWrite (op : Nat)
  /-- SHAPE_CACHE_DROP (R262): The machine drops a shape-record cache entry. -/
  | shapeCacheDrop (core idx : Nat)
  /-- ENGQ_RESUME (R115): Resume a faulted or frozen copy or reissue an abandoned operation. -/
  | engqResume (ctx : Nat) (sel : Word) (w3 : Dword)
  /-- ENGQ_CANCEL (R115): Cancel a queued, frozen or faulted engine entry. -/
  | engqCancel (ctx : Nat) (sel : Word)
  /-- ENGQ_REBUILD (R115): Create a frozen copy or abandoned operation in an empty entry. -/
  | engqRebuild (ctx : Nat) (sel : Word) (w3 : Dword)
  /-- TASK_COMMIT (R179): All waves at TEND and operations done; the version commits. -/
  | taskCommit (crew tile : Nat)
  /-- TRAP_RECORD_DELIVERY (R176): A coalescer record is written to the trap ring and delivered. -/
  | trapRecordDelivery (core : Nat)
  /-- HOST_TRAP_FINISH (R176): The host finishes a trap record as restart or kill. -/
  | hostTrapFinish (ctx : Nat) (kill : Bool)
  /-- CONTEXT_CREATE (R104): The host creates a context. -/
  | contextCreate (ctx root saveBase saveSize trapRing fn : Nat)
  /-- CONTEXT_LOAD (R104): The host registers images and trap handler. -/
  | contextLoad (ctx : Nat) (load : ContextLoad)
  /-- CONTEXT_ADMIT (R104): Firmware admits a context for placement. -/
  | contextAdmit (ctx : Nat)
  /-- CREW_PLACE (R140): A distributor places a crew when a core has room. -/
  | crewPlace (kernel die core base : Nat) (crewIdx tile : Nat)
  /-- STEAL_MESSAGE (R130): A die answers a steal request by handing over crews. -/
  | stealMessage (kernel thief victim : Nat)
  /-- VACATE (R106): Firmware vacates cores in discard-and-requeue or save mode. -/
  | vacate (ctx : Nat) (cores : List Nat)
  /-- SAVE_COMPLETE (R109): Every save image and trailer is written. -/
  | saveComplete (ctx : Nat)
  /-- CONTEXT_RESTORE (R110): A restore verifies every save image. -/
  | contextRestore (ctx : Nat)
  /-- RESTORE_LOAD (R111): Verified crews are loaded, engine work reissued and strands resumed. -/
  | restoreLoad (ctx : Nat) (cores : List Nat)
  /-- DECLARE_LOST (R104): The host declares a context lost. -/
  | declareLost (ctx : Nat)
  /-- CONTEXT_DESTROY (R105): The host requests destruction of a context. -/
  | contextDestroy (ctx : Nat) (frames : List Nat)
  /-- DESTROY_PERFORM (R105): A held destroy is performed once the context is runnable, saved or lost. -/
  | destroyPerform (ctx : Nat)
  /-- QUARANTINE_RETIRED (R104): A destroyed context's frames leave quarantine and it becomes absent. -/
  | quarantineRetired (ctx : Nat)
  /-- QUEUE_ENABLE (R378): CTRL bit 0 set enables a queue. -/
  | queueEnable (ctx queue : Nat)
  /-- QUEUE_DISABLE (R378): CTRL bit 0 cleared disables a queue. -/
  | queueDisable (ctx queue : Nat)
  /-- QUEUE_RESUME (R378): CTRL bit 1 resumes a halted queue. -/
  | queueResume (ctx queue : Nat)
  /-- DOORBELL (R120): A doorbell write makes an idle queue ready. -/
  | doorbell (ctx queue : Nat) (val : Word)
  /-- NOOP_COMMAND (R121): A no-op packet starts and completes. -/
  | noopCommand (ctx queue : Nat)
  /-- LAUNCH_COMMAND (R126): A launch reads its record and checks the kernel. -/
  | launchCommand (ctx queue : Nat)
  /-- WAIT_COMMAND (R121): A wait packet compares a word with its value. -/
  | waitCommand (ctx queue : Nat)
  /-- SIGNAL_COMMAND (R121): A signal packet writes a word as STW at scope system. -/
  | signalCommand (ctx queue : Nat)
  /-- REPLAY_COMMAND (R138): A replay snapshots parameters and runs graph nodes. -/
  | replayCommand (ctx queue : Nat)
  /-- KERNEL_START_TICK (R134): The Tabor counter reaches START and placement begins. -/
  | kernelStartTick (kernel : Nat)
  /-- KERNEL_DRAINED (R135): A retiring kernel's writes perform and its completion record is written. -/
  | kernelDrained (kernel energy : Nat)
  /-- KERNEL_CANCEL (R134): The host cancels a kernel. -/
  | kernelCancel (kernel : Nat)
  /-- REGISTER_WRITE (R379): A write to a register without behaviour of its own, refused if out of limits. -/
  | registerWrite (fn bar offset : Nat) (val : Dword)
  /-- HOST_APERTURE_ACCESS (R376): A host access through BAR4 at scope system. -/
  | hostApertureAccess (first : ApertureByte) (write : Option (List Byte)) (len : Nat)
  /-- FRAME_RELEASE (R359): A FRELEASE write puts a frame into quarantine. -/
  | frameRelease (ctx : Nat) (val : Dword)
  /-- FRAME_FREE (R358): A quarantined frame whose epoch retired goes to the free ring. -/
  | frameFree (ctx : Nat)
  /-- QUIESCENCE_REQUEST (R100): System software requests quiescence, advancing the epoch. -/
  | quiescenceRequest (ctx : Nat)
  /-- PAGE_WALK (R356): A walk reads table entries and checks the leaf. -/
  | pageWalk (die ctx va : Nat)
  /-- TRANSLATION_FILL (R357): The machine fills a translation cache entry. -/
  | translationFill (idx victim : Nat)
  /-- TRANSLATION_DROP (R357): The machine drops a translation cache entry. -/
  | translationDrop (die idx : Nat)
  /-- TRANSFORM_KICK (R271): A store to WIDX kicks a transform ring. -/
  | transformKick (ctx ring : Nat) (val : Word) (core : Nat)
  /-- TRANSFORM_REQUEST_START (R272): A transform engine starts a request from a ring. -/
  | transformRequestStart (ctx ring : Nat)
  /-- TRANSFORM_COMPLETE (R273): A request writes its completion record and optional wake. -/
  | transformComplete (ctx ring slot : Nat)
  /-- TRANSFORM_RESUME (R273): CMD 1 resumes a halted ring from the resume offset. -/
  | transformResume (ctx ring : Nat)
  /-- TRANSFORM_CANCEL (R273): CMD 2 cancels the halted request with status 3. -/
  | transformCancel (ctx ring : Nat)
  /-- G_OPERATION_COMPLETION (R337): A token-merging operation commits its outputs in one step. -/
  | gOperationCompletion (op : Nat)
  /-- PROOT_COMPLETION (R352): A PROOT reads and writes roots, counts and record in one step. -/
  | prootCompletion (op : Nat)
  /-- POOL_PAGE_FREE (R346): A released pool page whose epoch retired is stored in the free ring. -/
  | poolPageFree (idx : Nat)
  /-- CLAVE_FIRE_HOST (R379): A CLAVEFIRE write fires the Clave. -/
  | claveFireHost (val : Word)
  /-- CLAVE_FIRE_MANAGEMENT (R374): The management port fires the Clave. -/
  | claveFireManagement
  /-- CLAVE_TABOR_MATCH (R374): The Tabor counter reaches CLAVETICK and fires the Clave. -/
  | claveTaborMatch
  /-- SNAP_TICK_FIRE (R375): A gang SNAP tick is reached and the package fires. -/
  | snapTickFire (idx : Nat)
  /-- CLAVE_LATCH_DONE (R374): Every block has latched and BUSY clears. -/
  | claveLatchDone
  /-- PORT_ENABLE (R369): A master enables a port, starting training. -/
  | portEnable (port : Nat)
  /-- PORT_DISABLE (R369): A port is disabled and its messages requeued. -/
  | portDisable (port : Nat)
  /-- TRAINING_DONE (R369): One or both lanes train and the port comes up. -/
  | trainingDone (port lanes : Nat)
  /-- TRAINING_FAILED (R369): No lane trains in 64 attempts. -/
  | trainingFailed (port : Nat)
  /-- LANE_LOSS (R369): A lane is lost and the port retrains. -/
  | laneLoss (port lanes : Nat)
  /-- RETRY_LIMIT (R369): Eight resends without ACK progress send the port to training. -/
  | retryLimit (port : Nat)
  /-- FLIT_SEND (R371): A sender forms and transmits a flit, updating its table. -/
  | flitSend (port : Nat)
  /-- FLIT_RECEIVE (R368): A receiver accepts or discards a flit and may send NAK. -/
  | flitReceive (port : Nat) (flit : List Byte)
  /-- ACK_TIMEOUT (R368): No ACK progress for 2 µs triggers a resend. -/
  | ackTimeout (port : Nat)
  /-- READ_REQUEST (R366): A read request message arrives at the home package. -/
  | readRequest (idx len : Nat)
  /-- READ_RESPONSE (R366): A read response message returns data. -/
  | readResponse (idx : Nat)
  /-- WRITE_MESSAGE (R366): A write message performs at the home package. -/
  | writeMessage (idx len : Nat)
  /-- ATOMIC_MESSAGE (R366): An atomic or reduction message performs at the home package. -/
  | atomicMessage (idx aop aty : Nat) (red : Bool)
  /-- END_TO_END_ACK (R367): An end-to-end acknowledgement completes a remote access. -/
  | endToEndAck (idx : Nat)
  /-- WAKE_WRITE (R373): A remote STW performs at its home and evaluates waiters. -/
  | wakeWrite (idx len : Nat)
  /-- TABOR_SYNCHRONISATION (R372): A Tabor synchronisation message adjusts the offset. -/
  | taborSynchronisation (idx t1 t2 t3 t4 : Nat)
  /-- TABOR_SYNC_TIMER (R372): The 10 µs period expires and synchronisation is exchanged. -/
  | taborSyncTimer
  /-- GANG_START_OR_ABORT (R373): A gang start or abort message is received. -/
  | gangStartOrAbort (idx : Nat) (abort : Bool) (tick : Nat)
  /-- CLAVE_FIRING (R375): A Clave firing message schedules a firing at its tick. -/
  | claveFiring (idx tick : Nat)
  /-- PSTAT_REPLAYS_READ (R370): A read of PSTAT returns and clears REPLAYS. -/
  | pstatReplaysRead (port : Nat)
  /-- MCTP_COMMAND (R381): The management core serialises a side-band command. -/
  | mctpCommand (cmd : MgmtCommand)
  /-- ATTESTATION_REQUEST (R385): An attestation report is signed and returned. -/
  | attestationRequest (nonce : List Byte)
  /-- BOOT (R384): Power-on runs the boot ROM sequence. -/
  | boot (cfgOk fwOk : Bool) (fwVer minVer : Nat)
  /-- HOST_LINK_CHANGE (R381): The PCIe link goes up or down and HOSTUP follows. -/
  | hostLinkChange (up : Bool)
  /-- POWER_LIMIT_THROTTLE (R382): Power above PWRLIM for 1 ms lowers the clock. -/
  | powerLimitThrottle (watts : Nat)
  /-- THERMAL_THROTTLE (R382): The junction reaches 105 °C and the clock is lowered. -/
  | thermalThrottle (celsius : Nat)
  /-- THROTTLE_END (R380): Throttling ends with event 0x0072. -/
  | throttleEnd
  /-- EMERGENCY_STOP (R383): Overheat or supply fault stops the compute dies and loses contexts. -/
  | emergencyStop (celsius millivolts : Nat)
  /-- COMPUTE_RESTART (R383): A RESTART write restarts the compute dies if conditions allow. -/
  | computeRestart (val : Word) (celsius millivolts : Nat)
  /-- CXL_DEVICE_LOST (R380): A CXL device is lost and event 0x0073 raised. -/
  | cxlDeviceLost (dev : Nat)
  /-- EVENT_DELIVERY (R380): A held host event is written into a ring slot with MSI-X. -/
  | eventDelivery (ctx : Option Nat)
  /-- EACCT_UPDATE (R113): The energy account is updated at least every 100 µs. -/
  | eacctUpdate (src : EnergySource) (energy : Nat)
  /-- TRAP_HANDLER_DESIGNATION (R177): System software designates a trap handler again after the context has lost one. -/
  | trapHandlerDesignation (ctx crew wave : Nat)
  /-- ROLE_REBINDING (R132): Firmware writes a new core into the distributor's copy of the group binding table for a role. -/
  | roleRebinding (kernel role core : Nat)
  /-- TRANSFORM_RING_REGISTRATION (R271): System software registers a transform ring, bound to one die, for a context. -/
  | transformRingRegistration (ctx ring die reqBase compBase logSize : Nat)
  /-- GANG_FORMATION (R372): A gang is formed around a named time master, and each package takes the master's Tabor count. -/
  | gangFormation (master : Nat) (members : List Nat) (count : Dword)
  deriving DecidableEq, Repr

end Sys2Proof
end

