-- ==== Sys2Proof/Machine/Encoding.lean ====
section
/-!
DEFINITION. The encoding rules of instruction words (R61 to R67 and the encoding line of every entry): operand kinds,
modifier fields, opcodes, and for each instruction the check made at clause fetch.
-/

namespace Sys2Proof

/-- Modifier bit `i`. -/
def Fields.m (f : Fields) (i : Nat) : Bool := f.mod.getLsbD i

/-- Modifier bits `lo + n - 1 .. lo`. -/
def Fields.mb (f : Fields) (lo n : Nat) : Nat := (f.mod.toNat >>> lo) % 2 ^ n

/-- TY, MOD[4:3] (R185). -/
def Fields.ty (f : Fields) : Nat := f.mb 3 2

/-- RM, MOD[2:0] (R27). -/
def Fields.rm (f : Fields) : Nat := f.mb 0 3

/-- CC, OP or MODE, MOD[7:5] (R184). -/
def Fields.cc (f : Fields) : Nat := f.mb 5 3

/-- DST of CVT, MOD[11:8]. -/
def Fields.dstFmt (f : Fields) : Nat := f.mb 8 4

/-- SRC of CVT, MOD[7:4]. -/
def Fields.srcFmt (f : Fields) : Nat := f.mb 4 4

/-- NSAT, MOD[3]. -/
def Fields.nsat (f : Fields) : Bool := f.m 3

/-- FS, MOD[15] (R58). -/
def Fields.fs (f : Fields) : Bool := f.m 15

/-- SCOPE, MOD[14:12] (R63). -/
def Fields.scope (f : Fields) : Nat := f.mb 12 3

/-- HINT, MOD[11:10] (R214). -/
def Fields.hint (f : Fields) : Nat := f.mb 10 2

/-- SCALE, MOD[9:8] (R63). -/
def Fields.scale (f : Fields) : Nat := f.mb 8 2

/-- SZ, MOD[2:0] (R215). -/
def Fields.sz (f : Fields) : Nat := f.mb 0 3

/-- OP of an atomic, MOD[7:4] (R216). -/
def Fields.aop (f : Fields) : Nat := f.mb 4 4

/-- AT, MOD[2:0] (R216). -/
def Fields.aty (f : Fields) : Nat := f.mb 0 3

/-- LVL of a barrier instruction, MOD[2:0] (R233). -/
def Fields.lvl (f : Fields) : Nat := f.mb 0 3

/-- The special-register number, MOD[11:0] (R68). -/
def Fields.num (f : Fields) : Nat := f.mb 0 12

/-- Operand alignment of an integer TY: 64-bit elements are pairs (R185). -/
def Fields.al (f : Fields) : Nat := if 2 ≤ f.ty then 2 else 1

/-- Operand alignment of a floating TY. -/
def Fields.fal (f : Fields) : Nat := if f.ty == 1 then 2 else 1

/-- The floating TY codes in use are .f32 and .f64 (R185). -/
def Fields.fOk (f : Fields) : Bool := decide (f.ty < 2)

/-- Registers of an SZ group (R215). -/
def szGroup (sz : Nat) : Nat := if sz == 3 then 2 else if sz == 4 then 4 else 1

/-- Bytes of an SZ access (R215). -/
def szBytes (sz : Nat) : Nat :=
  if sz == 0 || sz == 5 then 1 else if sz == 1 || sz == 6 then 2 else if sz == 2 then 4 else if sz == 3 then 8 else 16

/-- Bytes of an AT element (R216). -/
def atBytes (ty : Nat) : Nat := if ty == 2 || ty == 3 || ty == 5 then 8 else if ty == 6 then 16 else 4

/-- Registers of the data group of SZ. -/
def Fields.grp (f : Fields) : Nat := szGroup f.sz

/-- Registers of the data group of AT. -/
def Fields.agrp (f : Fields) : Nat := atBytes f.aty / 4

/-- Registers of the operand group at C of an atomic: comparand and new value for .cas (R217). -/
def Fields.acgrp (f : Fields) : Nat := if f.aop == 8 then 2 * f.agrp else f.agrp

/-- The permitted OP and AT of ATOM and ATOMS (R216). -/
def atomOk (op ty : Nat) : Bool :=
  (decide (1 ≤ op) && decide (op ≤ 3) && decide (ty ≤ 5)) || (decide (4 ≤ op) && decide (op ≤ 6) && decide (ty ≤ 3)) ||
  ((op == 7 || op == 8) && (decide (ty ≤ 3) || ty == 6))

/-- The permitted OP and AT of RED, and of SCAT with OP 1 to 6 (R216). -/
def redOpOk (op ty : Nat) : Bool := atomOk op ty && decide (op ≤ 6)

/-- Every register operand is an s register, or unused (R213). -/
def Fields.uniform (f : Fields) : Bool := f.ka && (f.kb || f.b == 0) && f.kd

/-- Register classes of an atomic: an s destination only in the uniform form, v registers only at 128 bits
(R213, R217). -/
def Fields.atomRegs (f : Fields) : Bool :=
  (!f.kd || (f.uniform && f.kc)) && (f.aty != 6 || (!f.kd && !f.ka && !f.kb && !f.kc))

/-- SCALE is 0 when there is no index (R214). -/
def Fields.scaleOk (f : Fields) : Bool := f.kb || f.b != 0 || f.scale == 0

/-- With an s destination no source is a v register (R182). An unused operand has class bit 0 and field 0, as v0 has,
so the rule is applied to the operands an entry uses: `sRuleN` says how many. -/
def sRuleN (n : Nat) (f : Fields) : Bool :=
  !f.kd || ((decide (n < 1) || f.ka) && (decide (n < 2) || f.kb) && (decide (n < 3) || f.kc))

/-- HN is zero where HV is 0 (R266). -/
def Fields.hvOk (f : Fields) : Bool := f.m 7 || f.mb 3 4 == 0

/-- The permitted OP and TY of REDUX and SCANW (R207). -/
def Fields.redOk (f : Fields) : Bool :=
  decide (f.cc < 6) && decide (f.ty < 3) && (f.ty != 2 || decide (f.cc < 3))

/-- LVL 2 is reserved (R233). -/
def Fields.lvlOk (f : Fields) : Bool := f.lvl != 2

/-- Operand alignment of a CVT format: 64-bit formats are pairs (R197). -/
def fmtAl (c : Nat) : Nat := if c == 1 || c == 14 || c == 15 then 2 else 1

/-- The narrow formats of CVT (R197). -/
def fmtNarrow (c : Nat) : Bool := (decide (2 ≤ c) && decide (c ≤ 5)) || (decide (8 ≤ c) && decide (c ≤ 13))

/-- The special registers of R68. -/
def sregKnown (n : Nat) : Bool := [0x000, 0x001, 0x002, 0x003, 0x004, 0x005, 0x006, 0x007, 0x010, 0x011, 0x020, 0x030].contains n

/-- The 64-bit special registers of R68. -/
def sreg64 (n : Nat) : Bool := n == 0x000 || n == 0x011 || n == 0x020

/-- LANE takes a v destination only (SYSR's entry). -/
def sregLane (n : Nat) : Bool := n == 0x001

/-- The kinds of operand an entry admits (R61). -/
inductive Kind where
  /-- Unused: the field and its class bit are 0. -/
  | none
  /-- A v register, a multiple of `al`. -/
  | v (al : Nat)
  /-- An s register, a multiple of `al`, the first of `n`. -/
  | s (al n : Nat)
  /-- A v or an s register, a multiple of `al`. -/
  | vs (al : Nat)
  /-- A register of another class, below `n`. -/
  | num (n : Nat)
  /-- An s register, or omitted. -/
  | optS
  /-- A memory index: v1 to v255, an s register, or omitted (R64). -/
  | idx
  /-- A signed 8-bit memory offset (R64). -/
  | off
  deriving DecidableEq, Repr

/-- The A operand of a barrier instruction at a level (R233). -/
def objKind (lvl : Nat) : Kind := if lvl == 0 then .s 1 1 else if lvl == 1 then .none else .s 2 2

/-- An operand field and its class bit obey a kind (R61). -/
def Kind.ok : Kind → BitVec 8 → Bool → Bool
  | .none, x, k => x == 0 && !k
  | .v al, x, k => !k && x.toNat % al == 0
  | .s al n, x, k => k && decide (x.toNat + n ≤ 64) && x.toNat % al == 0
  | .vs al, x, k => (!k || decide (x.toNat < 64)) && x.toNat % al == 0
  | .num n, x, k => !k && decide (x.toNat < n)
  | .optS, x, k => if k then decide (x.toNat < 64) else x == 0
  | .idx, x, k => !k || decide (x.toNat < 64)
  | .off, _, k => !k

/-- The check of a register-form word: guard kind (R62), operands (R61), reserved modifier bits (R63), and what the
entry adds. -/
def chk (lane : Bool) (f : Fields) (d a b c : Kind) (mask : BitVec 16) (extra : Bool) : Bool :=
  (lane || (!f.pn && f.pred == 0)) && d.ok f.d f.kd && a.ok f.a f.ka && b.ok f.b f.kb && c.ok f.c f.kc &&
  (f.mod &&& ~~~mask == 0) && extra

/-- The check of an immediate-form word. -/
def chkImm (lane : Bool) (f : ImmFields) (d a : Kind) (extra : Bool) : Bool :=
  (lane || (!f.pn && f.pred == 0)) && d.ok f.d f.kd && a.ok f.a f.ka && extra

/-- The encoding check made at clause fetch (R52, R61 to R67). An event has no encoding. -/
def encOk : Instr → Bool
  | .iadd f => chk true f (.vs f.al) (.vs f.al) (.vs f.al) .none 0x0018 (sRuleN 2 f)
  | .iaddImm f => chkImm true f (.vs 1) (.vs 1) ((!f.kd || f.ka))
  | .isub f => chk true f (.vs f.al) (.vs f.al) (.vs f.al) .none 0x0018 (sRuleN 2 f)
  | .isubImm f => chkImm true f (.vs 1) (.vs 1) ((!f.kd || f.ka))
  | .iadds f => chk true f (.vs f.al) (.vs f.al) (.vs f.al) .none 0x0018 (sRuleN 2 f)
  | .iaddsImm f => chkImm true f (.vs 1) (.vs 1) ((!f.kd || f.ka))
  | .imul f => chk true f (.vs f.al) (.vs f.al) (.vs f.al) .none 0x0038 (sRuleN 2 f)
  | .imulImm f => chkImm true f (.vs 1) (.vs 1) ((!f.kd || f.ka))
  | .imad f => chk true f (.vs f.al) (.vs f.al) (.vs f.al) (.vs f.al) 0x0018 (sRuleN 3 f)
  | .imin f => chk true f (.vs f.al) (.vs f.al) (.vs f.al) .none 0x0018 (sRuleN 2 f)
  | .iminImm f => chkImm true f (.vs 1) (.vs 1) ((!f.kd || f.ka))
  | .imax f => chk true f (.vs f.al) (.vs f.al) (.vs f.al) .none 0x0018 (sRuleN 2 f)
  | .imaxImm f => chkImm true f (.vs 1) (.vs 1) ((!f.kd || f.ka))
  | .iand f => chk true f (.vs f.al) (.vs f.al) (.vs f.al) .none 0x0018 (sRuleN 2 f)
  | .iandImm f => chkImm true f (.vs 1) (.vs 1) ((!f.kd || f.ka))
  | .ior f => chk true f (.vs f.al) (.vs f.al) (.vs f.al) .none 0x0018 (sRuleN 2 f)
  | .iorImm f => chkImm true f (.vs 1) (.vs 1) ((!f.kd || f.ka))
  | .ixor f => chk true f (.vs f.al) (.vs f.al) (.vs f.al) .none 0x0018 (sRuleN 2 f)
  | .ixorImm f => chkImm true f (.vs 1) (.vs 1) ((!f.kd || f.ka))
  | .ishl f => chk true f (.vs f.al) (.vs f.al) (.vs 1) .none 0x0018 (sRuleN 2 f)
  | .ishlImm f => chkImm true f (.vs 1) (.vs 1) ((!f.kd || f.ka))
  | .ishr f => chk true f (.vs f.al) (.vs f.al) (.vs 1) .none 0x0018 (sRuleN 2 f)
  | .ishrImm f => chkImm true f (.vs 1) (.vs 1) ((!f.kd || f.ka))
  | .isra f => chk true f (.vs f.al) (.vs f.al) (.vs 1) .none 0x0018 (sRuleN 2 f)
  | .israImm f => chkImm true f (.vs 1) (.vs 1) ((!f.kd || f.ka))
  | .irot f => chk true f (.vs f.al) (.vs f.al) (.vs 1) .none 0x0018 (sRuleN 2 f)
  | .irotImm f => chkImm true f (.vs 1) (.vs 1) ((!f.kd || f.ka))
  | .iabs f => chk true f (.vs f.al) (.vs f.al) .none .none 0x0018 (sRuleN 1 f && (f.ty == 0 || f.ty == 2))
  | .inot f => chk true f (.vs f.al) (.vs f.al) .none .none 0x0018 (sRuleN 1 f)
  | .ipopc f => chk true f (.vs 1) (.vs f.al) .none .none 0x0018 (sRuleN 1 f)
  | .iclz f => chk true f (.vs 1) (.vs f.al) .none .none 0x0018 (sRuleN 1 f)
  | .ibrev f => chk true f (.vs f.al) (.vs f.al) .none .none 0x0018 (sRuleN 1 f)
  | .ibfe f => chk true f (.vs f.al) (.vs f.al) (.vs 1) .none 0x0018 (sRuleN 2 f)
  | .ibfi f => chk true f (.vs f.al) (.vs f.al) (.vs f.al) (.vs 1) 0x0018 (sRuleN 3 f)
  | .icmp f => chk true f (.num 8) (.vs f.al) (.vs f.al) .none 0x00F8 (decide (f.cc < 6))
  | .fadd f => chk true f (.vs f.fal) (.vs f.fal) (.vs f.fal) .none 0x001F (sRuleN 2 f && f.fOk && decide (f.rm < 4))
  | .faddImm f => chkImm true f (.vs 1) (.vs 1) ((!f.kd || f.ka))
  | .fsub f => chk true f (.vs f.fal) (.vs f.fal) (.vs f.fal) .none 0x001F (sRuleN 2 f && f.fOk && decide (f.rm < 4))
  | .fsubImm f => chkImm true f (.vs 1) (.vs 1) ((!f.kd || f.ka))
  | .fmul f => chk true f (.vs f.fal) (.vs f.fal) (.vs f.fal) .none 0x001F (sRuleN 2 f && f.fOk && decide (f.rm < 4))
  | .fmulImm f => chkImm true f (.vs 1) (.vs 1) ((!f.kd || f.ka))
  | .ffma f => chk true f (.vs f.fal) (.vs f.fal) (.vs f.fal) (.vs f.fal) 0x001F (sRuleN 3 f && f.fOk && decide (f.rm < 4))
  | .fmin f => chk true f (.vs f.fal) (.vs f.fal) (.vs f.fal) .none 0x0018 (sRuleN 2 f && f.fOk)
  | .fminImm f => chkImm true f (.vs 1) (.vs 1) ((!f.kd || f.ka))
  | .fmax f => chk true f (.vs f.fal) (.vs f.fal) (.vs f.fal) .none 0x0018 (sRuleN 2 f && f.fOk)
  | .fmaxImm f => chkImm true f (.vs 1) (.vs 1) ((!f.kd || f.ka))
  | .fabs f => chk true f (.vs f.fal) (.vs f.fal) .none .none 0x0018 (sRuleN 1 f && f.fOk)
  | .fneg f => chk true f (.vs f.fal) (.vs f.fal) .none .none 0x0018 (sRuleN 1 f && f.fOk)
  | .fcmp f => chk true f (.num 8) (.vs f.fal) (.vs f.fal) .none 0x00F8 (f.fOk)
  | .fclass f => chk true f (.vs 1) (.vs f.fal) .none .none 0x0018 (sRuleN 1 f && f.fOk)
  | .fscale f => chk true f (.vs f.fal) (.vs f.fal) (.vs 1) .none 0x001F (sRuleN 2 f && f.fOk && decide (f.rm < 4))
  | .fround f => chk true f (.vs f.fal) (.vs f.fal) .none .none 0x001F (sRuleN 1 f && f.fOk && decide (f.rm < 4))
  | .fsqrt f => chk true f (.vs f.fal) (.vs f.fal) .none .none 0x001F (sRuleN 1 f && f.fOk && decide (f.rm < 4))
  | .frcp f => chk true f (.vs 1) (.vs 1) .none .none 0x0000 (sRuleN 1 f)
  | .frsq f => chk true f (.vs 1) (.vs 1) .none .none 0x0000 (sRuleN 1 f)
  | .fexp2 f => chk true f (.vs 1) (.vs 1) .none .none 0x0000 (sRuleN 1 f)
  | .flog2 f => chk true f (.vs 1) (.vs 1) .none .none 0x0000 (sRuleN 1 f)
  | .cvt f => chk true f (.vs (fmtAl f.dstFmt)) (.vs (fmtAl f.srcFmt)) .none .none 0x0FFF (sRuleN 1 f && decide (f.rm < 4) && (!f.nsat || fmtNarrow f.dstFmt))
  | .cvtq f => chk true f (.v 1) (.v 1) (.s 1 1) .none 0x006F (decide (f.rm < 5))
  | .cvtx f => chk true f (.vs 1) (.vs 1) .none .none 0x0067 (sRuleN 1 f && decide (f.rm < 4))
  | .mov f => chk true f (.vs f.al) (.vs f.al) .none .none 0x0018 (sRuleN 1 f && (f.ty == 0 || f.ty == 2))
  | .movImm f => chkImm true f (.vs 1) .none (true)
  | .ldi f => chkImm true f (.vs 2) .none (true)
  | .sel f => chk true f (.vs 1) (.vs 1) (.vs 1) (.num 8) 0x0000 ((!f.kd || (f.ka && f.kb)))
  | .movs f => chk true f (.s 1 1) (.v 1) (if f.m 3 then .s 1 1 else .none) .none 0x0008 (true)
  | .bcast f => chk true f (.v 1) (.v 1) (.s 1 1) .none 0x0000 (true)
  | .shfl f => chk true f (.v 1) (.v 1) (.vs 1) .none 0x0CE0 (decide (f.cc < 4))
  | .shflImm f => chkImm true f (.v 1) (.v 1) (true)
  | .vote f => chk true f (.num 8) (.num 8) .none .none 0x0060 (decide (f.mb 5 2 < 3))
  | .ballot f => chk true f (.s 4 4) (.num 8) .none .none 0x0000 (true)
  | .redux f => chk true f (.vs 1) (.v 1) .none .none 0x00F8 (f.redOk)
  | .scanw f => chk true f (.v 1) (.v 1) .none .none 0x0CF8 (f.redOk && decide (f.mb 10 2 < 2))
  | .bfly f => chk true f (.v 4) (.vs 2) (.vs 2) (.vs 2) 0x0000 (true)
  | .bfly4 f => chk true f (.v 8) (.v 8) .none .none 0x0000 (true)
  | .cmul f => chk true f (.v 2) (.vs 2) (.vs 2) .none 0x0000 (true)
  | .twid f => chk true f (.v 2) (.vs 1) (.vs 1) .none 0x0000 (true)
  | .rdtime f => chk true f (.vs 2) .none .none .none 0x0000 (true)
  | .ld f => chk true f (.vs f.grp) (.vs 2) .idx .off 0xFF07 (f.scaleOk && decide (f.sz < 7) && decide (f.hint < 2) && (!f.kd || f.uniform))
  | .lds f => chk true f (.vs f.grp) (.vs 1) .idx .off 0x8307 (f.scaleOk && decide (f.sz < 7) && (!f.kd || f.uniform))
  | .st f => chk true f (.vs f.grp) (.vs 2) .idx .off 0xF307 (f.scaleOk && decide (f.sz < 5))
  | .sts f => chk true f (.vs f.grp) (.vs 1) .idx .off 0x8307 (f.scaleOk && decide (f.sz < 5))
  | .atom f => chk true f (.vs f.agrp) (.vs 2) .idx (.vs f.acgrp) 0xF3F7 (f.scaleOk && atomOk f.aop f.aty && f.atomRegs)
  | .atoms f => chk true f (.vs f.agrp) (.vs 1) .idx (.vs f.acgrp) 0x83F7 (f.scaleOk && atomOk f.aop f.aty && f.atomRegs)
  | .lr f => chk true f (.s f.grp f.grp) (.s 2 2) .optS .off 0xF307 (f.scaleOk && (f.sz == 2 || f.sz == 3))
  | .sc f => chk true f (.s 1 1) (.s 2 2) .optS (.s f.grp f.grp) 0xF307 (f.scaleOk && (f.sz == 2 || f.sz == 3))
  | .red f => chk true f (.vs f.agrp) (.vs 2) .idx .off 0xF3F7 (f.scaleOk && redOpOk f.aop f.aty)
  | .gath f => chk true f (.vs f.grp) (.vs 2) .idx (.s 1 1) 0xFF07 (f.scaleOk && decide (f.sz < 7) && decide (f.hint < 2) && decide (3 ≤ f.scope) && (!f.kd || f.uniform))
  | .scat f => chk true f (.vs (if f.aop == 0 then f.grp else f.agrp)) (.vs 2) .idx (.s 1 1) 0xF3F7 (f.scaleOk && decide (3 ≤ f.scope) && (if f.aop == 0 then decide (f.sz < 5) else redOpOk f.aop f.aty))
  | .confl f => chk true f (.v 1) (.v f.grp) .none .none 0x8007 ((f.sz == 2 || f.sz == 3))
  | .fence f => chk true f .none .none .none .none 0xF000 (true)
  | .fencew f => chk true f .none .none .none .none 0x8000 (true)
  | .pref f => chk true f .none (.vs 2) .idx .off 0x8F00 (f.scaleOk && decide (f.hint < 2))
  | .stw f => chk true f (.vs f.grp) (.vs 2) .idx .off 0xF307 (f.scaleOk && (f.sz == 2 || f.sz == 3) && decide (3 ≤ f.scope))
  | .mma f => chk false f (.num 8) (.s 1 1) (.s 1 1) (.s 8 8) 0x8000 (true)
  | .mmas f => chk false f (.num 8) (.s 1 1) (.s 1 1) (.s 8 8) 0x8000 (true)
  | .mmsm f => chk false f (.num 8) (.s 1 1) (.s 1 1) (.s 8 8) 0x8000 (true)
  | .aresc f => chk false f (.num 8) (.s 1 1) .none .none 0x8001 (true)
  | .mmask f => chk false f (.num 8) (.s 1 1) .none .none 0x8001 (true)
  | .azero f => chk false f (.num 8) .none .none .none 0x8003 (decide (f.mb 0 2 < 3))
  | .ald f => chk false f (.num 8) (if f.m 5 then .s 1 1 else .s 2 2) (.s 1 1) .none 0x8021 (true)
  | .ast f => chk false f (.num 8) (if f.m 5 then .s 1 1 else .s 2 2) (.s 1 1) .none 0x803F (decide (f.mb 0 3 < 4) && (!f.m 3 || decide (2 ≤ f.mb 0 3)))
  | .mside f => chk false f (.s 2 2) (.num 8) .none .none 0x803F (true)
  | .cpy f => chk false f (if f.mb 10 2 == 0 then .s 1 1 else .s 2 2) (if f.mb 10 2 == 1 then .s 1 1 else .s 2 2) (.s 1 1) .optS 0x8CF8 (decide (f.mb 10 2 < 3) && (!f.kc || f.mb 10 2 == 0) && f.hvOk)
  | .cpyt f => chk false f (.s 1 1) (.s 2 2) (.s 1 5) .optS 0x8CF8 (decide (f.mb 10 2 < 2) && (!f.kc || f.mb 10 2 == 0) && f.hvOk)
  | .cpyg f => chk false f (.s 1 1) (.s 2 2) (.s 1 2) .optS 0x8CF8 (decide (f.mb 10 2 < 2) && (!f.kc || f.mb 10 2 == 0) && f.hvOk)
  | .rcfence f => chk false f .none (if f.m 0 then .s 2 2 else .none) .none .none 0x8001 (true)
  | .kick f => chk false f .none (.s 1 1) .none .none 0x800F (true)
  | .cenum f => chk false f (.num 8) (.v 1) (.s 1 2) .none 0x800F (decide (f.a.toNat + f.mb 0 3 ≤ 255))
  | .cpred f => chk false f (.num 8) (.v 1) (.s 1 1) .none 0x8007 (decide (f.a.toNat + f.mb 0 3 ≤ 255))
  | .cmerge f => chk false f (.s 1 1) .none .none .none 0x8000 (true)
  | .cexit f => chk false f (.num 8) .none .none .none 0x8000 (true)
  | .cseal f => chk false f (.num 8) (.s 1 1) (.s 1 1) .none 0x8000 (true)
  | .ccomp f => chk false f (.s 1 1) (.s 1 1) (.s 1 3) .none 0x8000 (true)
  | .cres f => chk false f (.s 2 2) (.s 1 1) (.s 1 4) .none 0x8000 (true)
  | .cabort f => chk false f (if f.m 0 then .none else .num 8) (if f.m 0 then .s 1 1 else .none) (if f.m 0 then .s 1 3 else .none) .none 0x8001 (true)
  | .acomp f => chk false f (if f.m 0 then .num 8 else .v 4) (if f.m 0 then .s 4 4 else .v 4) (if f.m 0 then .none else .v 4) .none 0x8001 (true)
  | .xord f => chk false f .none (.s 1 1) .none .none 0x8000 (true)
  | .xordImm f => chkImm false f .none .none (decide (f.imm.toNat ≤ 15))
  | .xclr f => chk false f (.num 16) (if f.mb 0 2 == 2 then .none else .s 1 4) .none .none 0x8003 (decide (f.mb 0 2 < 3))
  | .xform f => chk true f (.num 16) (.v 4) .none .none 0x8000 (true)
  | .xshift f => chk false f (.num 16) (.num 16) .none .none 0x8000 (true)
  | .xm2l f => chk false f (.num 16) (.num 16) .none .none 0x8000 (true)
  | .xlsh f => chk false f (.num 16) (.num 16) .none .none 0x8000 (true)
  | .xeval f => chk true f (.v 4) (.num 16) (.v 4) .none 0x8000 (true)
  | .xadm f => chk true f (.num 8) (.num 16) (.v 4) (.s 1 1) 0x8000 (true)
  | .xld f => chk false f (.num 16) (if f.m 5 then .s 1 1 else .s 2 2) .none .none 0x8020 (true)
  | .xst f => chk false f (.num 16) (if f.m 5 then .s 1 1 else .s 2 2) .none .none 0x8020 (true)
  | .tkmatch f => chk false f (.s 2 2) (.s 2 2) (.s 8 8) .none 0x80F8 (f.hvOk)
  | .tkmerge f => chk false f (.s 2 2) (.s 2 2) (.s 8 8) .none 0x80F8 (f.hvOk)
  | .tkunmerge f => chk false f (.s 2 2) (.s 2 2) (.s 8 8) .none 0x80F8 (f.hvOk)
  | .tksize f => chk false f (.s 1 1) (.s 2 2) (.s 4 4) .none 0x80F8 (f.hvOk)
  | .nop f => chk false f .none .none .none .none 0x0000 (true)
  | .yield f => chk false f .none .none .none .none 0x0000 (true)
  | .bra f => chkImm true f .none .none (true)
  | .brx f => chk true f .none (.vs 2) .none .none 0x0000 (true)
  | .ret f => chk true f .none (.v 2) .none .none 0x0000 (true)
  | .call f => chkImm true f (.v 2) .none (true)
  | .join f => chk false f .none .none .none .none 0x0000 (true)
  | .joinw f => chk false f (.s 1 1) .none (.s 1 1) .none 0x0000 (true)
  | .joinwImm f => chkImm false f (.s 1 1) .none (true)
  | .exit f => chk true f .none .none .none .none 0x0000 (true)
  | .trap f => chkImm true f .none .none (true)
  | .rbacq f => chk false f .none .none .none .none 0x00FF (decide (1 ≤ f.mb 4 4) && decide (f.mb 4 4 + f.mb 0 4 ≤ 15))
  | .rbrel f => chk false f .none .none .none .none 0x00FF (decide (1 ≤ f.mb 4 4) && decide (f.mb 4 4 + f.mb 0 4 ≤ 15))
  | .rbqry f => chk false f (.s 1 1) .none .none .none 0x0000 (true)
  | .binit f => chk false f .none (objKind f.lvl) (.s 1 1) .none 0x0007 (f.lvlOk && f.lvl != 1)
  | .bar f => chk false f .none (objKind f.lvl) .none .none 0x0007 (f.lvlOk)
  | .bara f => chk false f (.s 1 1) (objKind f.lvl) .none .none 0x0007 (f.lvlOk)
  | .barw f => chk false f .none (objKind f.lvl) (.s 1 1) .none 0x0007 (f.lvlOk)
  | .barx f => chk false f .none (.s 1 1) (.s 1 1) .none 0x0000 (true)
  | .barxImm f => chkImm false f .none (.s 1 1) (true)
  | .barq f => chk false f (.s 1 1) (objKind f.lvl) .none .none 0x0007 (f.lvlOk)
  | .htest f => chk false f (.s 1 1) (.num 16) .none .none 0x0000 (true)
  | .hwait f => chk false f (.s 1 1) (.num 16) .none .none 0x0000 (true)
  | .hcan f => chk false f .none (.num 16) .none .none 0x0000 (true)
  | .hmov f => chk false f (.num 16) (.num 16) .none .none 0x0000 (true)
  | .wwait f => chk false f (.s 1 1) (.s 2 2) (.s 2 2) .optS 0x7038 (decide (3 ≤ f.scope) && decide (f.mb 3 2 < 3))
  | .sysr f => chk false f (if sregLane f.num then .v 1 else .vs (if sreg64 f.num then 2 else 1)) .none .none .none 0x0FFF (sregKnown f.num)
  | .sysw f => chk false f .none (.s 1 1) .none .none 0x0FFF (f.num == 0x010)
  | .eret f => chk false f .none .none .none .none 0x0003 (decide (f.mb 0 2 < 2))
  | .tend f => chk false f .none .none .none .none 0x0000 (true)
  | .tabrt f => chk false f .none .none .none .none 0x0000 (true)
  | .tirrev f => chk false f .none .none .none .none 0x0000 (true)
  | .tlbinv f => chk false f .none (if f.m 0 then .s 2 2 else .none) (if f.m 0 then .s 1 1 else .none) .none 0xF003 ((f.scope == 4 || f.scope == 5) && decide (f.mb 0 2 < 2))
  | .quiesce f => chk false f (.s 2 2) .none .none .none 0x8000 (true)
  | .icinv f => chk false f .none (if f.m 0 then .s 2 2 else .none) (if f.m 0 then .s 1 1 else .none) .none 0x8001 (true)
  | .engrd f => chk false f (.s 2 2) .none .none .none 0x000F (true)
  | .engwr f => chk false f .none (.s 2 2) .none .none 0x000F (true)
  | .snap f => chk false f .none (if f.m 0 then .s 2 2 else .none) .none .none 0x0001 (true)
  | .gpw f => chk false f .none (.s 2 2) .none .none 0x00FF (true)
  | .beam f => chk false f (.s 2 2) (.s 2 2) (.s 4 4) .none 0x80F8 (f.hvOk)
  | .proot f => chk false f (.s 2 2) (.s 2 2) (.s 8 8) .none 0x80F9 (f.hvOk)
  | .clauseFetch _ _ => false
  | .fairnessSwitch _ _ => false
  | .reservationExpiry _ _ _ => false
  | .strandWake _ _ _ => false
  | .joinwExpiry _ _ _ => false
  | .wwaitDeadline _ _ _ => false
  | .rbacqGrant _ => false
  | .segmentReturn _ _ _ => false
  | .waveRetire _ _ => false
  | .accessPerform _ _ _ => false
  | .writeQueueDrain _ _ => false
  | .invalidationApply _ _ => false
  | .fenceCompletion _ => false
  | .reductionApply _ => false
  | .engineSourceRead _ _ => false
  | .engineUnitWrite _ => false
  | .longLatencyCompletion _ => false
  | .mmasStep _ => false
  | .copyPerform _ _ => false
  | .copyUnitWrite _ => false
  | .shapeCacheDrop _ _ => false
  | .engqResume _ _ _ => false
  | .engqCancel _ _ => false
  | .engqRebuild _ _ _ => false
  | .taskCommit _ _ => false
  | .trapRecordDelivery _ => false
  | .hostTrapFinish _ _ => false
  | .contextCreate _ _ _ _ _ _ => false
  | .contextLoad _ _ => false
  | .contextAdmit _ => false
  | .crewPlace _ _ _ _ _ _ => false
  | .stealMessage _ _ _ => false
  | .vacate _ _ => false
  | .saveComplete _ => false
  | .contextRestore _ => false
  | .restoreLoad _ _ => false
  | .declareLost _ => false
  | .contextDestroy _ _ => false
  | .destroyPerform _ => false
  | .quarantineRetired _ => false
  | .queueEnable _ _ => false
  | .queueDisable _ _ => false
  | .queueResume _ _ => false
  | .doorbell _ _ _ => false
  | .noopCommand _ _ => false
  | .launchCommand _ _ => false
  | .waitCommand _ _ => false
  | .signalCommand _ _ => false
  | .replayCommand _ _ => false
  | .kernelStartTick _ => false
  | .kernelDrained _ _ => false
  | .kernelCancel _ => false
  | .registerWrite _ _ _ _ => false
  | .hostApertureAccess _ _ _ => false
  | .frameRelease _ _ => false
  | .frameFree _ => false
  | .quiescenceRequest _ => false
  | .pageWalk _ _ _ => false
  | .translationFill _ _ => false
  | .translationDrop _ _ => false
  | .transformKick _ _ _ _ => false
  | .transformRequestStart _ _ => false
  | .transformComplete _ _ _ => false
  | .transformResume _ _ => false
  | .transformCancel _ _ => false
  | .gOperationCompletion _ => false
  | .prootCompletion _ => false
  | .poolPageFree _ => false
  | .claveFireHost _ => false
  | .claveFireManagement => false
  | .claveTaborMatch => false
  | .snapTickFire _ => false
  | .claveLatchDone => false
  | .portEnable _ => false
  | .portDisable _ => false
  | .trainingDone _ _ => false
  | .trainingFailed _ => false
  | .laneLoss _ _ => false
  | .retryLimit _ => false
  | .flitSend _ => false
  | .flitReceive _ _ => false
  | .ackTimeout _ => false
  | .readRequest _ _ => false
  | .readResponse _ => false
  | .writeMessage _ _ => false
  | .atomicMessage _ _ _ _ => false
  | .endToEndAck _ => false
  | .wakeWrite _ _ => false
  | .taborSynchronisation _ _ _ _ _ => false
  | .taborSyncTimer => false
  | .gangStartOrAbort _ _ _ => false
  | .claveFiring _ _ => false
  | .pstatReplaysRead _ => false
  | .mctpCommand _ => false
  | .attestationRequest _ => false
  | .boot _ _ _ _ => false
  | .hostLinkChange _ => false
  | .powerLimitThrottle _ => false
  | .thermalThrottle _ => false
  | .throttleEnd => false
  | .emergencyStop _ _ => false
  | .computeRestart _ _ _ => false
  | .cxlDeviceLost _ => false
  | .eventDelivery _ => false
  | .eacctUpdate _ _ => false
  | .trapHandlerDesignation _ _ _ => false
  | .roleRebinding _ _ _ => false
  | .transformRingRegistration _ _ _ _ _ _ => false
  | .gangFormation _ _ _ => false

/-- The class code (R50) and the opcode (R67) of an instruction. -/
def opcodeOf : Instr → Option (Nat × Nat)
  | .iadd _ => some (0, 0x00)
  | .iaddImm _ => some (0, 0x80)
  | .isub _ => some (0, 0x01)
  | .isubImm _ => some (0, 0x81)
  | .iadds _ => some (0, 0x02)
  | .iaddsImm _ => some (0, 0x82)
  | .imul _ => some (0, 0x03)
  | .imulImm _ => some (0, 0x83)
  | .imad _ => some (0, 0x04)
  | .imin _ => some (0, 0x05)
  | .iminImm _ => some (0, 0x85)
  | .imax _ => some (0, 0x06)
  | .imaxImm _ => some (0, 0x86)
  | .iand _ => some (0, 0x08)
  | .iandImm _ => some (0, 0x88)
  | .ior _ => some (0, 0x09)
  | .iorImm _ => some (0, 0x89)
  | .ixor _ => some (0, 0x0A)
  | .ixorImm _ => some (0, 0x8A)
  | .ishl _ => some (0, 0x0C)
  | .ishlImm _ => some (0, 0x8C)
  | .ishr _ => some (0, 0x0D)
  | .ishrImm _ => some (0, 0x8D)
  | .isra _ => some (0, 0x0E)
  | .israImm _ => some (0, 0x8E)
  | .irot _ => some (0, 0x0F)
  | .irotImm _ => some (0, 0x8F)
  | .iabs _ => some (0, 0x07)
  | .inot _ => some (0, 0x0B)
  | .ipopc _ => some (0, 0x10)
  | .iclz _ => some (0, 0x11)
  | .ibrev _ => some (0, 0x12)
  | .ibfe _ => some (0, 0x13)
  | .ibfi _ => some (0, 0x14)
  | .icmp _ => some (0, 0x15)
  | .fadd _ => some (0, 0x20)
  | .faddImm _ => some (0, 0xA0)
  | .fsub _ => some (0, 0x21)
  | .fsubImm _ => some (0, 0xA1)
  | .fmul _ => some (0, 0x22)
  | .fmulImm _ => some (0, 0xA2)
  | .ffma _ => some (0, 0x23)
  | .fmin _ => some (0, 0x24)
  | .fminImm _ => some (0, 0xA4)
  | .fmax _ => some (0, 0x25)
  | .fmaxImm _ => some (0, 0xA5)
  | .fabs _ => some (0, 0x26)
  | .fneg _ => some (0, 0x27)
  | .fcmp _ => some (0, 0x28)
  | .fclass _ => some (0, 0x29)
  | .fscale _ => some (0, 0x2A)
  | .fround _ => some (0, 0x2B)
  | .fsqrt _ => some (0, 0x2E)
  | .frcp _ => some (0, 0x2C)
  | .frsq _ => some (0, 0x2D)
  | .fexp2 _ => some (0, 0x2F)
  | .flog2 _ => some (0, 0x30)
  | .cvt _ => some (0, 0x38)
  | .cvtq _ => some (0, 0x39)
  | .cvtx _ => some (0, 0x3A)
  | .mov _ => some (0, 0x40)
  | .movImm _ => some (0, 0xC0)
  | .ldi _ => some (0, 0xC1)
  | .sel _ => some (0, 0x42)
  | .movs _ => some (0, 0x43)
  | .bcast _ => some (0, 0x44)
  | .shfl _ => some (0, 0x48)
  | .shflImm _ => some (0, 0xC8)
  | .vote _ => some (0, 0x49)
  | .ballot _ => some (0, 0x4A)
  | .redux _ => some (0, 0x4B)
  | .scanw _ => some (0, 0x4C)
  | .bfly _ => some (0, 0x50)
  | .bfly4 _ => some (0, 0x51)
  | .cmul _ => some (0, 0x53)
  | .twid _ => some (0, 0x52)
  | .rdtime _ => some (0, 0x58)
  | .ld _ => some (1, 0x00)
  | .lds _ => some (1, 0x02)
  | .st _ => some (1, 0x01)
  | .sts _ => some (1, 0x03)
  | .atom _ => some (1, 0x08)
  | .atoms _ => some (1, 0x09)
  | .lr _ => some (1, 0x0A)
  | .sc _ => some (1, 0x0B)
  | .red _ => some (1, 0x0C)
  | .gath _ => some (1, 0x10)
  | .scat _ => some (1, 0x11)
  | .confl _ => some (1, 0x12)
  | .fence _ => some (1, 0x18)
  | .fencew _ => some (1, 0x19)
  | .pref _ => some (1, 0x1A)
  | .stw _ => some (1, 0x20)
  | .mma _ => some (2, 0x00)
  | .mmas _ => some (2, 0x01)
  | .mmsm _ => some (2, 0x02)
  | .aresc _ => some (2, 0x08)
  | .mmask _ => some (2, 0x0D)
  | .azero _ => some (2, 0x09)
  | .ald _ => some (2, 0x0A)
  | .ast _ => some (2, 0x0B)
  | .mside _ => some (2, 0x0C)
  | .cpy _ => some (3, 0x00)
  | .cpyt _ => some (3, 0x01)
  | .cpyg _ => some (3, 0x02)
  | .rcfence _ => some (3, 0x08)
  | .kick _ => some (3, 0x09)
  | .cenum _ => some (4, 0x00)
  | .cpred _ => some (4, 0x05)
  | .cmerge _ => some (4, 0x01)
  | .cexit _ => some (4, 0x02)
  | .cseal _ => some (4, 0x08)
  | .ccomp _ => some (4, 0x03)
  | .cres _ => some (4, 0x06)
  | .cabort _ => some (4, 0x07)
  | .acomp _ => some (4, 0x04)
  | .xord _ => some (5, 0x00)
  | .xordImm _ => some (5, 0x80)
  | .xclr _ => some (5, 0x01)
  | .xform _ => some (5, 0x02)
  | .xshift _ => some (5, 0x03)
  | .xm2l _ => some (5, 0x04)
  | .xlsh _ => some (5, 0x05)
  | .xeval _ => some (5, 0x06)
  | .xadm _ => some (5, 0x07)
  | .xld _ => some (5, 0x08)
  | .xst _ => some (5, 0x09)
  | .tkmatch _ => some (6, 0x00)
  | .tkmerge _ => some (6, 0x01)
  | .tkunmerge _ => some (6, 0x02)
  | .tksize _ => some (6, 0x03)
  | .nop _ => some (7, 0x00)
  | .yield _ => some (7, 0x08)
  | .bra _ => some (7, 0x81)
  | .brx _ => some (7, 0x02)
  | .ret _ => some (7, 0x04)
  | .call _ => some (7, 0x83)
  | .join _ => some (7, 0x05)
  | .joinw _ => some (7, 0x06)
  | .joinwImm _ => some (7, 0x86)
  | .exit _ => some (7, 0x07)
  | .trap _ => some (7, 0x89)
  | .rbacq _ => some (7, 0x10)
  | .rbrel _ => some (7, 0x11)
  | .rbqry _ => some (7, 0x12)
  | .binit _ => some (7, 0x20)
  | .bar _ => some (7, 0x21)
  | .bara _ => some (7, 0x22)
  | .barw _ => some (7, 0x23)
  | .barx _ => some (7, 0x24)
  | .barxImm _ => some (7, 0xA4)
  | .barq _ => some (7, 0x25)
  | .htest _ => some (7, 0x30)
  | .hwait _ => some (7, 0x31)
  | .hcan _ => some (7, 0x32)
  | .hmov _ => some (7, 0x33)
  | .wwait _ => some (7, 0x38)
  | .sysr _ => some (8, 0x00)
  | .sysw _ => some (8, 0x01)
  | .eret _ => some (8, 0x02)
  | .tend _ => some (8, 0x08)
  | .tabrt _ => some (8, 0x09)
  | .tirrev _ => some (8, 0x0A)
  | .tlbinv _ => some (8, 0x10)
  | .quiesce _ => some (8, 0x11)
  | .icinv _ => some (8, 0x12)
  | .engrd _ => some (8, 0x18)
  | .engwr _ => some (8, 0x19)
  | .snap _ => some (8, 0x20)
  | .gpw _ => some (8, 0x21)
  | .beam _ => some (8, 0x28)
  | .proot _ => some (8, 0x29)
  | .clauseFetch _ _ => none
  | .fairnessSwitch _ _ => none
  | .reservationExpiry _ _ _ => none
  | .strandWake _ _ _ => none
  | .joinwExpiry _ _ _ => none
  | .wwaitDeadline _ _ _ => none
  | .rbacqGrant _ => none
  | .segmentReturn _ _ _ => none
  | .waveRetire _ _ => none
  | .accessPerform _ _ _ => none
  | .writeQueueDrain _ _ => none
  | .invalidationApply _ _ => none
  | .fenceCompletion _ => none
  | .reductionApply _ => none
  | .engineSourceRead _ _ => none
  | .engineUnitWrite _ => none
  | .longLatencyCompletion _ => none
  | .mmasStep _ => none
  | .copyPerform _ _ => none
  | .copyUnitWrite _ => none
  | .shapeCacheDrop _ _ => none
  | .engqResume _ _ _ => none
  | .engqCancel _ _ => none
  | .engqRebuild _ _ _ => none
  | .taskCommit _ _ => none
  | .trapRecordDelivery _ => none
  | .hostTrapFinish _ _ => none
  | .contextCreate _ _ _ _ _ _ => none
  | .contextLoad _ _ => none
  | .contextAdmit _ => none
  | .crewPlace _ _ _ _ _ _ => none
  | .stealMessage _ _ _ => none
  | .vacate _ _ => none
  | .saveComplete _ => none
  | .contextRestore _ => none
  | .restoreLoad _ _ => none
  | .declareLost _ => none
  | .contextDestroy _ _ => none
  | .destroyPerform _ => none
  | .quarantineRetired _ => none
  | .queueEnable _ _ => none
  | .queueDisable _ _ => none
  | .queueResume _ _ => none
  | .doorbell _ _ _ => none
  | .noopCommand _ _ => none
  | .launchCommand _ _ => none
  | .waitCommand _ _ => none
  | .signalCommand _ _ => none
  | .replayCommand _ _ => none
  | .kernelStartTick _ => none
  | .kernelDrained _ _ => none
  | .kernelCancel _ => none
  | .registerWrite _ _ _ _ => none
  | .hostApertureAccess _ _ _ => none
  | .frameRelease _ _ => none
  | .frameFree _ => none
  | .quiescenceRequest _ => none
  | .pageWalk _ _ _ => none
  | .translationFill _ _ => none
  | .translationDrop _ _ => none
  | .transformKick _ _ _ _ => none
  | .transformRequestStart _ _ => none
  | .transformComplete _ _ _ => none
  | .transformResume _ _ => none
  | .transformCancel _ _ => none
  | .gOperationCompletion _ => none
  | .prootCompletion _ => none
  | .poolPageFree _ => none
  | .claveFireHost _ => none
  | .claveFireManagement => none
  | .claveTaborMatch => none
  | .snapTickFire _ => none
  | .claveLatchDone => none
  | .portEnable _ => none
  | .portDisable _ => none
  | .trainingDone _ _ => none
  | .trainingFailed _ => none
  | .laneLoss _ _ => none
  | .retryLimit _ => none
  | .flitSend _ => none
  | .flitReceive _ _ => none
  | .ackTimeout _ => none
  | .readRequest _ _ => none
  | .readResponse _ => none
  | .writeMessage _ _ => none
  | .atomicMessage _ _ _ _ => none
  | .endToEndAck _ => none
  | .wakeWrite _ _ => none
  | .taborSynchronisation _ _ _ _ _ => none
  | .taborSyncTimer => none
  | .gangStartOrAbort _ _ _ => none
  | .claveFiring _ _ => none
  | .pstatReplaysRead _ => none
  | .mctpCommand _ => none
  | .attestationRequest _ => none
  | .boot _ _ _ _ => none
  | .hostLinkChange _ => none
  | .powerLimitThrottle _ => none
  | .thermalThrottle _ => none
  | .throttleEnd => none
  | .emergencyStop _ _ => none
  | .computeRestart _ _ _ => none
  | .cxlDeviceLost _ => none
  | .eventDelivery _ => none
  | .eacctUpdate _ _ => none
  | .trapHandlerDesignation _ _ _ => none
  | .roleRebinding _ _ _ => none
  | .transformRingRegistration _ _ _ _ _ _ => none
  | .gangFormation _ _ _ => none

/-- How an opcode's word is read: in register form or in immediate form. -/
inductive Form where
  /-- Register form (R60). -/
  | reg (mk : Fields → Instr)
  /-- Immediate form (R65). -/
  | imm (mk : ImmFields → Instr)

/-- The opcodes of class V (R67). -/
def formV (opc : Nat) : Option Form :=
  match opc with
  | 0x00 => some (.reg .iadd)
  | 0x01 => some (.reg .isub)
  | 0x02 => some (.reg .iadds)
  | 0x03 => some (.reg .imul)
  | 0x04 => some (.reg .imad)
  | 0x05 => some (.reg .imin)
  | 0x06 => some (.reg .imax)
  | 0x07 => some (.reg .iabs)
  | 0x08 => some (.reg .iand)
  | 0x09 => some (.reg .ior)
  | 0x0A => some (.reg .ixor)
  | 0x0B => some (.reg .inot)
  | 0x0C => some (.reg .ishl)
  | 0x0D => some (.reg .ishr)
  | 0x0E => some (.reg .isra)
  | 0x0F => some (.reg .irot)
  | 0x10 => some (.reg .ipopc)
  | 0x11 => some (.reg .iclz)
  | 0x12 => some (.reg .ibrev)
  | 0x13 => some (.reg .ibfe)
  | 0x14 => some (.reg .ibfi)
  | 0x15 => some (.reg .icmp)
  | 0x20 => some (.reg .fadd)
  | 0x21 => some (.reg .fsub)
  | 0x22 => some (.reg .fmul)
  | 0x23 => some (.reg .ffma)
  | 0x24 => some (.reg .fmin)
  | 0x25 => some (.reg .fmax)
  | 0x26 => some (.reg .fabs)
  | 0x27 => some (.reg .fneg)
  | 0x28 => some (.reg .fcmp)
  | 0x29 => some (.reg .fclass)
  | 0x2A => some (.reg .fscale)
  | 0x2B => some (.reg .fround)
  | 0x2C => some (.reg .frcp)
  | 0x2D => some (.reg .frsq)
  | 0x2E => some (.reg .fsqrt)
  | 0x2F => some (.reg .fexp2)
  | 0x30 => some (.reg .flog2)
  | 0x38 => some (.reg .cvt)
  | 0x39 => some (.reg .cvtq)
  | 0x3A => some (.reg .cvtx)
  | 0x40 => some (.reg .mov)
  | 0x42 => some (.reg .sel)
  | 0x43 => some (.reg .movs)
  | 0x44 => some (.reg .bcast)
  | 0x48 => some (.reg .shfl)
  | 0x49 => some (.reg .vote)
  | 0x4A => some (.reg .ballot)
  | 0x4B => some (.reg .redux)
  | 0x4C => some (.reg .scanw)
  | 0x50 => some (.reg .bfly)
  | 0x51 => some (.reg .bfly4)
  | 0x52 => some (.reg .twid)
  | 0x53 => some (.reg .cmul)
  | 0x58 => some (.reg .rdtime)
  | 0x80 => some (.imm .iaddImm)
  | 0x81 => some (.imm .isubImm)
  | 0x82 => some (.imm .iaddsImm)
  | 0x83 => some (.imm .imulImm)
  | 0x85 => some (.imm .iminImm)
  | 0x86 => some (.imm .imaxImm)
  | 0x88 => some (.imm .iandImm)
  | 0x89 => some (.imm .iorImm)
  | 0x8A => some (.imm .ixorImm)
  | 0x8C => some (.imm .ishlImm)
  | 0x8D => some (.imm .ishrImm)
  | 0x8E => some (.imm .israImm)
  | 0x8F => some (.imm .irotImm)
  | 0xA0 => some (.imm .faddImm)
  | 0xA1 => some (.imm .fsubImm)
  | 0xA2 => some (.imm .fmulImm)
  | 0xA4 => some (.imm .fminImm)
  | 0xA5 => some (.imm .fmaxImm)
  | 0xC0 => some (.imm .movImm)
  | 0xC1 => some (.imm .ldi)
  | 0xC8 => some (.imm .shflImm)
  | _ => none

/-- The opcodes of class M (R67). -/
def formM (opc : Nat) : Option Form :=
  match opc with
  | 0x00 => some (.reg .ld)
  | 0x01 => some (.reg .st)
  | 0x02 => some (.reg .lds)
  | 0x03 => some (.reg .sts)
  | 0x08 => some (.reg .atom)
  | 0x09 => some (.reg .atoms)
  | 0x0A => some (.reg .lr)
  | 0x0B => some (.reg .sc)
  | 0x0C => some (.reg .red)
  | 0x10 => some (.reg .gath)
  | 0x11 => some (.reg .scat)
  | 0x12 => some (.reg .confl)
  | 0x18 => some (.reg .fence)
  | 0x19 => some (.reg .fencew)
  | 0x1A => some (.reg .pref)
  | 0x20 => some (.reg .stw)
  | _ => none

/-- The opcodes of class X (R67). -/
def formX (opc : Nat) : Option Form :=
  match opc with
  | 0x00 => some (.reg .mma)
  | 0x01 => some (.reg .mmas)
  | 0x02 => some (.reg .mmsm)
  | 0x08 => some (.reg .aresc)
  | 0x09 => some (.reg .azero)
  | 0x0A => some (.reg .ald)
  | 0x0B => some (.reg .ast)
  | 0x0C => some (.reg .mside)
  | 0x0D => some (.reg .mmask)
  | _ => none

/-- The opcodes of class C (R67). -/
def formC (opc : Nat) : Option Form :=
  match opc with
  | 0x00 => some (.reg .cpy)
  | 0x01 => some (.reg .cpyt)
  | 0x02 => some (.reg .cpyg)
  | 0x08 => some (.reg .rcfence)
  | 0x09 => some (.reg .kick)
  | _ => none

/-- The opcodes of class K (R67). -/
def formK (opc : Nat) : Option Form :=
  match opc with
  | 0x00 => some (.reg .cenum)
  | 0x01 => some (.reg .cmerge)
  | 0x02 => some (.reg .cexit)
  | 0x03 => some (.reg .ccomp)
  | 0x04 => some (.reg .acomp)
  | 0x05 => some (.reg .cpred)
  | 0x06 => some (.reg .cres)
  | 0x07 => some (.reg .cabort)
  | 0x08 => some (.reg .cseal)
  | _ => none

/-- The opcodes of class E (R67). -/
def formE (opc : Nat) : Option Form :=
  match opc with
  | 0x00 => some (.reg .xord)
  | 0x01 => some (.reg .xclr)
  | 0x02 => some (.reg .xform)
  | 0x03 => some (.reg .xshift)
  | 0x04 => some (.reg .xm2l)
  | 0x05 => some (.reg .xlsh)
  | 0x06 => some (.reg .xeval)
  | 0x07 => some (.reg .xadm)
  | 0x08 => some (.reg .xld)
  | 0x09 => some (.reg .xst)
  | 0x80 => some (.imm .xordImm)
  | _ => none

/-- The opcodes of class G (R67). -/
def formG (opc : Nat) : Option Form :=
  match opc with
  | 0x00 => some (.reg .tkmatch)
  | 0x01 => some (.reg .tkmerge)
  | 0x02 => some (.reg .tkunmerge)
  | 0x03 => some (.reg .tksize)
  | _ => none

/-- The opcodes of class B (R67). -/
def formB (opc : Nat) : Option Form :=
  match opc with
  | 0x00 => some (.reg .nop)
  | 0x02 => some (.reg .brx)
  | 0x04 => some (.reg .ret)
  | 0x05 => some (.reg .join)
  | 0x06 => some (.reg .joinw)
  | 0x07 => some (.reg .exit)
  | 0x08 => some (.reg .yield)
  | 0x10 => some (.reg .rbacq)
  | 0x11 => some (.reg .rbrel)
  | 0x12 => some (.reg .rbqry)
  | 0x20 => some (.reg .binit)
  | 0x21 => some (.reg .bar)
  | 0x22 => some (.reg .bara)
  | 0x23 => some (.reg .barw)
  | 0x24 => some (.reg .barx)
  | 0x25 => some (.reg .barq)
  | 0x30 => some (.reg .htest)
  | 0x31 => some (.reg .hwait)
  | 0x32 => some (.reg .hcan)
  | 0x33 => some (.reg .hmov)
  | 0x38 => some (.reg .wwait)
  | 0x81 => some (.imm .bra)
  | 0x83 => some (.imm .call)
  | 0x86 => some (.imm .joinwImm)
  | 0x89 => some (.imm .trap)
  | 0xA4 => some (.imm .barxImm)
  | _ => none

/-- The opcodes of class S (R67). -/
def formS (opc : Nat) : Option Form :=
  match opc with
  | 0x00 => some (.reg .sysr)
  | 0x01 => some (.reg .sysw)
  | 0x02 => some (.reg .eret)
  | 0x08 => some (.reg .tend)
  | 0x09 => some (.reg .tabrt)
  | 0x0A => some (.reg .tirrev)
  | 0x10 => some (.reg .tlbinv)
  | 0x11 => some (.reg .quiesce)
  | 0x12 => some (.reg .icinv)
  | 0x18 => some (.reg .engrd)
  | 0x19 => some (.reg .engwr)
  | 0x20 => some (.reg .snap)
  | 0x21 => some (.reg .gpw)
  | 0x28 => some (.reg .beam)
  | 0x29 => some (.reg .proot)
  | _ => none

/-- The opcode map: class and opcode to the form of the word (R50, R67). -/
def formOf (cls opc : Nat) : Option Form :=
  match cls with
  | 0 => formV opc
  | 1 => formM opc
  | 2 => formX opc
  | 3 => formC opc
  | 4 => formK opc
  | 5 => formE opc
  | 6 => formG opc
  | 7 => formB opc
  | 8 => formS opc
  | _ => none

/-- The terminal instructions (R53). -/
def terminal : Instr → Bool
  | .bra _ => true
  | .brx _ => true
  | .call _ => true
  | .ret _ => true
  | .join _ => true
  | .joinw _ => true
  | .joinwImm _ => true
  | .exit _ => true
  | .yield _ => true
  | .trap _ => true
  | .bar _ => true
  | .barw _ => true
  | .barx _ => true
  | .barxImm _ => true
  | .hwait _ => true
  | .wwait _ => true
  | .rbacq _ => true
  | .eret _ => true
  | .tend _ => true
  | .tabrt _ => true
  | .iadd _ => false
  | .iaddImm _ => false
  | .isub _ => false
  | .isubImm _ => false
  | .iadds _ => false
  | .iaddsImm _ => false
  | .imul _ => false
  | .imulImm _ => false
  | .imad _ => false
  | .imin _ => false
  | .iminImm _ => false
  | .imax _ => false
  | .imaxImm _ => false
  | .iand _ => false
  | .iandImm _ => false
  | .ior _ => false
  | .iorImm _ => false
  | .ixor _ => false
  | .ixorImm _ => false
  | .ishl _ => false
  | .ishlImm _ => false
  | .ishr _ => false
  | .ishrImm _ => false
  | .isra _ => false
  | .israImm _ => false
  | .irot _ => false
  | .irotImm _ => false
  | .iabs _ => false
  | .inot _ => false
  | .ipopc _ => false
  | .iclz _ => false
  | .ibrev _ => false
  | .ibfe _ => false
  | .ibfi _ => false
  | .icmp _ => false
  | .fadd _ => false
  | .faddImm _ => false
  | .fsub _ => false
  | .fsubImm _ => false
  | .fmul _ => false
  | .fmulImm _ => false
  | .ffma _ => false
  | .fmin _ => false
  | .fminImm _ => false
  | .fmax _ => false
  | .fmaxImm _ => false
  | .fabs _ => false
  | .fneg _ => false
  | .fcmp _ => false
  | .fclass _ => false
  | .fscale _ => false
  | .fround _ => false
  | .fsqrt _ => false
  | .frcp _ => false
  | .frsq _ => false
  | .fexp2 _ => false
  | .flog2 _ => false
  | .cvt _ => false
  | .cvtq _ => false
  | .cvtx _ => false
  | .mov _ => false
  | .movImm _ => false
  | .ldi _ => false
  | .sel _ => false
  | .movs _ => false
  | .bcast _ => false
  | .shfl _ => false
  | .shflImm _ => false
  | .vote _ => false
  | .ballot _ => false
  | .redux _ => false
  | .scanw _ => false
  | .bfly _ => false
  | .bfly4 _ => false
  | .cmul _ => false
  | .twid _ => false
  | .rdtime _ => false
  | .ld _ => false
  | .lds _ => false
  | .st _ => false
  | .sts _ => false
  | .atom _ => false
  | .atoms _ => false
  | .lr _ => false
  | .sc _ => false
  | .red _ => false
  | .gath _ => false
  | .scat _ => false
  | .confl _ => false
  | .fence _ => false
  | .fencew _ => false
  | .pref _ => false
  | .stw _ => false
  | .mma _ => false
  | .mmas _ => false
  | .mmsm _ => false
  | .aresc _ => false
  | .mmask _ => false
  | .azero _ => false
  | .ald _ => false
  | .ast _ => false
  | .mside _ => false
  | .cpy _ => false
  | .cpyt _ => false
  | .cpyg _ => false
  | .rcfence _ => false
  | .kick _ => false
  | .cenum _ => false
  | .cpred _ => false
  | .cmerge _ => false
  | .cexit _ => false
  | .cseal _ => false
  | .ccomp _ => false
  | .cres _ => false
  | .cabort _ => false
  | .acomp _ => false
  | .xord _ => false
  | .xordImm _ => false
  | .xclr _ => false
  | .xform _ => false
  | .xshift _ => false
  | .xm2l _ => false
  | .xlsh _ => false
  | .xeval _ => false
  | .xadm _ => false
  | .xld _ => false
  | .xst _ => false
  | .tkmatch _ => false
  | .tkmerge _ => false
  | .tkunmerge _ => false
  | .tksize _ => false
  | .nop _ => false
  | .rbrel _ => false
  | .rbqry _ => false
  | .binit _ => false
  | .bara _ => false
  | .barq _ => false
  | .htest _ => false
  | .hcan _ => false
  | .hmov _ => false
  | .sysr _ => false
  | .sysw _ => false
  | .tirrev _ => false
  | .tlbinv _ => false
  | .quiesce _ => false
  | .icinv _ => false
  | .engrd _ => false
  | .engwr _ => false
  | .snap _ => false
  | .gpw _ => false
  | .beam _ => false
  | .proot _ => false
  | .clauseFetch _ _ => false
  | .fairnessSwitch _ _ => false
  | .reservationExpiry _ _ _ => false
  | .strandWake _ _ _ => false
  | .joinwExpiry _ _ _ => false
  | .wwaitDeadline _ _ _ => false
  | .rbacqGrant _ => false
  | .segmentReturn _ _ _ => false
  | .waveRetire _ _ => false
  | .accessPerform _ _ _ => false
  | .writeQueueDrain _ _ => false
  | .invalidationApply _ _ => false
  | .fenceCompletion _ => false
  | .reductionApply _ => false
  | .engineSourceRead _ _ => false
  | .engineUnitWrite _ => false
  | .longLatencyCompletion _ => false
  | .mmasStep _ => false
  | .copyPerform _ _ => false
  | .copyUnitWrite _ => false
  | .shapeCacheDrop _ _ => false
  | .engqResume _ _ _ => false
  | .engqCancel _ _ => false
  | .engqRebuild _ _ _ => false
  | .taskCommit _ _ => false
  | .trapRecordDelivery _ => false
  | .hostTrapFinish _ _ => false
  | .contextCreate _ _ _ _ _ _ => false
  | .contextLoad _ _ => false
  | .contextAdmit _ => false
  | .crewPlace _ _ _ _ _ _ => false
  | .stealMessage _ _ _ => false
  | .vacate _ _ => false
  | .saveComplete _ => false
  | .contextRestore _ => false
  | .restoreLoad _ _ => false
  | .declareLost _ => false
  | .contextDestroy _ _ => false
  | .destroyPerform _ => false
  | .quarantineRetired _ => false
  | .queueEnable _ _ => false
  | .queueDisable _ _ => false
  | .queueResume _ _ => false
  | .doorbell _ _ _ => false
  | .noopCommand _ _ => false
  | .launchCommand _ _ => false
  | .waitCommand _ _ => false
  | .signalCommand _ _ => false
  | .replayCommand _ _ => false
  | .kernelStartTick _ => false
  | .kernelDrained _ _ => false
  | .kernelCancel _ => false
  | .registerWrite _ _ _ _ => false
  | .hostApertureAccess _ _ _ => false
  | .frameRelease _ _ => false
  | .frameFree _ => false
  | .quiescenceRequest _ => false
  | .pageWalk _ _ _ => false
  | .translationFill _ _ => false
  | .translationDrop _ _ => false
  | .transformKick _ _ _ _ => false
  | .transformRequestStart _ _ => false
  | .transformComplete _ _ _ => false
  | .transformResume _ _ => false
  | .transformCancel _ _ => false
  | .gOperationCompletion _ => false
  | .prootCompletion _ => false
  | .poolPageFree _ => false
  | .claveFireHost _ => false
  | .claveFireManagement => false
  | .claveTaborMatch => false
  | .snapTickFire _ => false
  | .claveLatchDone => false
  | .portEnable _ => false
  | .portDisable _ => false
  | .trainingDone _ _ => false
  | .trainingFailed _ => false
  | .laneLoss _ _ => false
  | .retryLimit _ => false
  | .flitSend _ => false
  | .flitReceive _ _ => false
  | .ackTimeout _ => false
  | .readRequest _ _ => false
  | .readResponse _ => false
  | .writeMessage _ _ => false
  | .atomicMessage _ _ _ _ => false
  | .endToEndAck _ => false
  | .wakeWrite _ _ => false
  | .taborSynchronisation _ _ _ _ _ => false
  | .taborSyncTimer => false
  | .gangStartOrAbort _ _ _ => false
  | .claveFiring _ _ => false
  | .pstatReplaysRead _ => false
  | .mctpCommand _ => false
  | .attestationRequest _ => false
  | .boot _ _ _ _ => false
  | .hostLinkChange _ => false
  | .powerLimitThrottle _ => false
  | .thermalThrottle _ => false
  | .throttleEnd => false
  | .emergencyStop _ _ => false
  | .computeRestart _ _ _ => false
  | .cxlDeviceLost _ => false
  | .eventDelivery _ => false
  | .eacctUpdate _ _ => false
  | .trapHandlerDesignation _ _ _ => false
  | .roleRebinding _ _ _ => false
  | .transformRingRegistration _ _ _ _ _ _ => false
  | .gangFormation _ _ _ => false

/-- The long-latency instructions (R57): classes M, X, C, K, E and G, and five of class S. -/
def longLatency (i : Instr) : Bool :=
  match opcodeOf i with
  | some (cls, opc) => (decide (1 ≤ cls) && decide (cls ≤ 6)) || (cls == 8 && [0x10, 0x11, 0x12, 0x28, 0x29].contains opc)
  | none => false

/-- The register-form fields of an instruction, where it has them. -/
def fieldsOf : Instr → Option Fields
  | .iadd f => some f
  | .iaddImm _ => none
  | .isub f => some f
  | .isubImm _ => none
  | .iadds f => some f
  | .iaddsImm _ => none
  | .imul f => some f
  | .imulImm _ => none
  | .imad f => some f
  | .imin f => some f
  | .iminImm _ => none
  | .imax f => some f
  | .imaxImm _ => none
  | .iand f => some f
  | .iandImm _ => none
  | .ior f => some f
  | .iorImm _ => none
  | .ixor f => some f
  | .ixorImm _ => none
  | .ishl f => some f
  | .ishlImm _ => none
  | .ishr f => some f
  | .ishrImm _ => none
  | .isra f => some f
  | .israImm _ => none
  | .irot f => some f
  | .irotImm _ => none
  | .iabs f => some f
  | .inot f => some f
  | .ipopc f => some f
  | .iclz f => some f
  | .ibrev f => some f
  | .ibfe f => some f
  | .ibfi f => some f
  | .icmp f => some f
  | .fadd f => some f
  | .faddImm _ => none
  | .fsub f => some f
  | .fsubImm _ => none
  | .fmul f => some f
  | .fmulImm _ => none
  | .ffma f => some f
  | .fmin f => some f
  | .fminImm _ => none
  | .fmax f => some f
  | .fmaxImm _ => none
  | .fabs f => some f
  | .fneg f => some f
  | .fcmp f => some f
  | .fclass f => some f
  | .fscale f => some f
  | .fround f => some f
  | .fsqrt f => some f
  | .frcp f => some f
  | .frsq f => some f
  | .fexp2 f => some f
  | .flog2 f => some f
  | .cvt f => some f
  | .cvtq f => some f
  | .cvtx f => some f
  | .mov f => some f
  | .movImm _ => none
  | .ldi _ => none
  | .sel f => some f
  | .movs f => some f
  | .bcast f => some f
  | .shfl f => some f
  | .shflImm _ => none
  | .vote f => some f
  | .ballot f => some f
  | .redux f => some f
  | .scanw f => some f
  | .bfly f => some f
  | .bfly4 f => some f
  | .cmul f => some f
  | .twid f => some f
  | .rdtime f => some f
  | .ld f => some f
  | .lds f => some f
  | .st f => some f
  | .sts f => some f
  | .atom f => some f
  | .atoms f => some f
  | .lr f => some f
  | .sc f => some f
  | .red f => some f
  | .gath f => some f
  | .scat f => some f
  | .confl f => some f
  | .fence f => some f
  | .fencew f => some f
  | .pref f => some f
  | .stw f => some f
  | .mma f => some f
  | .mmas f => some f
  | .mmsm f => some f
  | .aresc f => some f
  | .mmask f => some f
  | .azero f => some f
  | .ald f => some f
  | .ast f => some f
  | .mside f => some f
  | .cpy f => some f
  | .cpyt f => some f
  | .cpyg f => some f
  | .rcfence f => some f
  | .kick f => some f
  | .cenum f => some f
  | .cpred f => some f
  | .cmerge f => some f
  | .cexit f => some f
  | .cseal f => some f
  | .ccomp f => some f
  | .cres f => some f
  | .cabort f => some f
  | .acomp f => some f
  | .xord f => some f
  | .xordImm _ => none
  | .xclr f => some f
  | .xform f => some f
  | .xshift f => some f
  | .xm2l f => some f
  | .xlsh f => some f
  | .xeval f => some f
  | .xadm f => some f
  | .xld f => some f
  | .xst f => some f
  | .tkmatch f => some f
  | .tkmerge f => some f
  | .tkunmerge f => some f
  | .tksize f => some f
  | .nop f => some f
  | .yield f => some f
  | .bra _ => none
  | .brx f => some f
  | .ret f => some f
  | .call _ => none
  | .join f => some f
  | .joinw f => some f
  | .joinwImm _ => none
  | .exit f => some f
  | .trap _ => none
  | .rbacq f => some f
  | .rbrel f => some f
  | .rbqry f => some f
  | .binit f => some f
  | .bar f => some f
  | .bara f => some f
  | .barw f => some f
  | .barx f => some f
  | .barxImm _ => none
  | .barq f => some f
  | .htest f => some f
  | .hwait f => some f
  | .hcan f => some f
  | .hmov f => some f
  | .wwait f => some f
  | .sysr f => some f
  | .sysw f => some f
  | .eret f => some f
  | .tend f => some f
  | .tabrt f => some f
  | .tirrev f => some f
  | .tlbinv f => some f
  | .quiesce f => some f
  | .icinv f => some f
  | .engrd f => some f
  | .engwr f => some f
  | .snap f => some f
  | .gpw f => some f
  | .beam f => some f
  | .proot f => some f
  | .clauseFetch _ _ => none
  | .fairnessSwitch _ _ => none
  | .reservationExpiry _ _ _ => none
  | .strandWake _ _ _ => none
  | .joinwExpiry _ _ _ => none
  | .wwaitDeadline _ _ _ => none
  | .rbacqGrant _ => none
  | .segmentReturn _ _ _ => none
  | .waveRetire _ _ => none
  | .accessPerform _ _ _ => none
  | .writeQueueDrain _ _ => none
  | .invalidationApply _ _ => none
  | .fenceCompletion _ => none
  | .reductionApply _ => none
  | .engineSourceRead _ _ => none
  | .engineUnitWrite _ => none
  | .longLatencyCompletion _ => none
  | .mmasStep _ => none
  | .copyPerform _ _ => none
  | .copyUnitWrite _ => none
  | .shapeCacheDrop _ _ => none
  | .engqResume _ _ _ => none
  | .engqCancel _ _ => none
  | .engqRebuild _ _ _ => none
  | .taskCommit _ _ => none
  | .trapRecordDelivery _ => none
  | .hostTrapFinish _ _ => none
  | .contextCreate _ _ _ _ _ _ => none
  | .contextLoad _ _ => none
  | .contextAdmit _ => none
  | .crewPlace _ _ _ _ _ _ => none
  | .stealMessage _ _ _ => none
  | .vacate _ _ => none
  | .saveComplete _ => none
  | .contextRestore _ => none
  | .restoreLoad _ _ => none
  | .declareLost _ => none
  | .contextDestroy _ _ => none
  | .destroyPerform _ => none
  | .quarantineRetired _ => none
  | .queueEnable _ _ => none
  | .queueDisable _ _ => none
  | .queueResume _ _ => none
  | .doorbell _ _ _ => none
  | .noopCommand _ _ => none
  | .launchCommand _ _ => none
  | .waitCommand _ _ => none
  | .signalCommand _ _ => none
  | .replayCommand _ _ => none
  | .kernelStartTick _ => none
  | .kernelDrained _ _ => none
  | .kernelCancel _ => none
  | .registerWrite _ _ _ _ => none
  | .hostApertureAccess _ _ _ => none
  | .frameRelease _ _ => none
  | .frameFree _ => none
  | .quiescenceRequest _ => none
  | .pageWalk _ _ _ => none
  | .translationFill _ _ => none
  | .translationDrop _ _ => none
  | .transformKick _ _ _ _ => none
  | .transformRequestStart _ _ => none
  | .transformComplete _ _ _ => none
  | .transformResume _ _ => none
  | .transformCancel _ _ => none
  | .gOperationCompletion _ => none
  | .prootCompletion _ => none
  | .poolPageFree _ => none
  | .claveFireHost _ => none
  | .claveFireManagement => none
  | .claveTaborMatch => none
  | .snapTickFire _ => none
  | .claveLatchDone => none
  | .portEnable _ => none
  | .portDisable _ => none
  | .trainingDone _ _ => none
  | .trainingFailed _ => none
  | .laneLoss _ _ => none
  | .retryLimit _ => none
  | .flitSend _ => none
  | .flitReceive _ _ => none
  | .ackTimeout _ => none
  | .readRequest _ _ => none
  | .readResponse _ => none
  | .writeMessage _ _ => none
  | .atomicMessage _ _ _ _ => none
  | .endToEndAck _ => none
  | .wakeWrite _ _ => none
  | .taborSynchronisation _ _ _ _ _ => none
  | .taborSyncTimer => none
  | .gangStartOrAbort _ _ _ => none
  | .claveFiring _ _ => none
  | .pstatReplaysRead _ => none
  | .mctpCommand _ => none
  | .attestationRequest _ => none
  | .boot _ _ _ _ => none
  | .hostLinkChange _ => none
  | .powerLimitThrottle _ => none
  | .thermalThrottle _ => none
  | .throttleEnd => none
  | .emergencyStop _ _ => none
  | .computeRestart _ _ _ => none
  | .cxlDeviceLost _ => none
  | .eventDelivery _ => none
  | .eacctUpdate _ _ => none
  | .trapHandlerDesignation _ _ _ => none
  | .roleRebinding _ _ _ => none
  | .transformRingRegistration _ _ _ _ _ _ => none
  | .gangFormation _ _ _ => none

/-- FS of a long-latency instruction: true selects the set-B flag (R58). The immediate form of XORD has FS 0 (R323). -/
def fsOf (i : Instr) : Bool := (fieldsOf i).elim false Fields.fs

end Sys2Proof
end

