-- ==== Sys2Proof/WellFormed.lean ====
section
/-!
DEFINITION. Well-formed instructions: those whose word passes every encoding check of clause fetch (R52).
-/

namespace Sys2Proof

/-- An instruction is well formed when its word raises no illegal-encoding trap; an event has no word. -/
def Instr.wf (i : Instr) : Bool :=
  match opcodeOf i with
  | some _ => encOk i
  | none => true

end Sys2Proof
end

