-- ==== Sys2Proof/Decode.lean ====
section
/-!
DEFINITION. Decoding and encoding: clause headers (R49), instruction words (R60, R65), and the encoding rules judged
over a whole clause (R52). A clause is little-endian 64-bit words (R8).
-/

namespace Sys2Proof

/-- Why a clause or word is not decoded: each is an illegal-encoding trap (R52). -/
inductive DecodeError where
  /-- CLASS is 9 to 15. -/
  | reservedClass
  /-- Header bits 15:0 are nonzero. -/
  | reservedHeaderBits
  /-- AFLAG or BFLAG is out of range while valid, or nonzero while not valid. -/
  | badFlagField
  /-- The opcode is unassigned in its class (R67). -/
  | unassignedOpcode
  /-- KB or KC of an immediate form is 1 (R65). -/
  | immediateClassBits
  /-- An operand, guard or modifier breaks the entry (R61 to R63). -/
  | badFields
  /-- A long-latency instruction selects a set flag whose valid bit is 0. -/
  | flagNotSet
  /-- A terminal instruction stands anywhere but last (R53). -/
  | terminalNotLast
  /-- An MMAS stands with another instruction naming its tile (R282). -/
  | mmasTileShared
  deriving DecidableEq, Repr

/-- A clause header's fields (R49). -/
structure Header where
  /-- CLASS. -/
  cls : Nat
  /-- CNT: instruction words minus one. -/
  cnt : Nat
  /-- WAIT, bit n for flag fn. -/
  wait : BitVec 12
  /-- AV. -/
  av : Bool
  /-- AFLAG. -/
  aflag : Nat
  /-- BV. -/
  bv : Bool
  /-- BFLAG. -/
  bflag : Nat
  /-- YLD. -/
  yld : Bool
  /-- TB. -/
  tb : Bool
  /-- JTAG. -/
  jtag : Nat
  /-- Bits 15:0. -/
  low : Nat
  deriving DecidableEq, Repr

/-- Read a clause header (R49). -/
def readHeader (w : Dword) : Header where
  cls := bitsOf w.toNat 60 4
  cnt := bitsOf w.toNat 56 4
  wait := BitVec.ofNat 12 (bitsOf w.toNat 44 12)
  av := bitOf w.toNat 43
  aflag := bitsOf w.toNat 39 4
  bv := bitOf w.toNat 38
  bflag := bitsOf w.toNat 34 4
  yld := bitOf w.toNat 33
  tb := bitOf w.toNat 32
  jtag := bitsOf w.toNat 16 16
  low := bitsOf w.toNat 0 16

/-- The register-form fields of a word (R60). -/
def readFields (w : Dword) : Fields where
  pn := w.getLsbD 55
  pred := w.extractLsb' 52 3
  d := w.extractLsb' 44 8
  a := w.extractLsb' 36 8
  b := w.extractLsb' 28 8
  c := w.extractLsb' 20 8
  kd := w.getLsbD 19
  ka := w.getLsbD 18
  kb := w.getLsbD 17
  kc := w.getLsbD 16
  mod := w.extractLsb' 0 16

/-- The immediate-form fields of a word (R65). -/
def readImm (w : Dword) : ImmFields where
  pn := w.getLsbD 55
  pred := w.extractLsb' 52 3
  d := w.extractLsb' 44 8
  a := w.extractLsb' 36 8
  kd := w.getLsbD 19
  ka := w.getLsbD 18
  imm := w.extractLsb' 20 16 ++ w.extractLsb' 0 16

/-- Decode one instruction word in a class (R50, R60 to R67). -/
def decodeWord (cls : Nat) (w : Dword) : Except DecodeError Instr :=
  if 9 ≤ cls then .error .reservedClass else
  match formOf cls (w.extractLsb' 56 8).toNat with
  | none => .error .unassignedOpcode
  | some (.reg mk) =>
    let i := mk (readFields w)
    if i.wf then .ok i else .error .badFields
  | some (.imm mk) =>
    let i := mk (readImm w)
    if w.getLsbD 17 || w.getLsbD 16 then .error .immediateClassBits
    else if i.wf then .ok i else .error .badFields

/-- The header rules of R52. -/
def headerError (h : Header) : Option DecodeError :=
  if 9 ≤ h.cls then some .reservedClass
  else if h.low ≠ 0 then some .reservedHeaderBits
  else if (h.av && decide (12 ≤ h.aflag)) || (!h.av && h.aflag ≠ 0) || (h.bv && decide (12 ≤ h.bflag)) ||
    (!h.bv && h.bflag ≠ 0) then some .badFlagField
  else none

/-- A long-latency instruction selects a flag that the header sets (R52, R58). -/
def flagOk (h : Header) (i : Instr) : Bool := !longLatency i || (if fsOf i then h.bv else h.av)

/-- The tile an X-class instruction names (R286), ACOMP.dense included (R317). -/
def tileOf : Instr → Option Nat
  | .mma f | .mmas f | .mmsm f | .aresc f | .mmask f | .azero f | .ald f | .ast f => some f.d.toNat
  | .mside f => some f.a.toNat
  | .acomp f => if f.m 0 then some f.d.toNat else none
  | _ => none

/-- The rules over the words of a clause together (R52, R53, R282). -/
def clauseError (h : Header) (is : List Instr) : Option DecodeError :=
  if is.any (fun i => !flagOk h i) then some .flagNotSet
  else if is.dropLast.any terminal then some .terminalNotLast
  else if (List.range is.length).any (fun n =>
      match is[n]? with
      | some (.mmas f) => (List.range is.length).any (fun m => m ≠ n && (is[m]?).bind tileOf == some f.d.toNat)
      | _ => false) then some .mmasTileShared
  else none

/-- Decode all of a list of words, the first error by position. -/
def decodeWords (cls : Nat) : List Dword → Except DecodeError (List Instr)
  | [] => .ok []
  | w :: ws =>
    match decodeWord cls w with
    | .error e => .error e
    | .ok i =>
      match decodeWords cls ws with
      | .error e => .error e
      | .ok is => .ok (i :: is)

/-- Decode a clause from its header word and its instruction words (R52). -/
def decodeClause (hw : Dword) (ws : List Dword) : Except DecodeError (Header × List Instr) :=
  let h := readHeader hw
  match headerError h with
  | some e => .error e
  | none =>
    match decodeWords h.cls ws with
    | .error e => .error e
    | .ok is =>
      match clauseError h is with
      | some e => .error e
      | none => .ok (h, is)

/-- A register-form word (R60). -/
def packFields (opc : Nat) (f : Fields) : Dword :=
  BitVec.ofNat 8 opc ++ BitVec.ofBool f.pn ++ f.pred ++ f.d ++ f.a ++ f.b ++ f.c ++ BitVec.ofBool f.kd ++
    BitVec.ofBool f.ka ++ BitVec.ofBool f.kb ++ BitVec.ofBool f.kc ++ f.mod

/-- An immediate-form word (R65). -/
def packImm (opc : Nat) (f : ImmFields) : Dword :=
  BitVec.ofNat 8 opc ++ BitVec.ofBool f.pn ++ f.pred ++ f.d ++ f.a ++ f.imm.extractLsb' 16 16 ++ BitVec.ofBool f.kd ++
    BitVec.ofBool f.ka ++ (0 : BitVec 2) ++ f.imm.extractLsb' 0 16

/-- The immediate-form fields of an instruction, where it has them. -/
def immOf (i : Instr) : Option ImmFields :=
  match i with
  | .iaddImm f | .isubImm f | .iaddsImm f | .imulImm f | .iminImm f | .imaxImm f | .iandImm f | .iorImm f | .ixorImm f
  | .ishlImm f | .ishrImm f | .israImm f | .irotImm f | .faddImm f | .fsubImm f | .fmulImm f | .fminImm f | .fmaxImm f
  | .movImm f | .ldi f | .shflImm f | .xordImm f | .bra f | .call f | .joinwImm f | .trap f | .barxImm f => some f
  | _ => none

/-- Encode an instruction: its class and its word; an event has none. -/
def encode (i : Instr) : Option (Nat × Dword) :=
  match opcodeOf i with
  | none => none
  | some (cls, opc) =>
    match fieldsOf i with
    | some f => some (cls, packFields opc f)
    | none =>
      match immOf i with
      | some f => some (cls, packImm opc f)
      | none => none

/-- Pack a clause header (R49). -/
def packHeader (h : Header) : Dword :=
  BitVec.ofNat 64 ((h.cls % 16) * 2 ^ 60 + (h.cnt % 16) * 2 ^ 56 + h.wait.toNat * 2 ^ 44 + h.av.toNat * 2 ^ 43 +
    (h.aflag % 16) * 2 ^ 39 + h.bv.toNat * 2 ^ 38 + (h.bflag % 16) * 2 ^ 34 + h.yld.toNat * 2 ^ 33 +
    h.tb.toNat * 2 ^ 32 + (h.jtag % 65536) * 2 ^ 16 + h.low % 65536)

/-- The instruction the decoder reads from a table word. The table gives no row any bits and an instruction word does
not name its class, so the number is read as the smallest thing the machine fetches: a clause of one instruction, its
header in bits 63:0 and its instruction word in bits 127:64 (log 14). -/
def decodeTableWord (nbits w : Nat) : Option Instr :=
  let v := w % 2 ^ nbits
  match decodeClause (BitVec.ofNat 64 v) [BitVec.ofNat 64 (v >>> 64)] with
  | .ok (h, [i]) => if h.cnt = 0 then some i else none
  | _ => none

end Sys2Proof
end

