-- ==== Sys2Proof/Machine/State.lean ====
section
/-!
DEFINITION. The state of a Tamyen 7640 package, as plain data, and the state after reset. Waves live in their crew,
crews in a table of the package; a core holds what its hardware shares among waves. Operations in flight of every
long-latency class are one table, in order of issue.
-/

namespace Sys2Proof.Machine

open Sys2Proof

/-- Why a step stops with a fault. -/
inductive Fault where
  /-- Raised by no instruction and no event of this model: the spec describes an effect, a trap or a wait for every turn,
  and a turn its rules do not permit performs nothing (log 2). It stands for a home access at which no memory exists.
  Safe: a machine that stops there shows less than the package. -/
  | noMemory (pa : Nat)
  deriving DecidableEq, Repr

/-- Why a step is refused. -/
inductive Refusal where
  /-- Raised by an arm of exec that has no meaning yet. Safe: nothing is claimed of it. -/
  | notModelled (mnemonic : String)
  deriving DecidableEq, Repr

/-- The strand whose instruction is issuing. -/
structure Cursor where
  /-- Number of the crew in the package's table. -/
  crew : Nat
  /-- Wave index within the crew. -/
  wave : Nat
  /-- Strand index, 0 to 3. -/
  strand : Nat
  /-- The instruction found a condition it must wait for and issues again. -/
  again : Bool
  deriving DecidableEq, Repr

/-- A barrier object (R233). -/
inductive BarObj where
  /-- LVL 0, in the crew scratchpad. -/
  | scratch (crew addr : Nat)
  /-- LVL 1, the implicit crew barrier. -/
  | crew (crew : Nat)
  /-- LVL 3 to 7, in device memory at a physical address. -/
  | device (pa : Nat)
  deriving DecidableEq, Repr

/-- One member of a merged wait at a join point (R158). -/
structure JoinMember where
  /-- JOINW's result register; none for JOIN. -/
  d : Option Nat
  /-- The cycle at which the member's limit passes; none for JOIN. -/
  deadline : Option Nat
  deriving DecidableEq, Repr

/-- What a waiting strand waits on (R143). -/
inductive Wait where
  /-- A barrier phase to end (R242). -/
  | barrier (obj : BarObj) (scope phase : Nat)
  /-- A pre-arrival in divergent code (R238): object address as formed, clause header, the instruction. -/
  | preArrival (lvl addr hdr : Nat) (i : Instr)
  /-- A wake word (R245). -/
  | wake (pa cmp : Nat) (comparand : Dword) (scope d : Nat) (deadline : Option Nat) (trp : Bool) (hdr : Nat)
  /-- A future in handle h, result to s(d) (R248). -/
  | future (h d : Nat)
  /-- Register blocks (R163). -/
  | rbacq (first n : Nat)
  /-- A join point: clause address, JTAG, members (R146, R158). -/
  | join (pc tag : Nat) (members : List JoinMember)
  /-- A split with parts left to place, and the header of its branch (R145, R147). -/
  | split (parts : List (Nat × LaneMask)) (hdr : Nat)
  /-- TEND (R179). -/
  | tend
  /-- The trap handler between records (R118). -/
  | record
  deriving DecidableEq, Repr

/-- Strand states (R143). -/
inductive StrandState where
  | unused
  | running
  | runnable
  | stalled
  | waiting (w : Wait)
  | stopped
  deriving DecidableEq, Repr

/-- A reservation (R95): the physical address of an 8-byte granule and the scope of the LR. -/
structure Resv where
  /-- Granule address. -/
  pa : Nat
  /-- SCOPE of the LR. -/
  scope : Nat
  deriving DecidableEq, Repr

/-- A strand (R143). -/
structure Strand where
  /-- State. -/
  st : StrandState
  /-- Lanes of the strand. -/
  mask : LaneMask
  /-- Header address of the next clause to start. -/
  pc : Nat
  /-- Age in cycles (R150). -/
  age : Nat
  /-- Reservation, if one is held (R95). -/
  resv : Option Resv
  /-- Instructions issued since the LR (R150). -/
  since : Nat
  /-- The condition of a wait has become true; the strand is to wake (R152). -/
  woken : Bool
  /-- Clause header of the instruction that put the strand into its wait. -/
  waitHdr : Nat
  /-- What the release half of the issuing instruction still waits for, as captured when it first tried to issue (R88):
  3n for operation n, 3n + 1 for write-queue entry n, 3n + 2 for message n. -/
  rel : Option (List Nat)
  /-- The clause that put the strand into its wait had TB: it takes TEND when it goes on (R49). -/
  tend : Bool
  /-- The cycle of the wait's limit has ended with its condition still false (R158, R245). -/
  expired : Bool
  deriving DecidableEq, Repr

/-- The clause a wave has started (R54): its header, and its instructions not yet issued. -/
structure Clause where
  /-- Header address. -/
  addr : Nat
  /-- Header fields. -/
  hdr : Header
  /-- Instruction words still to issue, in order. -/
  rest : List Dword
  /-- The issuing strand. -/
  strand : Nat
  deriving DecidableEq, Repr

/-- A future handle (R246): state code and operation. -/
structure Handle where
  /-- 0 empty, 1 pending, 2 faulted, 3 complete, 4 cancelled. -/
  code : Nat
  /-- The operation, where pending or faulted. -/
  op : Nat
  /-- Scope of the operation's destination (R99). -/
  scope : Nat
  deriving DecidableEq, Repr

/-- States of a state map's chunk (R300). -/
inductive ChunkState where
  | opened
  | overflowed
  | exited
  deriving DecidableEq, Repr

/-- A chunk of the Carillon held by an sm register (R299, R300). -/
structure Chunk where
  /-- State. -/
  st : ChunkState
  /-- Crew mode (CENUM.crew). -/
  crewMode : Bool
  /-- Carry base register and count of the carry set. -/
  base : Nat
  /-- Number of carry registers. -/
  n : Nat
  /-- Entry states E. -/
  e : Nat
  /-- Live lanes. -/
  live : LaneMask
  /-- Lanes' lineages, newest segment first (R302). -/
  lineage : Tab (List Nat)
  /-- The 128 map entries. -/
  map : Tab Dword
  /-- This wave's place among the chunk's waves, and their number (R299). -/
  q : Nat
  /-- Number of wave maps. -/
  m : Nat
  /-- The model's number of the chunk, one for all waves of a crew-mode chunk. -/
  num : Nat
  deriving DecidableEq, Repr

/-- A wave (R46, R142). -/
structure Wave where
  /-- The wave issues and holds resources; false once it has retired (R144). -/
  live : Bool
  /-- Lanes that have not ended (R144). -/
  lanes : LaneMask
  /-- The four strands. -/
  strands : Tab Strand
  /-- The clause in progress. -/
  clause : Option Clause
  /-- v registers: key 128 * register + lane; unlisted reads 0. -/
  vr : Tab Word
  /-- s registers; unlisted reads 0. -/
  sr : Tab Word
  /-- p1 to p7; unlisted reads 0. p0 is not held: it reads all ones (R46). -/
  pr : Tab LaneMask
  /-- Flag counts; unlisted reads 0. -/
  fl : Tab Nat
  /-- Handles; unlisted is empty. -/
  hd : Tab Handle
  /-- Tile names bound to physical tiles (R280). -/
  tiles : Tab Nat
  /-- Expansion names bound to slots (R320). -/
  exps : Tab Nat
  /-- Order register (R318). -/
  xo : Nat
  /-- Bound state maps (R299). -/
  sm : Tab Chunk
  /-- Blocks held, and the physical segment of each (R141). -/
  seg : Tab Nat
  /-- Released segments with the operations that still write into them (R164). -/
  segRet : List (Nat × List Nat)
  /-- Lane marks (R84); unlisted is 0. -/
  marks : Tab Nat
  /-- Task entry clause (R166). -/
  entry : Nat
  /-- The wave took part in the task from its start (R167). -/
  inTask : Bool
  /-- Widest scope of the engine completions counted down on a flag, which a flag wait acquires (R99); unlisted is 0. -/
  facq : Tab Nat
  /-- The strand that yielded, chosen only if no other is runnable (R149). -/
  yieldedStrand : Option Nat
  /-- The wave has yielded, or is no longer parked, and is offered again after every other ready wave of its scheduler: the slots
  that have started a clause since (R148, R151). -/
  givenWay : Option (List Nat)
  /-- The wave is parked (R151). -/
  parked : Bool
  deriving DecidableEq, Repr

/-- Where an element of an access stands. -/
inductive ElemState where
  /-- In the issue queue. -/
  | pending
  /-- Performed; for a store at pod or wider, in the write queue until drained (R82). -/
  | performed
  /-- Complete (R82). -/
  | complete
  /-- Sent over the link under a message number (R366). -/
  | remote (msgno : Nat)
  deriving DecidableEq, Repr

/-- One element: one access of one lane (R79, R213). -/
structure Elem where
  /-- The lane; in the uniform form the lowest lane. -/
  lane : Nat
  /-- The lanes the access counts for: all active ones in the uniform form (R213). -/
  mask : LaneMask
  /-- Address as formed (R64): virtual, or scratchpad. -/
  va : Nat
  /-- Physical address (device), as translated at issue. -/
  pa : Nat
  /-- Bytes. -/
  w : Nat
  /-- Data to store or combine. -/
  data : Nat
  /-- New value of .cas. -/
  data2 : Nat
  /-- Destination registers, low word first: 128 * v + lane, or 32768 + s. -/
  dst : List Nat
  /-- The open Carillon segment of the lane, for a write (R301). -/
  seg : Option Nat
  /-- State. -/
  st : ElemState
  deriving DecidableEq, Repr

/-- States of an operation (R252, R336). -/
inductive OpState where
  | queued
  | active
  | frozen
  | faulted
  deriving DecidableEq, Repr

/-- A long-latency operation in flight, or a transform request in service. -/
structure Op where
  /-- Issuing crew. -/
  crew : Nat
  /-- Issuing wave. -/
  wave : Nat
  /-- Issuing strand. -/
  strand : Nat
  /-- Task attempt that issued it (R56). -/
  attempt : Nat
  /-- Context. -/
  ctx : Nat
  /-- Header of the issuing clause (R170). -/
  hdr : Nat
  /-- The instruction. -/
  instr : Instr
  /-- Lanes it acts for. -/
  lanes : LaneMask
  /-- Selected flag. -/
  flag : Nat
  /-- State. -/
  st : OpState
  /-- Epoch stamp (R100). -/
  epoch : Nat
  /-- Value of A. -/
  av : Nat
  /-- Value of B. -/
  bv : Nat
  /-- Value of C. -/
  cv : Nat
  /-- Value of D where D is a source. -/
  dv : Nat
  /-- The register group at B or C (format block, parameter block, coordinates). -/
  blk : List Word
  /-- v operands captured at issue, key 128 * (operand register) + lane. -/
  vcap : Tab Word
  /-- Order register at issue (R323). -/
  xo : Nat
  /-- Elements of an access. -/
  elems : List Elem
  /-- Destination registers the operation may still write (R178, R164). -/
  dsts : List Nat
  /-- Source bytes already read, keyed by address (R91): scratchpad at 2 * a, device at 2 * pa + 1. -/
  buf : Tab Byte
  /-- Captured shape record or request block. -/
  cap : List Byte
  /-- Captured tile scale (R260). -/
  scale : Word
  /-- Captured row list of CPYG (R269). -/
  rows : List Nat
  /-- Resume offset in bytes, or chunks completed of an MMAS. -/
  off : Nat
  /-- Stream length in bytes. -/
  len : Nat
  /-- Device lines owned (R90). -/
  lines : List Nat
  /-- Engine queue entry (R114). -/
  entry : Nat
  /-- Physical tile or expansion slot acted on. -/
  phys : Nat
  /-- Second physical slot; of an operation in an engine's queue entry, one more than the handle bound to it at issue, 0 for none
  (R114). -/
  phys2 : Nat
  /-- What a fence waits for: numbered as in a strand's `rel` (R88). -/
  waits : List Nat
  /-- Dies or cores still to drop (R362, R364), live blocks executed (R281), instructions issued since an LR, with it, and
  2^32 where its strand is no more (R150), or the
  widest scope of the frames a copy has written (R255). -/
  count : Nat
  deriving DecidableEq, Repr

/-- A line of an L1 (R78). -/
structure Line where
  /-- Line number: physical address / 256. -/
  line : Nat
  /-- Valid bytes and their values, by offset in the line. -/
  bytes : Tab Byte
  /-- Scope tag, recorded as core (2), package (5), gang (6) or system (7) (R81). -/
  tag : Nat
  /-- Owning crew of a line a versioned task wrote (R97). -/
  crew : Option Nat
  /-- Wave and lane of an enumerated lane's line (R302). -/
  lane : Option (Nat × Nat)
  deriving DecidableEq, Repr

/-- A write-queue entry (R78, R170). -/
structure WEntry where
  /-- Its number, for fences. -/
  id : Nat
  /-- The address as formed. -/
  va : Nat
  /-- Physical address. -/
  pa : Nat
  /-- Bytes, lowest address first. -/
  bytes : List Byte
  /-- Scope. -/
  scope : Nat
  /-- Crew. -/
  crew : Nat
  /-- Wave. -/
  wave : Nat
  /-- Strand. -/
  strand : Nat
  /-- Task attempt. -/
  attempt : Nat
  /-- The task was irrevocable at issue: the entry drains directly. -/
  direct : Bool
  /-- Carillon segment of the writing lane (R301). -/
  seg : Option Nat
  /-- Operation and element to complete at the drain, for a store at pod or wider (R82). -/
  op : Option (Nat × Nat)
  /-- Issuing clause. -/
  hdr : Nat
  /-- Epoch stamp (R100). -/
  epoch : Nat
  /-- Context. -/
  ctx : Nat
  deriving DecidableEq, Repr

/-- A trap record in a coalescer or a ring (R174). -/
structure TrapRec where
  /-- WAVES. -/
  waves : Nat
  /-- ADDR. -/
  addr : Nat
  /-- CREW. -/
  crew : Nat
  /-- TASK. -/
  task : Nat
  /-- COUNT. -/
  count : Nat
  /-- CORE. -/
  core : Nat
  /-- STOP. -/
  stop : Bool
  /-- EV. -/
  ev : Bool
  /-- IRR. -/
  irr : Bool
  /-- CLASS. -/
  cls : Nat
  /-- ENTRY. -/
  entry : Nat
  /-- CAUSE. -/
  cause : Nat
  /-- Context the record belongs to. -/
  ctx : Nat
  /-- Kernel of the record (R175). -/
  kernel : Nat
  /-- The stopped tasks: crew of the package's table, wave, attempt. -/
  who : List (Nat × Nat × Nat)
  /-- The trap was raised by the context's own trap handler (R177). -/
  own : Bool
  /-- Number in the order in which the package's records are opened (R176). -/
  opened : Nat
  deriving DecidableEq, Repr

/-- A physical accumulator tile (R280, R281). -/
structure Tile where
  /-- INT32 rather than FP32. -/
  int : Bool
  /-- Elements, key 128 * i + n; unlisted reads 0. -/
  el : Tab Word
  /-- Side doublewords; unlisted reads 0. -/
  side : Tab Dword
  /-- A name is bound to it. -/
  bound : Bool
  /-- The operations that still had to complete when it was unbound: it is free after them (R280). -/
  after : List Nat
  deriving DecidableEq, Repr

/-- An expansion slot and its descriptor (R318, R319). -/
structure Exp where
  /-- Words; unlisted reads 0. -/
  w : Tab Word
  /-- KIND. -/
  kind : Nat
  /-- ORD. -/
  ord : Nat
  /-- CX. -/
  cx : Word
  /-- CY. -/
  cy : Word
  /-- CZ. -/
  cz : Word
  /-- RAD. -/
  rad : Word
  /-- A name is bound to it. -/
  bound : Bool
  /-- The operations that still had to complete when it was unbound: it is free after them (R320). -/
  after : List Nat
  deriving DecidableEq, Repr

/-- A range of the range scoreboard (R92, R254): crew, start, length, operation. -/
structure Range where
  /-- Crew whose scratchpad it is. -/
  crew : Nat
  /-- First byte. -/
  lo : Nat
  /-- Bytes. -/
  len : Nat
  /-- The copy. -/
  op : Nat
  deriving DecidableEq, Repr

/-- What the waves of a core share. -/
structure Core where
  /-- L1 lines. -/
  l1 : List Line
  /-- Write queue, oldest first. -/
  wq : List WEntry
  /-- Invalidation queue: (line, number), oldest first. -/
  inv : List (Nat × Nat)
  /-- Number of the next invalidation entry (R78). -/
  invNext : Nat
  /-- Scratchpad size in 256 KiB steps; 0 before the first crew (R129). -/
  split : Nat
  /-- Range scoreboard. -/
  ranges : List Range
  /-- RBACQ requests in order: crew, wave, strand (R163). -/
  rbq : List (Nat × Nat × Nat)
  /-- Physical tiles in use. -/
  tiles : Tab Tile
  /-- Expansion slots in use. -/
  exps : Tab Exp
  /-- Shape-record cache: context, record address, bytes (R262). -/
  shapes : List (Nat × Nat × List Byte)
  /-- Cached clauses: context, header address, words with the header first (R360). -/
  code : List (Nat × Nat × List Dword)
  /-- Open coalescer records, oldest first (R175). -/
  recs : List TrapRec
  /-- Traps held while every record is open (R175). -/
  heldTraps : List TrapRec
  /-- Slot of the wave that last started a clause, per scheduler (R148). -/
  last : Tab Nat
  deriving DecidableEq, Repr

/-- A held or queued reduction (R94, R97). -/
structure RedEntry where
  /-- Physical address. -/
  pa : Nat
  /-- The address as formed. -/
  va : Nat
  /-- OP. -/
  op : Nat
  /-- AT. -/
  ty : Nat
  /-- The combined value u. -/
  data : Nat
  /-- Issuing crew. -/
  crew : Nat
  /-- Operation and element to complete when applied (R82). -/
  done : Option (Nat × Nat)
  /-- Epoch stamp. -/
  epoch : Nat
  /-- Context. -/
  ctx : Nat
  deriving DecidableEq, Repr

/-- A Carillon segment (R301): open or sealed; committed and discarded ones are gone. -/
structure Segment where
  /-- Sealed. -/
  sealed : Bool
  /-- Bytes written, by physical address. -/
  bytes : Tab Byte
  /-- Held reductions. -/
  reds : List RedEntry
  /-- Link to the continuing segment (R303). -/
  link : Option Nat
  /-- The chunk it was opened for (R315; the model's number of it). -/
  chunk : Nat
  deriving DecidableEq, Repr

/-- Task states (R169). -/
inductive TaskState where
  | versioned
  | irrevocable
  | stopped
  | saved
  deriving DecidableEq, Repr

/-- A crew (R140). -/
structure Crew where
  /-- Context. -/
  ctx : Nat
  /-- Kernel of the package's table. -/
  kernel : Nat
  /-- Crew index within the kernel. -/
  idx : Nat
  /-- Core. -/
  core : Nat
  /-- First wave slot. -/
  base : Nat
  /-- Waves. -/
  nw : Nat
  /-- Logical scratchpad blocks to physical blocks (R141). -/
  blocks : Tab Nat
  /-- Scratchpad bytes; unlisted reads 0. -/
  sp : Tab Byte
  /-- PHASE of the implicit barrier (R235). -/
  barPhase : Nat
  /-- PENDING of the implicit barrier. -/
  barPending : Nat
  /-- Waves that arrived in the current phase. -/
  arrived : List Nat
  /-- Task state. The state `ending` of R169 is a versioned or irrevocable task with a wave waiting at TEND. -/
  task : TaskState
  /-- TASK (R68). -/
  taskIdx : Nat
  /-- Attempt number, for R56. -/
  attempt : Nat
  /-- Version bytes, by physical address (R97). -/
  ver : Tab Byte
  /-- Held reductions of the version. -/
  held : List RedEntry
  /-- Lines of which an engine of the task has written all 256 bytes into the version: they are not poisoned for the crew, and
  no longer poisoned once it commits (R97, R265). -/
  mended : List Nat
  /-- Segment table (R301). -/
  segs : Tab Segment
  /-- Waves. -/
  waves : Tab Wave
  /-- The state of the task before it was stopped or saved (R169, R173). -/
  savedTask : TaskState
  /-- A restart waits for clause boundaries, accesses or register segments (R167, R168). -/
  restarting : Bool
  /-- A vacate in save mode has stopped the crew: it is being frozen (R107). -/
  freezing : Bool
  /-- The Tabor count of that vacate, for the save image (R109). -/
  vacated : Nat
  deriving DecidableEq, Repr

/-- Kernel states (R134). -/
inductive KState where
  | started
  | waiting
  | running
  | retiring
  | complete
  | failed
  deriving DecidableEq, Repr

/-- A kernel: its launch record as taken (R125, R126) and its progress (R134). -/
structure Kernel where
  /-- Context. -/
  ctx : Nat
  /-- Queue. -/
  queue : Nat
  /-- IMAGE. -/
  image : Nat
  /-- ARGS. -/
  args : Nat
  /-- ARGSZ. -/
  argsz : Nat
  /-- The argument block's words, as read when the launch started. -/
  argw : List Word
  /-- CREWS. -/
  crews : Nat
  /-- WAVES. -/
  waves : Nat
  /-- REGS. -/
  regs : Nat
  /-- SCRATCH in 16 KiB blocks. -/
  scratch : Nat
  /-- SPLIT. -/
  split : Nat
  /-- MODE: pinned. -/
  pinned : Bool
  /-- VACATE: save. -/
  save : Bool
  /-- NOIRREV. -/
  noirrev : Bool
  /-- ECLASS. -/
  eclass : Nat
  /-- WALK. -/
  walk : Bool
  /-- WALKRED. -/
  walkred : Nat
  /-- DONE address. -/
  done : Nat
  /-- START. -/
  start : Nat
  /-- GANGN. -/
  gangn : Nat
  /-- RANK. -/
  rank : Nat
  /-- VCAP in KiB, 0 meaning 256. -/
  vcap : Nat
  /-- Level words 3 to 7. -/
  levels : List Nat
  /-- GRAPH. -/
  graph : Nat
  /-- Address of the image's data section, or 0 (R124). -/
  data : Nat
  /-- ROLES address. -/
  rolesAt : Nat
  /-- State. -/
  st : KState
  /-- Unplaced crews by die, ascending (R130), or by role in pinned mode (R131). -/
  unplaced : Tab (List Nat)
  /-- Requeued crews by die or role, ahead of the unplaced ones (R130, R132). -/
  requeued : Tab (List Nat)
  /-- Role bindings (R131). -/
  bind : Tab Nat
  /-- The distributor's copy of the group binding table, entry by entry; empty in interleaved mode (R131, R132). -/
  roles : List Nat
  /-- The instance of its domain that holds each group a crew of which has been placed (R128): key 2^40 * (level - 3) + group. -/
  groups : Tab Nat
  /-- Tiles not handed out (R133). -/
  tiles : List Nat
  /-- Crews placed once already. -/
  placed : List Nat
  /-- The die or role that owns a placed crew, by crew index (R130, R132). -/
  owner : Tab Nat
  /-- Requeued crews: task index and the task entry of each wave live in the task, by crew index (R106, R167). -/
  restarts : Tab (Nat × Tab Nat)
  /-- Numbers the placed crews had in the package's table (the model's own). -/
  ids : List Nat
  /-- Crews that ended normally (R135). -/
  doneCrews : Nat
  /-- STATUS of a failed kernel. -/
  status : Nat
  /-- CAUSE. -/
  cause : Nat
  /-- DETAIL. -/
  detail : Nat
  /-- TIME: Tabor count when it left running or started. -/
  time : Nat
  /-- The completion record has been written. -/
  recorded : Bool
  /-- The cycle in which its last crew ended (R134). -/
  endCycle : Nat
  /-- The message that takes its completion record to another package (R366). -/
  recording : Option Nat
  /-- Microjoules attributed to its crews and their engine operations (R135). -/
  energy : Nat
  deriving DecidableEq, Repr

/-- What the previous command of a queue or graph was, for SERIAL (R119). -/
inductive CmdRef where
  | none
  | kernel (k : Nat)
  | replay (r : Nat)
  /-- A signal on its way to another package under a message number (R121). -/
  | signal (msgno : Nat)
  deriving DecidableEq, Repr

/-- Queue states (R120). -/
inductive QState where
  | disabled
  | idle
  | ready
  | blocked
  | halted
  deriving DecidableEq, Repr

/-- A hardware queue (R119, R378). -/
structure Queue where
  /-- BASE. -/
  base : Nat
  /-- SIZE. -/
  size : Nat
  /-- PRIO. -/
  prio : Nat
  /-- RIDX. -/
  ridx : Nat
  /-- WIDX. -/
  widx : Nat
  /-- State. -/
  st : QState
  /-- Previous command. -/
  prev : CmdRef
  deriving DecidableEq, Repr

/-- A replay in progress (R138). -/
structure Replay where
  /-- Context. -/
  ctx : Nat
  /-- Queue. -/
  queue : Nat
  /-- Graph record address. -/
  graph : Nat
  /-- NODES. -/
  nodes : Nat
  /-- Snapshot of the 256 parameters; none until the replay has started. -/
  snap : Option (List Nat)
  /-- Next node. -/
  next : Nat
  /-- Previous node's command. -/
  prev : CmdRef
  /-- Commands of the nodes started. -/
  started : List CmdRef
  deriving DecidableEq, Repr

/-- A transform ring (R271). -/
structure Ring where
  /-- Die. -/
  die : Nat
  /-- Request ring. -/
  req : Nat
  /-- Completion ring. -/
  comp : Nat
  /-- k: 2^k slots. -/
  k : Nat
  /-- Read index. -/
  ridx : Nat
  /-- WIDX. -/
  widx : Nat
  /-- CMD. -/
  cmd : Nat
  /-- STAT. -/
  stat : Nat
  /-- Requests that halt the ring, oldest first: slot and operation. -/
  halted : List (Nat × Nat)
  /-- Slots in service: slot number and operation. -/
  busy : Tab Nat
  /-- Slots that ended with a status and detail, USER, WAKE and the epoch stamp (R100), not yet recorded. -/
  ended : Tab (Nat × Nat × Dword × Nat × Nat)
  /-- Core that last kicked the ring. -/
  core : Nat
  /-- Crew that last kicked the ring by KICK (R167). -/
  crew : Option Nat
  /-- Free-running index before which every request is within the ring (R275). -/
  limit : Nat
  deriving DecidableEq, Repr

/-- Context states (R103). -/
inductive CtxState where
  | absent
  | created
  | loaded
  | runnable
  | running
  | frozen
  | saved
  | restoring
  | lost
  | destroyed
  deriving DecidableEq, Repr

/-- A save image: the crew it holds, the frozen operations, where it lies, and the cores' parts (R109). -/
structure Image where
  /-- The crew, waves included. -/
  crew : Crew
  /-- Its number in the package's table. -/
  id : Nat
  /-- Byte offset in the save area and length. -/
  off : Nat
  /-- Length in bytes. -/
  len : Nat
  /-- Tiles by wave * 8 + name. -/
  tiles : Tab Tile
  /-- Expansions by wave * 16 + name. -/
  exps : Tab Exp
  /-- What has come about since for its strands that wait: wave, strand, and whether the barrier was broken or initialised under it (R236)
  rather than its wake word written (R244). -/
  news : List (Nat × Nat × Bool)
  deriving DecidableEq, Repr

/-- A context (R102). -/
structure Context where
  /-- State. -/
  st : CtxState
  /-- Page-table root. -/
  root : Nat
  /-- Save area. -/
  saveBase : Nat
  /-- Its size in bytes. -/
  saveSize : Nat
  /-- Trap ring base. -/
  trapRing : Nat
  /-- Records written. -/
  trapW : Nat
  /-- Records released. -/
  trapR : Nat
  /-- Records in the ring not yet finished: slot address, record, host told. -/
  trapRecs : List (Nat × TrapRec × Bool)
  /-- Trap handler: crew and wave. -/
  handler : Option (Nat × Nat)
  /-- The handler registered with the images and not yet placed (R104): its kernel's image, crew index and wave. -/
  handlerName : Option (Nat × Nat × Nat)
  /-- ENGQ. -/
  engq : Word
  /-- TRAPREC. -/
  traprec : Dword
  /-- The handler holds the record TRAPREC addresses. -/
  inHand : Bool
  /-- EACCT. -/
  eacct : Nat
  /-- Current epoch (R100). -/
  epoch : Nat
  /-- Quarantined frames with entry epochs, oldest first. -/
  quarantine : List (Nat × Nat)
  /-- Releases waiting for room in the quarantine queue. -/
  releases : List Nat
  /-- Free ring: retired frames in order. -/
  freeRing : List Nat
  /-- Queues. -/
  queues : Tab Queue
  /-- Registered images. -/
  images : List Nat
  /-- Function the context is assigned to (R376). -/
  fn : Nat
  /-- EBUDGET. -/
  ebudget : Nat
  /-- CEVBASE. -/
  cevBase : Nat
  /-- CEVWIDX. -/
  cevW : Nat
  /-- CEVRIDX. -/
  cevR : Nat
  /-- Transform rings. -/
  rings : Tab Ring
  /-- A destroy is held (R105). -/
  destroyHeld : Bool
  /-- Frames the destroy releases. -/
  frames : List Nat
  /-- Save images. -/
  saves : List Image
  /-- Words written by ENGWR: key 16 * selector + word; for an entry in use also 2^40 * (operation + 1) + word (R117). -/
  engWords : Tab Dword
  /-- CLAVE, less BUSY: LATE, LAST and SEQ, from 0 at creation (R374). -/
  clave : Nat
  deriving DecidableEq, Repr

/-- A translation-cache entry (R357). -/
structure Tlb where
  /-- Die. -/
  die : Nat
  /-- Context. -/
  ctx : Nat
  /-- First virtual address. -/
  va : Nat
  /-- Page size. -/
  size : Nat
  /-- First physical address. -/
  pa : Nat
  /-- R. -/
  r : Bool
  /-- W. -/
  w : Bool
  /-- X. -/
  x : Bool
  deriving DecidableEq, Repr

/-- A page walk in flight (R356). -/
structure Walk where
  /-- Die. -/
  die : Nat
  /-- Context. -/
  ctx : Nat
  /-- Virtual address. -/
  va : Nat
  /-- Level of the entry to read next. -/
  level : Nat
  /-- Table to read it from. -/
  table : Nat
  /-- Epoch stamp. -/
  epoch : Nat
  /-- The leaf, once read. -/
  leaf : Option Tlb
  /-- It was begun for an instruction about to issue or a clause about to be fetched, which it is the walk of. -/
  own : Bool
  /-- The trap cause of such a walk that has met an entry it cannot use. -/
  fault : Option Nat
  deriving DecidableEq, Repr

/-- Port states (R369, codes of R370). -/
inductive PortState where
  | down
  | training
  | up
  | degraded
  | retrying
  | failed
  deriving DecidableEq, Repr

/-- A link message (R366). -/
structure Msg where
  /-- KIND. -/
  kind : Nat
  /-- SRC package. -/
  src : Nat
  /-- DST package. -/
  dst : Nat
  /-- MSGNO. -/
  no : Nat
  /-- ADDR. -/
  addr : Nat
  /-- Words after the header. -/
  data : List Word
  deriving DecidableEq, Repr

/-- A link port (R368 to R371). -/
structure Port where
  /-- STATE. -/
  st : PortState
  /-- State to return to after retrying. -/
  prior : PortState
  /-- LANES. -/
  lanes : Nat
  /-- PSTAT.CMP. -/
  cmp : Bool
  /-- CMP as fixed at the last training. -/
  cmpOn : Bool
  /-- REPLAYS. -/
  replays : Nat
  /-- RETRAINS. -/
  retrains : Nat
  /-- SEQ of the next flit formed. -/
  seq : Nat
  /-- SEQ of the last flit accepted from the peer. -/
  rxSeq : Nat
  /-- NAK sent and the expected flit not yet seen. -/
  nakSent : Bool
  /-- A NAK is to be sent with the next flit. -/
  nakDue : Bool
  /-- Replay buffer: SEQ and the flit as sent, oldest first. -/
  buf : List (Nat × List Byte)
  /-- Flits of the buffer still to resend. -/
  resend : Nat
  /-- Flit whose ACK ends the retry. -/
  resendFirst : Nat
  /-- Resends without ACK progress. -/
  tries : Nat
  /-- Sender's compression table. -/
  tx : Tab Word
  /-- Receiver's compression table. -/
  rx : Tab Word
  /-- Words of the message stream queued to send. -/
  out : List Word
  /-- Messages queued or unacknowledged, by number (R369). -/
  msgs : List Msg
  /-- Received words not yet a whole message. -/
  inw : List Word
  deriving DecidableEq, Repr

/-- What a message sent by this package is to complete: operation, element. -/
structure Pend where
  /-- The message. -/
  msg : Msg
  /-- The strand it is for, if any: crew, wave, strand. -/
  who : Option (Nat × Nat × Nat)
  /-- Task attempt of that strand. -/
  attempt : Nat
  /-- The access address as formed. -/
  va : Nat
  /-- Bytes it reads or writes. -/
  n : Nat
  /-- Operation. -/
  op : Nat
  /-- Element. -/
  elem : Nat
  /-- Core, for step 3 of R88. -/
  core : Nat
  /-- Epoch stamp. -/
  epoch : Nat
  /-- Context. -/
  ctx : Nat
  /-- The write-queue entry it drains, for steps 2 and 3 of R88. -/
  entry : Nat
  deriving DecidableEq, Repr

/-- A host event (R112). -/
structure Event where
  /-- TIME. -/
  time : Nat
  /-- OFFSET. -/
  offset : Nat
  /-- CTX. -/
  ctx : Nat
  /-- CODE. -/
  code : Nat
  /-- KIND. -/
  kind : Nat
  deriving DecidableEq, Repr

/-- What leaves the package. -/
inductive Out where
  /-- A flit on a port. -/
  | flit (port : Nat) (bytes : List Byte)
  /-- MSI-X vector 0 of a function (R380). -/
  | msix (fn : Nat)
  /-- A write to host memory (R81). -/
  | hostWrite (addr : Nat) (bytes : List Byte)
  /-- A read's value returned to a master. -/
  | value (v : Nat)
  /-- Bytes returned to a master: a report or an aperture read. -/
  | bytes (b : List Byte)
  /-- The management controller is told of an emergency stop (R383). -/
  | stopNotice
  deriving DecidableEq, Repr

/-- Which agent moves next (log 1). -/
inductive Turn where
  /-- An event of the opcode table. -/
  | event (i : Instr)
  /-- The next instruction of a wave's started clause issues. -/
  | issue (crew wave : Nat)
  /-- Time passes: cycles of the arithmetic clock and nanoseconds of the Tabor counter. -/
  | tick (cycles ns : Nat)
  /-- A core's clause cache loses its n-th clause (R360 gives no rule of replacement; log 35). -/
  | forget (core n : Nat)
  /-- The host reads a register through a function's BAR0 or BAR2 (R376; the opcode table names only its writes). -/
  | hostRead (fn bar offset : Nat)
  /-- An element's read suffers an uncorrectable error (R219; log 64). -/
  | readError (op elem : Nat)
  /-- The oldest of the programs' stores to a register window reaches it (R378; log 63). -/
  | windowWrite
  deriving DecidableEq, Repr

/-- The state of the package. -/
structure State where
  /-- The turns to come (the model's own; log 1). -/
  agenda : List Turn
  /-- The strand whose instruction is issuing (the model's own). -/
  cur : Option Cursor
  /-- Counter behind free values (the model's own; log 5). -/
  fresh : Nat
  /-- Number of the next operation, write-queue entry, crew, kernel or replay (the model's own). -/
  next : Nat
  /-- Status of the last host request: 0 done, 1 wrong state (R104). -/
  status : Nat
  /-- What has left the package, newest first (the model's own). -/
  outbox : List Out
  /-- Stores of programs on their way to a context's register window: context, offset, bytes, core (R378; the model's own, log 63). -/
  winWrites : List (Nat × Nat × List Byte × Nat)
  /-- Cycles of the arithmetic clock. -/
  cycle : Nat
  /-- TABOR (R68, R372). -/
  tabor : Dword
  /-- Nanoseconds by which the counter is ahead of its master (R372). -/
  ahead : Nat
  /-- At half rate, half a nanosecond has been counted (R372). -/
  slowHalf : Bool
  /-- Committed bytes of HBM, by physical address (R78). -/
  mem : Tab Byte
  /-- Poisoned blocks, by physical address / 256 (R265). -/
  poison : List Nat
  /-- Sharer cores of a line (R87). -/
  sharers : Tab (List Nat)
  /-- Engine ownership table of a line: operations in order (R90). -/
  owners : Tab (List Nat)
  /-- Reduction queues of the memory partitions (R94). -/
  reds : List RedEntry
  /-- Operations in flight. -/
  ops : Tab Op
  /-- Result elements that waits are still to write, with the crew, wave and strand that waits (R178). -/
  waitDst : List (Nat × Nat × Nat × Nat)
  /-- Crews. -/
  crews : Tab Crew
  /-- Cores. -/
  cores : Tab Core
  /-- Contexts. -/
  ctxs : Tab Context
  /-- Kernels. -/
  kernels : Tab Kernel
  /-- Replays in progress. -/
  replays : Tab Replay
  /-- Per die, the number (context * 64 + queue) that its distributor last took a crew from, plus 1 (R122). -/
  rotor : Tab Nat
  /-- Translation caches. -/
  tlb : List Tlb
  /-- Page walks in flight. -/
  walks : List Walk
  /-- Pool pages in quarantine: pool descriptor address (virtual), page, context, entry epoch (R346). -/
  poolQ : List (Nat × Nat × Nat × Nat)
  /-- Pool pages whose release waits for room in their context's quarantine queue (R359): descriptor, page, context. -/
  poolWait : List (Nat × Nat × Nat)
  /-- CLAVE.BUSY. -/
  claveBusy : Bool
  /-- The cycle of the firing that set it (R374). -/
  claveSince : Nat
  /-- The cycle of the last firing by the host. -/
  claveHost : Option Nat
  /-- Gang firings scheduled: tick, and whether SNAP here sent it (R375). -/
  claveTicks : List (Nat × Bool)
  /-- Tabor counts of the latched snapshots. -/
  snaps : List Nat
  /-- Ports. -/
  ports : Tab Port
  /-- MSGNO of the next message. -/
  msgNext : Nat
  /-- Numbers accepted, per source package, newest first (R367). -/
  accepted : Tab (List Nat)
  /-- Messages received and not yet acted on. -/
  inbox : List Msg
  /-- The link request queue: messages sent and not yet acknowledged, by number (R78). -/
  pend : Tab Pend
  /-- Blocks that another package has written here with their guard tags: the 256 bytes and the tag (R366). -/
  tags : Tab (List Byte)
  /-- Packages of the gang. -/
  gang : List Nat
  /-- Its time master. -/
  master : Nat
  /-- Gang aborts held, by START tick (R373). -/
  aborts : List Nat
  /-- Host events held, oldest first (R380). -/
  events : List Event
  /-- EVBASE. -/
  evBase : Nat
  /-- EVWIDX. -/
  evW : Nat
  /-- EVRIDX. -/
  evR : Nat
  /-- PWRLIM. -/
  pwrLim : Nat
  /-- PWRNOW. -/
  pwrNow : Nat
  /-- ENERGY. -/
  energy : Nat
  /-- Energy of each die: compute dies 0 to 3, I/O dies 4 and 5 (R382). -/
  energyDie : Tab Nat
  /-- CLAVETICK. -/
  claveTick : Nat
  /-- The Tabor counter has not yet reached the tick CLAVETICK was last given. -/
  claveArmed : Bool
  /-- BOOTSTAT.STAGE. -/
  stage : Nat
  /-- BOOTSTAT.FWVER. -/
  fwVer : Nat
  /-- BOOTSTAT.ERR. -/
  bootErr : Bool
  /-- BOOTSTAT.HOSTUP. -/
  hostUp : Bool
  /-- Boots so far, which number the per-boot keys (R384). -/
  boots : Nat
  /-- The compute dies are stopped (R383). -/
  stopped : Bool
  /-- Arithmetic clock in MHz (R6, R382). -/
  mhz : Nat
  /-- The clock is lowered and event 0x0071 has been raised for it (R380). -/
  throttled : Bool
  /-- The configuration records and firmware images in flash: key 2 * copy, plus 1 for firmware (R384). -/
  flash : Tab (List Byte)
  /-- The record and image that the package booted with: keys 0 and 1 (R384, R385). -/
  booted : Tab (List Byte)
  /-- CXL devices lost (R380). -/
  cxlLost : List Nat
  deriving DecidableEq, Repr

/-- A register of a wave in the state every wave starts with (R142): an unused strand. -/
def Strand.unused : Strand := ⟨.unused, 0, 0, 0, none, 0, false, 0, none, false, false⟩

/-- A core that has run nothing. -/
def Core.empty : Core where
  l1 := []
  wq := []
  inv := []
  invNext := 1
  split := 0
  ranges := []
  rbq := []
  tiles := []
  exps := []
  shapes := []
  code := []
  recs := []
  heldTraps := []
  last := []

/-- A context number not in use. -/
def Context.absent : Context where
  st := .absent
  root := 0
  saveBase := 0
  saveSize := 0
  trapRing := 0
  trapW := 0
  trapR := 0
  trapRecs := []
  handler := none
  handlerName := none
  engq := 0
  traprec := 0
  inHand := false
  eacct := 0
  epoch := 0
  quarantine := []
  releases := []
  freeRing := []
  queues := []
  images := []
  fn := 0
  ebudget := 0
  cevBase := 0
  cevW := 0
  cevR := 0
  rings := []
  destroyHeld := false
  frames := []
  saves := []
  engWords := []
  clave := 0

/-- A port after power-on (R370). -/
def Port.off : Port where
  st := .down
  prior := .down
  lanes := 0
  cmp := false
  cmpOn := false
  replays := 0
  retrains := 0
  seq := 0
  rxSeq := 4095
  nakSent := false
  nakDue := false
  buf := []
  resend := 0
  resendFirst := 0
  tries := 0
  tx := []
  rx := []
  out := []
  msgs := []
  inw := []

/-- A queue that system software has not set up: disabled (R120). -/
def Queue.off : Queue := ⟨0, 16, 0, 0, 0, .disabled, .none⟩

/-- The package right after power-on reset (R370, R379, R381): nothing booted, no context, memory with nothing
listed. Fields the spec gives no reset value are named in log 4. -/
def State.reset : State where
  agenda := []
  cur := none
  fresh := 0
  next := 0
  status := 0
  outbox := []
  winWrites := []
  cycle := 0
  tabor := 0
  ahead := 0
  slowHalf := false
  mem := []
  poison := []
  sharers := []
  owners := []
  reds := []
  ops := []
  waitDst := []
  crews := []
  cores := []
  ctxs := []
  kernels := []
  replays := []
  rotor := []
  tlb := []
  walks := []
  poolQ := []
  poolWait := []
  claveBusy := false
  claveSince := 0
  claveHost := none
  claveTicks := []
  snaps := []
  ports := []
  msgNext := 0
  accepted := []
  inbox := []
  pend := []
  tags := []
  gang := []
  master := 0
  aborts := []
  events := []
  evBase := 0
  evW := 0
  evR := 0
  pwrLim := 2000
  pwrNow := 0
  energy := 0
  energyDie := []
  claveTick := 0
  claveArmed := false
  stage := 0
  fwVer := 0
  bootErr := false
  hostUp := false
  boots := 0
  stopped := false
  mhz := 600
  throttled := false
  flash := []
  booted := []
  cxlLost := []

end Sys2Proof.Machine
end

