-- ==== Sys2Proof/Machine/Ops.lean ====
section
/-!
DEFINITION. Named operations over the state: reading and changing crews, waves, strands, cores and contexts; registers;
the lanes an instruction acts on; taking a trap (R173 to R175), restarting a task (R167) and returning from a trap
(R118).
-/

namespace Sys2Proof.Machine

open Sys2Proof Host

/-- A turn that the rules do not permit in this state performs nothing (log 2). -/
def hold (s : State) : Outcome State Fault Refusal := .next s

/-- Memory's canonical form: rising addresses and no listed byte equal to what an unlisted one reads as. -/
def Memory.wf (m : Tab Byte) : Bool := Tab.wf 0 m

/-! ## Parts of the state -/

/-- A core; one that has run nothing is empty. -/
def State.core (s : State) (c : Nat) : Core := s.cores.rd Core.empty c

/-- Change a core. -/
def State.modCore (s : State) (c : Nat) (f : Core → Core) : State := { s with cores := s.cores.put c (f (s.core c)) }

/-- A crew. -/
def State.crew? (s : State) (c : Nat) : Option Crew := s.crews.find? c

/-- Change a crew. -/
def State.modCrew (s : State) (c : Nat) (f : Crew → Crew) : State := { s with crews := s.crews.modify c f }

/-- A wave of a crew. -/
def State.wave? (s : State) (c w : Nat) : Option Wave := (s.crew? c).bind (fun cr => cr.waves.find? w)

/-- Change a wave of a crew. -/
def State.modWave (s : State) (c w : Nat) (f : Wave → Wave) : State :=
  s.modCrew c (fun cr => { cr with waves := cr.waves.modify w f })

/-- A strand of a wave. -/
def Wave.strand (w : Wave) (k : Nat) : Strand := w.strands.rd Strand.unused k

/-- Change a strand of a wave. -/
def Wave.modStrand (w : Wave) (k : Nat) (f : Strand → Strand) : Wave := { w with strands := w.strands.put k (f (w.strand k)) }

/-- Change a strand. -/
def State.modStrand (s : State) (c w k : Nat) (f : Strand → Strand) : State :=
  s.modWave c w (fun wv => wv.modStrand k f)

/-- A context; a number not in use is absent. -/
def State.ctx (s : State) (c : Nat) : Context := s.ctxs.rd Context.absent c

/-- Change a context. -/
def State.modCtx (s : State) (c : Nat) (f : Context → Context) : State := { s with ctxs := s.ctxs.put c (f (s.ctx c)) }

/-- Change a kernel. -/
def State.modKernel (s : State) (k : Nat) (f : Kernel → Kernel) : State := { s with kernels := s.kernels.modify k f }

/-- A kernel. -/
def State.kernel? (s : State) (k : Nat) : Option Kernel := s.kernels.find? k

/-- A port. -/
def State.port (s : State) (p : Nat) : Port := s.ports.rd Port.off p

/-- Change a port. -/
def State.modPort (s : State) (p : Nat) (f : Port → Port) : State := { s with ports := s.ports.put p (f (s.port p)) }

/-- An operation in flight. -/
def State.op? (s : State) (o : Nat) : Option Op := s.ops.find? o

/-- Change an operation. -/
def State.modOp (s : State) (o : Nat) (f : Op → Op) : State := { s with ops := s.ops.modify o f }

/-- Send something out of the package. -/
def State.send (s : State) (o : Out) : State := { s with outbox := o :: s.outbox }

/-- Only the side-band port and the console are served (R384). -/
def State.recovering (s : State) : Bool := s.stage == 3

/-- Raise a host event; it is held until a ring slot is free (R380). -/
def State.event (s : State) (kind code ctx offset : Nat) : State :=
  { s with events := s.events ++ [⟨s.tabor.toNat, offset, ctx, code, kind⟩] }

/-- The die of a core (R68). -/
def dieOf (core : Nat) : Nat := core / 64

/-- The pod of a core, counted over the package. -/
def podOf (core : Nat) : Nat := core / 8

/-- The wave slot of a wave of a crew (R140). -/
def Crew.slot (cr : Crew) (w : Nat) : Nat := cr.base + w

/-- Bytes of a crew's scratchpad allocation (R141). -/
def Crew.spadBytes (cr : Crew) : Nat := cr.blocks.length * 16384

/-! ## Lanes -/

/-- Lane `l`'s bit. -/
def laneBit (l : Nat) : LaneMask := BitVec.ofNat 128 (2 ^ l)

/-- The lanes of a mask, ascending. -/
def lanesOf (m : LaneMask) : List Nat := (List.range 128).filter (fun l => m.getLsbD l)

/-- All 128 lanes. -/
def allLanes : LaneMask := BitVec.allOnes 128

/-- A mask from a predicate on lanes. -/
def maskOf (p : Nat → Bool) : LaneMask :=
  BitVec.ofNat 128 ((List.range 128).foldl (fun acc l => if p l then acc + 2 ^ l else acc) 0)

/-- A predicate register: p0 reads all ones (R46). -/
def Wave.p (w : Wave) (n : Nat) : LaneMask := if n = 0 then allLanes else w.pr.rd 0 n

/-- Write a predicate register: writes to p0 are discarded (R46). -/
def Wave.setP (w : Wave) (n : Nat) (v : LaneMask) : Wave := if n = 0 then w else { w with pr := w.pr.wr 0 n v }

/-- The lanes of a strand that an open chunk leaves live (R297). -/
def Wave.chunkLive (w : Wave) : LaneMask :=
  match w.sm.vals.find? (fun c => c.st == .opened || c.st == .overflowed) with
  | some c => c.live
  | none => allLanes

/-- The active lanes of an instruction of strand `k` under its guard (R62, R297). -/
def Wave.active (w : Wave) (k : Nat) (pn : Bool) (pred : Nat) : LaneMask :=
  let g := w.p pred
  (w.strand k).mask &&& w.lanes &&& w.chunkLive &&& (if pn then ~~~g else g)

/-! ## Registers -/

/-- A v register's element (R46). -/
def Wave.v (w : Wave) (r l : Nat) : Word := w.vr.rd 0 (128 * r + l)

/-- An s register (R46). -/
def Wave.s (w : Wave) (n : Nat) : Word := w.sr.rd 0 n

/-- An even/odd pair of v registers in a lane, low half in the even register (R47). -/
def Wave.v64 (w : Wave) (r l : Nat) : Dword := w.v (r + 1) l ++ w.v r l

/-- An even/odd pair of s registers (R47). -/
def Wave.s64 (w : Wave) (n : Nat) : Dword := w.s (n + 1) ++ w.s n

/-- The key of a register element in destination lists: lane of a v register. -/
def vKey (r l : Nat) : Nat := 128 * r + l

/-- The key of an s register in destination lists. -/
def sKey (n : Nat) : Nat := 32768 + n

/-- Write one register element by its key. -/
def Wave.setKey (w : Wave) (k : Nat) (v : Word) : Wave :=
  if k < 32768 then { w with vr := w.vr.wr 0 k v } else { w with sr := w.sr.wr 0 (k - 32768) v }

/-- Read one register element by its key. -/
def Wave.getKey (w : Wave) (k : Nat) : Word := if k < 32768 then w.vr.rd 0 k else w.sr.rd 0 (k - 32768)

/-- Write register elements by their keys, in order. -/
def Wave.setKeys (w : Wave) (l : List (Nat × Word)) : Wave := l.foldl (fun w e => w.setKey e.1 e.2) w

/-- Registers `r` to `r + n - 1` lie in blocks the wave holds (R48). -/
def Wave.holds (w : Wave) (r n : Nat) : Bool := (List.range n).all (fun i => (w.seg.find? ((r + i) / 16)).isSome)

/-- The key of lane `l` of a predicate register in destination lists. -/
def pKey (n l : Nat) : Nat := 65536 + 128 * n + l

/-- The operations of a wave issued before operation `before`, and its strands' waits, no longer write the elements named: the
later writer stands (R178). -/
def State.killDst (s : State) (c w : Nat) (before : Nat) (keys : List Nat) : State :=
  { s with
    ops := s.ops.mapV (fun o op =>
      if op.crew = c && op.wave = w && decide (o < before) && op.dsts.any keys.contains
      then { op with dsts := op.dsts.filter (fun k => !keys.contains k) } else op)
    waitDst := s.waitDst.filter (fun e => !(e.1 == c && e.2.1 == w && keys.contains e.2.2.2)) }

/-- A strand's wait will write result elements: it takes them from everything issued before it (R178). -/
def State.waitFor (s : State) (c w k : Nat) (keys : List Nat) : State :=
  let s1 := s.killDst c w s.next keys
  { s1 with waitDst := s1.waitDst ++ keys.map (fun d => (c, w, k, d)) }

/-- What a wait of strand `k` gives (R158, R245, R248): only the elements that no instruction issued after it has taken (R178). -/
def State.waitWrite (s : State) (c w k : Nat) (l : List (Nat × Word)) : State :=
  let mine (e : Nat × Nat × Nat × Nat) : Bool := e.1 == c && e.2.1 == w && e.2.2.1 == k && (l.map (·.1)).contains e.2.2.2
  let own := (s.waitDst.filter mine).map (fun e => e.2.2.2)
  { s with waitDst := s.waitDst.filter (fun e => !mine e) }.modWave c w (fun wv => wv.setKeys (l.filter (fun e => own.contains e.1)))

/-- A short-latency instruction's register writes: it is later than every operation in flight (R178). -/
def State.writeRegs (s : State) (c w : Nat) (l : List (Nat × Word)) : State :=
  (s.killDst c w s.next (l.map (·.1))).modWave c w (fun wv => wv.setKeys l)

/-- An operation's register writes: only the elements still its own (R164, R178), and only while the attempt that
issued it is the wave's (R56). -/
def State.opWrite (s : State) (o : Nat) (l : List (Nat × Word)) : State :=
  match s.op? o with
  | none => s
  | some op =>
    match s.crew? op.crew with
    | none => s
    | some cr =>
      if cr.attempt ≠ op.attempt then s else
      let mine := l.filter (fun e => op.dsts.contains e.1)
      s.modWave op.crew op.wave (fun wv => wv.setKeys mine)

/-- Two words of a 64-bit register value, low word first. -/
def split64 (v : Nat) : List Word := [BitVec.ofNat 32 v, BitVec.ofNat 32 (v >>> 32)]

/-- The words of an n-word register group, lowest first. -/
def splitWords (n v : Nat) : List Word := (List.range n).map (fun i => BitVec.ofNat 32 (v >>> (32 * i)))

/-! ## The issuing strand -/

/-- The wave whose instruction is issuing. -/
def State.curWave (s : State) : Option (Cursor × Crew × Wave) :=
  match s.cur with
  | none => none
  | some q =>
    match s.crew? q.crew with
    | none => none
    | some cr =>
      match cr.waves.find? q.wave with
      | none => none
      | some w => some (q, cr, w)

/-- The header address of the clause in progress. -/
def Wave.clauseAddr (w : Wave) : Nat := match w.clause with | some c => c.addr | none => 0

/-- The class of the clause in progress. -/
def Wave.clauseCls (w : Wave) : Nat := match w.clause with | some c => c.hdr.cls | none => 0

/-- Change the issuing wave. -/
def State.modCur (s : State) (f : Wave → Wave) : State :=
  match s.cur with | none => s | some q => s.modWave q.crew q.wave f

/-- Change the issuing strand. -/
def State.modCurStrand (s : State) (f : Strand → Strand) : State :=
  match s.cur with | none => s | some q => s.modStrand q.crew q.wave q.strand f

/-- Strands that hold lanes. -/
def Strand.isLive (st : Strand) : Bool := match st.st with | .unused => false | _ => true

/-- The live strands of a wave. -/
def Wave.liveStrands (w : Wave) : List Nat := (List.range 4).filter (fun k => (w.strand k).isLive)

/-! ## Flags and futures as operations end (R56, R246) -/

/-- An operation's completion subtracts 1 from its flag, if the attempt is still the crew's (R56). -/
def State.flagDown (s : State) (op : Op) : State :=
  match s.crew? op.crew with
  | none => s
  | some cr =>
    if cr.attempt ≠ op.attempt then s
    else s.modWave op.crew op.wave (fun w => { w with fl := w.fl.wr 0 op.flag (w.fl.rd 0 op.flag - 1) })

/-- The future bound to an operation takes a state code, and its waiters are to wake (R246). -/
def State.future (s : State) (o code : Nat) : State :=
  { s with crews := s.crews.mapV (fun _ cr => { cr with waves := cr.waves.mapV (fun _ w =>
      if w.hd.any (fun e => e.2.op == o && (e.2.code == 1 || e.2.code == 2)) then
        let hit := (w.hd.filter (fun e => e.2.op == o && (e.2.code == 1 || e.2.code == 2))).map (·.1)
        let w1 := { w with hd := w.hd.mapV (fun _ h => if h.op = o ∧ (h.code = 1 ∨ h.code = 2) then { h with code := code } else h) }
        if code = 3 ∨ code = 4 then
          { w1 with strands := w1.strands.mapV (fun _ st =>
              match st.st with
              | .waiting (.future h _) => if hit.contains h then { st with woken := true } else st
              | _ => st) }
        else w1
      else w) }) }

/-- Release the lines an operation owns (R90). -/
def State.releaseLines (s : State) (o : Nat) (lines : List Nat) : State :=
  { s with owners := lines.foldl (fun t l =>
      let q := (t.rd [] l).filter (· ≠ o)
      if q.isEmpty then t.del l else t.put l q) s.owners }

/-- The physical tile an operation acts on: class X, and ACOMP's dense form (R280). -/
def Op.tileUsed (op : Op) : Option Nat :=
  match op.instr with
  | .acomp f => if f.m 0 then some op.phys else none
  | i => match opcodeOf i with | some (2, _) => some op.phys | _ => none

/-- An operation of the expansion unit. -/
def Op.ofExps (op : Op) : Bool := match opcodeOf op.instr with | some (5, _) => true | _ => false

/-- The operations of a wave in flight that act on a physical tile. -/
def State.tileOps (s : State) (c w p : Nat) : List Nat :=
  (s.ops.filter (fun e => e.2.crew == c && e.2.wave == w && e.2.tileUsed == some p)).map (·.1)

/-- The E operations of a wave in flight. -/
def State.expOps (s : State) (c w : Nat) : List Nat := (s.ops.filter (fun e => e.2.crew == c && e.2.wave == w && e.2.ofExps)).map (·.1)

/-- One of the operations is in flight. -/
def State.anyInFlight (s : State) (l : List Nat) : Bool := l.any (fun o => (s.ops.find? o).isSome)

/-- Tiles and slots that no name is bound to are free once the operations before their release have completed (R280, R320). -/
def State.settleUnits (s : State) (core : Nat) : State :=
  s.modCore core (fun k => { k with
    tiles := k.tiles.filter (fun e => e.2.bound || s.anyInFlight e.2.after)
    exps := k.exps.filter (fun e => e.2.bound || s.anyInFlight e.2.after) })

/-- An operation whose completion can free a tile or a slot. -/
def Op.onUnit (op : Op) : Bool := op.tileUsed.isSome || op.ofExps

/-- Remove an operation: its lines are released and its scoreboard range is dropped, and a tile or slot it was the last to act on is
free. -/
def State.dropOp (s : State) (o : Nat) : State :=
  match s.op? o with
  | none => s
  | some op =>
    let s1 := s.releaseLines o op.lines
    let s2 := { s1 with ops := s1.ops.del o }
    match s2.crew? op.crew with
    | none => s2
    | some cr =>
      let s3 := s2.modCore cr.core (fun k => { k with ranges := k.ranges.filter (fun r => r.op ≠ o) })
      if op.onUnit then s3.settleUnits cr.core else s3

/-- An operation ends: flag down, future complete or cancelled, entry empty. -/
def State.endOp (s : State) (o code : Nat) : State :=
  match s.op? o with
  | none => s
  | some op => ((s.future o code).flagDown op).dropOp o

/-! ## Strands (R143, R149) -/

/-- A strand that could run: runnable, or stalled and to be tried again. -/
def Strand.runs (st : Strand) : Bool := match st.st with | .runnable => true | _ => false

/-- Outstanding M- and C-class operations a strand has issued (R149): those of its slot, also where an earlier strand of the slot issued
them (DESIGN CHOICE, log 78). -/
def State.outstanding (s : State) (c w k : Nat) : Nat :=
  (s.ops.filter (fun e => e.2.crew == c && e.2.wave == w && e.2.strand == k &&
    (match opcodeOf e.2.instr with | some (cls, _) => cls == 1 || cls == 3 | none => false))).length

/-- The runnable strand the wave chooses (R149): age 4,096 or more first, oldest first; then the fewest outstanding
memory operations; then the lower index. A strand that yielded only if no other is runnable. -/
def State.chooseStrand (s : State) (c w : Nat) : Option Nat :=
  match s.wave? c w with
  | none => none
  | some wv =>
    let cand := (List.range 4).filter (fun k => (wv.strand k).runs)
    let others := cand.filter (fun k => wv.yieldedStrand ≠ some k)
    let cand := if others.isEmpty then cand else others
    let old := cand.filter (fun k => decide (4096 ≤ (wv.strand k).age))
    let better (a b : Nat) : Bool :=
      if !old.isEmpty then decide ((wv.strand a).age > (wv.strand b).age)
      else decide (s.outstanding c w a < s.outstanding c w b)
    (if old.isEmpty then cand else old).foldl (fun best k =>
      match best with
      | none => some k
      | some b => if better k b then some k else some b) none

/-- The handler's wave is descheduled: a strand of it waits for a record (R118). -/
def Wave.betweenRecords (wv : Wave) : Bool := (List.range 4).any (fun k => (wv.strand k).st == .waiting .record)

/-- The wave chooses afresh where none of its strands is running: the chosen strand runs with age 0 (R143, R149). A wave
that waits for a trap record runs none (R118). -/
def State.choose (s : State) (c w : Nat) : State :=
  match s.wave? c w with
  | none => s
  | some wv =>
    if (List.range 4).any (fun k => (wv.strand k).st == .running) || wv.betweenRecords then s else
    match s.chooseStrand c w with
    | none => s
    | some k => s.modWave c w (fun wv => { wv.modStrand k (fun st => { st with st := .running, age := 0 }) with yieldedStrand := none })

/-- A strand enters a wait and the wave chooses afresh (R143). -/
def State.enterWait (s : State) (c w k : Nat) (wt : Wait) (hdr : Nat) : State :=
  (s.modStrand c w k (fun st => { st with st := .waiting wt, woken := false, expired := false, waitHdr := hdr })).choose c w

/-! ## Reservations -/

/-- Clear reservations on granules that overlap `[pa, pa + n)`, of the strands that `sel` picks by crew, wave, strand and
reservation. -/
def State.clearResv (s : State) (pa n : Nat) (sel : Nat → Crew → Nat → Nat → Resv → Bool) : State :=
  { s with crews := s.crews.mapV (fun c cr => { cr with waves := cr.waves.mapV (fun w wv =>
      if wv.strands.any (fun e => match e.2.resv with
          | some r => decide (r.pa < pa + n) && decide (pa < r.pa + 8) && sel c cr w e.1 r
          | none => false) then
        { wv with strands := wv.strands.mapV (fun k st =>
            match st.resv with
            | some r => if decide (r.pa < pa + n) && decide (pa < r.pa + 8) && sel c cr w k r then { st with resv := none } else st
            | none => st) }
      else wv) }) }

/-! ## Traps (R172 to R175) -/

/-- Cause numbers (R172). -/
def Cause.illegalEncoding : Nat := 0x01
/-- 0x02. -/
def Cause.illegalConvergence : Nat := 0x02
/-- 0x03. -/
def Cause.barrierUnreachable : Nat := 0x03
/-- 0x04. -/
def Cause.pageFault : Nat := 0x04
/-- 0x05. -/
def Cause.protection : Nat := 0x05
/-- 0x06. -/
def Cause.elementBounds : Nat := 0x06
/-- 0x07. -/
def Cause.misaligned : Nat := 0x07
/-- 0x08. -/
def Cause.guardMismatch : Nat := 0x08
/-- 0x09. -/
def Cause.memoryPoison : Nat := 0x09
/-- 0x0A. -/
def Cause.versionOverflow : Nat := 0x0A
/-- 0x0B. -/
def Cause.staleMergeMap : Nat := 0x0B
/-- 0x0C. -/
def Cause.carillonOverflow : Nat := 0x0C
/-- 0x0D. -/
def Cause.engineFault : Nat := 0x0D
/-- 0x0E. -/
def Cause.arithmeticCheck : Nat := 0x0E
/-- 0x0F. -/
def Cause.breakpoint : Nat := 0x0F
/-- 0x10. -/
def Cause.timeout : Nat := 0x10

/-- The lowest set bit of WAVES. -/
def lowestWave (m : Nat) : Nat := ((List.range 64).find? (fun b => m.testBit b)).getD 64

/-- A stopping trap merges into an open record of its core, opens a new one, or is held in arrival order (R175). -/
def Core.addTrap (k : Core) (r : TrapRec) : Core :=
  let region (a : Nat) : Nat := if decide (0x04 ≤ r.cause) && decide (r.cause ≤ 0x09) then a / 4096 else a
  let same (q : TrapRec) : Bool :=
    r.stop && q.stop && !q.ev && !r.own && !q.own && q.cause == r.cause && q.kernel == r.kernel && region q.addr == region r.addr
  match k.recs.findIdx? same with
  | some i =>
    { k with recs := k.recs.modify i (fun q =>
        let first := decide (lowestWave r.waves < lowestWave q.waves)
        { q with waves := q.waves ||| r.waves, count := min 65535 (q.count + 1), irr := q.irr || r.irr,
                 crew := if first then r.crew else q.crew, task := if first then r.task else q.task,
                 who := q.who ++ r.who }) }
  | none =>
    if k.recs.length < Config.coalescer then { k with recs := k.recs ++ [r] } else { k with heldTraps := k.heldTraps ++ [r] }

/-- An open crew barrier named by a copy that ends with unwritten bytes becomes broken (R234, R236). -/
def State.breakObject (s : State) (c a : Nat) : State :=
  match s.crew? c with
  | none => s
  | some cr =>
    let b := (cr.sp.rd 0 (a + 15)).toNat
    if b / 64 = 1 then s.modCrew c (fun cr => { cr with sp := cr.sp.wr 0 (a + 15) (BitVec.ofNat 8 (128 + b % 64)) }) else s

/-- A copy instruction (R253). -/
def isCopy : Instr → Bool
  | .cpy _ | .cpyt _ | .cpyg _ => true
  | _ => false

/-- The crew barrier a copy names with bytes of it still unwritten (R236, R266). -/
def Op.shortOf (op : Op) : Option Nat :=
  match op.instr with
  | .cpy f | .cpyt f | .cpyg f => if f.kc && (op.len = 0 || decide (op.off < op.len)) then some op.cv else none
  | _ => none

/-- The requests that halt a ring, and what STAT reads for the oldest of them (R273). -/
def Ring.haltedBy (r : Ring) (l : List (Nat × Nat)) : Ring :=
  { r with halted := l, stat := match l with | [] => 0 | h :: _ => h.1 % 2 ^ r.k * 2 ^ 16 + 1 }

/-- A transform request ends with a status and detail: its ring slot is free and its completion record is to be written,
with the USER and WAKE of its block (R272, R273). A request's operation holds the ring's number in `entry`, its
free-running index in `phys`, its block in `cap`. -/
def State.endRequest (s : State) (o : Nat) (op : Op) (status detail : Nat) : State :=
  let n := leNat op.cap
  let s1 := s.modCtx op.ctx (fun cx => { cx with rings := cx.rings.modify op.entry (fun r => { r.haltedBy (r.halted.filter (fun e => e.2 ≠ o)) with
    busy := r.busy.del op.phys,
    ended := r.ended.put op.phys (status, detail, BitVec.ofNat 64 (bitsOf n 448 64), bitsOf n 384 64, op.epoch) }) })
  s1.dropOp o

/-- A task's writes are performed directly: it is irrevocable, or was when it was stopped (R97, R173). -/
def Crew.direct (cr : Crew) : Bool := cr.task == .irrevocable || (cr.task == .stopped && cr.savedTask == .irrevocable)

/-- What an access does outlives the version of its task: it is on scratchpad bytes (R232), or its task is irrevocable. -/
def Op.outlives (op : Op) (irr : Bool) : Bool := match op.instr with | .sts _ | .atoms _ => true | _ => irr

/-- A crew has accesses of class M in flight. -/
def State.accessing (s : State) (c : Nat) : Bool :=
  s.ops.any (fun e => e.2.crew == c && (match opcodeOf e.2.instr with | some (1, _) => true | _ => false))

/-- What the stop or restart of a task does to an operation of its crew: step 2 of R167, R280, R320, R336. Copies are
cancelled; token-merging and beam operations end as cancelled, their futures without a result; matrix, expansion and Carillon results are discarded;
accesses complete with their results discarded, but for those whose whole effect is discarded with the version. -/
def State.stopOp (s : State) (o : Nat) (op : Op) (irr : Bool) : State :=
  match opcodeOf op.instr with
  | some (3, _) => (match op.shortOf with | some a => s.breakObject op.crew a | none => s).endOp o 4
  | some (1, _) => if op.outlives irr then s.modOp o (fun op => { op with dsts := [] }) else s.dropOp o
  | some (8, opc) => if opc == 0x28 || opc == 0x29 then (s.flagDown op).dropOp o else s.modOp o (fun op => { op with dsts := [] })
  | some (6, _) => (s.flagDown op).dropOp o
  | some _ => s.dropOp o
  | none =>
    match op.instr with
    | .transformRequestStart _ _ => s.endRequest o op 3 op.off
    | _ => s

/-- Physical tiles and slots named by a wave are unbound (R280, R320). -/
def State.unbindAll (s : State) (c w : Nat) : State :=
  match s.crew? c with
  | none => s
  | some cr =>
    match cr.waves.find? w with
    | none => s
    | some wv =>
      let s1 := s.modCore cr.core (fun k => { k with
        tiles := wv.tiles.vals.foldl (fun t p => t.del p) k.tiles, exps := wv.exps.vals.foldl (fun t p => t.del p) k.exps })
      s1.modWave c w (fun wv => { wv with tiles := [], exps := [], sm := [], xo := 15 })

/-- A wave's names of physical tiles, and of slots, are unbound, those that `pt` and `pe` pick; each tile is free once the earlier
operations on it have completed, each slot once the wave's earlier E operations have (R280, R320). -/
def State.releaseUnits (s : State) (c w : Nat) (pt pe : Nat → Bool) : State :=
  match s.crew? c with
  | none => s
  | some cr =>
    match cr.waves.find? w with
    | none => s
    | some wv =>
      let ts := (wv.tiles.filter (fun e => pt e.2)).map (·.2)
      let es := (wv.exps.filter (fun e => pe e.2)).map (·.2)
      let s1 := s.modCore cr.core (fun k => { k with
        tiles := k.tiles.mapV (fun p t => if ts.contains p then { t with bound := false, after := s.tileOps c w p } else t),
        exps := k.exps.mapV (fun p e => if es.contains p then { e with bound := false, after := s.expOps c w } else e) })
      (s1.modWave c w (fun wv => { wv with
        tiles := wv.tiles.filter (fun e => !pt e.2), exps := wv.exps.filter (fun e => !pe e.2) })).settleUnits cr.core

/-- An L1 line that carries bytes of a crew's version or of a lane's segments (R97, R302). -/
def Line.ofTask (l : Line) (c : Nat) (cr : Crew) : Bool :=
  l.crew == some c || (match l.lane with | some (w, _) => decide (cr.base ≤ w) && decide (w < cr.base + cr.nw) | none => false)

/-- A write-queue entry of a crew that goes with its version and segments: one of an irrevocable task that is bound for no segment
stays (R97, R171, R305). -/
def WEntry.goesWith (e : WEntry) (c : Nat) (cr : Crew) : Bool := e.crew == c && (e.seg.isSome || (!e.direct && !cr.direct))

/-- The version of a crew's task and every Carillon segment of the crew are discarded in one step, with the L1 lines
that carry them and the write-queue entries bound for them (R97, R305). What an irrevocable task has stored stays, and drains as a
direct write (R171). -/
def State.discard (s : State) (c : Nat) : State :=
  match s.crew? c with
  | none => s
  | some cr =>
    let gone := (s.core cr.core).wq.filter (fun e => e.goesWith c cr)
    let s1 := s.modCrew c (fun cr => { cr with ver := [], held := [], mended := [], segs := [] })
    let s2 := s1.modCore cr.core (fun k => { k with
      l1 := k.l1.filter (fun l => !l.ofTask c cr)
      wq := (k.wq.filter (fun e => !e.goesWith c cr)).map (fun e => if e.crew = c then { e with direct := true } else e) })
    (gone.filterMap (·.op)).foldl (fun (s : State) x => s.modOp x.1 (fun op => { op with
      elems := op.elems.modify x.2 (fun y => { y with st := .complete }) })) s2

/-- The crew's operations are stopped (step 2 of R167). -/
def State.stopOps (s : State) (c : Nat) : State :=
  match s.crew? c with
  | none => s
  | some cr =>
    let irr := cr.direct
    let mine := s.ops.filter (fun e => (e.2.crew == c && e.2.attempt == cr.attempt) ||
      (match e.2.instr with | .transformRequestStart _ _ => e.2.cv == c + 1 && e.2.attempt == cr.attempt | _ => false))
    mine.foldl (fun s e => s.stopOp e.1 e.2 irr) s

/-- A stop of the crew's waves: strands stop at once in waves that have no clause in progress, the others at their next
clause boundary (R173). -/
def Crew.stopWaves (cr : Crew) : Crew :=
  { cr with waves := cr.waves.mapV (fun _ w =>
      match w.clause with
      | some _ => w
      | none => { w with strands := w.strands.mapV (fun _ st =>
          match st.st with | .unused => st | _ => { st with st := .stopped, resv := none, woken := false, rel := none }) }) }

/-- The task of a crew stops (R173): engine operations as step 2 of R167, version discarded, tiles, expansions and
chunks unbound, waves stopped. The crew keeps its resources. Where another wave has stopped it before, what a further trapping wave has
launched since is stopped too. -/
def State.stopTask (s : State) (c : Nat) : State :=
  match s.crew? c with
  | none => s
  | some cr =>
    if cr.task == .stopped then s.stopOps c else
    let s1 := s.stopOps c
    let s2 := s1.discard c
    let s3 := (cr.waves.map (·.1)).foldl (fun s w => s.unbindAll c w) s2
    let s4 := s3.modCore cr.core (fun k => { k with rbq := k.rbq.filter (fun e => e.1 ≠ c) })
    s4.modCrew c (fun cr => Crew.stopWaves { cr with savedTask := cr.task, task := .stopped })

/-- The handler of a context is lost: the record it had in hand and every record waiting in the ring go to the host, in
ring order (R176, R177). -/
def State.loseHandler (s : State) (x : Nat) : State :=
  let s1 := (s.ctx x).trapRecs.foldl (fun (s : State) e => if e.2.2 then s else s.event 4 0x43 x e.1) s
  s1.modCtx x (fun cx => { cx with
    handler := none, inHand := false, trapRecs := cx.trapRecs.map (fun e => (e.1, e.2.1, true)) })

/-- TAKING A TRAP that stops a task (R173 to R175), raised by strand `k` of wave `w` of crew `c`: the strand stops at once
and loses its reservation, the task stops, and the core's coalescer takes the record. -/
def State.trap (s : State) (c w k cause addr cls : Nat) : State :=
  match s.crew? c with
  | none => s
  | some cr =>
    let own := (s.ctx cr.ctx).handler == some (c, w)
    let r : TrapRec := {
      waves := 2 ^ cr.slot w, addr := addr, crew := cr.idx, task := cr.taskIdx, count := 1,
      core := cr.core, stop := true, ev := false, irr := cr.direct, cls := cls, entry := 0, cause := cause,
      ctx := cr.ctx, kernel := cr.kernel, who := [(c, w, cr.attempt)], own := own, opened := s.next }
    let s1 := { s with next := s.next + 1 }.modWave c w (fun wv => Wave.modStrand { wv with clause := none } k (fun st =>
      { st with st := .stopped, resv := none, woken := false, rel := none }))
    let s2 := s1.stopTask c
    let s3 := s2.modCore cr.core (fun q => q.addTrap r)
    if own then s3.loseHandler cr.ctx else s3

/-- A trap of the issuing instruction, with the clause header as ADDR or another address (R55, R172). -/
def State.trapAt (s : State) (cause addr : Nat) : State :=
  match s.curWave with
  | none => s
  | some (q, _, w) => s.trap q.crew q.wave q.strand cause addr w.clauseCls

/-- A trap of the issuing instruction whose ADDR is the clause header. -/
def State.trapHdr (s : State) (cause : Nat) : State :=
  match s.curWave with
  | none => s
  | some (_, _, w) => s.trapAt cause w.clauseAddr

/-- A trap found by an engine for an operation, where the spec says it stops the issuing task (R170, R219, R338). -/
def State.trapOp (s : State) (op : Op) (cause addr : Nat) : State :=
  let cls := match opcodeOf op.instr with | some (c, _) => c | none => 3
  match s.crew? op.crew with
  | none => s
  | some cr => if cr.attempt ≠ op.attempt then s else s.trap op.crew op.wave op.strand cause addr cls

/-- A fault of an asynchronous engine: the operation is left faulted at its resume offset, the record has STOP 0 and EV 1
and the task runs on (R173, R264, R273). One of a transform request, which belongs to no crew, names no kernel, and its WAVES, CREW, TASK
and IRR are 0 (DESIGN CHOICE, log 79). -/
def State.evFault (s : State) (o : Nat) (op : Op) (core cause addr : Nat) : State :=
  let crew := s.crew? op.crew
  let slot := match crew with | some cr => cr.slot op.wave | none => 0
  let r : TrapRec := {
    waves := if crew.isSome then 2 ^ slot else 0, addr := addr,
    crew := (crew.map (·.idx)).getD 0, task := (crew.map (·.taskIdx)).getD 0, count := 1, core := core, stop := false,
    ev := true, irr := (crew.map Crew.direct).getD false, cls := 3, entry := op.entry, cause := cause,
    ctx := op.ctx, kernel := (crew.map (·.kernel)).getD (2 ^ 64),
    who := (crew.map (fun _ => (op.crew, op.wave, op.attempt))).toList, own := false, opened := s.next }
  let s1 := { s with next := s.next + 1 }.modOp o (fun op => { op with st := .faulted })
  (s1.modCore core (fun k => k.addTrap r)).future o 2

/-! ## Starting waves and restarting tasks (R142, R166, R167) -/

/-- The s registers at wave start (R142, R124). -/
def Kernel.startRegs (k : Kernel) : Tab Word :=
  let t : Tab Word := (List.range k.argw.length).foldl (fun (t : Tab Word) i => t.wr 0 i (k.argw.getD i 0)) []
  if k.data = 0 then t else (t.wr 0 62 (BitVec.ofNat 32 k.data)).wr 0 63 (BitVec.ofNat 32 (k.data >>> 32))

/-- A wave in the state of R142, its strand 0 runnable at `entry` with all 128 lanes. -/
def Kernel.startWave (k : Kernel) (seg : Tab Nat) (entry : Nat) : Wave where
  live := true
  lanes := allLanes
  strands := [(0, ⟨.running, allLanes, entry, 0, none, 0, false, 0, none, false, false⟩)]
  clause := none
  vr := []
  sr := k.startRegs
  pr := []
  fl := []
  hd := []
  tiles := []
  exps := []
  xo := 15
  sm := []
  seg := seg
  segRet := []
  marks := []
  entry := entry
  inTask := true
  facq := []
  yieldedStrand := none
  givenWay := none
  parked := false

/-- Physical segments in use on a core (R141, R164). -/
def State.segsUsed (s : State) (core : Nat) : List Nat :=
  (s.crews.filter (fun e => e.2.core == core)).foldl (fun acc e =>
    e.2.waves.foldl (fun acc w => acc ++ w.2.seg.vals ++ w.2.segRet.map (·.1)) acc) []

/-- The physical segments of a core that are free, ascending. -/
def State.segsFree (s : State) (core : Nat) : List Nat :=
  let used := s.segsUsed core
  (List.range Config.segments).filter (fun n => !used.contains n)

/-- Blocks 0 to REGS - 1 on the first free segments, the base block kept where it is held. -/
def takeSegs (free : List Nat) (n : Nat) : Tab Nat := (List.range n).map (fun b => (b, free.getD b 0))

/-- Every wave of the crew that was live at the task's start starts again at its task entry (R167 step 4, R168), on
the segments that are free once the crew's own have been returned. -/
def State.rewave (s : State) (c : Nat) : State :=
  match s.crew? c with
  | none => s
  | some cr =>
    match s.kernel? cr.kernel with
    | none => s
    | some k =>
      let s0 := { s with waitDst := s.waitDst.filter (fun e => e.1 ≠ c) }
      let s1 := s0.modCrew c (fun cr => { cr with waves := cr.waves.mapV (fun _ w =>
        if w.inTask then { w with seg := [], segRet := [] } else w) })
      let live := (cr.waves.filter (fun e => e.2.inTask)).map (·.1)
      let s2 := live.foldl (fun (s : State) w =>
        let free := s.segsFree cr.core
        s.modWave c w (fun wv => k.startWave (takeSegs free k.regs) wv.entry)) s1
      s2.modCrew c (fun cr => { cr with
        task := .versioned, attempt := cr.attempt + 1, arrived := [], barPending := live.length, restarting := false })

/-- Segments that a restart of a crew needs beyond those that its waves hold (R168). -/
def Crew.restartNeed (cr : Crew) (k : Kernel) : Nat :=
  k.regs * (cr.waves.filter (fun e => e.2.inTask)).length -
    cr.waves.foldl (fun n w => if w.2.inTask then n + w.2.seg.length + w.2.segRet.length else n) 0

/-- The entry of a restart in a core's queue of segment requests, after the strands' numbers (R168). -/
def restartReq (c : Nat) : Nat × Nat × Nat := (c, 0, 4)

/-- No wave of the crew has a clause in progress. -/
def Crew.atBoundary (cr : Crew) : Bool := cr.waves.all (fun w => w.2.clause.isNone)

/-- A restart that has been asked for goes ahead (R167) once every wave has stopped at a clause boundary: operations are
stopped, accesses complete, and then the version is discarded and the waves start at their entries. Where they need segments, the
restart enters the core's queue unless it would be granted at once (R163, R168). Scratchpad contents stay. -/
def State.settleRestart (s : State) (c : Nat) : State :=
  match s.crew? c with
  | none => s
  | some cr =>
    if !cr.restarting || !cr.atBoundary then s else
    match s.kernel? cr.kernel with
    | none => s
    | some k =>
      let s0 := s.stopOps c
      if s0.accessing c then s0 else
      let s1 := s0.discard c
      let s2 := (cr.waves.map (·.1)).foldl (fun (s : State) w => s.unbindAll c w) s1
      let s3 := s2.modCore cr.core (fun q => { q with rbq := q.rbq.filter (fun e => e.1 ≠ c || e == restartReq c) })
      let q := (s3.core cr.core).rbq
      if cr.restartNeed k = 0 || (q.isEmpty && decide (cr.restartNeed k ≤ (s3.segsFree cr.core).length)) then
        (s3.modCore cr.core (fun q => { q with rbq := q.rbq.filter (fun e => e.1 ≠ c) })).rewave c
      else
        (s3.modCore cr.core (fun k => { k with rbq := if k.rbq.contains (restartReq c) then k.rbq else k.rbq ++ [restartReq c] })).modCrew c
          Crew.stopWaves

/-- A running context with no crew resident is runnable again (R104). A frozen one, whose last crew's kernel has failed, is saved
where it holds save images and otherwise runnable, so that the state's meaning holds (R103; DEDUCED, log 60). -/
def State.settleCtx (s : State) (x : Nat) : State :=
  if s.crews.any (fun e => e.2.ctx == x) then s else
  match (s.ctx x).st with
  | .running => s.modCtx x (fun cx => { cx with st := .runnable })
  | .frozen => s.modCtx x (fun cx => { cx with st := if cx.saves.isEmpty then .runnable else .saved })
  | _ => s

/-- A crew leaves its core at once: its operations are stopped, its version discarded, its resources given up. -/
def State.removeCrew (s : State) (c : Nat) : State :=
  match s.crew? c with
  | none => s
  | some cr =>
    let s1 := (s.stopOps c).discard c
    let s2 := (cr.waves.map (·.1)).foldl (fun (s : State) w => s.unbindAll c w) s1
    let s3 := s2.modCore cr.core (fun q => { q with rbq := q.rbq.filter (fun e => e.1 ≠ c) })
    let s4 := match (s.ctx cr.ctx).handler with
      | some (hc, _) => if hc = c then s3.loseHandler cr.ctx else s3
      | none => s3
    State.settleCtx { s4 with
      crews := s4.crews.del c, ops := s4.ops.filter (fun e => e.2.crew ≠ c), waitDst := s4.waitDst.filter (fun e => e.1 ≠ c) } cr.ctx

/-- A crew's kernel has failed (R134). -/
def State.kernelFailed (s : State) (cr : Crew) : Bool :=
  match s.kernel? cr.kernel with
  | some kn => kn.st == .failed
  | none => false

/-- A crew that stays for its accesses after its kernel has failed leaves once they have completed (R134, R167). -/
def State.settleFailed (s : State) (c : Nat) : State :=
  match s.crew? c with
  | none => s
  | some cr => if s.kernelFailed cr && !s.accessing c then s.removeCrew c else s

/-- A resident crew of a failing kernel stops (R134): it leaves at once, or, with accesses in flight, when they have
completed; until then nothing of it runs, restarts or is saved. -/
def State.ejectCrew (s : State) (c : Nat) : State :=
  match s.crew? c with
  | none => s
  | some cr =>
    let s1 := s.stopOps c
    if !s1.accessing c then s1.removeCrew c else
    let s2 := (s1.discard c).modCrew c (fun cr => Crew.stopWaves { cr with
      savedTask := if cr.task == .stopped then cr.savedTask else cr.task, task := .stopped, restarting := false
      freezing := false, attempt := cr.attempt + 1, waves := cr.waves.mapV (fun _ w => { w with clause := none }) })
    match (s.ctx cr.ctx).handler with
    | some (hc, _) => if hc = c then s2.loseHandler cr.ctx else s2
    | none => s2

/-- Every restart that waits goes ahead where it can, and so does the leaving of crews of failed kernels. -/
def State.settleRestarts (s : State) : State :=
  if s.crews.any (fun e => e.2.restarting || s.kernelFailed e.2) then
    (s.crews.map (·.1)).foldl (fun (s : State) c => (s.settleRestart c).settleFailed c) s
  else s

/-- Restart the task of a crew (R167): its waves stop at their clause boundaries, and then `settleRestart`. A handler wave
among them is lost to its context (R177). -/
def State.restartTask (s : State) (c : Nat) : State :=
  match s.crew? c with
  | none => s
  | some cr =>
    let s1 := s.modCrew c (fun cr => Crew.stopWaves { cr with restarting := true })
    let s2 := match (s.ctx cr.ctx).handler with
      | some (hc, _) => if hc = c then s1.loseHandler cr.ctx else s1
      | none => s1
    s2.settleRestart c

/-- Save images of a context are given up, with the operations frozen in them. A saved context that keeps none is runnable (R103;
DEDUCED, log 60). -/
def State.dropImages (s : State) (x : Nat) (p : Image → Bool) : State :=
  let gone := ((s.ctx x).saves.filter p).map (·.id)
  let ops := (s.ops.filter (fun e => gone.contains e.2.crew)).map (·.1)
  (ops.foldl State.dropOp s).modCtx x (fun cx => { cx with
    saves := cx.saves.filter (fun i => !p i)
    st := if cx.st == .saved && (cx.saves.filter (fun i => !p i)).isEmpty then .runnable else cx.st })

/-- A kernel fails with a status (R134): resident crews stop, open versions are discarded, its crews give up their
resources once their accesses have completed. -/
def State.failKernel (s : State) (k status cause detail : Nat) : State :=
  match s.kernel? k with
  | none => s
  | some kn =>
    match kn.st with
    | .complete | .failed => s
    | _ =>
      let mine := (s.crews.filter (fun e => e.2.kernel == k)).map (·.1)
      let s1 := (mine.foldl State.ejectCrew s).dropImages kn.ctx (fun i => i.crew.kernel == k)
      s1.modKernel k (fun kn => { kn with
        st := .failed, status := status, cause := cause, detail := detail,
        time := if kn.st == .retiring then kn.time else s.tabor.toNat, unplaced := [], requeued := [] })

/-- A kernel is running as an event that fails it takes it: an event in the cycle in which its last crew ends wins over that end
(R134). -/
def State.stillRunning (s : State) (kn : Kernel) : Bool := kn.st == .running || (kn.st == .retiring && kn.endCycle == s.cycle)

/-- ERET.kill's effect on a kernel (R134). -/
def State.killKernel (s : State) (k cause detail : Nat) : State :=
  match s.kernel? k with
  | some kn => if s.stillRunning kn then s.failKernel k 2 cause detail else s
  | none => s

/-- The task of a record's crew, resident or saved, is still stopped in the attempt that trapped. -/
def State.stillStopped (s : State) (x c attempt : Nat) : Bool :=
  match s.crew? c with
  | some cr => cr.attempt == attempt && cr.task == .stopped
  | none => (s.ctx x).saves.any (fun i => i.id == c && i.crew.attempt == attempt && i.crew.savedTask == .stopped && !i.crew.restarting)

/-- The task of a record that did not stop it is still under way in the attempt that issued the operation, resident or saved. -/
def State.stillUnderWay (s : State) (x c attempt task : Nat) : Bool :=
  match s.crew? c with
  | some cr => cr.attempt == attempt && cr.taskIdx == task
  | none => (s.ctx x).saves.any (fun i => i.id == c && i.crew.attempt == attempt && i.crew.taskIdx == task && !i.crew.restarting)

/-- Restart a stopped task (R167); one that is saved restarts when its crew is restored. -/
def State.restartStopped (s : State) (x c : Nat) : State :=
  if (s.crew? c).isSome then s.restartTask c
  else s.modCtx x (fun cx => { cx with saves := cx.saves.map (fun i => if i.id = c then { i with crew := { i.crew with restarting := true } } else i) })

/-- RETURNING FROM A TRAP (R118, R176): the record at the head of a context's ring is finished by restart or by kill, and
its slot is released. A record whose tasks have already been restarted or ended is only released. A restart acts on tasks that the trap
stopped. -/
def State.finishRecord (s : State) (x : Nat) (kill : Bool) : State :=
  match (s.ctx x).trapRecs with
  | [] => s
  | (_, r, _) :: rest =>
    let s1 := s.modCtx x (fun cx => { cx with trapRecs := rest, trapR := cx.trapR + 1, inHand := false })
    let live := r.who.filter (fun e => if r.stop then s.stillStopped x e.1 e.2.2 else s.stillUnderWay x e.1 e.2.2 r.task)
    if live.isEmpty && (r.stop || !r.who.isEmpty) then s1
    else if kill then s1.killKernel r.kernel r.cause r.task
    else if !r.stop then s1
    else (distinct (live.map (·.1))).foldl (fun (s : State) c => s.restartStopped x c) s1

end Sys2Proof.Machine
end

