-- ==== Sys2Proof/Machine/Home.lean ====
section
/-!
DEFINITION. Memory at its home: translation through the page tables (R354 to R357), views of versions and segments
(R97, R302), reads and writes at the home directory (R80, R86, R93), versions and their capacity (R170), commit (R97).
-/

namespace Sys2Proof.Machine

open Sys2Proof

/-! ## Where an address is homed (R80) -/

/-- The home of a physical address. -/
inductive HomeOf where
  /-- HBM of this package. -/
  | hbm
  /-- The CXL tier. -/
  | cxl
  /-- Another package. -/
  | remote (pkg : Nat)
  /-- Host memory. -/
  | host
  deriving DecidableEq, Repr

/-- Which home a physical address has (R80): the CXL tier is 8 TiB with bit 51 set (R3, R380); outside HBM and CXL the spec gives
none (log 8). -/
def homeOf (pa : Nat) : HomeOf :=
  if bitOf pa 51 && decide (pa < 2 ^ 51 + Config.cxlBytes) then .cxl
  else if pa < Config.hbmBytes then .hbm
  else match Config.frameHome (pa / 4096) with
    | .remote p => .remote p
    | .host => .host

/-- A committed byte at its home. The bytes of another package or of the host are free, anew with every turn that passes
time (log 17). -/
def State.byteAt (s : State) (pa : Nat) : Byte :=
  match homeOf pa with
  | .hbm | .cxl => s.mem.rd 0 pa
  | _ => Config.hostByte s.fresh pa

/-- Committed bytes at their home. -/
def State.bytesAt (s : State) (pa n : Nat) : List Byte := (List.range n).map (fun i => s.byteAt (pa + i))

/-! ## Translation (R354 to R357) -/

/-- Little-endian 64-bit value of committed memory at a physical address. -/
def State.read64 (s : State) (pa : Nat) : Nat := leNat (s.bytesAt pa 8)

/-- The outcome of reading one table entry (R354, R355). -/
inductive Pte where
  /-- ST 0: unmapped. -/
  | unmapped
  /-- The entry breaks R354 or R355. -/
  | malformed
  /-- A pointer to the next table. -/
  | table (pa : Nat)
  /-- A leaf: ST, page size, frame, R, W, X. -/
  | leaf (st size frame : Nat) (r w x : Bool)
  deriving DecidableEq, Repr

/-- Virtual-address index bits and their number, by level (R354). -/
def levelIndex (level va : Nat) : Nat :=
  if level = 4 then bitsOf va 48 8
  else if level = 3 then bitsOf va 39 9
  else if level = 2 then bitsOf va 30 9
  else if level = 1 then bitsOf va 21 9
  else bitsOf va 12 9

/-- Bytes of a leaf page by level (R354). -/
def levelSize (level : Nat) (g64 : Bool) : Nat :=
  if level = 2 then 2 ^ 30 else if level = 1 then 2 ^ 21 else if g64 then 65536 else 4096

/-- The 16 entries of a 64 KiB page agree (R355). -/
def State.sameGroup (s : State) (table idx : Nat) : Bool :=
  let e := s.read64 (table + 8 * idx)
  (List.range 16).all (fun i => s.read64 (table + 8 * (idx / 16 * 16 + i)) == e)

/-- Read and check the entry of `va` in a table of a level (R354, R355). A table in the CXL tier, which no walk reaches (R356), is
as a malformed entry (DEDUCED, log 66). -/
def State.pte (s : State) (level table va : Nat) : Pte :=
  let idx := levelIndex level va
  let e := s.read64 (table + 8 * idx)
  let st := bitsOf e 62 2
  let g64 := bitOf e 61
  let l := bitOf e 60
  let frame := bitsOf e 12 40 * 4096
  let x := bitOf e 7
  let w := bitOf e 6
  let r := bitOf e 5
  if bitOf table 51 then .malformed
  else if st = 0 then .unmapped
  else if bitsOf e 52 8 ≠ 0 || bitsOf e 8 4 ≠ 0 || bitsOf e 0 5 ≠ 0 then .malformed
  else if g64 && level ≠ 0 then .malformed
  else if l && (level == 0 || level == 3 || level == 4) then .malformed
  else if level ≠ 0 && !l then
    if st ≠ 1 || r || w || x then .malformed else .table frame
  else
    let size := levelSize level g64
    if frame % size ≠ 0 then .malformed
    else if g64 && !s.sameGroup table idx then .malformed
    else if st = 1 && bitOf frame 51 then .malformed
    else .leaf st size frame r w x

/-- What a walk from a table down to the leaf finds. -/
def State.walkFrom (s : State) (table va : Nat) : Nat → Pte
  | 0 => s.pte 0 table va
  | level + 1 =>
    match s.pte (level + 1) table va with
    | .table t => s.walkFrom t va level
    | p => p

/-- The walk of a virtual address of a context from its root (R354, R356). -/
def State.walk (s : State) (x va : Nat) : Pte := s.walkFrom (s.ctx x).root va 4

/-- The rights an access needs (R354). -/
structure Need where
  /-- R. -/
  r : Bool
  /-- W. -/
  w : Bool
  /-- X. -/
  x : Bool
  deriving DecidableEq, Repr

/-- A read. -/
def Need.read : Need := ⟨true, false, false⟩
/-- A write. -/
def Need.write : Need := ⟨false, true, false⟩
/-- An atomic reads and writes (DEDUCED, log 15). -/
def Need.atomic : Need := ⟨true, true, false⟩
/-- A clause fetch. -/
def Need.fetch : Need := ⟨false, false, true⟩

/-- The rights cover a need. -/
def Need.met (n : Need) (r w x : Bool) : Bool := (!n.r || r) && (!n.w || w) && (!n.x || x)

/-- A cached translation covers an address of a context on a die. -/
def Tlb.covers (t : Tlb) (die x va : Nat) : Bool := t.die == die && t.ctx == x && decide (t.va ≤ va) && decide (va < t.va + t.size)

/-- The trap cause of a walk that ends in an entry other than a usable leaf (R354 to R356). -/
def Pte.cause : Pte → Nat
  | .leaf _ _ _ _ _ _ => Cause.pageFault
  | .unmapped => Cause.pageFault
  | _ => Cause.protection

/-- What the walk of an access has already met, its entries read one by one, other agents' steps between (R356). -/
def State.walkFault (s : State) (die x va : Nat) : Option Nat :=
  (s.walks.find? (fun w => w.die == die && w.ctx == x && w.va == va)).bind (·.fault)

/-- Translate an access: a cached translation with the right, or a walk at home; the error is a trap cause (R356,
R357). An instruction that issues meets what its own walk has met; a walk that is not yet begun reads its entries now, with nothing
between them (log 37). -/
def State.translate (s : State) (die x va : Nat) (n : Need) : Except Nat Nat :=
  match s.tlb.find? (fun t => t.covers die x va && n.met t.r t.w t.x) with
  | some t => .ok (t.pa + (va - t.va))
  | none =>
    match (if s.cur.isSome then s.walkFault die x va else none) with
    | some c => .error c
    | none =>
      match s.walk x va with
      | .leaf 1 size frame r w x => if n.met r w x then .ok (frame + va % size) else .error Cause.protection
      | p => .error p.cause

/-- The walks that ended in a fault are over on a die once it has issued an instruction or fetched a clause. -/
def State.endWalks (s : State) (die : Nat) : State := { s with walks := s.walks.filter (fun w => !(w.die == die && w.fault.isSome)) }

/-- A cached translation that lacks the right an access needs is dropped before the walk (R357). -/
def State.dropLacking (s : State) (die x va : Nat) (n : Need) : State :=
  { s with tlb := s.tlb.filter (fun t => !(t.covers die x va && !n.met t.r t.w t.x)) }

/-- The lines of the table entries that a walk from a table reads (R356). -/
def State.walkLines (s : State) (table va : Nat) : Nat → List Nat
  | 0 => [(table + 8 * levelIndex 0 va) / 256]
  | level + 1 => (table + 8 * levelIndex (level + 1) va) / 256 :: (match s.pte (level + 1) table va with
      | .table t => s.walkLines t va level
      | _ => [])

/-- An access that misses waits: an entry its walk reads lies in a line that an engine operation owns (R90, R356). -/
def State.walkHeld (s : State) (die x va : Nat) (n : Need) : Bool :=
  !s.owners.isEmpty && !s.tlb.any (fun t => t.covers die x va && n.met t.r t.w t.x) &&
  (s.walkLines (s.ctx x).root va 4).any (fun l => !(s.owners.rd [] l).isEmpty)

/-- Translate each byte range page by page: the pieces of `[va, va + n)` that lie in one 4 KiB page, with their physical
addresses; or the first failing address. -/
def State.pieces (s : State) (die x : Nat) (n : Need) (va len : Nat) : Except (Nat × Nat) (List (Nat × Nat)) :=
  let pages := (va + len - 1) / 4096 - va / 4096 + 1
  (List.range (if len = 0 then 0 else pages)).foldl (fun acc i =>
    match acc with
    | .error e => .error e
    | .ok l =>
      let lo := max va ((va / 4096 + i) * 4096)
      let hi := min (va + len) ((va / 4096 + i + 1) * 4096)
      match s.translate die x lo n with
      | .ok pa => .ok (l ++ [(pa, hi - lo)])
      | .error c => .error (c, lo)) (.ok [])

/-- An access to a range has to wait for the walk of one of its pages (R90, R356). -/
def State.rangeHeld (s : State) (die x : Nat) (n : Need) (va len : Nat) : Bool :=
  !s.owners.isEmpty && (List.range (if len = 0 then 0 else (va + len - 1) / 4096 - va / 4096 + 1)).any (fun i =>
    s.walkHeld die x (max va ((va / 4096 + i) * 4096)) n)

/-- Cached translations that lack the right are dropped for the pages of a range (R357). -/
def State.dropPages (s : State) (die x : Nat) (n : Need) (va len : Nat) : State :=
  (List.range (if len = 0 then 0 else (va + len - 1) / 4096 - va / 4096 + 1)).foldl (fun (s : State) i =>
    s.dropLacking die x (max va ((va / 4096 + i) * 4096)) n) s

/-- Read virtual bytes of a context through its translation, committed bytes only; none if any page fails. -/
def State.readV (s : State) (x va len : Nat) : Option (List Byte) :=
  match s.pieces 0 x Need.read va len with
  | .ok l => some (l.foldl (fun acc p => acc ++ s.bytesAt p.1 p.2) [])
  | .error _ => none

/-! ## Dies and scopes -/

/-- The die that homes an HBM address (R80). -/
def homeDie (pa : Nat) : Nat := pa / Config.dieBytes

/-- The scope of an engine completion to a device destination: package, or gang for another package's frame (R99). -/
def destScope (pa : Nat) : Nat := match homeOf pa with | .remote _ => 6 | _ => 5

/-! ## Views (R97, R302) -/

/-- Who reads: a crew sees its version, an enumerated lane its lineage over it. -/
structure View where
  /-- The crew. -/
  crew : Option Nat
  /-- Segments of the lineage, newest first. -/
  lineage : List Nat
  deriving DecidableEq, Repr

/-- An agent with no version. -/
def View.plain : View := ⟨none, []⟩

/-- A crew's view. -/
def View.ofCrew (c : Nat) : View := ⟨some c, []⟩

/-- A byte as a view sees it at home (R97, R302). -/
def State.homeByte (s : State) (v : View) (pa : Nat) : Byte :=
  match v.crew.bind s.crew? with
  | none => s.byteAt pa
  | some cr =>
    match (v.lineage.filterMap (fun g => (cr.segs.find? g).bind (fun sg => sg.bytes.find? pa))).head? with
    | some b => b
    | none => (cr.ver.find? pa).getD (s.byteAt pa)

/-- Bytes as a view sees them at home. -/
def State.homeBytes (s : State) (v : View) (pa n : Nat) : List Byte := (List.range n).map (fun i => s.homeByte v (pa + i))

/-- A value that came from another package or the host as a view sees it: the bytes of its version or lineage lie over it. -/
def State.overView (s : State) (v : View) (pa n val : Nat) : Nat :=
  match v.crew.bind s.crew? with
  | none => val
  | some cr => leNat ((List.range n).map (fun i =>
      match (v.lineage.filterMap (fun g => (cr.segs.find? g).bind (fun sg => sg.bytes.find? (pa + i)))).head? with
      | some b => b
      | none => (cr.ver.find? (pa + i)).getD (BitVec.ofNat 8 (val / 2 ^ (8 * i)))))

/-- A byte that came from another package or the host as a crew sees it: its version's byte lies over it (R97, R255). -/
def State.verByte (s : State) (c pa : Nat) (b : Byte) : Byte := ((s.crew? c).bind (fun cr => cr.ver.find? pa)).getD b

/-- The block of an address is poisoned (R265). -/
def State.poisoned (s : State) (pa n : Nat) : Bool :=
  (List.range ((pa + n - 1) / 256 - pa / 256 + 1)).any (fun i => s.poison.contains (pa / 256 + i))

/-- A line is owned by an engine operation other than `self`, or by one before it (R90, R91): with `reader = some o`
only operations entered before `o` was performed count. -/
def State.ownedBy (s : State) (line : Nat) (self : Option Nat) : Bool :=
  match self with
  | none => !(s.owners.rd [] line).isEmpty
  | some o => (s.owners.rd [] line).any (fun p => decide (p < o))

/-- The block of an address is poisoned as a crew meets it: not where its version holds the whole block anew (R265). -/
def State.poisonedFor (s : State) (c pa n : Nat) : Bool :=
  (List.range ((pa + n - 1) / 256 - pa / 256 + 1)).any (fun i =>
    s.poison.contains (pa / 256 + i) && !(s.crew? c).any (fun cr => cr.mended.contains (pa / 256 + i)))

/-- The first byte of a range that a crew reads from a poisoned block, as an offset among those that `sel` picks (R172, R219). -/
def State.firstPoison (s : State) (c pa : Nat) (sel : List Nat) : Option Nat := sel.find? (fun i => s.poisonedFor c (pa + i) 1)

/-- The lines that a byte range touches. -/
def linesOf (pa n : Nat) : List Nat := if n = 0 then [] else (List.range ((pa + n - 1) / 256 - pa / 256 + 1)).map (fun i => pa / 256 + i)

/-- No line of a range is owned by an engine operation (R90). -/
def State.unowned (s : State) (pa n : Nat) : Bool := (linesOf pa n).all (fun l => !s.ownedBy l none)

/-! ## Messages to other packages (R366) -/

/-- A port that carries messages, or will once it is trained or has replayed (R369). -/
def Port.carries (p : Port) : Bool :=
  match p.st with | .up | .degraded | .retrying | .training => true | _ => false

/-- The words of a message on the wire, header first (R366). -/
def Msg.words (m : Msg) : List Word :=
  let h := m.addr * 2 ^ 64 + (m.no % 2 ^ 24) * 2 ^ 40 + (m.dst % 4096) * 2 ^ 28 + (m.src % 4096) * 2 ^ 16 +
    ((4 + m.data.length) % 256) * 2 ^ 8 + m.kind % 256
  splitWords 4 h ++ m.data

/-- The lowest-numbered port that carries messages (log 11: which ports reach a destination is not stated). -/
def State.openPort (s : State) : Option Nat := (s.ports.filter (fun e => e.2.carries)).head?.map (·.1)

/-- Words of a byte string, padded with zero bytes (R366). -/
def bytesWords (bs : List Byte) : List Word := splitWords ((bs.length + 3) / 4) (leNat bs)

/-- A message enters a port's stream; where no port carries messages it has no path (R369). -/
def State.post (s : State) (m : Msg) : State :=
  match s.openPort with
  | none => s.event 6 0x61 0 0
  | some p => s.modPort p (fun q => { q with out := q.out ++ m.words, msgs := q.msgs ++ [m] })

/-- The operation number of a message that no operation waits on. -/
def noOp : Nat := 2 ^ 64

/-- The core of a message that no core's fence waits for: an engine's, or the distributor's (R88, R229). -/
def noCore : Nat := 2 ^ 64

/-- The core of a crew, none where it is no longer resident. -/
def State.coreOf (s : State) (c : Nat) : Nat := match s.crew? c with | some cr => cr.core | none => noCore

/-- Who writes or asks, where the home is another package's. -/
structure Origin where
  /-- The strand: crew, wave, strand. -/
  who : Option (Nat × Nat × Nat)
  /-- Its task attempt. -/
  attempt : Nat
  /-- Context; 1024 for none. -/
  ctx : Nat
  /-- Epoch stamp (R100). -/
  epoch : Nat
  /-- The core whose fences wait for it. -/
  core : Nat
  /-- The operation that waits for it. -/
  op : Nat
  /-- The element that waits for it. -/
  elem : Nat
  /-- Where the physical pages it writes lie in its context's virtual addresses, for the ADDR of a lost access (R369). -/
  vas : Tab Nat
  deriving DecidableEq, Repr

/-- An agent that nothing of the package waits for. -/
def Origin.agent : Origin := ⟨none, 0, 1024, 0, noCore, noOp, 0, []⟩

/-- An agent that writes for a context, with an epoch stamp (R100). -/
def Origin.forCtx (x epoch : Nat) : Origin := { Origin.agent with ctx := x, epoch := epoch }

/-- The virtual address of a physical one, where the origin knows its page. -/
def Origin.vaOf (g : Origin) (pa : Nat) : Nat :=
  match g.vas.find? (pa / 4096) with
  | some p => p * 4096 + pa % 4096
  | none => pa

/-- What a crew writes by itself, a context's current epoch its stamp. -/
def State.originCrew (s : State) (c core : Nat) : Origin :=
  match s.crew? c with
  | some cr => ⟨none, cr.attempt, cr.ctx, (s.ctx cr.ctx).epoch, core, noOp, 0, []⟩
  | none => { Origin.agent with core := core }

/-- A strand's write, or an agent's. -/
def State.originOf (s : State) (writer : Option Nat) (who : Option (Nat × Nat × Nat)) : Origin :=
  match who with
  | some x => { s.originCrew x.1 (writer.getD noCore) with who := some x }
  | none => { Origin.agent with core := writer.getD noCore }

/-- What an operation writes: the operation waits for it (R91). -/
def Op.origin (op : Op) (o : Nat) : Origin :=
  ⟨some (op.crew, op.wave, op.strand), op.attempt, op.ctx, op.epoch, noCore, o, noOp, op.elems.map (fun e => (e.pa / 4096, e.va / 4096))⟩

/-- An access that no path to its home is left for completes with the memory-poison trap for its task (R369); a copy is left faulted at
the unit it has come to, and its task runs on (R264; DEDUCED, log 96). -/
def State.poisonTask (s : State) (g : Origin) (va : Nat) : State :=
  match g.who with
  | none => s
  | some x =>
    match s.crew? x.1 with
    | none => s
    | some cr =>
      if cr.attempt ≠ g.attempt then s else
      match s.op? g.op with
      | none => s.trap x.1 x.2.1 x.2.2 Cause.memoryPoison va 1
      | some op =>
        if isCopy op.instr then (if op.st == .faulted then s else s.evFault g.op op cr.core Cause.memoryPoison va)
        else s.trap x.1 x.2.1 x.2.2 Cause.memoryPoison va (match opcodeOf op.instr with | some (c, _) => c | none => 3)

/-- Such an access, and the host is told (R369). -/
def State.lost (s : State) (g : Origin) (va : Nat) : State := (s.poisonTask g va).event 6 0x61 0 0

/-- A write that an operation has sent to another package is not yet acknowledged (R91, R367). -/
def State.unacked (s : State) (o : Nat) : Bool :=
  s.pend.any (fun e => e.2.op == o && (e.2.msg.kind == 3 || e.2.msg.kind == 4 || e.2.msg.kind == 6))

/-- The number of the next message. -/
def State.msgNo (s : State) : Nat := s.msgNext % 2 ^ 24

/-- A message that is answered enters the link request queue (R78) and a port's stream (R366, R367). -/
def State.sendFor (s : State) (g : Origin) (kind dst pa va n : Nat) (data : List Word) : State :=
  let m : Msg := ⟨kind, Config.package, dst, s.msgNo, pa, data⟩
  match s.openPort with
  | some _ =>
    ({ s with
      msgNext := s.msgNext + 1
      pend := s.pend.put s.msgNo ⟨m, g.who, g.attempt, va, n, g.op, g.elem, g.core, g.epoch, g.ctx, noOp⟩ }).post m
  | none => s.lost g va

/-- A message that no element waits on. -/
def State.tell (s : State) (kind dst addr : Nat) (data : List Word) : State :=
  let no := s.msgNext % 2 ^ 24
  ({ s with msgNext := s.msgNext + 1 }).post ⟨kind, Config.package, dst, no, addr, data⟩

/-! ## Writes at home -/

/-- Append an invalidation entry for a line to a core's queue (R78). -/
def Core.invalidate (k : Core) (line : Nat) : Core := { k with inv := k.inv ++ [(line, k.invNext)], invNext := k.invNext + 1 }

/-- Invalidate a line at every sharer other than `writer` (R86). -/
def State.invalidateSharers (s : State) (line : Nat) (writer : Option Nat) : State :=
  let sh := s.sharers.rd [] line
  let out := sh.filter (fun c => some c ≠ writer)
  let s1 := out.foldl (fun (s : State) c => s.modCore c (fun k => k.invalidate line)) s
  let keep := sh.filter (fun c => some c = writer)
  { s1 with sharers := if keep.isEmpty then s1.sharers.del line else s1.sharers.put line keep }

/-- The strand of an access, for reservations. -/
def State.isStrand (who : Option (Nat × Nat × Nat)) (c w k : Nat) : Bool := who == some (c, w, k)

/-- Address of packet `i` of a queue's ring (R378). -/
def Queue.slotAddr (q : Queue) (i : Nat) : Nat := q.base + 64 * (i % q.size)

/-- A comparison code of R119 and R244. -/
def cmpHolds (cmp x y : Nat) : Bool :=
  match cmp with
  | 0 => decide (y ≤ x)
  | 1 => x == y
  | _ => x != y

/-- The wait command at the head of a queue holds: its word, committed, against VALUE (R121); false where it cannot be
read. -/
def State.waitHolds (s : State) (x : Nat) (q : Queue) : Bool :=
  match s.readV x (q.slotAddr q.ridx) 64 with
  | none => false
  | some p =>
    let n := leNat p
    match s.readV x (bitsOf n 64 64) 8 with
    | none => false
    | some w => cmpHolds (bitsOf n 192 3) (leNat w) (bitsOf n 128 64)

/-- The physical address of the word a queue's blocked head waits on. -/
def State.waitWord (s : State) (x : Nat) (q : Queue) : Option Nat :=
  match s.readV x (q.slotAddr q.ridx) 64 with
  | none => none
  | some p => match s.translate 0 x (bitsOf (leNat p) 64 64) Need.read with | .ok pa => some pa | .error _ => none

/-- A walk of the head's packet slot or of its word waits for an engine's line (R90, R356). -/
def State.waitHeld (s : State) (x : Nat) (q : Queue) : Bool :=
  s.rangeHeld 0 x Need.read (q.slotAddr q.ridx) 64 || match s.readV x (q.slotAddr q.ridx) 64 with
    | none => false
    | some p => s.rangeHeld 0 x Need.read (bitsOf (leNat p) 64 64) 8

/-- A write at a waited word's home evaluates the blocked queue again (R120). -/
def State.recheckQueues (s : State) (pa n : Nat) : State :=
  if s.ctxs.any (fun e => e.2.queues.any (fun q => q.2.st == .blocked)) then
    { s with ctxs := s.ctxs.mapV (fun x cx => { cx with queues := cx.queues.mapV (fun _ q =>
        if q.st == .blocked then
          match (if s.waitHeld x q then none else s.waitWord x q) with
          | some wp => if wp < pa + n ∧ pa < wp + 8 ∧ s.waitHolds x q then { q with st := .ready } else q
          | none => q
        else q) }) }
  else s

/-- A blocked queue whose condition holds is ready as time passes (R120): its word lies in another package or with the host (log 17), or a
walk to it had to wait when it was written (R90). -/
def State.farQueues (s : State) : State :=
  if s.ctxs.any (fun e => e.2.queues.any (fun q => q.2.st == .blocked)) then
    { s with ctxs := s.ctxs.mapV (fun x cx => { cx with queues := cx.queues.mapV (fun _ q =>
        if q.st == .blocked && !s.waitHeld x q && s.waitHolds x q
        then { q with st := .ready } else q) }) }
  else s

/-- Reservations of strands other than the writer are cleared by a write at its point (R86, R95). -/
def State.clearOthers (s : State) (who : Option (Nat × Nat × Nat)) (pa n : Nat) : State :=
  s.clearResv pa n (fun c _ w k _ => !State.isStrand who c w k)

/-- A write of host memory through the PCIe completer (R81), or of a register window (R378). -/
def State.hostStore (s : State) (core : Nat) (who : Option (Nat × Nat × Nat)) (pa : Nat) (bs : List Byte) : State :=
  let s1 := match Config.windowFrame (pa / 4096) with
    | some x => { s with winWrites := s.winWrites ++ [(x.1, x.2 % 4 * 4096 + pa % 4096, bs, core)] }
    | none => s.send (.hostWrite pa bs)
  s1.clearOthers who pa bs.length

/-- Bytes join the coherence order of the committed lines in one step: memory, invalidations of every sharer core but
the writer, reservations of other strands cleared (R86, R95), blocked queues evaluated again (R120). A frame of another
package is written by message, whose acknowledgement is waited for as `g` says (R367), host memory through the PCIe completer
(R81). -/
def State.commitFor (s : State) (g : Origin) (writer : Option Nat) (who : Option (Nat × Nat × Nat)) (pa : Nat) (bs : List Byte) : State :=
  match homeOf pa with
  | .remote p => s.sendFor g 3 p pa (g.vaOf pa) bs.length (bytesWords bs)
  | .host => s.hostStore (writer.getD 0) who pa bs
  | .cxl => s
  | .hbm =>
  let s1 := { s with mem := s.mem.wrBytes pa bs }
  let s2 := (linesOf pa bs.length).foldl (fun (s : State) l => s.invalidateSharers l writer) s1
  (s2.clearOthers who pa bs.length).recheckQueues pa bs.length

/-- A strand's bytes, or an agent's, join the coherence order. -/
def State.commitBytes (s : State) (writer : Option Nat) (who : Option (Nat × Nat × Nat)) (pa : Nat) (bs : List Byte) : State :=
  s.commitFor (s.originOf writer who) writer who pa bs

/-- No path is left to the home of a physical address in another package (R369). -/
def State.cutOff (s : State) (pa : Nat) : Bool := s.openPort.isNone && (match homeOf pa with | .remote _ => true | _ => false)

/-- Bytes written by an engine or another agent at home. -/
def State.agentWrite (s : State) (pa : Nat) (bs : List Byte) : State := s.commitBytes none none pa bs

/-- Bytes written by an agent for a context, with an epoch stamp (R100). -/
def State.ctxWrite (s : State) (x epoch pa : Nat) (bs : List Byte) : State := s.commitFor (Origin.forCtx x epoch) none none pa bs

/-! ## Versions (R97, R170) -/

/-- Distinct 256-byte lines of a byte table. -/
def linesIn (t : Tab Byte) : List Nat := distinct (t.map (fun e => e.1 / 256))

/-- The charge of one version or segment at the homes that `sel` picks (R170, R301). -/
def charge (t : Tab Byte) (reds : List RedEntry) (sel : Nat → Bool) : Nat :=
  256 * ((linesIn t).filter (fun l => sel (256 * l))).length + 16 * (reds.filter (fun r => sel r.pa)).length

/-- The charge of a crew's version and segments at the selected homes. -/
def Crew.charge (cr : Crew) (sel : Nat → Bool) : Nat :=
  Sys2Proof.Machine.charge cr.ver cr.held sel + (cr.segs.vals.map (fun g => Sys2Proof.Machine.charge g.bytes g.reds sel)).sum

/-- A crew's task capacity in bytes (R170). -/
def State.capacity (s : State) (cr : Crew) : Nat :=
  match s.kernel? cr.kernel with
  | some k => (if k.vcap = 0 then 256 else k.vcap) * 1024
  | none => 0

/-- The crew `cr` as a candidate state keeps within its task's capacity and every die's version space (R170). -/
def State.fits (s : State) (c : Nat) (cr : Crew) : Bool :=
  decide (cr.charge (fun _ => true) ≤ s.capacity cr) &&
  (List.range 4).all (fun d =>
    let sel (pa : Nat) : Bool := homeDie pa == d
    let saved := s.ctxs.flatMap (fun x => x.2.saves.map (fun i => i.crew.charge sel))
    decide (cr.charge sel + ((s.crews.filter (fun e => e.1 ≠ c)).map (fun e => e.2.charge sel)).sum + saved.sum ≤ Config.versionSpace))

/-- Write bytes into a table that lists everything written. -/
def putBytes (t : Tab Byte) (pa : Nat) (bs : List Byte) : Tab Byte :=
  (List.range bs.length).foldl (fun (t : Tab Byte) i => t.put (pa + i) (bs.getD i 0)) t

/-- Runs of consecutive addresses in a byte table, as (address, bytes). -/
def runs : Tab Byte → List (Nat × List Byte)
  | [] => []
  | (a, b) :: t =>
    match runs t with
    | (a', bs) :: r => if a' = a + 1 ∧ a' % 256 ≠ 0 then (a, b :: bs) :: r else (a, [b]) :: (a', bs) :: r
    | [] => [(a, [b])]

/-- Commit a crew's version in one step (R97): its bytes join the committed lines, every sharer is invalidated, the held
reductions enter the partitions' queues. -/
def State.commitVersion (s : State) (c : Nat) : State :=
  match s.crew? c with
  | none => s
  | some cr =>
    let s1 := (runs cr.ver).foldl (fun (s : State) e => s.commitFor (s.originCrew c cr.core) none none e.1 e.2) s
    let s2 := { s1 with reds := s1.reds ++ cr.held, poison := s1.poison.filter (fun l => !cr.mended.contains l) }
    let s3 := s2.modCrew c (fun cr => { cr with ver := [], held := [], mended := [] })
    let mine := ((s3.core cr.core).l1.filter (fun l => l.crew == some c && decide (5 ≤ l.tag))).map (·.line)
    let s4 := { s3 with sharers := mine.foldl (fun (t : Tab (List Nat)) l => t.put l (distinct ((t.rd [] l) ++ [cr.core]))) s3.sharers }
    s4.modCore cr.core (fun k => { k with l1 := k.l1.map (fun l => if l.crew == some c then { l with crew := none } else l) })

/-- The kernel of a crew forbids irrevocable tasks (NOIRREV). -/
def State.noirrev (s : State) (cr : Crew) : Bool := match s.kernel? cr.kernel with | some k => k.noirrev | none => false

/-- A write's bytes as its home takes them (R86, R97, R301, R170): into the lane's segment, the task's version, or the committed
line. A capacity that would be exceeded takes the path of R170 or R301. `self` is the strand whose reservation stays (R95), `g` what
waits for an acknowledgement. -/
def State.storeHomeFor (s : State) (g : State → Crew → Origin) (self : Option (Nat × Nat × Nat)) (c : Nat) (direct : Bool)
    (seg : Option Nat) (who : Nat × Nat × Nat) (hdr cls : Nat) (pa : Nat) (bs : List Byte) : State :=
  match s.crew? c with
  | none => s.commitBytes none self pa bs
  | some cr =>
    let sameCrew (s : State) : State := s.clearResv pa bs.length (fun c' _ w k _ => c' == c && !State.isStrand self c' w k)
    match seg with
    | some g =>
      match cr.segs.find? g with
      | none => s
      | some sg =>
        let cr' := { cr with segs := cr.segs.put g { sg with bytes := putBytes sg.bytes pa bs } }
        if s.fits c cr' then sameCrew (s.modCrew c (fun _ => cr'))
        else s.trap who.1 who.2.1 who.2.2 Cause.carillonOverflow hdr cls
    | none =>
      if direct || cr.direct then s.commitFor (g s cr) (some cr.core) self pa bs
      else if cr.task == .stopped then s
      else
        let cr' := { cr with ver := putBytes cr.ver pa bs }
        if s.fits c cr' then sameCrew (s.modCrew c (fun _ => cr'))
        else if s.noirrev cr then s.trap who.1 who.2.1 who.2.2 Cause.versionOverflow hdr cls
        else
          let s1 := (s.commitVersion c).modCrew c (fun cr => { cr with task := .irrevocable })
          s1.commitFor (g s1 cr) (some cr.core) self pa bs

/-- A write-queue entry's bytes, for address `va` as formed, as its home takes them. -/
def State.storeHome (s : State) (c : Nat) (direct : Bool) (seg : Option Nat) (who : Nat × Nat × Nat) (hdr cls : Nat)
    (va pa : Nat) (bs : List Byte) : State :=
  s.storeHomeFor (fun s cr => { s.originOf (some cr.core) (some who) with vas := [(pa / 4096, va / 4096)] }) (some who) c direct seg who hdr cls
    pa bs

/-- Bytes an engine operation writes for its task: an agent other than the strand (R95); the operation waits for another package's
acknowledgement (R91). -/
def State.storeEngine (s : State) (o : Nat) (op : Op) (direct : Bool) (seg : Option Nat) (cls pa : Nat) (bs : List Byte) : State :=
  s.storeHomeFor (fun _ _ => op.origin o) none op.crew direct seg (op.crew, op.wave, op.strand) op.hdr cls pa bs

/-- Such bytes of an engine whose destination pages are given. -/
def State.storeEngineAt (s : State) (o : Nat) (op : Op) (vas : Tab Nat) (cls pa : Nat) (bs : List Byte) : State :=
  s.storeHomeFor (fun _ _ => { op.origin o with vas := vas }) none op.crew false none (op.crew, op.wave, op.strand) op.hdr cls pa bs

/-- A reduction update by a crew (R97, R225, R301): held in the lane's segment or the version, or entered in the
partition's queue. -/
def State.holdRed (s : State) (c : Nat) (seg : Option Nat) (who : Nat × Nat × Nat) (hdr cls : Nat) (r : RedEntry) : State × Bool :=
  match s.crew? c with
  | none => ({ s with reds := s.reds ++ [r] }, false)
  | some cr =>
    let r0 := { r with done := none }
    let sameCrew (s : State) : State := s.clearResv r.pa (atBytes r.ty) (fun c' _ w k _ => c' == c && !State.isStrand (some who) c' w k)
    match seg with
    | some g =>
      match cr.segs.find? g with
      | none => (s, true)
      | some sg =>
        let cr' := { cr with segs := cr.segs.put g { sg with reds := sg.reds ++ [r0] } }
        if s.fits c cr' then (sameCrew (s.modCrew c (fun _ => cr')), true)
        else (s.trap who.1 who.2.1 who.2.2 Cause.carillonOverflow hdr cls, true)
    | none =>
      if cr.direct then ({ s with reds := s.reds ++ [r] }, false)
      else if cr.task == .stopped then (s, true)
      else
        let cr' := { cr with held := cr.held ++ [r0] }
        if s.fits c cr' then (sameCrew (s.modCrew c (fun _ => cr')), true)
        else if s.noirrev cr then (s.trap who.1 who.2.1 who.2.2 Cause.versionOverflow hdr cls, true)
        else
          let s1 := (s.commitVersion c).modCrew c (fun cr => { cr with task := .irrevocable })
          ({ s1 with reds := s1.reds ++ [r] }, false)

/-! ## L1 (R81, R84, R85, R87) -/

/-- The scope a line tag records, and a scope acts as (R81): core for wave to core, package for pod to package. -/
def actScope (sc : Nat) : Nat := if sc ≤ 2 then 2 else if sc ≤ 5 then 5 else sc

/-- The L1 line of an address that serves a lane's load (R97, R302). -/
def Core.lineFor (k : Core) (line : Nat) (crew : Nat) (enumd : Option (Nat × Nat)) : Option Line :=
  k.l1.find? (fun l => l.line == line && (match l.lane with
    | some x => enumd == some x
    | none => (match l.crew with | some c => c == crew | none => true)))

/-- Lines that a core's L1 holds: what the scratchpad leaves of the array (R3, R129). -/
def Core.l1Lines (k : Core) : Nat := (Config.l1Bytes - 262144 * k.split) / 256

/-- Put a line into an L1 in place of the one it replaces. A full L1 loses the line longest unplaced (log 61). -/
def Core.putLine (k : Core) (l : Line) : Core :=
  { k with l1 := (l :: k.l1.filter (fun m =>
      !(m.line == l.line && m.lane == l.lane && (m.crew == l.crew || m.crew.isNone || l.crew.isNone)))).take k.l1Lines }

/-- A line's bytes overwritten from a device address on. -/
def Line.store (l : Line) (pa : Nat) (bs : List Byte) : Line :=
  { l with bytes := (List.range bs.length).foldl (fun (t : Tab Byte) i =>
      if (pa + i) / 256 = l.line then t.put ((pa + i) % 256) (bs.getD i 0) else t) l.bytes }

/-- The newest byte a core's write queue holds for an address, as a crew or enumerated lane may see it (R81). -/
def Core.forward (k : Core) (crew : Nat) (segs : List Nat) (pa : Nat) : Option Byte :=
  (k.wq.reverse.find? (fun e => decide (e.pa ≤ pa) && decide (pa < e.pa + e.bytes.length) &&
    (match e.seg with | some g => segs.contains g | none => e.direct || e.crew == crew))).bind (fun e => e.bytes[pa - e.pa]?)

/-- The lanes' marks after a load served at home: the highest number the core's invalidation queue has given (R84). -/
def State.setMarks (s : State) (c w : Nat) (m : LaneMask) : State :=
  match s.crew? c with
  | none => s
  | some cr =>
    let top := (s.core cr.core).invNext - 1
    s.modWave c w (fun wv => { wv with marks := (lanesOf m).foldl (fun (t : Tab Nat) l => t.wr 0 l top) wv.marks })

/-! ## The scratchpad array (R92) -/

/-- No copy in flight has recorded a range that overlaps these scratchpad bytes (R92). -/
def State.spadFree (s : State) (c lo n : Nat) : Bool :=
  match s.crew? c with
  | none => true
  | some cr => !(s.core cr.core).ranges.any (fun r => r.crew == c && decide (r.lo < lo + n) && decide (lo < r.lo + r.len))

/-- Write scratchpad bytes of a crew. -/
def State.spadWrite (s : State) (c lo : Nat) (bs : List Byte) : State :=
  s.modCrew c (fun cr => { cr with sp := cr.sp.wrBytes lo bs })

/-- Read scratchpad bytes of a crew. -/
def Crew.spadRead (cr : Crew) (lo n : Nat) : List Byte := cr.sp.bytes lo n

end Sys2Proof.Machine
end

