-- ==== Sys2Proof/Machine/Operands.lean ====
section
/-!
DEFINITION. Operand forms: register groups of either class (R46, R47, R61), the memory operand (R64), the checks an
instruction makes before it acts (R48, R62, R298), and the shape of lane-wise execution (R182).
-/

namespace Sys2Proof.Machine

open Sys2Proof Host

/-! ## Register groups -/

/-- A group of `n` registers read as one number, low word in the first register: of lane `l` for a v operand. -/
def Wave.rd (w : Wave) (isS : Bool) (r l : Nat) : Nat → Nat
  | 0 => 0
  | n + 1 => (if isS then w.s r else w.v r l).toNat + 2 ^ 32 * Wave.rd w isS (r + 1) l n

/-- The register elements of a group and the words of a number for them. -/
def wrGroup (isS : Bool) (r l : Nat) : Nat → Nat → List (Nat × Word)
  | 0, _ => []
  | n + 1, v => (if isS then sKey r else vKey r l, BitVec.ofNat 32 v) :: wrGroup isS (r + 1) l n (v / 2 ^ 32)

/-- The register elements of a group. -/
def groupKeys (isS : Bool) (r l n : Nat) : List Nat := (wrGroup isS r l n 0).map (·.1)

/-- A v group named by an operand, for R48. -/
def vNamed (isS : Bool) (r : BitVec 8) (n : Nat) : List (Nat × Nat) := if isS then [] else [(r.toNat, n)]

end Sys2Proof.Machine

namespace Sys2Proof

open Sys2Proof.Machine

/-- Bits of an element under TY (R185). -/
def Fields.width (f : Fields) : Nat := if 2 ≤ f.ty then 64 else 32

/-- Registers of an element under TY (R185). -/
def Fields.words (f : Fields) : Nat := if 2 ≤ f.ty then 2 else 1

/-- TY reads integers as signed (R185). -/
def Fields.signed (f : Fields) : Bool := f.ty % 2 == 0

/-- The floating-point format of TY (R185). -/
def Fields.fmt (f : Fields) : Fmt := if f.ty = 1 then fp64 else fp32

/-- Registers of a floating-point element. -/
def Fields.fwords (f : Fields) : Nat := if f.ty = 1 then 2 else 1

/-- Operand A in a lane, `n` registers. -/
def Fields.ra (f : Fields) (w : Wave) (n l : Nat) : Nat := w.rd f.ka f.a.toNat l n

/-- Operand B in a lane. -/
def Fields.rb (f : Fields) (w : Wave) (n l : Nat) : Nat := w.rd f.kb f.b.toNat l n

/-- Operand C in a lane. -/
def Fields.rc (f : Fields) (w : Wave) (n l : Nat) : Nat := w.rd f.kc f.c.toNat l n

/-- Operand D, as a source, in a lane. -/
def Fields.rD (f : Fields) (w : Wave) (n l : Nat) : Nat := w.rd f.kd f.d.toNat l n

/-- Operand A of an immediate form. -/
def ImmFields.ra (f : ImmFields) (w : Wave) (n l : Nat) : Nat := w.rd f.ka f.a.toNat l n

/-! ## The memory operand (R64) -/

/-- B is present as a memory index (R61, R64). -/
def Fields.hasIndex (f : Fields) : Bool := f.kb || f.b != 0

/-- The index of a memory operand in a lane: 32 bits, signed; 0 where there is none. -/
def Fields.index (f : Fields) (w : Wave) (l : Nat) : Int := if f.hasIndex then sextNat 32 (f.rb w 1 l) else 0

/-- The offset field C, signed 8 bits. -/
def Fields.off (f : Fields) : Int := f.c.toInt

/-- The address of a memory operand in a lane (R64): `na` is 2 for device and 1 for scratchpad addresses, `unit` the
width the offset counts in, 0 for an instruction whose C carries data. -/
def Fields.addr (f : Fields) (w : Wave) (l na unit : Nat) : Nat :=
  wrapNat (32 * na) ((f.ra w na l : Int) + f.index w l * (2 ^ f.scale : Nat) + f.off * (unit : Int))

/-- The v registers a memory operand names. -/
def Fields.memNamed (f : Fields) (na : Nat) : List (Nat × Nat) :=
  vNamed f.ka f.a na ++ (if f.hasIndex then vNamed f.kb f.b 1 else [])

end Sys2Proof

namespace Sys2Proof.Machine

open Sys2Proof Host

/-! ## Checks before an instruction acts -/

/-- The instructions a wave with an open chunk may issue, by class and opcode (R298). -/
def chunkAllows (i : Instr) : Bool :=
  match opcodeOf i with
  | some (0, _) => true
  | some (1, o) => [0x00, 0x01, 0x02, 0x0C, 0x10, 0x11, 0x12, 0x18, 0x19, 0x1A].contains o
  | some (4, o) => o == 0x01 || o == 0x02 || (o == 0x07 && !((fieldsOf i).elim false (fun f => f.m 0)))
  | some (7, o) => [0x00, 0x81, 0x02, 0x83, 0x04, 0x05, 0x06, 0x86, 0x08, 0x89, 0x10, 0x11, 0x12].contains o
  | some (8, o) => o == 0x00
  | _ => false

/-- The wave has an open or overflowed chunk (R300). -/
def Wave.inChunk (w : Wave) : Bool := w.sm.any (fun e => e.2.st == .opened || e.2.st == .overflowed)

/-- The open chunk forbids the instruction (R298). -/
def Wave.chunkForbids (w : Wave) (i : Instr) : Bool :=
  w.inChunk && (!chunkAllows i || (match w.clause with | some c => c.hdr.tb | none => false))

/-- A lane-guarded instruction issues (R62): the open chunk must allow it, an empty lane set has no effect, and every
v register named must lie in a block the wave holds (R48). `body` is given the strand and its active lanes. -/
def State.laned (s : State) (i : Instr) (pn : Bool) (pred : BitVec 3) (vs : List (Nat × Nat))
    (body : Cursor → Crew → Wave → LaneMask → State) : Outcome State Fault Refusal :=
  match s.curWave with
  | none => .next s
  | some (q, cr, w) =>
    let act := w.active q.strand pn pred.toNat
    if w.chunkForbids i then .next (s.trapHdr Cause.protection)
    else if act = 0 then .next s
    else if vs.any (fun g => !w.holds g.1 g.2) then .next (s.trapHdr Cause.protection)
    else .next (body q cr w act)

/-- A wave instruction issues (R62): it acts for the strand as a whole. -/
def State.waved (s : State) (i : Instr) (vs : List (Nat × Nat))
    (body : Cursor → Crew → Wave → State) : Outcome State Fault Refusal :=
  match s.curWave with
  | none => .next s
  | some (q, cr, w) =>
    if w.chunkForbids i then .next (s.trapHdr Cause.protection)
    else if vs.any (fun g => !w.holds g.1 g.2) then .next (s.trapHdr Cause.protection)
    else .next (body q cr w)

/-! ## Lane-wise execution (R182, R183) -/

/-- The register writes of a lane-wise instruction: every active lane for a v destination, once for an s destination. -/
def laneWrites (kd : Bool) (d n : Nat) (act : LaneMask) (val : Nat → Nat) : List (Nat × Word) :=
  (if kd then (lanesOf act).take 1 else lanesOf act).flatMap (fun l => wrGroup kd d l n (val l))

/-- A lane-wise instruction with destination D of `n` registers: all sources are read before any write (R183). -/
def State.laneOp (s : State) (i : Instr) (pn : Bool) (pred : BitVec 3) (kd : Bool) (d : BitVec 8) (n : Nat)
    (vs : List (Nat × Nat)) (val : Wave → LaneMask → Nat → Nat) : Outcome State Fault Refusal :=
  s.laned i pn pred (vNamed kd d n ++ vs) (fun q _ w act =>
    s.writeRegs q.crew q.wave (laneWrites kd d.toNat n act (val w act)))

/-- A lane-wise instruction with a predicate destination: only active lanes' bits are written (R182), and an older operation no longer
writes them (R178). -/
def State.predOp (s : State) (i : Instr) (pn : Bool) (pred : BitVec 3) (d : BitVec 8) (vs : List (Nat × Nat))
    (val : Wave → LaneMask → Nat → Bool) : Outcome State Fault Refusal :=
  s.laned i pn pred vs (fun q _ w act =>
    (s.killDst q.crew q.wave s.next ((lanesOf act).map (pKey d.toNat))).modWave q.crew q.wave (fun x =>
      x.setP d.toNat ((x.p d.toNat &&& ~~~act) ||| (maskOf (val w act) &&& act))))

end Sys2Proof.Machine
end

