-- ==== Sys2Proof/Machine/Flags.lean ====
section
/-!
DEFINITION. Completion flags (R54, R56, R58), the acquire half of a fence (R88, R99), future handles (R246), and the
launch of a long-latency operation.
-/

namespace Sys2Proof.Machine

open Sys2Proof Host

/-- A flag's pending count (R56). -/
def Wave.flag (w : Wave) (n : Nat) : Nat := w.fl.rd 0 n

/-- The flag an instruction of a clause selects (R58). -/
def flagOf (h : Header) (fs : Bool) : Nat := if fs then h.bflag else h.aflag

/-- A clause's flags allow it to start (R54): every flag of WAIT is 0, and the set flags can absorb the clause's
long-latency instructions. -/
def Wave.flagsAllow (w : Wave) (h : Header) (is : List Instr) : Bool :=
  let long (n : Nat) : Nat := (is.filter (fun i => longLatency i && flagOf h (fsOf i) == n)).length
  (List.range 12).all (fun n => (!h.wait.getLsbD n || w.flag n == 0) && decide (w.flag n + long n ≤ 63))

/-- WAIT alone, where the words do not decode: the trap is raised only for a clause that would start now (R52). -/
def Wave.waitAllows (w : Wave) (h : Header) : Bool := (List.range 12).all (fun n => !h.wait.getLsbD n || w.flag n == 0)

/-! ## The acquire half (R88 step 4) -/

/-- Apply every entry of a core's invalidation queue (R87). -/
def Core.applyAll (k : Core) : Core :=
  { k with l1 := k.l1.filter (fun l => l.tag ≤ 2 || !k.inv.any (fun e => e.1 == l.line)), inv := [] }

/-- Drop L1 lines tagged narrower than a scope (R88). -/
def Core.dropNarrow (k : Core) (sc : Nat) : Core := { k with l1 := k.l1.filter (fun l => decide (actScope sc ≤ l.tag)) }

/-- The highest mark of a wave's lanes. -/
def Wave.topMark (w : Wave) : Nat := w.marks.foldl (fun m e => max m e.2) 0

/-- Every lane's mark becomes the highest. -/
def Wave.mergeMarks (w : Wave) : Wave :=
  if w.topMark = 0 then w else { w with marks := (List.range 128).map (fun l => (l, w.topMark)) }

/-- The acquire half at a scope, for a wave (R88 step 4, R99). -/
def State.acquire (s : State) (c w sc : Nat) : State :=
  match s.crew? c with
  | none => s
  | some cr =>
    let s1 := if 3 ≤ sc then s.modCore cr.core (fun k => k.applyAll.dropNarrow sc) else s
    s1.modWave c w Wave.mergeMarks

/-- The acquiring side of every flag a clause waits on (R99): engine completions carry the scope of their destination, and what has
been acquired is not acquired again. -/
def State.acquireFlags (s : State) (c w : Nat) (h : Header) : State :=
  match s.wave? c w with
  | none => s
  | some wv =>
    (List.range 12).foldl (fun (s : State) n =>
      if h.wait.getLsbD n && wv.facq.rd 0 n != 0 then
        (s.acquire c w (wv.facq.rd 0 n)).modWave c w (fun x => { x with facq := x.facq.wr 0 n 0 }) else s) s

/-- An engine operation's completion at a scope is recorded on its flag (R99). -/
def State.noteAcquire (s : State) (op : Op) (sc : Nat) : State :=
  match s.crew? op.crew with
  | none => s
  | some cr =>
    if cr.attempt ≠ op.attempt then s
    else s.modWave op.crew op.wave (fun w => { w with facq := w.facq.wr 0 op.flag (max sc (w.facq.rd 0 op.flag)) })

/-- A completion of gang scope is recorded on the operation's future too (R99, R248). -/
def State.noteFuture (s : State) (op : Op) (o sc : Nat) : State :=
  if sc ≤ 5 then s else s.modWave op.crew op.wave (fun w => { w with hd := w.hd.mapV (fun _ h =>
    if h.op = o ∧ (h.code = 1 ∨ h.code = 2) then { h with scope := max sc h.scope } else h) })

/-! ## Launching a long-latency operation -/

/-- An operation as its instruction issues: nothing captured yet. -/
def newOp (s : State) (q : Cursor) (cr : Crew) (w : Wave) (i : Instr) (lanes : LaneMask) : Op where
  crew := q.crew
  wave := q.wave
  strand := q.strand
  attempt := cr.attempt
  ctx := cr.ctx
  hdr := w.clauseAddr
  instr := i
  lanes := lanes
  flag := match w.clause with | some c => flagOf c.hdr (fsOf i) | none => 0
  st := .queued
  epoch := (s.ctx cr.ctx).epoch
  av := 0
  bv := 0
  cv := 0
  dv := 0
  blk := []
  vcap := []
  xo := w.xo
  elems := []
  dsts := []
  buf := []
  cap := []
  scale := 0
  rows := []
  off := 0
  len := 0
  lines := []
  entry := 0
  phys := 0
  phys2 := 0
  waits := []
  count := 0

/-- A long-latency instruction issues: its operation enters the wave's issue queue, takes its result elements from those issued
before it (R178), and its flag counts up (R56). -/
def State.launch (s : State) (op : Op) : State :=
  let s1 := s.killDst op.crew op.wave s.next op.dsts
  { s1 with ops := s1.ops.put s.next op, next := s.next + 1 }.modWave op.crew op.wave (fun w =>
    { w with fl := w.fl.wr 0 op.flag (w.flag op.flag + 1) })

/-- Bind a handle to an operation, as pending (R246). -/
def State.bindHandle (s : State) (c w h o scope : Nat) : State :=
  s.modWave c w (fun wv => { wv with hd := wv.hd.put h ⟨1, o, scope⟩ })

/-- Launch with the future of HV and HN (R266), where the instruction names one. -/
def State.launchH (s : State) (op : Op) (scope : Nat) : State :=
  match fieldsOf op.instr with
  | some f =>
    if f.m 7 then (s.launch { op with phys2 := f.mb 3 4 + 1 }).bindHandle op.crew op.wave (f.mb 3 4) s.next scope else s.launch op
  | none => s.launch op

end Sys2Proof.Machine
end

