-- ==== Sys2Proof/Machine/Strand.lean ====
section
/-!
DEFINITION. Strands of a wave: splits (R145, R147), join points (R146), pre-arrivals that can no longer arrive (R238),
lanes that end (R144), and the release half of a fence (R88).
-/

namespace Sys2Proof.Machine

open Sys2Proof Host

/-! ## Parts (R145) -/

/-- The parts of a branch: lanes by destination, ascending. -/
def partsOf (l : List (Nat × Nat)) : List (Nat × LaneMask) :=
  l.foldl (fun (t : Tab LaneMask) e => t.put e.1 (t.rd 0 e.1 ||| laneBit e.2)) []

/-- A strand newly split off: runnable, age 0. -/
def Strand.fresh (pc : Nat) (m : LaneMask) : Strand := { Strand.unused with st := .runnable, mask := m, pc := pc }

/-- The unused strand slots, ascending. -/
def Wave.freeSlots (w : Wave) : List Nat := (List.range 4).filter (fun k => !(w.strand k).isLive)

/-- Put parts into slots, in order. -/
def Wave.putParts (w : Wave) : List Nat → List (Nat × LaneMask) → Wave
  | k :: ks, p :: ps => Wave.putParts (w.modStrand k (fun _ => Strand.fresh p.1 p.2)) ks ps
  | _, _ => w

/-- Step 3 of R145 for a strand and its parts: what is placed in the free slots, and the parts the strand keeps; one part
means it goes on. -/
def Wave.place (w : Wave) (parts : List (Nat × LaneMask)) : Wave × List (Nat × LaneMask) :=
  match parts with
  | [] => (w, [])
  | p :: ps =>
    let free := w.freeSlots
    (w.putParts free ps, p :: ps.drop free.length)

/-- The union of the masks of parts. -/
def maskParts (l : List (Nat × LaneMask)) : LaneMask := l.foldl (fun m p => m ||| p.2) 0

/-! ## Join points (R146) and splits that can resume -/

/-- A strand waits at an uncompleted join point, its limit not over. -/
def Strand.joinAt (st : Strand) : Option (Nat × Nat) :=
  match st.st with
  | .waiting (.join pc tag _) => if st.woken || st.expired then none else some (tag, pc)
  | _ => none

/-- A strand waits on a split that has not resumed. -/
def Strand.onSplit (st : Strand) : Bool :=
  match st.st with | .waiting (.split _ _) => !st.woken | _ => false

/-- A strand is in pre-arrival (R238). -/
def Strand.preArr (st : Strand) : Option (Nat × Nat × Nat × Instr) :=
  match st.st with | .waiting (.preArrival l a h i) => some (l, a, h, i) | _ => none

/-- The strands of a wave that wait at the same join point as a lower one, each with the lowest (R146). -/
def Wave.merges (w : Wave) : List (Nat × Nat) :=
  (List.range 4).filterMap (fun k =>
    match (w.strand k).joinAt with
    | none => none
    | some j => ((List.range k).find? (fun i => (w.strand i).joinAt == some j)).map (fun i => (k, i)))

/-- Strand `k` merges into strand `i` (R146, R158): masks unite, members share one wait. -/
def Wave.merge (w : Wave) (k i : Nat) : Wave :=
  match (w.strand i).st, (w.strand k).st with
  | .waiting (.join pc tag low), .waiting (.join _ _ high) =>
    (w.modStrand i (fun st => { st with
      st := .waiting (.join pc tag (low ++ high)), mask := st.mask ||| (w.strand k).mask, tend := st.tend || (w.strand k).tend })).modStrand k
      (fun _ => Strand.unused)
  | _, _ => w

/-- Strands waiting at one join point merge (R146). -/
def Wave.mergeJoins (w : Wave) : Wave := w.merges.foldl (fun (w : Wave) e => w.merge e.1 e.2) w

/-- Strand `k` of a wave is no more: no LR of it in flight gives a strand of its slot a reservation (R150). -/
def State.dropLr (s : State) (c w k : Nat) : State :=
  { s with ops := s.ops.mapV (fun _ op => match op.instr with
      | .lr _ => if op.crew = c ∧ op.wave = w ∧ op.strand = k then { op with count := 2 ^ 32 } else op
      | _ => op) }

/-- Strand `k` has merged into strand `i` at a join point: what its wait is to write, strand `i`'s now is (R158). -/
def State.absorbStrand (s : State) (c w k i : Nat) : State :=
  let s1 := s.dropLr c w k
  { s1 with waitDst := s1.waitDst.map (fun e => if e.1 = c ∧ e.2.1 = w ∧ e.2.2.1 = k then (c, w, i, e.2.2.2) else e) }

/-- Strands waiting on a split place further parts, and resume with their first part once all others are placed. Of several, the lowest
takes a slot that has come free first (DESIGN CHOICE, log 94). -/
def Wave.resumeSplits (w : Wave) : Wave :=
  (List.range 4).foldl (fun (w : Wave) k =>
    match (w.strand k).st with
    | .waiting (.split parts hdr) =>
      if (w.strand k).woken then w else
      let r := w.place parts
      let keep := r.2
      r.1.modStrand k (fun st => { st with
        st := .waiting (.split keep hdr), mask := maskParts keep, woken := decide (keep.length ≤ 1),
        pc := if keep.length ≤ 1 then (keep.map (·.1)).headD st.pc else st.pc })
    | _ => w) w

/-- The join points that could complete, highest tag first, then lowest address: every other live strand waits at another
join point, on a split, or in pre-arrival (R146, R238). -/
def Wave.completeJoin (w : Wave) : Wave :=
  let live := w.liveStrands
  let ok (k : Nat) : Bool := live.all (fun i => i == k || (w.strand i).joinAt.isSome || (w.strand i).onSplit || (w.strand i).preArr.isSome)
  let cand := live.filter (fun k => (w.strand k).joinAt.isSome && ok k)
  let best := cand.foldl (fun (b : Option Nat) k =>
    match b with
    | none => some k
    | some i =>
      match (w.strand i).joinAt, (w.strand k).joinAt with
      | some (t1, p1), some (t2, p2) => if t1 < t2 ∨ (t1 = t2 ∧ p2 < p1) then some k else some i
      | _, _ => some i) none
  match best with
  | none => w
  | some k => w.modStrand k (fun st => { st with woken := true })

/-- Merging, placing and completing until nothing changes: at most a few rounds with four strands. -/
def Wave.reconvergeN : Nat → Wave → Wave
  | 0, w => w
  | n + 1, w => Wave.reconvergeN n w.mergeJoins.resumeSplits.completeJoin

/-- The wave's reconvergence after any of its strands waits, merges, splits or ends. -/
def Wave.reconverge (w : Wave) : Wave := Wave.reconvergeN 4 w

/-- After a strand's event: reconvergence, then the traps of R147 (every live strand on a split) and R238 (every live
strand in pre-arrival or on a split, not all at one object with one instruction), with ADDR `hdr`; then the wave
chooses afresh if none runs. -/
def State.settleStrands (s : State) (c w k hdr : Nat) : State :=
  let s1 := ((s.wave? c w).elim [] Wave.merges).foldl (fun (s : State) e => s.absorbStrand c w e.1 e.2) (s.modWave c w Wave.reconverge)
  match s1.wave? c w with
  | none => s1
  | some wv =>
    let live := wv.liveStrands
    if live.isEmpty then s1
    else if live.all (fun i => (wv.strand i).onSplit) then s1.trap c w k Cause.illegalConvergence hdr 7
    else if live.all (fun i => (wv.strand i).onSplit || (wv.strand i).preArr.isSome) &&
        !(live.all (fun i => (wv.strand i).preArr.isSome) &&
          (distinct (live.map (fun i => (wv.strand i).preArr))).length == 1) then
      s1.trap c w k Cause.barrierUnreachable hdr 7
    else s1.choose c w

/-- A branch of the issuing strand (R145): lanes with their destinations, `act` unused lanes of the strand excluded. -/
def State.branch (s : State) (dests : List (Nat × Nat)) : State :=
  match s.curWave with
  | none => s
  | some (q, _, w) =>
    let r := w.place (partsOf dests)
    let keep := r.2
    let hdr := w.clauseAddr
    if keep.length ≤ 1 then
      s.modWave q.crew q.wave (fun _ => r.1.modStrand q.strand (fun st => { st with
        mask := maskParts keep, pc := (keep.map (·.1)).headD st.pc }))
    else
      (s.modWave q.crew q.wave (fun _ => r.1.modStrand q.strand (fun st => { st with
        st := .waiting (.split keep hdr), mask := maskParts keep, woken := false, waitHdr := hdr }))).settleStrands
        q.crew q.wave q.strand hdr

/-! ## The release half (R88 steps 1 to 3) -/

/-- An element has completed (R82). -/
def Elem.done (e : Elem) : Bool := match e.st with | .complete => true | _ => false

/-- An instruction is an access of the wave's issue queue, which strand order holds to (R83): not CONFL, a fence or PREF. -/
def isAccess (i : Instr) : Bool :=
  match opcodeOf i with
  | some (1, o) => o != 0x18 && o != 0x19 && o != 0x1A && o != 0x12
  | _ => false

/-- An access a FENCE waits for (R88): GATH and plain SCAT are operations of an engine, which it does not wait for (R90, R229). -/
def fenceWaits (i : Instr) : Bool :=
  isAccess i && (match i with | .gath _ => false | .scat f => f.aop != 0 | _ => true)

/-- Operation `o` has completed for the lanes of a mask. -/
def State.opDoneFor (s : State) (o : Nat) (m : LaneMask) : Bool :=
  match s.op? o with
  | none => true
  | some op => op.elems.all (fun e => e.done || e.mask &&& m = 0)

/-- What a release at a scope waits for, at this step (R88): older accesses of the wave's lanes `m`; at pod or wider the
core's write-queue entries; at gang or wider the core's messages. -/
def State.releaseList (s : State) (c w : Nat) (m : LaneMask) (sc : Nat) : List Nat :=
  match s.crew? c with
  | none => []
  | some cr =>
    let acc := (s.ops.filter (fun e => e.2.crew == c && e.2.wave == w && fenceWaits e.2.instr && !s.opDoneFor e.1 m)).map (fun e => 3 * e.1)
    let wq := if 3 ≤ sc then (s.core cr.core).wq.map (fun e => 3 * e.id + 1) else []
    let msg := if 6 ≤ sc then (s.pend.filter (fun e => e.2.core == cr.core)).map (fun e => 3 * e.1 + 2) else []
    acc ++ wq ++ msg

/-- One item of a release list has come about. -/
def State.released (s : State) (m : LaneMask) (x : Nat) : Bool :=
  if x % 3 = 0 then s.opDoneFor (x / 3) m
  else if x % 3 = 1 then !s.cores.any (fun k => k.2.wq.any (fun e => e.id == x / 3)) && !s.pend.any (fun e => e.2.entry == x / 3)
  else (s.pend.find? (x / 3)).isNone

/-- The issuing instruction must wait: it issues again, and nothing else happens. -/
def State.retry (s : State) : State := { s with cur := s.cur.map (fun q => { q with again := true }) }

/-- The release half of the issuing instruction for all lanes of its wave (R99, R239): what it waits for is captured when
it first tries to issue; `body` runs once all of it has come about. -/
def State.afterRelease (s : State) (sc : Nat) (body : State → State) : State :=
  match s.curWave with
  | none => s
  | some (q, _, w) =>
    let l := match (w.strand q.strand).rel with
      | some l => l
      | none => s.releaseList q.crew q.wave allLanes sc
    let left := l.filter (fun x => !s.released allLanes x)
    if left.isEmpty then body (s.modCurStrand (fun st => { st with rel := none }))
    else (s.modCurStrand (fun st => { st with rel := some left })).retry

/-! ## Irrevocability (R98, R181) -/

/-- The crew's write-queue entries of a versioned task. -/
def State.taskEntries (s : State) (c : Nat) : List WEntry :=
  match s.crew? c with
  | none => []
  | some cr => (s.core cr.core).wq.filter (fun e => e.crew == c && !e.direct)

/-- TIRREV's effect, which R98's accesses take first: where the task is versioned, wait until its entries have drained,
commit the version and go on irrevocably; under NOIRREV the version-overflow trap. Then `body`. -/
def State.irrevocably (s : State) (body : State → State) : State :=
  match s.curWave with
  | none => s
  | some (q, cr, _) =>
    if cr.task ≠ .versioned then body s
    else if s.noirrev cr then s.trapHdr Cause.versionOverflow
    else if !(s.taskEntries q.crew).isEmpty then s.retry
    else body ((s.commitVersion q.crew).modCrew q.crew (fun cr => { cr with task := .irrevocable }))

/-! ## Lanes that end (R144, R159) -/

/-- Waves of a crew that have not ended. -/
def Crew.liveWaves (cr : Crew) : List Nat := (cr.waves.filter (fun e => e.2.live && e.2.lanes != 0)).map (·.1)

end Sys2Proof.Machine
end

