-- ==== Sys2Proof/Machine/Barrier.lean ====
section
/-!
DEFINITION. Barriers (R233 to R243), wake words (R244, R245) and futures (R246 to R250).
-/

namespace Sys2Proof.Machine

open Sys2Proof Host

/-! ## Barrier objects (R234, R236) -/

/-- A barrier object's fields (R234). -/
structure Bar where
  /-- STATE. -/
  state : Nat
  /-- PHASE. -/
  phase : Nat
  /-- BYTES. -/
  bytes : Int
  /-- PENDING. -/
  pending : Nat
  /-- COUNT. -/
  count : Nat
  deriving DecidableEq, Repr

/-- Read an object (R234). -/
def Bar.ofNat (n : Nat) : Bar where
  state := bitsOf n 126 2
  phase := bitsOf n 96 30
  bytes := sextNat 32 (bitsOf n 64 32)
  pending := bitsOf n 32 32
  count := bitsOf n 0 32

/-- Write an object (R234). -/
def Bar.toNat (b : Bar) : Nat :=
  b.state * 2 ^ 126 + b.phase * 2 ^ 96 + wrapNat 32 b.bytes * 2 ^ 64 + b.pending * 2 ^ 32 + b.count

/-- The phase completes where nothing is pending and no byte expected (R236). -/
def Bar.complete (b : Bar) : Bar × Bool :=
  if b.pending = 0 ∧ b.bytes = 0 then ({ b with phase := (b.phase + 1) % 2 ^ 30, pending := b.count }, true) else (b, false)

/-- BYTES grows by an expectation. -/
def Bar.expect (b : Bar) (n : Nat) : Bar := { b with bytes := sextNat 32 (wrapNat 32 (b.bytes + (n : Int))) }

/-- A credit of an open barrier (R236). -/
def Bar.credit (b : Bar) (n : Nat) : Bar × Bool :=
  Bar.complete { b with bytes := sextNat 32 (wrapNat 32 (b.bytes - (n : Int))) }

/-- The object's value at the step: the scratchpad array, or its home as the crew sees it (R234; log 17 for a frame of
another package). -/
def State.barRead (s : State) (c : Nat) (o : BarObj) : Bar :=
  match o with
  | .scratch c' a => Bar.ofNat (leNat ((s.crew? c').elim [] (fun cr => cr.spadRead a 16)))
  | .crew c' => match s.crew? c' with
    | some cr => ⟨1, cr.barPhase, 0, cr.barPending, cr.nw⟩
    | none => ⟨0, 0, 0, 0, 0⟩
  | .device pa => Bar.ofNat (leNat (s.homeBytes (View.ofCrew c) pa 16))

/-- Write the object at its step. -/
def State.barWrite (s : State) (c : Nat) (who : Nat × Nat × Nat) (o : BarObj) (b : Bar) : State :=
  match o with
  | .scratch c' a => s.spadWrite c' a (leBytes 16 b.toNat)
  | .crew c' => s.modCrew c' (fun cr => { cr with barPhase := b.phase, barPending := b.pending })
  | .device pa =>
    match s.crew? c with
    | none => s
    | some cr =>
      (s.commitBytes (some cr.core) (some who) pa (leBytes 16 b.toNat)).modCore cr.core (fun k =>
        { k with l1 := k.l1.filter (fun l => l.line != pa / 256) })

/-- The barrier a strand waits on, where it has not been woken. -/
def Strand.waitsOn (st : Strand) (o : BarObj) : Bool :=
  match st.st with | .waiting (.barrier o' _ _) => o' == o && !st.woken | _ => false

/-- Waiters of the old phase are to wake (R236). -/
def State.wakeBarrier (s : State) (o : BarObj) : State :=
  { s with crews := s.crews.mapV (fun _ cr => { cr with waves := cr.waves.mapV (fun _ w =>
      if w.strands.any (fun e => e.2.waitsOn o) then
        { w with strands := w.strands.mapV (fun _ st => if st.waitsOn o then { st with woken := true } else st) }
      else w) }) }

/-- The home package lets a wait go on, or breaks its barrier: what it does is free, and asked anew as time passes (log 17).
Bit 0 wakes the strand, bit 1 breaks the barrier under it. -/
def State.farBits (s : State) (c w k : Nat) (st : Strand) : Nat :=
  let far (pa : Nat) : Bool := match homeOf pa with | .hbm | .cxl => false | _ => true
  let b := (Config.hostByte s.fresh (c * 2 ^ 16 + w * 4 + k)).toNat % 4
  match st.st with
  | .waiting (.barrier (.device pa) _ _) => if far pa && !st.woken then b else 0
  | .waiting (.wake pa _ _ _ _ _ _ _) => if far pa && !st.woken && !st.expired then b % 2 else 0
  | _ => 0

/-- Waits on objects of another package, as time passes (log 17). -/
def State.farWakes (s : State) : State :=
  let all := s.crews.flatMap (fun e => e.2.waves.flatMap (fun w => w.2.strands.map (fun st =>
    ((e.1, w.1, st.1, st.2.waitHdr), s.farBits e.1 w.1 st.1 st.2))))
  let s1 := { s with fresh := s.fresh + 1 }
  let s2 := (all.filter (fun x => x.2 % 2 == 1)).foldl (fun (s : State) x =>
    s.modStrand x.1.1 x.1.2.1 x.1.2.2.1 (fun st => { st with woken := true })) s1
  (all.filter (fun x => x.2 == 2)).foldl (fun (s : State) x =>
    s.trap x.1.1 x.1.2.1 x.1.2.2.1 Cause.barrierUnreachable x.1.2.2.2 7) s2

/-- The object at which a strand of a crew is in pre-arrival (R238). -/
def State.preObj (s : State) (c : Nat) (cr : Crew) (st : Strand) : Option BarObj :=
  match st.preArr with
  | none => none
  | some (lvl, a, _, _) =>
    if lvl = 1 then some (.crew c)
    else if lvl = 0 then some (.scratch c a)
    else match s.translate (dieOf cr.core) cr.ctx a Need.read with
      | .ok pa => some (.device pa)
      | .error _ => none

/-- The strands that wait on a barrier, in pre-arrival or after it, with the header of the clause that waited. -/
def State.barWaiters (s : State) (o : BarObj) : List (Nat × Nat × Nat × Nat) :=
  s.crews.flatMap (fun e => e.2.waves.flatMap (fun w =>
    (w.2.strands.filter (fun st => st.2.waitsOn o || s.preObj e.1 e.2 st.2 == some o)).map (fun st => (e.1, w.1, st.1, st.2.waitHdr))))

/-- The strands of saved crews that `hit` picks, given their crew, learn of what has come about for them when they are restored (R153). -/
def State.tellSaved (s : State) (hit : Crew → Strand → Bool) (broken : Bool) : State :=
  if s.ctxs.all (fun e => e.2.saves.isEmpty) then s else
  { s with ctxs := s.ctxs.mapV (fun _ cx => { cx with saves := cx.saves.map (fun i => { i with
      news := i.news ++ i.crew.waves.flatMap (fun w =>
        (w.2.strands.filter (fun st => hit i.crew st.2)).map (fun st => (w.1, st.1, broken))) }) }) }

/-- Every waiter raises barrier-unreachable (R236); one of a saved crew does so when its crew is restored. -/
def State.breakWaiters (s : State) (o : BarObj) : State :=
  let s1 := (s.barWaiters o).foldl (fun (s : State) x => s.trap x.1 x.2.1 x.2.2.1 Cause.barrierUnreachable x.2.2.2 7) s
  match o with
  | .device _ => s1.tellSaved (fun cr st => st.waitsOn o || s.preObj 0 cr st == some o) true
  | _ => s1

/-- The object a copy is to credit is no barrier: STATE 0b00 or 0b11 (R234). -/
def State.noBarrier (s : State) (c a : Nat) : Bool :=
  let b := s.barRead c (.scratch c a)
  b.state == 0 || b.state == 3

/-- A copy's credit of `n` bytes to a crew barrier (R236, R237). -/
def State.credit (s : State) (c a n : Nat) : State :=
  let o := BarObj.scratch c a
  let b := s.barRead c o
  if b.state ≠ 1 then s else
  let r := b.credit n
  let s1 := s.barWrite c (c, 0, 0) o r.1
  if r.2 then s1.wakeBarrier o else s1

/-- A crediting copy is cancelled with unwritten bytes: the barrier becomes broken (R236). -/
def State.breakBarrier (s : State) (c a : Nat) : State :=
  let o := BarObj.scratch c a
  let b := s.barRead c o
  if b.state ≠ 1 then s else (s.barWrite c (c, 0, 0) o { b with state := 2 }).breakWaiters o

/-- The implicit barrier completes where nothing is pending (R235). -/
def State.crewBarrierStep (s : State) (c : Nat) : State :=
  match s.crew? c with
  | none => s
  | some cr =>
    if cr.barPending ≠ 0 then s
    else (s.modCrew c (fun cr => { cr with barPhase := (cr.barPhase + 1) % 2 ^ 30, barPending := cr.liveWaves.length, arrived := [] })).wakeBarrier (.crew c)

/-! ## Checks at issue (R233) -/

/-- The level word of a level (R127). -/
def State.levelWord (s : State) (cr : Crew) (lvl : Nat) : Nat :=
  match s.kernel? cr.kernel with | some k => k.levels.getD (lvl - 3) 0 | none => 0

/-- Scope of a level's barriers (R233). -/
def State.barScope (s : State) (cr : Crew) (lvl : Nat) : Nat := if lvl < 3 then 1 else bitsOf (s.levelWord cr lvl) 0 3

/-- The object of a barrier instruction, or the trap its checks raise: cause and ADDR (R233). -/
def State.barObj (s : State) (q : Cursor) (cr : Crew) (w : Wave) (lvl addr : Nat) (n : Need) : Except (Nat × Nat) BarObj :=
  if lvl = 1 then .ok (.crew q.crew)
  else if 3 ≤ lvl ∧ bitOf (s.levelWord cr lvl) 8 = false then .error (Cause.protection, w.clauseAddr)
  else if lvl = 0 ∧ cr.spadBytes < addr + 16 then .error (Cause.protection, addr)
  else if 3 ≤ lvl ∧ 2 ^ 56 ≤ addr then .error (Cause.protection, addr)
  else if addr % 16 ≠ 0 then .error (Cause.misaligned, addr)
  else if lvl = 0 then .ok (.scratch q.crew addr)
  else match s.translate (dieOf cr.core) cr.ctx addr n with
    | .ok pa => .ok (.device pa)
    | .error c => .error (c, addr)

/-- The address operand of a barrier instruction at a level. -/
def barAddr (w : Wave) (a lvl : Nat) : Nat := if lvl = 0 then (w.s a).toNat else if lvl = 1 then 0 else (w.s64 a).toNat

/-- The object's step may be performed: no scratchpad range in flight overlaps it, no engine owns its line (R90, R234). -/
def State.barFree (s : State) (o : BarObj) : Bool :=
  match o with
  | .scratch c a => s.spadFree c a 16
  | .crew _ => true
  | .device pa => s.unowned pa 16

/-- A barrier action at an object in device memory marks the strand's lanes, as an ATOM does (R93, R234). -/
def State.barMarks (s : State) (q : Cursor) (o : BarObj) : State :=
  match o with
  | .device _ => s.setMarks q.crew q.wave ((s.wave? q.crew q.wave).elim 0 (fun w => (w.strand q.strand).mask))
  | _ => s

/-- A barrier action of the issuing instruction at its object: held back until the step may be performed; STATE 0b00 or
0b11 is protection (R234). -/
def State.onBarrier (s : State) (o : BarObj) (addr : Nat) (body : Bar → State → State) : State :=
  match s.cur with
  | none => s
  | some q =>
    if !s.barFree o then s.retry
    else
      let b := s.barRead q.crew o
      if b.state = 0 ∨ b.state = 3 then s.trapAt Cause.protection addr
      else body b (s.barMarks q o)

/-! ## Arrivals and waits (R236, R242) -/

/-- An arrival at an open barrier, one step: the new object and whether the phase completed. -/
def Bar.arrive (b : Bar) (n : Nat) : Bar × Bool := Bar.complete { b.expect n with pending := b.pending - 1 }

/-- The arrival of the issuing wave (R236): a broken barrier traps, PENDING 0 breaks it. -/
def State.arrive (s : State) (q : Cursor) (o : BarObj) (b : Bar) (n : Nat) : State :=
  if b.state = 2 then s.trapHdr Cause.barrierUnreachable
  else match o with
  | .crew c =>
    (s.modCrew c (fun cr => { cr with barPending := cr.barPending - 1, arrived := q.wave :: cr.arrived })).crewBarrierStep c
  | _ =>
    let who := (q.crew, q.wave, q.strand)
    if b.pending = 0 then (s.barWrite q.crew who o { b with state := 2 }).breakWaiters o
    else
      let r := b.arrive n
      let s1 := s.barWrite q.crew who o r.1
      if r.2 then s1.wakeBarrier o else s1

/-- Wait until PHASE differs from `p` (R242): a broken barrier traps, a phase that has passed goes on at once, with the
acquire half; otherwise the strand waits. -/
def State.waitPhase (s : State) (q : Cursor) (o : BarObj) (sc p : Nat) : State :=
  let b := s.barRead q.crew o
  if b.state = 2 then s.trapHdr Cause.barrierUnreachable
  else if b.phase ≠ p then s.acquire q.crew q.wave sc
  else match s.wave? q.crew q.wave with
    | none => s
    | some w => (s.enterWait q.crew q.wave q.strand (.barrier o sc p) w.clauseAddr).settleStrands q.crew q.wave q.strand w.clauseAddr

/-- The wave's strands all wait in pre-arrival with this instruction and object, but for the issuing one: they merge into
the lowest (R238). -/
def Wave.mergePre (w : Wave) (k : Nat) : Nat × Wave :=
  let live := w.liveStrands
  let low := live.foldl min k
  let mask := live.foldl (fun m i => m ||| (w.strand i).mask) 0
  let mine := w.strand k
  let w1 := live.foldl (fun (w : Wave) i => w.modStrand i (fun _ => Strand.unused)) w
  (low, w1.modStrand low (fun _ => { mine with mask := mask, resv := (w.strand low).resv, since := (w.strand low).since }))

/-- The strands of the issuing wave merge (R238), and the lowest of them goes on with the instruction. -/
def State.mergeAll (s : State) (q : Cursor) (w : Wave) : Cursor × State :=
  let m := w.mergePre q.strand
  let q1 := { q with strand := m.1 }
  (q1, (w.liveStrands.filter (· ≠ m.1)).foldl (fun (s : State) k => s.dropLr q.crew q.wave k)
    { s.modWave q.crew q.wave (fun _ => m.2) with cur := some q1 })

/-- The task becomes irrevocable first at LVL 3 to 7 (R239). -/
def State.barIrrevocably (s : State) (lvl : Nat) (body : State → State) : State :=
  if 3 ≤ lvl then s.irrevocably body else body s

/-- R238: the issuing strand holds every live lane, or all strands have come to the same object with the same
instruction and merge, and `act` runs once for the wave, the task irrevocable and the release half over (R239); otherwise the strand
enters pre-arrival. -/
def State.converge (s : State) (i : Instr) (lvl addr sc : Nat) (act : Cursor → State → State) : State :=
  match s.curWave with
  | none => s
  | some (q, _, w) =>
    let hdr := w.clauseAddr
    if (w.strand q.strand).mask = w.lanes then s.barIrrevocably lvl (fun s => s.afterRelease sc (act q))
    else if w.liveStrands.all (fun k => k == q.strand || (w.strand k).preArr == some (lvl, addr, hdr, i)) then
      s.barIrrevocably lvl (fun s => s.afterRelease sc (fun s =>
        match s.wave? q.crew q.wave with
        | none => s
        | some w => let m := s.mergeAll q w; act m.1 m.2))
    else
      (s.enterWait q.crew q.wave q.strand (.preArrival lvl addr hdr i) hdr).settleStrands q.crew q.wave q.strand hdr

/-- BAR and BARX: `n` gives the bytes to expect, none where they exceed the limit (R242). -/
def barAndWait (i : Instr) (lvl : Nat) (a : BitVec 8) (n : Wave → Option Nat) (s : State) : Outcome State Fault Refusal :=
  s.waved i [] (fun q cr w =>
    let addr := barAddr w a.toNat lvl
    let sc := s.barScope cr lvl
    match s.barObj q cr w lvl addr Need.atomic with
    | .error e => s.trapAt e.1 e.2
    | .ok o =>
      s.converge i lvl addr sc (fun q s =>
        match (s.wave? q.crew q.wave).bind n with
        | none => s.trapHdr Cause.arithmeticCheck
        | some n => s.onBarrier o addr (fun b s =>
          let s1 := s.arrive q o b n
          if b.state = 2 then s1 else s1.waitPhase q o sc b.phase)))

/-! ## Instructions on barriers -/

/-- BINIT (R241): COUNT of 0 or of 2^31 and above is an arithmetic check; the object is written in one step and waiters
raise barrier-unreachable. -/
def execBinit (f : Fields) (s : State) : Outcome State Fault Refusal :=
  s.waved (.binit f) [] (fun q cr w =>
    let addr := barAddr w f.a.toNat f.lvl
    let count := (w.s f.b.toNat).toNat
    match s.barObj q cr w f.lvl addr Need.atomic with
    | .error e => s.trapAt e.1 e.2
    | .ok o =>
      if count = 0 ∨ 2 ^ 31 ≤ count then s.trapHdr Cause.arithmeticCheck
      else s.barIrrevocably f.lvl (fun s =>
        if !s.barFree o then s.retry
        else ((s.barMarks q o).barWrite q.crew (q.crew, q.wave, q.strand) o ⟨1, 0, 0, count, count⟩).breakWaiters o))

/-- BAR (R242). -/
def execBar (f : Fields) (s : State) : Outcome State Fault Refusal :=
  barAndWait (.bar f) f.lvl f.a (fun _ => some 0) s

/-- BARX with the byte count in a register (R242): a count of 2^31 or more is an arithmetic check. -/
def execBarx (f : Fields) (s : State) : Outcome State Fault Refusal :=
  barAndWait (.barx f) 0 f.a (fun w => let n := (w.s f.b.toNat).toNat; if 2 ^ 31 ≤ n then none else some n) s

/-- BARX with an immediate byte count (R242). -/
def execBarxImm (f : ImmFields) (s : State) : Outcome State Fault Refusal :=
  barAndWait (.barxImm f) 0 f.a (fun _ => if 2 ^ 31 ≤ f.imm.toNat then none else some f.imm.toNat) s

/-- BARA (R242): in a diverged wave an illegal-convergence trap (R238); PHASE is read and the arrival made in one
step. -/
def execBara (f : Fields) (s : State) : Outcome State Fault Refusal :=
  s.waved (.bara f) [] (fun q cr w =>
    let addr := barAddr w f.a.toNat f.lvl
    match s.barObj q cr w f.lvl addr Need.atomic with
    | .error e => s.trapAt e.1 e.2
    | .ok o =>
      if (w.strand q.strand).mask ≠ w.lanes then s.trapHdr Cause.illegalConvergence
      else s.barIrrevocably f.lvl (fun s => s.afterRelease (s.barScope cr f.lvl) (fun s => s.onBarrier o addr (fun b s =>
        if b.state = 2 then s.trapHdr Cause.barrierUnreachable
        else (s.writeRegs q.crew q.wave [(sKey f.d.toNat, BitVec.ofNat 32 b.phase)]).arrive q o b 0))))

/-- BARW (R242): no arrival; the token is taken modulo 2^30. A wait at LVL 3 to 7 that must wait makes the task
irrevocable first (R239). -/
def execBarw (f : Fields) (s : State) : Outcome State Fault Refusal :=
  s.waved (.barw f) [] (fun q cr w =>
    let addr := barAddr w f.a.toNat f.lvl
    let sc := s.barScope cr f.lvl
    match s.barObj q cr w f.lvl addr Need.read with
    | .error e => s.trapAt e.1 e.2
    | .ok o =>
      let act (q : Cursor) (s : State) : State := s.onBarrier o addr (fun b s =>
        let p := ((s.wave? q.crew q.wave).elim 0 (fun w => (w.s f.b.toNat).toNat)) % 2 ^ 30
        if b.state = 1 ∧ b.phase = p then s.barIrrevocably f.lvl (fun s => s.waitPhase q o sc p) else s.waitPhase q o sc p)
      if (w.strand q.strand).mask = w.lanes then act q s
      else if w.liveStrands.all (fun k => k == q.strand || (w.strand k).preArr == some (f.lvl, addr, w.clauseAddr, .barw f)) then
        let m := s.mergeAll q w
        act m.1 m.2
      else (s.enterWait q.crew q.wave q.strand (.preArrival f.lvl addr w.clauseAddr (.barw f)) w.clauseAddr).settleStrands
        q.crew q.wave q.strand w.clauseAddr)

/-- BARQ (R243): reads STATE and PHASE in one step and changes nothing. -/
def execBarq (f : Fields) (s : State) : Outcome State Fault Refusal :=
  s.waved (.barq f) [] (fun q cr w =>
    let addr := barAddr w f.a.toNat f.lvl
    match s.barObj q cr w f.lvl addr Need.read with
    | .error e => s.trapAt e.1 e.2
    | .ok o => s.onBarrier o addr (fun b s =>
        s.writeRegs q.crew q.wave [(sKey f.d.toNat, BitVec.ofNat 32 (b.state * 2 ^ 30 + b.phase))]))

/-! ## Wake words (R244, R245) -/

/-- Evaluate the WWAIT waiters on the wake words that a write touches, on committed bytes (R244, R245): those of saved crews too, whose
strands wait on (R153) and wake once restored. -/
def State.evalWakes (s : State) (pa n : Nat) : State :=
  let hit (st : Strand) : Bool :=
    match st.st with
    | .waiting (.wake wp cmp v _ _ _ _ _) =>
      !st.woken && !st.expired && decide (wp < pa + n) && decide (pa < wp + 8) && cmpHolds cmp (s.read64 wp) v.toNat
    | _ => false
  { s with crews := s.crews.mapV (fun _ cr => { cr with waves := cr.waves.mapV (fun _ w =>
      if w.strands.any (fun e => hit e.2) then
        { w with strands := w.strands.mapV (fun _ st => if hit st then { st with woken := true } else st) }
      else w) }) }.tellSaved (fun _ st => hit st) false

/-- WWAIT (R245): the word is read and the waiter registered in one step; the checks are orders 2 to 4 of R218 and the
poison check of R219. -/
def execWwait (f : Fields) (s : State) : Outcome State Fault Refusal :=
  s.waved (.wwait f) [] (fun q cr w =>
    let addr := (w.s64 f.a.toNat).toNat
    let v := w.s64 f.b.toNat
    let cmp := f.mb 3 2
    if 2 ^ 56 ≤ addr then s.trapAt Cause.protection addr
    else if addr % 8 ≠ 0 then s.trapAt Cause.misaligned addr
    else match s.translate (dieOf cr.core) cr.ctx addr Need.read with
    | .error c => s.trapAt c addr
    | .ok pa =>
      if !s.unowned pa 8 then s.retry
      else if s.poisoned pa 8 then s.trapAt Cause.memoryPoison addr
      else if cmpHolds cmp (s.read64 pa) v.toNat then
        (s.writeRegs q.crew q.wave [(sKey f.d.toNat, 0)]).acquire q.crew q.wave f.scope
      else
        let dl := if f.kc then some (s.cycle + (w.s f.c.toNat).toNat) else none
        ((s.waitFor q.crew q.wave q.strand [sKey f.d.toNat]).enterWait q.crew q.wave q.strand (.wake pa cmp v f.scope f.d.toNat dl (f.m 5) w.clauseAddr) w.clauseAddr).settleStrands
          q.crew q.wave q.strand w.clauseAddr)

/-! ## Futures (R246 to R250) -/

/-- A handle; one never bound is empty. -/
def Wave.handle (w : Wave) (h : Nat) : Handle := w.hd.rd ⟨0, 0, 0⟩ h

/-- HTEST (R248). -/
def execHtest (f : Fields) (s : State) : Outcome State Fault Refusal :=
  s.waved (.htest f) [] (fun q _ w =>
    s.writeRegs q.crew q.wave [(sKey f.d.toNat, BitVec.ofNat 32 (w.handle f.a.toNat).code)])

/-- HWAIT (R248): waits while the handle is pending or faulted; the acquire half is at the scope of the operation's
destination. -/
def execHwait (f : Fields) (s : State) : Outcome State Fault Refusal :=
  s.waved (.hwait f) [] (fun q _ w =>
    let h := w.handle f.a.toNat
    if h.code = 1 ∨ h.code = 2 then
      ((s.waitFor q.crew q.wave q.strand [sKey f.d.toNat]).enterWait q.crew q.wave q.strand (.future f.a.toNat f.d.toNat) w.clauseAddr).settleStrands q.crew q.wave q.strand w.clauseAddr
    else
      let s1 := s.writeRegs q.crew q.wave [(sKey f.d.toNat, BitVec.ofNat 32 h.code)]
      if h.code = 0 then s1 else s1.acquire q.crew q.wave h.scope)

/-- Strands that wait on a handle which is no longer pending or faulted are to wake (R248). -/
def Wave.wakeFutures (w : Wave) : Wave :=
  { w with strands := w.strands.mapV (fun _ st =>
      match st.st with
      | .waiting (.future h _) => if (w.handle h).code = 1 ∨ (w.handle h).code = 2 then st else { st with woken := true }
      | _ => st) }

/-- HMOV (R250). -/
def execHmov (f : Fields) (s : State) : Outcome State Fault Refusal :=
  s.waved (.hmov f) [] (fun q _ w =>
    if f.d.toNat = f.a.toNat then s
    else s.modWave q.crew q.wave (fun x => 
      Wave.wakeFutures { x with hd := (x.hd.put f.d.toNat (w.handle f.a.toNat)).del f.a.toNat }))

end Sys2Proof.Machine
end

