-- ==== Sys2Proof/Machine/Vector.lean ====
section
/-!
DEFINITION. Class V: the meaning of every vector and uniform arithmetic instruction (R182 to R212).
-/

namespace Sys2Proof.Machine

open Sys2Proof Host

/-! ## Integer results (R187 to R189): `sg` is TY's signedness, `w` its width -/

/-- IADD. -/
def vAdd (_sg : Bool) (w x y : Nat) : Nat := (x + y) % 2 ^ w
/-- ISUB. -/
def vSub (_sg : Bool) (w x y : Nat) : Nat := wrapNat w ((x : Int) - (y : Int))
/-- IADDS. -/
def vAdds (sg : Bool) (w x y : Nat) : Nat := wrapNat w (clampInt sg w (readInt sg w x + readInt sg w y))
/-- IMUL without HI. -/
def vMul (_sg : Bool) (w x y : Nat) : Nat := (x * y) % 2 ^ w
/-- IMUL.hi. -/
def vMulHi (sg : Bool) (w x y : Nat) : Nat := wrapNat w (readInt sg w x * readInt sg w y / ((2 ^ w : Nat) : Int))
/-- IMAD. -/
def vMad (w x y z : Nat) : Nat := (x * y + z) % 2 ^ w
/-- IMIN. -/
def vMin (sg : Bool) (w x y : Nat) : Nat := if readInt sg w y < readInt sg w x then y else x
/-- IMAX. -/
def vMax (sg : Bool) (w x y : Nat) : Nat := if readInt sg w x < readInt sg w y then y else x
/-- IAND. -/
def vAnd (_sg : Bool) (_w x y : Nat) : Nat := x &&& y
/-- IOR. -/
def vOr (_sg : Bool) (_w x y : Nat) : Nat := x ||| y
/-- IXOR. -/
def vXor (_sg : Bool) (_w x y : Nat) : Nat := x ^^^ y
/-- ISHL by a 32-bit count. -/
def vShl (w x c : Nat) : Nat := if w ≤ c then 0 else (x * 2 ^ c) % 2 ^ w
/-- ISHR. -/
def vShr (w x c : Nat) : Nat := if w ≤ c then 0 else x / 2 ^ c
/-- ISRA. -/
def vSra (w x c : Nat) : Nat := wrapNat w (sextNat w x / ((2 ^ (min c w) : Nat) : Int))
/-- IROT. -/
def vRot (w x c : Nat) : Nat := let k := c % w; (x * 2 ^ k) % 2 ^ w + x / 2 ^ (w - k)
/-- IABS. -/
def vAbs (w x : Nat) : Nat := wrapNat w ((sextNat w x).natAbs : Int)
/-- INOT. -/
def vNot (w x : Nat) : Nat := 2 ^ w - 1 - x % 2 ^ w
/-- IPOPC. -/
def vPopc (w x : Nat) : Nat := ((List.range w).filter (fun k => bitOf x k)).length
/-- ICLZ. -/
def vClz (w x : Nat) : Nat := w - bitLen (x % 2 ^ w)
/-- IBREV. -/
def vBrev (w x : Nat) : Nat := (List.range w).foldl (fun acc k => if bitOf x k then acc + 2 ^ (w - 1 - k) else acc) 0
/-- IBFE. -/
def vBfe (sg : Bool) (w x desc : Nat) : Nat :=
  let off := desc % 256
  let len := min (desc / 256 % 256) w
  let f := x / 2 ^ off % 2 ^ len
  if sg && len != 0 then wrapNat w (sextNat len f) else f
/-- IBFI. -/
def vBfi (w x y desc : Nat) : Nat :=
  let off := desc % 256
  let len := desc / 256 % 256
  let n := if off < w then min len (w - off) else 0
  let m := (2 ^ n - 1) * 2 ^ off
  (x &&& (2 ^ w - 1 - m)) ||| ((y * 2 ^ off) &&& m)
/-- A condition of ICMP (R190). -/
def vCmp (sg : Bool) (w cc x y : Nat) : Bool :=
  let a := readInt sg w x
  let b := readInt sg w y
  match cc with
  | 0 => decide (a = b)
  | 1 => decide (a ≠ b)
  | 2 => decide (a < b)
  | 3 => decide (a ≤ b)
  | 4 => decide (b < a)
  | _ => decide (b ≤ a)

/-! ## Shapes -/

/-- Two-operand integer form. -/
def intBin (i : Instr) (f : Fields) (g : Bool → Nat → Nat → Nat → Nat) (s : State) : Outcome State Fault Refusal :=
  s.laneOp i f.pn f.pred f.kd f.d f.words (vNamed f.ka f.a f.words ++ vNamed f.kb f.b f.words)
    (fun w _ l => g f.signed f.width (f.ra w f.words l) (f.rb w f.words l))

/-- Two-operand integer form with an immediate: TY 0 (R65). -/
def intImm (i : Instr) (f : ImmFields) (g : Bool → Nat → Nat → Nat → Nat) (s : State) : Outcome State Fault Refusal :=
  s.laneOp i f.pn f.pred f.kd f.d 1 (vNamed f.ka f.a 1) (fun w _ l => g true 32 (f.ra w 1 l) f.imm.toNat)

/-- Shift or rotate: B is a single register. -/
def intShift (i : Instr) (f : Fields) (g : Nat → Nat → Nat → Nat) (s : State) : Outcome State Fault Refusal :=
  s.laneOp i f.pn f.pred f.kd f.d f.words (vNamed f.ka f.a f.words ++ vNamed f.kb f.b 1)
    (fun w _ l => g f.width (f.ra w f.words l) (f.rb w 1 l))

/-- One-operand integer form with a result of `nd` registers. -/
def intUn (i : Instr) (f : Fields) (nd : Nat) (g : Nat → Nat → Nat) (s : State) : Outcome State Fault Refusal :=
  s.laneOp i f.pn f.pred f.kd f.d nd (vNamed f.ka f.a f.words) (fun w _ l => g f.width (f.ra w f.words l))

/-- Two-operand floating-point form. -/
def fltBin (i : Instr) (f : Fields) (g : Fmt → Nat → Nat → Nat → Nat) (s : State) : Outcome State Fault Refusal :=
  s.laneOp i f.pn f.pred f.kd f.d f.fwords (vNamed f.ka f.a f.fwords ++ vNamed f.kb f.b f.fwords)
    (fun w _ l => g f.fmt f.rm (f.ra w f.fwords l) (f.rb w f.fwords l))

/-- Two-operand floating-point form with an immediate: FP32, RNE (R65). -/
def fltImm (i : Instr) (f : ImmFields) (g : Fmt → Nat → Nat → Nat → Nat) (s : State) : Outcome State Fault Refusal :=
  s.laneOp i f.pn f.pred f.kd f.d 1 (vNamed f.ka f.a 1) (fun w _ l => g fp32 0 (f.ra w 1 l) f.imm.toNat)

/-- One-operand floating-point form. -/
def fltUn (i : Instr) (f : Fields) (g : Fmt → Nat → Nat → Nat) (s : State) : Outcome State Fault Refusal :=
  s.laneOp i f.pn f.pred f.kd f.d f.fwords (vNamed f.ka f.a f.fwords) (fun w _ l => g f.fmt f.rm (f.ra w f.fwords l))

/-- One-operand FP32 form of an approximation. -/
def approx (i : Instr) (f : Fields) (g : Nat → Nat) (s : State) : Outcome State Fault Refusal :=
  s.laneOp i f.pn f.pred f.kd f.d 1 (vNamed f.ka f.a 1) (fun w _ l => g (f.ra w 1 l))

/-! ## Floating-point results (R191 to R195) -/

/-- FABS or FNEG: a NaN is only quieted (R192). -/
def vSign (g : Fmt → Nat → Nat) (f : Fmt) (x : Nat) : Nat := if f.isNan x then f.quiet x else g f x

/-- FCLASS (R194). -/
def vClass (f : Fmt) (x : Nat) : Nat :=
  if f.isNan x then
    let p := if f.mb = 52 then x / 2 ^ 29 else x
    let q := if bitOf x (f.mb - 1) then 2 else 1
    q + bitsOf p 16 6 * 2 ^ 16 + bitsOf p 12 4 * 2 ^ 24
  else
    let neg := f.isNeg x
    let a := f.mag x
    let b := if a = f.inf then (if neg then 2 else 9)
      else if a = 0 then (if neg then 5 else 6)
      else if a < 2 ^ f.mb then (if neg then 4 else 7)
      else (if neg then 3 else 8)
    2 ^ b

/-- FSCALE (R195): the exponent is held where every wider one gives the same overflow or underflow. -/
def vScale (f : Fmt) (rm x n : Nat) : Nat :=
  match f.firstNan [x] with
  | some c => c
  | none =>
    match f.decode x with
    | .fin s v => f.round rm .ieee s (v.scale (max (-8000) (min 8000 (sextNat 32 n))))
    | _ => x

/-- FROUND (R195). -/
def vRound (f : Fmt) (rm x : Nat) : Nat :=
  match f.firstNan [x] with
  | some c => c
  | none =>
    match f.decode x with
    | .fin s v => f.signed s (f.mag (f.round rm .ieee s (.ofInt (v.toInt rm))))
    | _ => x

/-- FSQRT (R195). -/
def vSqrt (f : Fmt) (rm x : Nat) : Nat :=
  match f.firstNan [x] with
  | some c => c
  | none =>
    match f.decode x with
    | .fin s v => if v.m = 0 then x else if s then f.qnan 0x03 0 else f.roundSqrt rm v
    | .inf s => if s then f.qnan 0x03 0 else x
    | .nan => x

/-! ## Cross-lane results (R203 to R208) -/

/-- One combining step of REDUX and SCANW: OP 0 add, 1 min, 2 max, 3 and, 4 or, 5 xor; TY 0 s32, 1 u32, 2 f32 (R207). -/
def redStep (op ty a b : Nat) : Nat :=
  match op with
  | 0 => if ty = 2 then fp32.add 0 0 a b else (a + b) % 2 ^ 32
  | 1 => if ty = 2 then fp32.minmax false a b else vMin (ty == 0) 32 a b
  | 2 => if ty = 2 then fp32.minmax true a b else vMax (ty == 0) 32 a b
  | 3 => a &&& b
  | 4 => a ||| b
  | _ => a ^^^ b

/-- One level of the lane tree (R37): absent nodes pass the other through. -/
def treeLevel {α : Type} (g : α → α → α) : List (Option α) → List (Option α)
  | a :: b :: t => (match a, b with
      | some x, some y => some (g x y)
      | some x, none => some x
      | none, y => y) :: treeLevel g t
  | l => l

/-- `n` levels of the lane tree. -/
def treeUp {α : Type} (g : α → α → α) : Nat → List (Option α) → List (Option α)
  | 0, l => l
  | n + 1, l => treeUp g n (treeLevel g l)

/-- The tree of R37 over the lanes of a mask. -/
def laneTree {α : Type} (g : α → α → α) (act : LaneMask) (x : Nat → α) : Option α :=
  (treeUp g 7 ((List.range 128).map (fun l => if act.getLsbD l then some (x l) else none))).head?.join

/-- SCANW's identity (R208). -/
def scanId (op ty : Nat) : Nat :=
  match op with
  | 1 => if ty = 2 then 0x7F800000 else if ty = 0 then 0x7FFFFFFF else 0xFFFFFFFF
  | 2 => if ty = 2 then 0xFF800000 else if ty = 0 then 0x80000000 else 0
  | 3 => 0xFFFFFFFF
  | _ => 0

/-- SCANW's result in a lane: ascending combination of the active lanes up to it (R38, R208). -/
def scanAt (g : Nat → Nat → Nat) (id : Nat) (excl : Bool) (act : LaneMask) (x : Nat → Nat) (l : Nat) : Nat :=
  let ls := (lanesOf act).filter (fun k => if excl then decide (k < l) else decide (k ≤ l))
  match ls with
  | [] => id
  | k :: ks => ks.foldl (fun acc j => g acc (x j)) (x k)

/-- SHFL's source lane (R205). -/
def shflLane (mode seg l y : Nat) : Nat :=
  let wd := if seg = 0 then 128 else if seg = 1 then 32 else if seg = 2 then 16 else 8
  let base := l - l % wd
  let i : Int := (l % wd : Nat)
  let j : Int := match mode with
    | 0 => ((y % wd : Nat) : Int)
    | 1 => i - (y : Int)
    | 2 => i + (y : Int)
    | _ => (((l % wd) ^^^ y) % wd : Nat)
  if 0 ≤ j ∧ j < (wd : Int) then base + j.toNat else l

/-! ## Complex results (R42) -/

/-- One component: an exact sum of signed products of FP32 codes, rounded once by RNE; `ops` are the codes its expression reads, in
operand order, the first NaN of which is its result (R36; log 16); each term is a sign and the codes of its factors. -/
def component (ops : List Nat) (terms : List (Bool × List Nat)) : Nat :=
  match fp32.firstNan ops with
  | some c => c
  | none =>
    let ts := terms.map (fun t => (FNum.fin t.1 ⟨if t.1 then -1 else 1, 0⟩) :: t.2.map fp32.decode)
    match sumProducts 0 ts with
    | .error c => qnan32 c 0
    | .ok x => fp32.encode 0 .ieee x

/-- CMUL (R42). -/
def cmul (ar ai br bi : Nat) : List Nat :=
  [component [ar, ai, br, bi] [(false, [ar, br]), (true, [ai, bi])],
   component [ar, ai, br, bi] [(false, [ar, bi]), (false, [ai, br])]]

/-- BFLY (R42). -/
def bfly (ar ai br bi wr wi : Nat) : List Nat :=
  let re := [ar, br, bi, wr, wi]
  let im := [ai, br, bi, wr, wi]
  [component re [(false, [ar]), (false, [wr, br]), (true, [wi, bi])],
   component im [(false, [ai]), (false, [wr, bi]), (false, [wi, br])],
   component re [(false, [ar]), (true, [wr, br]), (false, [wi, bi])],
   component im [(false, [ai]), (true, [wr, bi]), (true, [wi, br])]]

/-- BFLY4 (R42): `x` lists the octet's words; y_q = Σ x_m (−i)^(mq). -/
def bfly4 (x : List Nat) : List Nat :=
  (List.range 4).flatMap (fun q =>
    let term (m : Nat) : (Bool × Nat) × (Bool × Nat) :=
      let re := x.getD (2 * m) 0
      let im := x.getD (2 * m + 1) 0
      match (m * q) % 4 with
      | 0 => ((false, re), (false, im))
      | 1 => ((false, im), (true, re))
      | 2 => ((true, re), (true, im))
      | _ => ((true, im), (false, re))
    let ts := (List.range 4).map term
    [component (ts.map (fun t => t.1.2)) (ts.map (fun t => (t.1.1, [t.1.2]))),
     component (ts.map (fun t => t.2.2)) (ts.map (fun t => (t.2.1, [t.2.2])))])

/-- Words as one register-group number. -/
def groupNat : List Nat → Nat
  | [] => 0
  | x :: xs => x % 2 ^ 32 + 2 ^ 32 * groupNat xs

/-! ## The instructions -/

/-- IADD (R187). -/
def execIadd (f : Fields) (s : State) : Outcome State Fault Refusal :=
  intBin (.iadd f) f vAdd s

/-- IADD with an immediate (R187). -/
def execIaddImm (f : ImmFields) (s : State) : Outcome State Fault Refusal :=
  intImm (.iaddImm f) f vAdd s

/-- ISUB (R187). -/
def execIsub (f : Fields) (s : State) : Outcome State Fault Refusal :=
  intBin (.isub f) f vSub s

/-- ISUB with an immediate (R187). -/
def execIsubImm (f : ImmFields) (s : State) : Outcome State Fault Refusal :=
  intImm (.isubImm f) f vSub s

/-- IADDS (R187). -/
def execIadds (f : Fields) (s : State) : Outcome State Fault Refusal :=
  intBin (.iadds f) f vAdds s

/-- IADDS with an immediate (R187). -/
def execIaddsImm (f : ImmFields) (s : State) : Outcome State Fault Refusal :=
  intImm (.iaddsImm f) f vAdds s

/-- IMIN (R187). -/
def execImin (f : Fields) (s : State) : Outcome State Fault Refusal :=
  intBin (.imin f) f vMin s

/-- IMIN with an immediate (R187). -/
def execIminImm (f : ImmFields) (s : State) : Outcome State Fault Refusal :=
  intImm (.iminImm f) f vMin s

/-- IMAX (R187). -/
def execImax (f : Fields) (s : State) : Outcome State Fault Refusal :=
  intBin (.imax f) f vMax s

/-- IMAX with an immediate (R187). -/
def execImaxImm (f : ImmFields) (s : State) : Outcome State Fault Refusal :=
  intImm (.imaxImm f) f vMax s

/-- IAND (R187). -/
def execIand (f : Fields) (s : State) : Outcome State Fault Refusal :=
  intBin (.iand f) f vAnd s

/-- IAND with an immediate (R187). -/
def execIandImm (f : ImmFields) (s : State) : Outcome State Fault Refusal :=
  intImm (.iandImm f) f vAnd s

/-- IOR (R187). -/
def execIor (f : Fields) (s : State) : Outcome State Fault Refusal :=
  intBin (.ior f) f vOr s

/-- IOR with an immediate (R187). -/
def execIorImm (f : ImmFields) (s : State) : Outcome State Fault Refusal :=
  intImm (.iorImm f) f vOr s

/-- IXOR (R187). -/
def execIxor (f : Fields) (s : State) : Outcome State Fault Refusal :=
  intBin (.ixor f) f vXor s

/-- IXOR with an immediate (R187). -/
def execIxorImm (f : ImmFields) (s : State) : Outcome State Fault Refusal :=
  intImm (.ixorImm f) f vXor s

/-- IMUL, low or high half (R187). -/
def execImul (f : Fields) (s : State) : Outcome State Fault Refusal :=
  intBin (.imul f) f (if f.m 5 then vMulHi else vMul) s

/-- IMUL with an immediate, low half (R187). -/
def execImulImm (f : ImmFields) (s : State) : Outcome State Fault Refusal :=
  intImm (.imulImm f) f vMul s

/-- IMAD (R187). -/
def execImad (f : Fields) (s : State) : Outcome State Fault Refusal :=
  s.laneOp (.imad f) f.pn f.pred f.kd f.d f.words
    (vNamed f.ka f.a f.words ++ vNamed f.kb f.b f.words ++ vNamed f.kc f.c f.words)
    (fun w _ l => vMad f.width (f.ra w f.words l) (f.rb w f.words l) (f.rc w f.words l))

/-- ISHL (R187). -/
def execIshl (f : Fields) (s : State) : Outcome State Fault Refusal :=
  intShift (.ishl f) f vShl s

/-- ISHL with an immediate count (R187). -/
def execIshlImm (f : ImmFields) (s : State) : Outcome State Fault Refusal :=
  intImm (.ishlImm f) f (fun _ w x c => vShl w x c) s

/-- ISHR (R187). -/
def execIshr (f : Fields) (s : State) : Outcome State Fault Refusal :=
  intShift (.ishr f) f vShr s

/-- ISHR with an immediate count (R187). -/
def execIshrImm (f : ImmFields) (s : State) : Outcome State Fault Refusal :=
  intImm (.ishrImm f) f (fun _ w x c => vShr w x c) s

/-- ISRA (R187). -/
def execIsra (f : Fields) (s : State) : Outcome State Fault Refusal :=
  intShift (.isra f) f vSra s

/-- ISRA with an immediate count (R187). -/
def execIsraImm (f : ImmFields) (s : State) : Outcome State Fault Refusal :=
  intImm (.israImm f) f (fun _ w x c => vSra w x c) s

/-- IROT (R187). -/
def execIrot (f : Fields) (s : State) : Outcome State Fault Refusal :=
  intShift (.irot f) f vRot s

/-- IROT with an immediate count (R187). -/
def execIrotImm (f : ImmFields) (s : State) : Outcome State Fault Refusal :=
  intImm (.irotImm f) f (fun _ w x c => vRot w x c) s

/-- IABS (R188). -/
def execIabs (f : Fields) (s : State) : Outcome State Fault Refusal :=
  intUn (.iabs f) f f.words vAbs s

/-- INOT (R188). -/
def execInot (f : Fields) (s : State) : Outcome State Fault Refusal :=
  intUn (.inot f) f f.words vNot s

/-- IPOPC (R188). -/
def execIpopc (f : Fields) (s : State) : Outcome State Fault Refusal :=
  intUn (.ipopc f) f 1 vPopc s

/-- ICLZ (R188). -/
def execIclz (f : Fields) (s : State) : Outcome State Fault Refusal :=
  intUn (.iclz f) f 1 vClz s

/-- IBREV (R188). -/
def execIbrev (f : Fields) (s : State) : Outcome State Fault Refusal :=
  intUn (.ibrev f) f f.words vBrev s

/-- IBFE (R189). -/
def execIbfe (f : Fields) (s : State) : Outcome State Fault Refusal :=
  s.laneOp (.ibfe f) f.pn f.pred f.kd f.d f.words (vNamed f.ka f.a f.words ++ vNamed f.kb f.b 1)
    (fun w _ l => vBfe f.signed f.width (f.ra w f.words l) (f.rb w 1 l))

/-- IBFI (R189). -/
def execIbfi (f : Fields) (s : State) : Outcome State Fault Refusal :=
  s.laneOp (.ibfi f) f.pn f.pred f.kd f.d f.words
    (vNamed f.ka f.a f.words ++ vNamed f.kb f.b f.words ++ vNamed f.kc f.c 1)
    (fun w _ l => vBfi f.width (f.ra w f.words l) (f.rb w f.words l) (f.rc w 1 l))

/-- ICMP (R190). -/
def execIcmp (f : Fields) (s : State) : Outcome State Fault Refusal :=
  s.predOp (.icmp f) f.pn f.pred f.d (vNamed f.ka f.a f.words ++ vNamed f.kb f.b f.words)
    (fun w _ l => vCmp f.signed f.width f.cc (f.ra w f.words l) (f.rb w f.words l))

/-- FADD (R191). -/
def execFadd (f : Fields) (s : State) : Outcome State Fault Refusal :=
  fltBin (.fadd f) f (fun t rm x y => Fmt.add t 0 rm x y) s

/-- FADD with an immediate (R191). -/
def execFaddImm (f : ImmFields) (s : State) : Outcome State Fault Refusal :=
  fltImm (.faddImm f) f (fun t rm x y => Fmt.add t 0 rm x y) s

/-- FSUB (R191). -/
def execFsub (f : Fields) (s : State) : Outcome State Fault Refusal :=
  fltBin (.fsub f) f (fun t rm x y => Fmt.sub t 0 rm x y) s

/-- FSUB with an immediate (R191). -/
def execFsubImm (f : ImmFields) (s : State) : Outcome State Fault Refusal :=
  fltImm (.fsubImm f) f (fun t rm x y => Fmt.sub t 0 rm x y) s

/-- FMUL (R191). -/
def execFmul (f : Fields) (s : State) : Outcome State Fault Refusal :=
  fltBin (.fmul f) f (fun t rm x y => Fmt.mul t 0 rm x y) s

/-- FMUL with an immediate (R191). -/
def execFmulImm (f : ImmFields) (s : State) : Outcome State Fault Refusal :=
  fltImm (.fmulImm f) f (fun t rm x y => Fmt.mul t 0 rm x y) s

/-- FFMA (R191). -/
def execFfma (f : Fields) (s : State) : Outcome State Fault Refusal :=
  s.laneOp (.ffma f) f.pn f.pred f.kd f.d f.fwords
    (vNamed f.ka f.a f.fwords ++ vNamed f.kb f.b f.fwords ++ vNamed f.kc f.c f.fwords)
    (fun w _ l => f.fmt.fma 0 f.rm (f.ra w f.fwords l) (f.rb w f.fwords l) (f.rc w f.fwords l))

/-- FMIN (R192). -/
def execFmin (f : Fields) (s : State) : Outcome State Fault Refusal :=
  fltBin (.fmin f) f (fun t _ x y => t.minmax false x y) s

/-- FMIN with an immediate (R192). -/
def execFminImm (f : ImmFields) (s : State) : Outcome State Fault Refusal :=
  fltImm (.fminImm f) f (fun t _ x y => t.minmax false x y) s

/-- FMAX (R192). -/
def execFmax (f : Fields) (s : State) : Outcome State Fault Refusal :=
  fltBin (.fmax f) f (fun t _ x y => t.minmax true x y) s

/-- FMAX with an immediate (R192). -/
def execFmaxImm (f : ImmFields) (s : State) : Outcome State Fault Refusal :=
  fltImm (.fmaxImm f) f (fun t _ x y => t.minmax true x y) s

/-- FABS (R192). -/
def execFabs (f : Fields) (s : State) : Outcome State Fault Refusal :=
  fltUn (.fabs f) f (fun t _ x => vSign (fun t x => t.mag x) t x) s

/-- FNEG (R192). -/
def execFneg (f : Fields) (s : State) : Outcome State Fault Refusal :=
  fltUn (.fneg f) f (fun t _ x => vSign (fun t x => x ^^^ t.sign) t x) s

/-- FCMP (R193). -/
def execFcmp (f : Fields) (s : State) : Outcome State Fault Refusal :=
  s.predOp (.fcmp f) f.pn f.pred f.d (vNamed f.ka f.a f.fwords ++ vNamed f.kb f.b f.fwords)
    (fun w _ l => f.fmt.compare f.cc (f.ra w f.fwords l) (f.rb w f.fwords l))

/-- FCLASS (R194). -/
def execFclass (f : Fields) (s : State) : Outcome State Fault Refusal :=
  s.laneOp (.fclass f) f.pn f.pred f.kd f.d 1 (vNamed f.ka f.a f.fwords)
    (fun w _ l => vClass f.fmt (f.ra w f.fwords l))

/-- FSCALE (R195). -/
def execFscale (f : Fields) (s : State) : Outcome State Fault Refusal :=
  s.laneOp (.fscale f) f.pn f.pred f.kd f.d f.fwords (vNamed f.ka f.a f.fwords ++ vNamed f.kb f.b 1)
    (fun w _ l => vScale f.fmt f.rm (f.ra w f.fwords l) (f.rb w 1 l))

/-- FROUND (R195). -/
def execFround (f : Fields) (s : State) : Outcome State Fault Refusal :=
  fltUn (.fround f) f vRound s

/-- FSQRT (R195). -/
def execFsqrt (f : Fields) (s : State) : Outcome State Fault Refusal :=
  fltUn (.fsqrt f) f vSqrt s

/-- FRCP (R196). -/
def execFrcp (f : Fields) (s : State) : Outcome State Fault Refusal :=
  approx (.frcp f) f frcpBits s

/-- FRSQ (R196). -/
def execFrsq (f : Fields) (s : State) : Outcome State Fault Refusal :=
  approx (.frsq f) f frsqBits s

/-- FEXP2 (R196). -/
def execFexp2 (f : Fields) (s : State) : Outcome State Fault Refusal :=
  approx (.fexp2 f) f fexp2Bits s

/-- FLOG2 (R196). -/
def execFlog2 (f : Fields) (s : State) : Outcome State Fault Refusal :=
  approx (.flog2 f) f flog2Bits s

/-- CVT (R198). -/
def execCvt (f : Fields) (s : State) : Outcome State Fault Refusal :=
  s.laneOp (.cvt f) f.pn f.pred f.kd f.d (fmtAl f.dstFmt) (vNamed f.ka f.a (fmtAl f.srcFmt))
    (fun w _ l => cvtBits f.dstFmt f.srcFmt f.nsat f.rm (f.ra w (fmtAl f.srcFmt) l) 0)

/-- CVTQ (R199): lanes 32b to 32b + 31 are block b; an inactive lane counts as +0. -/
def execCvtq (f : Fields) (s : State) : Outcome State Fault Refusal :=
  s.laned (.cvtq f) f.pn f.pred (vNamed f.kd f.d 1 ++ vNamed f.ka f.a 1) (fun q _ w act =>
    let blk (b : Nat) : List (Nat × Nat) :=
      cvtqBlock (f.mb 5 2) f.rm f.nsat (f.rb w 1 0) ((List.range 32).map (fun n =>
        let l := 32 * b + n
        (l, if act.getLsbD l then f.ra w 1 l else 0)))
    let res := (List.range 4).flatMap (fun b =>
      if (List.range 32).any (fun n => act.getLsbD (32 * b + n)) then blk b else [])
    s.writeRegs q.crew q.wave ((res.filter (fun e => act.getLsbD e.1)).map (fun e => (vKey f.d.toNat e.1, BitVec.ofNat 32 e.2))))

/-- CVTX (R200). -/
def execCvtx (f : Fields) (s : State) : Outcome State Fault Refusal :=
  s.laneOp (.cvtx f) f.pn f.pred f.kd f.d 1 (vNamed f.ka f.a 1)
    (fun w _ l => cvtxBits (f.mb 5 2) f.rm (f.ra w 1 l))

/-- MOV, 32 or 64 bits (R201). -/
def execMov (f : Fields) (s : State) : Outcome State Fault Refusal :=
  s.laneOp (.mov f) f.pn f.pred f.kd f.d f.words (vNamed f.ka f.a f.words) (fun w _ l => f.ra w f.words l)

/-- MOV with an immediate (R201). -/
def execMovImm (f : ImmFields) (s : State) : Outcome State Fault Refusal :=
  s.laneOp (.movImm f) f.pn f.pred f.kd f.d 1 [] (fun _ _ _ => f.imm.toNat)

/-- LDI (R201): the immediate sign-extended to 64 bits. -/
def execLdi (f : ImmFields) (s : State) : Outcome State Fault Refusal :=
  s.laneOp (.ldi f) f.pn f.pred f.kd f.d 2 [] (fun _ _ _ => wrapNat 64 f.imm.toInt)

/-- SEL (R202): with an s destination the lowest active lane's bit. -/
def execSel (f : Fields) (s : State) : Outcome State Fault Refusal :=
  s.laneOp (.sel f) f.pn f.pred f.kd f.d 1 (vNamed f.ka f.a 1 ++ vNamed f.kb f.b 1)
    (fun w _ l => if (w.p f.c.toNat).getLsbD l then f.ra w 1 l else f.rb w 1 l)

/-- MOVS (R203): the source lane is read whether active or not. -/
def execMovs (f : Fields) (s : State) : Outcome State Fault Refusal :=
  s.laneOp (.movs f) f.pn f.pred f.kd f.d 1 (vNamed f.ka f.a 1)
    (fun w _ l => f.ra w 1 (if f.m 3 then f.rb w 1 0 % 128 else l))

/-- BCAST (R203). -/
def execBcast (f : Fields) (s : State) : Outcome State Fault Refusal :=
  s.laneOp (.bcast f) f.pn f.pred f.kd f.d 1 (vNamed f.ka f.a 1) (fun w _ _ => f.ra w 1 (f.rb w 1 0 % 128))

/-- SHFL (R205). -/
def execShfl (f : Fields) (s : State) : Outcome State Fault Refusal :=
  s.laneOp (.shfl f) f.pn f.pred f.kd f.d 1 (vNamed f.ka f.a 1 ++ vNamed f.kb f.b 1)
    (fun w _ l => f.ra w 1 (shflLane f.cc (f.mb 10 2) l (f.rb w 1 l)))

/-- SHFL with an immediate: .idx, .w128 (R205). -/
def execShflImm (f : ImmFields) (s : State) : Outcome State Fault Refusal :=
  s.laneOp (.shflImm f) f.pn f.pred f.kd f.d 1 (vNamed f.ka f.a 1) (fun w _ l => f.ra w 1 (shflLane 0 0 l f.imm.toNat))

/-- VOTE (R206). -/
def execVote (f : Fields) (s : State) : Outcome State Fault Refusal :=
  s.predOp (.vote f) f.pn f.pred f.d [] (fun w act _ =>
    let m := w.p f.a.toNat &&& act
    match f.mb 5 2 with
    | 0 => m == act
    | 1 => m != 0
    | _ => m == 0 || m == act)

/-- BALLOT (R206). -/
def execBallot (f : Fields) (s : State) : Outcome State Fault Refusal :=
  s.laned (.ballot f) f.pn f.pred [] (fun q _ w act =>
    s.writeRegs q.crew q.wave (wrGroup true f.d.toNat 0 4 (w.p f.a.toNat &&& act).toNat))

/-- REDUX (R207). -/
def execRedux (f : Fields) (s : State) : Outcome State Fault Refusal :=
  s.laneOp (.redux f) f.pn f.pred f.kd f.d 1 (vNamed f.ka f.a 1)
    (fun w act _ => (laneTree (redStep f.cc f.ty) act (fun l => f.ra w 1 l)).getD 0)

/-- SCANW (R208). -/
def execScanw (f : Fields) (s : State) : Outcome State Fault Refusal :=
  s.laneOp (.scanw f) f.pn f.pred f.kd f.d 1 (vNamed f.ka f.a 1)
    (fun w act l => scanAt (redStep f.cc f.ty) (scanId f.cc f.ty) (f.mb 10 2 == 1) act (fun k => f.ra w 1 k) l)

/-- CMUL (R210). -/
def execCmul (f : Fields) (s : State) : Outcome State Fault Refusal :=
  s.laneOp (.cmul f) f.pn f.pred f.kd f.d 2 (vNamed f.ka f.a 2 ++ vNamed f.kb f.b 2) (fun w _ l =>
    let a := f.ra w 2 l
    let b := f.rb w 2 l
    groupNat (cmul (a % 2 ^ 32) (a / 2 ^ 32) (b % 2 ^ 32) (b / 2 ^ 32)))

/-- BFLY (R210). -/
def execBfly (f : Fields) (s : State) : Outcome State Fault Refusal :=
  s.laneOp (.bfly f) f.pn f.pred f.kd f.d 4 (vNamed f.ka f.a 2 ++ vNamed f.kb f.b 2 ++ vNamed f.kc f.c 2) (fun w _ l =>
    let a := f.ra w 2 l
    let b := f.rb w 2 l
    let c := f.rc w 2 l
    groupNat (bfly (a % 2 ^ 32) (a / 2 ^ 32) (b % 2 ^ 32) (b / 2 ^ 32) (c % 2 ^ 32) (c / 2 ^ 32)))

/-- BFLY4 (R210). -/
def execBfly4 (f : Fields) (s : State) : Outcome State Fault Refusal :=
  s.laneOp (.bfly4 f) f.pn f.pred f.kd f.d 8 (vNamed f.ka f.a 8) (fun w _ l =>
    groupNat (bfly4 ((List.range 8).map (fun n => bitsOf (f.ra w 8 l) (32 * n) 32))))

/-- TWID (R211). -/
def execTwid (f : Fields) (s : State) : Outcome State Fault Refusal :=
  s.laneOp (.twid f) f.pn f.pred f.kd f.d 2 (vNamed f.ka f.a 1 ++ vNamed f.kb f.b 1) (fun w _ l =>
    let r := twidBits (f.ra w 1 l) (f.rb w 1 l)
    groupNat [r.1, r.2])

/-- RDTIME (R212): one sample of the Tabor counter. -/
def execRdtime (f : Fields) (s : State) : Outcome State Fault Refusal :=
  s.laneOp (.rdtime f) f.pn f.pred f.kd f.d 2 [] (fun _ _ _ => s.tabor.toNat)

end Sys2Proof.Machine
end

