-- ==== Sys2Proof/Machine/Request.lean ====
section
/-!
DEFINITION. Requests to other packages (R366, R367): a message enters the link request queue and the message stream of a
working port; its answer completes the element that waits on it.
-/

namespace Sys2Proof.Machine

open Sys2Proof

/-- An element's state changes. -/
def State.modElem (s : State) (o e : Nat) (f : Elem → Elem) : State :=
  s.modOp o (fun op => { op with elems := op.elems.modify e f })

/-- A message that asks or tells another package something and is answered (R366, R367). Where no port carries messages,
the element completes with the memory-poison trap for its task (R369). -/
def State.request (s : State) (kind dst addr : Nat) (data : List Word) (o e core epoch ctx va : Nat) : State :=
  let op := s.op? o
  let g : Origin := ⟨op.map (fun op => (op.crew, op.wave, op.strand)), (op.map (·.attempt)).getD 0, ctx, epoch, core, o, e, []⟩
  let n := ((op.bind (fun op => op.elems[e]?)).map (·.w)).getD (4 * data.length)
  match s.openPort with
  | some _ => (s.sendFor g kind dst addr va n data).modElem o e (fun x => { x with st := .remote s.msgNo })
  | none => (s.modElem o e (fun x => { x with st := .complete })).lost g va

/-- The message drains a write-queue entry. -/
def State.tagPend (s : State) (no entry : Nat) : State :=
  { s with pend := s.pend.modify no (fun p => { p with entry := entry }) }

/-! ## Atomic operations (R216, R223) -/

/-- The new value of an atomic or reduction: memory value `m`, operand `c`, new value `c2` of .cas; `cls` is the NaN class
code of the agent that performs it. -/
def atomNew (op ty m c c2 cls : Nat) : Nat :=
  let w := 8 * atBytes ty
  let f := if ty = 5 then fp64 else fp32
  let flt := ty == 4 || ty == 5
  let sg := ty == 0 || ty == 2
  match op with
  | 1 => if flt then f.add cls 0 m c else vAdd sg w m c
  | 2 => if flt then f.minmax false m c else vMin sg w m c
  | 3 => if flt then f.minmax true m c else vMax sg w m c
  | 4 => m &&& c
  | 5 => m ||| c
  | 6 => m ^^^ c
  | 7 => c
  | _ => if m = c then c2 else m

/-- The atomic writes (R223): a .cas only where the value it stores differs from the old one. -/
def atomWrites (op m c c2 : Nat) : Bool := op != 8 || (m == c && m != c2)

end Sys2Proof.Machine
end

