-- ==== Sys2Proof/Machine/Access.lean ====
section
/-!
DEFINITION. Accesses of class M: forming their elements and checks at issue (R213, R218, R220), strand order (R83), service
of loads (R81, R84, R87), stores in L1 and write queue (R85, R86), atomics and reservations (R93, R95).
-/

namespace Sys2Proof.Machine

open Sys2Proof Host

/-! ## Elements at issue -/

/-- What an M instruction's accesses are: space, uniform form, bytes, alignment, the unit its offset counts in, the right
it needs, its bound (R226), a reduction the walker does not permit (R133), and its registers in a lane. -/
structure Form where
  /-- Scratchpad. -/
  spad : Bool
  /-- Every register operand is an s register. -/
  uniform : Bool
  /-- Bytes of an element. -/
  w : Nat
  /-- Alignment. -/
  align : Nat
  /-- Unit of the offset; 0 where there is none. -/
  unit : Nat
  /-- Rights. -/
  need : Need
  /-- Bound on the index. -/
  bound : Option Nat
  /-- A reduction not named in WALKRED. -/
  forbidden : Bool

/-- The address of a lane, and its physical address, after the checks of R218 in order; or cause and ADDR. -/
def State.checkLane (s : State) (cr : Crew) (w : Wave) (f : Fields) (m : Form) (l : Nat) : Except (Nat × Nat) (Nat × Nat) :=
  let a := f.addr w l (if m.spad then 1 else 2) m.unit
  let out := match m.bound with
    | some b => decide (f.index w l < 0) || decide ((b : Int) ≤ f.index w l)
    | none => false
  if out then .error (Cause.elementBounds, a)
  else if m.spad then
    if cr.spadBytes ≤ a then .error (Cause.protection, a)
    else if a % m.align ≠ 0 then .error (Cause.misaligned, a)
    else .ok (a, 0)
  else if 2 ^ 56 ≤ a || m.forbidden then .error (Cause.protection, a)
  else if a % m.align ≠ 0 then .error (Cause.misaligned, a)
  else match s.translate (dieOf cr.core) cr.ctx a m.need with
    | .ok pa => .ok (a, pa)
    | .error c => .error (c, a)

/-- The chunk state map of a wave that is open. -/
def Wave.openChunk (w : Wave) : Option Chunk := w.sm.vals.find? (fun c => c.st == .opened || c.st == .overflowed)

/-- A lane's lineage in the wave's open chunk, newest segment first (R302). -/
def Wave.lineageOf (w : Wave) (l : Nat) : List Nat :=
  match w.openChunk with
  | some c => if c.live.getLsbD l then c.lineage.rd [] l else []
  | none => []

/-- The elements of an access: one per active lane, or one for all in the uniform form outside an open chunk (R213). An
s destination in an open chunk takes the lowest lane's value. -/
def Wave.shares (w : Wave) (uniform : Bool) (act : LaneMask) : List (Nat × LaneMask) :=
  if uniform && !w.inChunk then ((lanesOf act).take 1).map (fun l => (l, act)) else (lanesOf act).map (fun l => (l, laneBit l))

/-- One more share's element, or the first failing share's trap. -/
def State.elemStep (s : State) (cr : Crew) (w : Wave) (f : Fields) (m : Form) (dst : Nat → List Nat) (data data2 : Nat → Nat)
    (acc : Except (Nat × Nat) (List Elem)) (x : Nat × LaneMask) : Except (Nat × Nat) (List Elem) :=
  match acc with
  | .error e => .error e
  | .ok es =>
    match s.checkLane cr w f m x.1 with
    | .error e => .error e
    | .ok a => .ok (es ++ [⟨x.1, x.2, a.1, a.2, m.w, data x.1, data2 x.1,
        if m.uniform && !es.isEmpty then [] else dst x.1, (w.lineageOf x.1).head?, .pending⟩])

/-- Elements in ascending lane order, or the first lane's trap. -/
def State.elements (s : State) (cr : Crew) (w : Wave) (f : Fields) (m : Form) (act : LaneMask)
    (dst : Nat → List Nat) (data data2 : Nat → Nat) : Except (Nat × Nat) (List Elem) :=
  (w.shares m.uniform act).foldl (s.elemStep cr w f m dst data data2) (.ok [])

/-- A 16-byte load or store is two 8-byte accesses of its lane (R96). -/
def Elem.halves (e : Elem) : List Elem :=
  if e.w ≠ 16 then [e] else
    [{ e with w := 8, data := e.data % 2 ^ 64, dst := e.dst.take 2 },
     { e with va := e.va + 8, pa := e.pa + 8, w := 8, data := e.data / 2 ^ 64, dst := e.dst.drop 2 }]

/-- The operation of an access. -/
def accessOp (s : State) (q : Cursor) (cr : Crew) (w : Wave) (i : Instr) (act : LaneMask) (es : List Elem) : Op :=
  { newOp s q cr w i act with elems := es, dsts := es.flatMap (·.dst) }

/-- Cached translations that lack the right an access needs are dropped (R357). -/
def State.dropLackingAll (s : State) (cr : Crew) (m : Form) (es : List Elem) : State :=
  if m.spad then s else es.foldl (fun (s : State) e => s.dropLacking (dieOf cr.core) cr.ctx e.va m.need) s

/-- An access that raises a trap has dropped them too, for the lanes whose addresses reach the check of rights (R357). -/
def State.dropLackingLanes (s : State) (cr : Crew) (w : Wave) (f : Fields) (m : Form) (act : LaneMask) : State :=
  if m.spad || m.forbidden then s else
  (w.shares m.uniform act).foldl (fun (s : State) x =>
    let a := f.addr w x.1 2 m.unit
    if a % m.align = 0 then s.dropLacking (dieOf cr.core) cr.ctx a m.need else s) s

/-! ## Strand order (R83, R220) -/

/-- Scratchpad accesses. -/
def isSpad : Instr → Bool
  | .lds _ | .sts _ | .atoms _ => true
  | _ => false

/-- Elements of one instruction on the same bytes perform in lane order (R220). -/
def laneOrdered : Instr → Bool
  | .st _ | .sts _ | .stw _ | .scat _ | .atom _ | .atoms _ => true
  | _ => false

/-- The element has not performed. -/
def Elem.waiting (e : Elem) : Bool := match e.st with | .pending | .remote _ => true | _ => false

/-- Two elements share a byte. -/
def Elem.overlaps (a b : Elem) (spad : Bool) : Bool :=
  if spad then decide (a.va < b.va + b.w) && decide (b.va < a.va + a.w) else decide (a.pa < b.pa + b.w) && decide (b.pa < a.pa + a.w)

/-- The access performs at its home with no forwarding, so an older store must have performed there too (R81, R83). -/
def atHomeOnly : Instr → Bool
  | .atom f | .sc f => decide (3 ≤ f.scope)
  | .stw _ | .gath _ | .scat _ | .red _ => true
  | _ => false

/-- A store still in the write queue. -/
def Elem.queued (e : Elem) : Bool := match e.st with | .performed => true | _ => false

/-- An operation holds an element back (R83): an older FENCE or FENCEW that acts for one of its lanes, or an older
access of one of its lanes with a byte in common that has not performed. -/
def Op.holds (p : Op) (spad home : Bool) (e : Elem) : Bool :=
  match p.instr with
  | .fence _ | .fencew _ => p.lanes &&& e.mask != 0
  | .st _ => !spad && p.elems.any (fun x => (x.waiting || (home && x.queued)) && x.mask &&& e.mask != 0 && x.overlaps e spad)
  | _ => isAccess p.instr && isSpad p.instr == spad && p.elems.any (fun x => x.waiting && x.mask &&& e.mask != 0 && x.overlaps e spad)

/-- Elements of one instruction that read the same bytes receive the same value (R220). -/
def readsAlike : Instr → Bool
  | .ld _ | .lds _ | .gath _ => true
  | _ => false

/-- Two elements of such an instruction read a byte in common as lanes that see the same bytes (R302). -/
def Elem.alike (a b : Elem) (spad : Bool) : Bool := a.overlaps b spad && a.seg == b.seg

/-- No older operation of the wave holds an element back (R83). -/
def State.unheld (s : State) (o : Nat) (op : Op) (e : Elem) : Bool :=
  s.ops.all (fun p => !(p.2.crew == op.crew && p.2.wave == op.wave && decide (p.1 < o) && p.2.holds (isSpad op.instr) (atHomeOnly op.instr) e))

/-- Element `n` of operation `o` may perform next (R83, R220): with it, the elements that receive its value may. -/
def State.mayPerform (s : State) (o : Nat) (op : Op) (n : Nat) (e : Elem) : Bool :=
  let spad := isSpad op.instr
  s.unheld o op e && (!readsAlike op.instr || op.elems.all (fun x => !x.alike e spad || s.unheld o op x)) &&
  (!laneOrdered op.instr || (op.elems.take n).all (fun x => !(x.waiting && x.overlaps e spad)))

/-! ## Results -/

/-- A loaded value widened for its registers (R215). -/
def widen (sz v : Nat) : Nat :=
  if sz = 5 then wrapNat 32 (sextNat 8 v) else if sz = 6 then wrapNat 32 (sextNat 16 v) else v

/-- An element's value reaches its registers and the element has completed (R82). -/
def State.finishElem (s : State) (o n : Nat) (e : Elem) (v : Nat) : State :=
  (s.opWrite o (e.dst.zip (splitWords e.dst.length v))).modElem o n (fun x => { x with st := .complete })

/-- The key under which an operation keeps a byte that an element has read, for the elements that receive the same value (R220). -/
def Elem.seenKey (e : Elem) (spad : Bool) (i : Nat) : Nat :=
  (if spad then 2 * (e.va + i) else 2 * (e.pa + i) + 1) + 2 ^ 80 * (match e.seg with | some g => g + 1 | none => 0)

/-- A load element has read a value: bytes that another element of the instruction has read are as that one read them (R220). -/
def State.finishLoad (s : State) (o n : Nat) (op : Op) (e : Elem) (sz v : Nat) : State :=
  let spad := isSpad op.instr
  if (op.elems.filter (fun x => x.alike e spad)).length ≤ 1 then s.finishElem o n e (widen sz v) else
  let bs := (List.range e.w).map (fun i => (op.buf.find? (e.seenKey spad i)).getD (BitVec.ofNat 8 (v / 2 ^ (8 * i))))
  (s.finishElem o n e (widen sz (leNat bs))).modOp o (fun op => { op with
    buf := (List.range e.w).foldl (fun (t : Tab Byte) i => t.put (e.seenKey spad i) (bs.getD i 0)) op.buf })

/-! ## Service of loads -/

/-- How a load is served without its home: the bytes, or held back by R84, or not at all. -/
inductive Serve where
  | bytes (b : List Byte)
  | blocked
  | home
  deriving DecidableEq, Repr

/-- What the wave's lanes see: the crew's version and the lane's lineage; the mark of an enumerated lane's lines. -/
def Wave.viewOf (w : Wave) (c slot l : Nat) : View × Option (Nat × Nat) :=
  let g := w.lineageOf l
  (⟨some c, g⟩, if g.isEmpty then none else some (slot, l))

/-- A view holds an uncommitted byte for an address beyond what a line marked for it would carry. -/
def Crew.shadows (cr : Crew) (v : View) (line : Line) (pa : Nat) : Bool :=
  (line.lane.isNone && v.lineage.any (fun g => ((cr.segs.find? g).bind (fun sg => sg.bytes.find? pa)).isSome)) ||
  (line.lane.isNone && line.crew.isNone && (cr.ver.find? pa).isSome)

/-- Serve a load by forwarding and from L1 (R81, R84). -/
def State.serveLocal (s : State) (c : Nat) (cr : Crew) (wi : Nat) (w : Wave) (e : Elem) (sc : Nat) : Serve :=
  let k := s.core cr.core
  let v := w.viewOf c (cr.slot wi) e.lane
  let addrs := (List.range e.w).map (fun i => e.pa + i)
  let fw := addrs.map (fun a => k.forward c v.1.lineage a)
  if fw.all (·.isSome) then .bytes (fw.map (fun b => b.getD 0)) else
  match k.lineFor (e.pa / 256) c v.2 with
  | none => .home
  | some l =>
    let got := addrs.map (fun a => match k.forward c v.1.lineage a with
      | some b => some b
      | none => if cr.shadows v.1 l a then none else l.bytes.find? (a % 256))
    if !got.all (·.isSome) || decide (l.tag < actScope sc) then .home
    else
      let m := (lanesOf e.mask).foldl (fun x l => max x (w.marks.rd 0 l)) 0
      if k.inv.any (fun x => x.1 == e.pa / 256 && decide (x.2 ≤ m)) then .blocked
      else .bytes (got.map (fun b => b.getD 0))

/-- Bytes at home as a core sees them: the view at home under what its write queue still holds for it (R81). -/
def State.overlay (s : State) (c : Nat) (cr : Crew) (v : View) (pa n : Nat) : List Byte :=
  (List.range n).map (fun i => ((s.core cr.core).forward c v.lineage (pa + i)).getD (s.homeByte v (pa + i)))

/-- Fill an L1 line at home (R87, R302): the core becomes a sharer, the tag is the wider of the scope and pod. A line with
bytes of the crew's version is the crew's (R97). -/
def State.fill (s : State) (c : Nat) (cr : Crew) (v : View) (enumd : Option (Nat × Nat)) (line sc : Nat) : State :=
  let bs := s.overlay c cr v (256 * line) 256
  let own := cr.ver.any (fun e => e.1 / 256 == line) ||
    (s.core cr.core).wq.any (fun e => e.crew == c && !e.direct && decide (e.pa < 256 * line + 256) && decide (256 * line < e.pa + e.bytes.length))
  let l : Line := ⟨line, (List.range 256).map (fun i => (i, bs.getD i 0)), max 5 (actScope sc), if own then some c else none, enumd⟩
  let s1 := s.modCore cr.core (fun k => k.putLine l)
  { s1 with sharers := s1.sharers.put line (distinct ((s1.sharers.rd [] line) ++ [cr.core])) }

/-- The next free value. -/
def State.draw (s : State) : Nat × State := (s.fresh, { s with fresh := s.fresh + 1 })

/-- Host memory's bytes at an address, a fresh answer each time (log 8). -/
def State.hostRead (s : State) (pa n : Nat) : List Byte × State :=
  let d := s.draw
  ((List.range n).map (fun i => Config.hostByte d.1 (pa + i)), d.2)

/-- A write to these bytes of another package is sent and not yet acknowledged. -/
def Pend.writes (p : Pend) (pa n : Nat) : Bool :=
  (p.msg.kind == 3 || p.msg.kind == 4 || p.msg.kind == 6) && decide (p.msg.addr < pa + n) && decide (pa < p.msg.addr + 4 * p.msg.data.length)

/-- A write of the core to these bytes of another package is sent and not yet acknowledged, so it is not yet in their
coherence order (R80, R86). -/
def State.sentAway (s : State) (core pa n : Nat) : Bool := s.pend.any (fun e => e.2.core == core && e.2.writes pa n)

/-- An atomic of the core at core scope or narrower, or an LR, has asked for these bytes of another package: until it has performed
no write of the core to them is sent, so that it is atomic with the core's accesses (R93, R95). -/
def State.atomAway (s : State) (core pa n : Nat) : Bool :=
  s.pend.any (fun e => e.2.core == core && e.2.msg.kind == 1 && decide (e.2.msg.addr < pa + n) && decide (pa < e.2.msg.addr + 16) &&
    (match s.op? e.2.op with | some q => (match q.instr with | .atom _ | .lr _ => true | _ => false) | none => false))

/-- Such a write is sent, or is queued. -/
def State.writeAway (s : State) (core pa n : Nat) : Bool :=
  (s.core core).wq.any (fun e => decide (e.pa < pa + n) && decide (pa < e.pa + e.bytes.length)) || s.sentAway core pa n

/-- Serve a load at its home (R81, R90, R219): wait while an engine owns the line; poison traps; a frame of another
package is asked over the link. `k` continues with the value. -/
def State.serveHome (s : State) (o n : Nat) (op : Op) (cr : Crew) (w : Wave) (e : Elem) (sc : Nat) (keep : Bool)
    (k : State → Nat → State) : State :=
  match homeOf e.pa with
  | .remote p => if s.writeAway cr.core e.pa e.w then s else s.request 1 p e.pa [] o n cr.core op.epoch op.ctx e.va
  | .host =>
    let r := s.hostRead e.pa e.w
    k r.2 (s.overView (w.viewOf op.crew (cr.slot op.wave) e.lane).1 e.pa e.w (leNat r.1))
  | .cxl => s
  | .hbm =>
    if !s.unowned e.pa e.w then s
    else if s.poisonedFor op.crew e.pa e.w then (s.modElem o n (fun x => { x with st := .complete })).trapOp op Cause.memoryPoison e.va
    else
      let v := w.viewOf op.crew (cr.slot op.wave) e.lane
      let bs := s.overlay op.crew cr v.1 e.pa e.w
      let s1 := if keep then s.fill op.crew cr v.1 v.2 (e.pa / 256) sc else s
      k (s1.setMarks op.crew op.wave e.mask) (leNat bs)

/-! ## Stores (R85) -/

/-- A store performs locally in one step (R85): its L1 line, the tag, and a write-queue entry; strands of the core that
reserved the granule at L1 lose it (R95). -/
def State.storeLocal (s : State) (o n : Nat) (op : Op) (cr : Crew) (e : Elem) (sc v : Nat) (wide : Bool) : State :=
  let bs := leBytes e.w v
  let line := e.pa / 256
  let direct := cr.direct
  let enumd := if e.seg.isSome then some (cr.slot op.wave, e.lane) else none
  let crew := if direct && e.seg.isNone then none else some op.crew
  let k := s.core cr.core
  let local? := match homeOf e.pa with | .hbm => true | _ => false
  let old := (k.l1.find? (fun l => l.line == line && l.lane == enumd && (l.crew == some op.crew || l.crew.isNone))).getD
    ⟨line, [], 0, crew, enumd⟩
  let l := { old.store e.pa bs with tag := actScope sc, crew := crew }
  let entry : WEntry := ⟨s.next, e.va, e.pa, bs, sc, op.crew, op.wave, op.strand, op.attempt, direct, e.seg,
    if wide then some (o, n) else none, op.hdr, op.epoch, op.ctx⟩
  let s1 := s.modCore cr.core (fun k => { (if local? then k.putLine l else k) with wq := k.wq ++ [entry] })
  let s2 := { s1 with
    next := s1.next + 1,
    sharers := if actScope sc ≤ 2 && local? then
      (let q := (s1.sharers.rd [] line).filter (· ≠ cr.core)
       if q.isEmpty then s1.sharers.del line else s1.sharers.put line q) else s1.sharers }
  s2.clearResv e.pa e.w (fun c' cr' w' k' r => cr'.core == cr.core && decide (r.scope ≤ 2) &&
    !(c' == op.crew && w' == op.wave && k' == op.strand))

/-- The L1 copy of a line is dropped at the issuing core (R90, R93). -/
def State.dropCopy (s : State) (core line : Nat) : State :=
  { s.modCore core (fun k => { k with l1 := k.l1.filter (fun l => l.line != line) }) with
    sharers := (let q := (s.sharers.rd [] line).filter (· ≠ core); if q.isEmpty then s.sharers.del line else s.sharers.put line q) }

/-! ## The accesses, element by element -/

/-- How a load is served without its home: by forwarding and from L1, with HINT .st by forwarding alone (R81, R221). -/
def State.serveNear (s : State) (c : Nat) (cr : Crew) (wi : Nat) (w : Wave) (e : Elem) (sc : Nat) (st : Bool) : Serve :=
  if st then
    let v := w.viewOf c (cr.slot wi) e.lane
    let fw := (List.range e.w).map (fun i => (s.core cr.core).forward c v.1.lineage (e.pa + i))
    if fw.all (·.isSome) then .bytes (fw.map (fun b => b.getD 0)) else .home
  else s.serveLocal c cr wi w e sc

/-- LD and LR's load, served without home where `atHome` is false and forwarding or L1 can serve it. -/
def State.load (s : State) (o n : Nat) (op : Op) (cr : Crew) (w : Wave) (e : Elem) (sc : Nat) (st atHome : Bool)
    (k : State → Nat → State) : State :=
  match s.serveNear op.crew cr op.wave w e sc st with
  | .bytes b => if atHome then s.serveHome o n op cr w e sc (!st) k else k s (leNat b)
  | .blocked => if atHome then s.serveHome o n op cr w e sc (!st) k else s
  | .home => s.serveHome o n op cr w e sc (!st) k

/-- An atomic at its point (R93): at core scope or narrower on the L1, its written bytes entering the write queue; wider at
its home, in one step. A NaN that it generates has the class of a core at either point: R216 names only the core and the memory
partition (DESIGN CHOICE, log 95). -/
def State.atomic (s : State) (o n : Nat) (op : Op) (cr : Crew) (w : Wave) (e : Elem) (sc aop ty : Nat) : State :=
  if actScope sc ≤ 2 then
    s.load o n op cr w e sc false false (fun s m =>
      let s1 := s.setMarks op.crew op.wave e.mask
      let s2 := if atomWrites aop m e.data e.data2 then s1.storeLocal o n op cr e sc (atomNew aop ty m e.data e.data2 1) false else s1
      s2.finishElem o n e m)
  else match homeOf e.pa with
    | .remote p =>
      let h := if ty = 6 then 16 else 8
      s.request 4 p e.pa (splitWords (h / 4) e.data ++ splitWords (h / 4) e.data2) o n cr.core op.epoch op.ctx e.va
    | .host =>
      let r := s.hostRead e.pa e.w
      let m := leNat r.1
      let s1 := if atomWrites aop m e.data e.data2
        then r.2.hostStore cr.core (some (op.crew, op.wave, op.strand)) e.pa (leBytes e.w (atomNew aop ty m e.data e.data2 1)) else r.2
      s1.finishElem o n e m
    | .cxl => s
    | .hbm =>
      if !s.unowned e.pa e.w then s
      else if s.poisonedFor op.crew e.pa e.w then (s.modElem o n (fun x => { x with st := .complete })).trapOp op Cause.memoryPoison e.va
      else
        let m := leNat (s.homeBytes (View.ofCrew op.crew) e.pa e.w)
        let s1 := if atomWrites aop m e.data e.data2
          then s.commitBytes (some cr.core) (some (op.crew, op.wave, op.strand)) e.pa (leBytes e.w (atomNew aop ty m e.data e.data2 1)) else s
        (((s1.dropCopy cr.core (e.pa / 256)).setMarks op.crew op.wave e.mask).finishElem o n e m)

/-- The strand's reservation after its LR, replacing any earlier one (R95). The instructions issued since the LR, which `op.count`
counts with the LR itself while it has not performed, are of its window (R150). A crew that is being frozen has none (R107), nor has a
strand that took the slot of the LR's own. -/
def State.reserve (s : State) (op : Op) (e : Elem) (sc : Nat) : State :=
  if 2 ^ 32 ≤ op.count then s else
  let frozen := (s.crew? op.crew).any (fun cr => cr.freezing && (cr.waves.find? op.wave).any (fun w => w.clause.isNone))
  s.modStrand op.crew op.wave op.strand (fun st => { st with
    resv := if op.count ≤ 64 && !frozen then some ⟨e.pa / 8 * 8, sc⟩ else none, since := op.count - 1 })

/-- The strand holds a reservation on the granule at the scope, its window not over (R81, R95, R150). -/
def Strand.reserved (st : Strand) (pa sc : Nat) : Bool :=
  match st.resv with
  | some r => r.pa == pa / 8 * 8 && actScope r.scope == actScope sc && decide (st.since < 64)
  | none => false

/-- LR (R95, R224): the load and, in the same step, the strand's reservation; at pod or wider it is served at home. -/
def State.loadReserved (s : State) (o n : Nat) (op : Op) (cr : Crew) (w : Wave) (e : Elem) (sc : Nat) : State :=
  s.load o n op cr w e sc false (decide (3 ≤ sc)) (fun s v =>
    (s.reserve op e sc).finishElem o n e v)

/-- SC (R95, R224): the check and the write are one step at the point; the reservation is cleared either way. Whether one on a
granule of another package or of the host still stands there is free; to another package it is sent once every write that this package
has sent to the granule is acknowledged, so that of two at most one succeeds (log 62). -/
def State.storeConditional (s : State) (o n : Nat) (op : Op) (cr : Crew) (w : Wave) (e : Elem) (sc : Nat) : State :=
  let st := w.strand op.strand
  let ok := st.reserved e.pa sc
  let poison (s : State) : State := (s.modElem o n (fun x => { x with st := .complete })).trapOp op Cause.memoryPoison e.va
  let away := s.draw
  let clear (s : State) : State := s.modStrand op.crew op.wave op.strand (fun st => { st with resv := none, since := 0 })
  if !ok then (clear s).finishElem o n e 1
  else if actScope sc ≤ 2 then
    (if s.serveLocal op.crew cr op.wave w e sc == .home && s.poisonedFor op.crew e.pa e.w then poison (clear s)
     else ((clear s).storeLocal o n op cr e sc e.data false).finishElem o n e 0)
  else match homeOf e.pa with
    | .remote p =>
      if s.pend.any (fun x => x.2.writes (e.pa / 8 * 8) 8) then s
      else if Config.stillReserved away.1 then
        (clear away.2).request 3 p e.pa (bytesWords (leBytes e.w e.data)) o n cr.core op.epoch op.ctx e.va
      else (clear away.2).finishElem o n e 1
    | .host =>
      if Config.stillReserved away.1 then
        ((clear away.2).hostStore cr.core (some (op.crew, op.wave, op.strand)) e.pa (leBytes e.w e.data)).finishElem o n e 0
      else (clear away.2).finishElem o n e 1
    | .cxl => s
    | .hbm =>
      if !s.unowned e.pa e.w then s
      else if s.poisonedFor op.crew e.pa e.w then poison (clear s)
      else (((clear s).commitBytes (some cr.core) (some (op.crew, op.wave, op.strand)) e.pa (leBytes e.w e.data)).dropCopy
        cr.core (e.pa / 256)).finishElem o n e 0

/-- A word of memory is written at its home and waiters on its wake word are evaluated in the same step (R231). -/
def State.wakeStore (s : State) (writer : Option Nat) (who : Option (Nat × Nat × Nat)) (pa : Nat) (bs : List Byte)
    (eval : State → Nat → Nat → State) : State :=
  eval (s.commitBytes writer who pa bs) pa bs.length

/-- The lines of an access that this package homes. -/
def Op.homeLines (op : Op) : List Nat :=
  distinct ((op.elems.filter (fun e => match homeOf e.pa with | .hbm => true | _ => false)).map (fun e => e.pa / 256))

/-- Enter an operation in the ownership table of its lines (R90): sharers invalidated, the issuing core's copies
dropped. -/
def State.own (s : State) (o core : Nat) (lines : List Nat) : State :=
  lines.foldl (fun (s : State) l =>
    let s1 := { s with owners := s.owners.put l ((s.owners.rd [] l) ++ [o]) }
    (s1.invalidateSharers l none).dropCopy core l) (s.modOp o (fun op => { op with lines := op.lines ++ lines }))

/-- Release one line (R90). -/
def State.release (s : State) (o line : Nat) : State :=
  (s.releaseLines o [line]).modOp o (fun op => { op with lines := op.lines.filter (· ≠ line) })

/-- The operation is the first in a line's table: it may write (R90). -/
def State.turnOf (s : State) (o line : Nat) : Bool := (s.owners.rd [] line).head? == some o

/-- The operations that own a line now: those an engine read of the operation performed now waits for (R91). -/
def State.ownersNow (s : State) : List Nat := distinct (s.owners.flatMap (·.2))

/-- An engine's read of a range is held by none of the operations it waits for (R91). -/
def State.readable (s : State) (o : Nat) (waits : List Nat) (pa n : Nat) : Bool :=
  (linesOf pa n).all (fun l => !(s.owners.rd [] l).any (fun p => p != o && waits.contains p))

end Sys2Proof.Machine
end

