-- ==== Sys2Proof/Machine/Control.lean ====
section
/-!
DEFINITION. Class B control and register blocks (R145 to R165), special registers (R68 to R70), and the strand-side events
of waves: wakes, expiries, grants, returns and retirement (R143, R144, R150, R152).
-/

namespace Sys2Proof.Machine

open Sys2Proof Host

/-! ## Clause words (R52) -/

/-- The words of a clause that the crew's core has cached (R360). -/
def State.cachedClause (s : State) (cr : Crew) (addr : Nat) : List Dword :=
  (((s.core cr.core).code.find? (fun e => e.1 == cr.ctx && e.2.1 == addr)).map (fun e => e.2.2)).getD []

/-- Read one 8-byte word of a clause for a crew: its translated address must grant X; the cached word where there is one,
else committed bytes (R52, R360). The error is a cause. -/
def State.fetchWord (s : State) (cr : Crew) (addr : Nat) (hit : Option Dword) : Except Nat Dword :=
  let cached := s.tlb.any (fun t => t.covers (dieOf cr.core) cr.ctx addr && Need.fetch.met t.r t.w t.x)
  if 2 ^ 56 ≤ addr then .error Cause.protection
  else match (if cached then none else s.walkFault (dieOf cr.core) cr.ctx addr) with
  | some c => .error c
  | none =>
    match s.translate (dieOf cr.core) cr.ctx addr Need.fetch with
    | .error c => .error c
    | .ok pa =>
      match hit with
      | some d => .ok d
      | none => if s.poisoned pa 8 then .error Cause.memoryPoison else .ok (BitVec.ofNat 64 (s.read64 pa))

/-- What reading a clause gives (R52). -/
inductive Fetched where
  /-- A read faults: cause, address, the header if it was read. -/
  | fault (cause addr : Nat) (h : Option Header)
  /-- A rule of clause fetch is broken; the instructions of the words that decode. -/
  | bad (h : Header) (is : List Instr)
  /-- A clause that may start. -/
  | ok (h : Header) (ws : List Dword) (is : List Instr)
  deriving DecidableEq, Repr

/-- Read words in order; the first that faults is the lowest faulting address. -/
def State.fetchWords (s : State) (cr : Crew) (addr : Nat) (hits : List Dword) : Nat → Except (Nat × Nat) (List Dword)
  | 0 => .ok []
  | n + 1 =>
    match s.fetchWord cr addr hits.head? with
    | .error c => .error (c, addr)
    | .ok w =>
      match s.fetchWords cr (addr + 8) hits.tail n with
      | .error e => .error e
      | .ok ws => .ok (w :: ws)

/-- The instructions of the words of a class that decode. -/
def decoded (cls : Nat) (ws : List Dword) : List Instr :=
  ws.filterMap (fun d => match decodeWord cls d with | .ok i => some i | .error _ => none)

/-- Read and judge a clause (R52): all reads first, then the encodings. -/
def State.fetchClause (s : State) (cr : Crew) (addr : Nat) : Fetched :=
  let hits := s.cachedClause cr addr
  match s.fetchWord cr addr hits.head? with
  | .error c => .fault c addr none
  | .ok hw =>
    let h := readHeader hw
    match s.fetchWords cr (addr + 8) hits.tail (h.cnt + 1) with
    | .error e => .fault e.1 e.2 (some h)
    | .ok ws =>
      match decodeClause hw ws with
      | .ok (h, is) => .ok h ws is
      | .error _ => .bad h (decoded h.cls ws)

/-- A read of the clause has to wait for the walk of its page (R90, R356). -/
def State.fetchHeld (s : State) (cr : Crew) (addr : Nat) : Bool :=
  !s.owners.isEmpty && (s.walkHeld (dieOf cr.core) cr.ctx addr Need.fetch ||
    match s.fetchWord cr addr (s.cachedClause cr addr).head? with
    | .ok hw => s.rangeHeld (dieOf cr.core) cr.ctx Need.fetch addr (8 * ((readHeader hw).cnt + 2))
    | .error _ => false)

/-! ## Branches (R154 to R157) -/

/-- The trap of a target (R154). -/
def targetFault (t : Nat) : Option Nat :=
  if t % 8 ≠ 0 then some Cause.misaligned else if 2 ^ 56 ≤ t then some Cause.protection else none

/-- The first active lane whose target fails. -/
def firstTargetFault (act : LaneMask) (t : Nat → Nat) : Option (Nat × Nat) :=
  ((lanesOf act).filterMap (fun l => (targetFault (t l)).map (fun c => (c, t l)))).head?

/-- A branch with a target per active lane: checks, then the split; other lanes of the strand go on at the next clause. -/
def State.jump (s : State) (q : Cursor) (w : Wave) (act : LaneMask) (t : Nat → Nat) (first : State → State) : State :=
  match firstTargetFault act t with
  | some e => s.trapAt e.1 e.2
  | none =>
    let st := w.strand q.strand
    (first s).branch ((lanesOf (st.mask &&& w.lanes)).map (fun l => (if act.getLsbD l then t l else st.pc, l)))

/-- The target of an immediate branch (R66). -/
def immTarget (w : Wave) (imm : Word) : Nat := wrapNat 64 ((w.clauseAddr : Int) + 8 * imm.toInt)

/-- BRA (R155). -/
def execBra (f : ImmFields) (s : State) : Outcome State Fault Refusal :=
  s.laned (.bra f) f.pn f.pred [] (fun q _ w act => s.jump q w act (fun _ => immTarget w f.imm) id)

/-- BRX (R156). -/
def execBrx (f : Fields) (s : State) : Outcome State Fault Refusal :=
  s.laned (.brx f) f.pn f.pred (vNamed f.ka f.a 2) (fun q _ w act => s.jump q w act (fun l => f.ra w 2 l) id)

/-- RET (R156). -/
def execRet (f : Fields) (s : State) : Outcome State Fault Refusal :=
  s.laned (.ret f) f.pn f.pred (vNamed f.ka f.a 2) (fun q _ w act => s.jump q w act (fun l => f.ra w 2 l) id)

/-- CALL (R157): the active lanes' return pair is the next clause. -/
def execCall (f : ImmFields) (s : State) : Outcome State Fault Refusal :=
  s.laned (.call f) f.pn f.pred (vNamed f.kd f.d 2) (fun q _ w act =>
    s.jump q w act (fun _ => immTarget w f.imm) (fun s =>
      s.writeRegs q.crew q.wave (laneWrites f.kd f.d.toNat 2 act (fun _ => (w.strand q.strand).pc))))

/-! ## JOIN, EXIT, YIELD, NOP, TRAP (R158 to R161) -/

/-- Wait at the join point that follows (R158), whose header is read as a clause's is (R356, R357). -/
def State.joinWait (s : State) (q : Cursor) (cr : Crew) (w : Wave) (m : JoinMember) : State :=
  let j := (w.strand q.strand).pc
  if s.walkHeld (dieOf cr.core) cr.ctx j Need.fetch then s.retry else
  let s := s.dropLacking (dieOf cr.core) cr.ctx j Need.fetch
  match s.fetchWord cr j (s.cachedClause cr j).head? with
  | .error c => s.trapAt c j
  | .ok hw =>
    let tag := (readHeader hw).jtag
    if tag = 0 then s.trapHdr Cause.illegalConvergence
    else ((match m.d with | some d => s.waitFor q.crew q.wave q.strand [sKey d] | none => s).modStrand q.crew q.wave q.strand (fun st => { st with
        st := .waiting (.join j tag [m]), woken := false, expired := false, waitHdr := w.clauseAddr })).settleStrands q.crew q.wave q.strand w.clauseAddr

/-- JOIN (R158). -/
def execJoin (f : Fields) (s : State) : Outcome State Fault Refusal :=
  s.waved (.join f) [] (fun q cr w => s.joinWait q cr w ⟨none, none⟩)

/-- JOINW with the limit in a register (R158). -/
def execJoinw (f : Fields) (s : State) : Outcome State Fault Refusal :=
  s.waved (.joinw f) [] (fun q cr w => s.joinWait q cr w ⟨some f.d.toNat, some (s.cycle + (w.s f.b.toNat).toNat)⟩)

/-- JOINW with an immediate limit (R158). -/
def execJoinwImm (f : ImmFields) (s : State) : Outcome State Fault Refusal :=
  s.waved (.joinwImm f) [] (fun q cr w => s.joinWait q cr w ⟨some f.d.toNat, some (s.cycle + f.imm.toNat)⟩)

/-- The results of a wave's operations in flight are discarded (R144); the operations go on. -/
def State.discardResults (s : State) (c w : Nat) : State :=
  { s with
    ops := s.ops.mapV (fun _ op => if op.crew = c ∧ op.wave = w then { op with dsts := [] } else op)
    waitDst := s.waitDst.filter (fun e => !(e.1 == c && e.2.1 == w)) }

/-- A wave ends (R144): results in flight are discarded, its tiles and slots are unbound (R280, R320), it leaves the implicit barrier's count where it has not arrived (R235), and
a handler wave is lost (R177). -/
def State.endWave (s : State) (c w : Nat) : State :=
  match s.crew? c with
  | none => s
  | some cr =>
    let s := (s.discardResults c w).releaseUnits c w (fun _ => true) (fun _ => true)
    let s1 := if cr.arrived.contains w then s
      else (s.modCrew c (fun cr => { cr with barPending := cr.barPending - 1 })).crewBarrierStep c
    if (s1.ctx cr.ctx).handler = some (c, w) then s1.loseHandler cr.ctx else s1

/-- EXIT (R159): the active lanes end. A strand whose last lane ends while another is in pre-arrival raises
barrier-unreachable (R238). -/
def execExit (f : Fields) (s : State) : Outcome State Fault Refusal :=
  s.laned (.exit f) f.pn f.pred [] (fun q _ w act =>
    let st := w.strand q.strand
    let mask := st.mask &&& ~~~act
    let w1 := { w with lanes := w.lanes &&& ~~~act }
    if mask ≠ 0 then s.modWave q.crew q.wave (fun _ => w1.modStrand q.strand (fun st => { st with mask := mask }))
    else
      let w2 := w1.modStrand q.strand (fun _ => Strand.unused)
      let s1 := (s.dropLr q.crew q.wave q.strand).modWave q.crew q.wave (fun _ => w2)
      match w2.liveStrands.find? (fun k => (w2.strand k).preArr.isSome) with
      | some k => s1.trap q.crew q.wave k Cause.barrierUnreachable w.clauseAddr 7
      | none =>
        if w2.lanes = 0 then s1.endWave q.crew q.wave
        else s1.settleStrands q.crew q.wave q.strand w.clauseAddr)

/-- The strand gives way (R148, R149): it becomes runnable and is chosen again only if no other is, and its wave is offered again after
every other ready one. -/
def State.giveWay (s : State) (c w k : Nat) : State :=
  (s.modWave c w (fun wv => { wv.modStrand k (fun st => { st with st := .runnable, age := 0 }) with
    yieldedStrand := some k, givenWay := some [] })).choose c w

/-- YIELD (R160). -/
def execYield (f : Fields) (s : State) : Outcome State Fault Refusal :=
  s.waved (.yield f) [] (fun q _ _ => s.giveWay q.crew q.wave q.strand)

/-- NOP (R160): no effect. -/
def execNop (f : Fields) (s : State) : Outcome State Fault Refusal :=
  s.waved (.nop f) [] (fun _ _ _ => s)

/-- TRAP (R161): the breakpoint trap, where any lane is active. -/
def execTrap (f : ImmFields) (s : State) : Outcome State Fault Refusal :=
  s.laned (.trap f) f.pn f.pred [] (fun _ _ _ _ => s.trapHdr Cause.breakpoint)

/-! ## Register blocks (R162 to R165) -/

/-- The blocks of a range. -/
def blockRange (f : Fields) : List Nat := (List.range (f.mb 0 4 + 1)).map (fun i => f.mb 4 4 + i)

/-- RBACQ (R163): where every block is held the strand goes on; otherwise it enters the core's queue and waits. -/
def execRbacq (f : Fields) (s : State) : Outcome State Fault Refusal :=
  s.waved (.rbacq f) [] (fun q cr w =>
    if (blockRange f).all (fun b => (w.seg.find? b).isSome) then s
    else ((s.modCore cr.core (fun k => { k with rbq := k.rbq ++ [(q.crew, q.wave, q.strand)] })).enterWait
      q.crew q.wave q.strand (.rbacq (f.mb 4 4) (f.mb 0 4 + 1)) w.clauseAddr).settleStrands q.crew q.wave q.strand w.clauseAddr)

/-- The register elements of a block. -/
def inBlock (b k : Nat) : Bool := decide (2048 * b ≤ k) && decide (k < 2048 * (b + 1))

/-- RBREL (R164): each held block is unmapped at once; its segment returns once the operations that would still write
into it have completed, and their results for it are discarded. -/
def execRbrel (f : Fields) (s : State) : Outcome State Fault Refusal :=
  s.waved (.rbrel f) [] (fun q _ w =>
    ((blockRange f).filter (fun b => (w.seg.find? b).isSome)).foldl (fun (s : State) b =>
      let mine (op : Op) : Bool := op.crew == q.crew && op.wave == q.wave && op.dsts.any (inBlock b)
      let ids := (s.ops.filter (fun e => mine e.2)).map (·.1)
      let s1 := { s with ops := s.ops.mapV (fun _ op => if mine op then { op with dsts := op.dsts.filter (fun k => !inBlock b k) } else op) }
      s1.modWave q.crew q.wave (fun x => { x with
        seg := x.seg.del b, vr := x.vr.filter (fun e => !inBlock b e.1),
        segRet := if ids.isEmpty then x.segRet else x.segRet ++ [((x.seg.find? b).getD 0, ids)] })) s)

/-- RBQRY (R165): blocks held, free segments, waiters. -/
def execRbqry (f : Fields) (s : State) : Outcome State Fault Refusal :=
  s.waved (.rbqry f) [] (fun q cr w =>
    let held := (w.seg.map (fun e => 2 ^ e.1)).sum
    let v := held + (s.segsFree cr.core).length * 2 ^ 16 + (s.core cr.core).rbq.length * 2 ^ 24
    s.writeRegs q.crew q.wave [(sKey f.d.toNat, BitVec.ofNat 32 v)])

/-! ## Special registers (R68 to R70) -/

/-- The CLAVE register of a context (R374). -/
def State.clave (s : State) (cx : Context) : Nat := s.claveBusy.toNat * 2 ^ 31 + cx.clave

/-- The value of a special register for the issuing strand; LANE is the lane's own (R68). -/
def State.sreg (s : State) (q : Cursor) (cr : Crew) (n l : Nat) : Nat :=
  let cx := s.ctx cr.ctx
  match n with
  | 0x000 => s.tabor.toNat
  | 0x001 => l
  | 0x002 => cr.slot q.wave
  | 0x003 => q.strand
  | 0x004 => cr.idx
  | 0x005 => cr.taskIdx
  | 0x006 => cr.core
  | 0x007 => cr.ctx
  | 0x010 => cx.engq.toNat
  | 0x011 => cx.traprec.toNat
  | 0x020 => cx.eacct
  | _ => s.clave cx

/-- Special registers reserved to the trap handler (R68). -/
def sregHandler (n : Nat) : Bool := n == 0x010 || n == 0x011 || n == 0x030

/-- The issuing wave is its context's trap handler. -/
def State.isHandler (s : State) (q : Cursor) (cr : Crew) : Bool := (s.ctx cr.ctx).handler == some (q.crew, q.wave)

/-- SYSR (R69). -/
def execSysr (f : Fields) (s : State) : Outcome State Fault Refusal :=
  let n := if sreg64 f.num then 2 else 1
  s.waved (.sysr f) (vNamed f.kd f.d n) (fun q cr w =>
    if sregHandler f.num && !s.isHandler q cr then s.trapHdr Cause.protection
    else
      let act := w.active q.strand false 0
      s.writeRegs q.crew q.wave (if f.kd then wrGroup true f.d.toNat 0 n (s.sreg q cr f.num 0)
        else laneWrites false f.d.toNat n act (fun l => s.sreg q cr f.num l)))

/-- SYSW (R70): ENGQ is the one writable register; its reserved bits 5:0 stay 0 (R114). -/
def execSysw (f : Fields) (s : State) : Outcome State Fault Refusal :=
  s.waved (.sysw f) [] (fun q cr w =>
    if !s.isHandler q cr then s.trapHdr Cause.protection
    else s.modCtx cr.ctx (fun cx => { cx with engq := w.s f.a.toNat &&& 0xFFFFFFC0 }))

/-! ## Events of strands and waves -/

/-- A parked wave one of whose strands becomes runnable goes to the end of its scheduler's rotation (R151). -/
def Wave.unpark (w : Wave) : Wave := if w.parked then { w with parked := false, givenWay := some [] } else w

/-- The crew's waves may go on: its task is not stopped, its context is running, no restart waits for segments, no freeze is on, and the
compute dies run (R103, R168, R383). -/
def State.crewRuns (s : State) (cr : Crew) : Bool :=
  cr.task != .stopped && !cr.freezing && !cr.restarting && (s.ctx cr.ctx).st == .running && !s.stopped

/-- The deadline of a join wait: the latest of its members', if every member has one (R158). -/
def joinDeadline (ms : List JoinMember) : Option Nat :=
  if ms.all (fun m => m.deadline.isSome) then some ((ms.filterMap (·.deadline)).foldl max 0) else none

/-- The cycle in which a strand's wait runs out of time (R158, R245). -/
def Strand.limit (st : Strand) : Option Nat :=
  match st.st with
  | .waiting (.join _ _ ms) => joinDeadline ms
  | .waiting (.wake _ _ _ _ _ dl _ _) => dl
  | _ => none

/-- The cycle of the limit has ended by cycle `now`, with the wait's condition still false: an event in that cycle itself comes
first (R158, R245). -/
def Strand.expire (st : Strand) (now : Nat) : Strand :=
  match st.limit with
  | some t => if !st.woken && decide (t < now) then { st with expired := true } else st
  | none => st

/-- RESERVATION_EXPIRY (R150): the strand has issued 64 instructions after its LR. -/
def execReservationExpiry (c w k : Nat) (s : State) : Outcome State Fault Refusal :=
  match s.wave? c w with
  | none => hold s
  | some wv =>
    let st := wv.strand k
    if st.resv.isSome && decide (64 ≤ st.since) then .next (s.modStrand c w k (fun st => { st with resv := none, since := 0 })) else hold s

/-- A fairness switch is due (R150): at a clause boundary, another strand's age has reached 4,096 and the running strand
holds no reservation. -/
def Wave.switchDue (w : Wave) : Option Nat :=
  match (List.range 4).find? (fun k => (w.strand k).st == .running) with
  | none => none
  | some k =>
    if w.clause.isNone && (w.strand k).resv.isNone &&
      (List.range 4).any (fun i => i != k && (w.strand i).runs && decide (4096 ≤ (w.strand i).age)) then some k else none

/-- FAIRNESS_SWITCH (R150). -/
def execFairnessSwitch (c w : Nat) (s : State) : Outcome State Fault Refusal :=
  match (s.wave? c w).bind Wave.switchDue with
  | none => hold s
  | some k => .next ((s.modStrand c w k (fun st => { st with st := .runnable, age := 0 })).choose c w)

/-- A restart at the head of its core's queue is granted, where the segments it needs are free (R163, R168). -/
def State.grantRestart (s : State) (core c : Nat) (rest : List (Nat × Nat × Nat)) : State :=
  let gone := s.modCore core (fun q => { q with rbq := rest })
  match s.crew? c with
  | none => gone
  | some cr =>
    match s.kernel? cr.kernel with
    | none => gone
    | some kn =>
      if !cr.restarting then gone
      else if !cr.atBoundary || s.accessing c || decide ((s.segsFree core).length < cr.restartNeed kn) then s
      else gone.rewave c

/-- RBACQ_GRANT (R163): the request at the head of a core's queue is granted whole, once enough segments are free. Which blocks it
needs is taken at the grant: another strand of the wave may have acquired or released some meanwhile (DESIGN CHOICE, log 70). -/
def execRbacqGrant (core : Nat) (s : State) : Outcome State Fault Refusal :=
  match (s.core core).rbq with
  | [] => hold s
  | (c, w, k) :: rest =>
    if (c, w, k) = restartReq c then .next (s.grantRestart core c rest) else
    match s.wave? c w with
    | none => .next (s.modCore core (fun q => { q with rbq := rest }))
    | some wv =>
      match (wv.strand k).st with
      | .waiting (.rbacq first n) =>
        let need := ((List.range n).map (fun i => first + i)).filter (fun b => (wv.seg.find? b).isNone)
        let free := s.segsFree core
        if free.length < need.length then hold s
        else
          let s1 := s.modCore core (fun q => { q with rbq := rest })
          .next (s1.modWave c w (fun x => Wave.modStrand { x with
            seg := (need.zip free).foldl (fun (t : Tab Nat) e => t.put e.1 e.2) x.seg,
            vr := x.vr.filter (fun e => !need.any (fun b => inBlock b e.1)) } k (fun st => { st with woken := true })))
      | _ => .next (s.modCore core (fun q => { q with rbq := rest }))

/-- SEGMENT_RETURN (R164): every operation that would have written into a released segment has completed. -/
def execSegmentReturn (c w seg : Nat) (s : State) : Outcome State Fault Refusal :=
  match s.wave? c w with
  | none => hold s
  | some wv =>
    match wv.segRet.find? (fun e => e.1 == seg) with
    | none => hold s
    | some e =>
      if e.2.any (fun o => (s.op? o).isSome) then hold s
      else .next (s.modWave c w (fun x => { x with segRet := x.segRet.filter (fun e => e.1 != seg) }))

/-- WAVE_RETIRE (R144): an ended wave whose last operation has completed gives up its segments and its slot. -/
def execWaveRetire (c w : Nat) (s : State) : Outcome State Fault Refusal :=
  match s.wave? c w with
  | none => hold s
  | some wv =>
    if wv.live && wv.lanes == 0 && !s.ops.any (fun e => e.2.crew == c && e.2.wave == w) then
      .next ((s.unbindAll c w).modWave c w (fun x => { x with live := false, seg := [], segRet := [], vr := [] }))
    else hold s

end Sys2Proof.Machine
end

