-- ==== Sys2Proof/Machine/Issue.lean ====
section
/-!
DEFINITION. Starting and running clauses: when a clause may start (R52, R54, R253, R280, R282, R307, R320, R325, R336,
R349), which wave its scheduler takes (R148), the issue of one instruction and the end of a clause (R54, R173), TEND's wait
(R179), and the passing of time (R143, R150).
-/

namespace Sys2Proof.Machine

open Sys2Proof Host

/-! ## Room in the units -/

/-- A token-merging instruction (R336). -/
def isToken (i : Instr) : Bool := match opcodeOf i with | some (6, _) => true | _ => false

/-- A beam-engine instruction (R349). -/
def isBeam : Instr → Bool
  | .beam _ | .proot _ => true
  | _ => false

/-- Operations in flight whose instruction and core are picked. -/
def State.countOps (s : State) (pick : Instr → Bool) (core : Nat → Bool) : Nat :=
  (s.ops.filter (fun e => pick e.2.instr && (match s.crew? e.2.crew with | some cr => core cr.core | none => false))).length

/-- The tile name an instruction binds where it is unbound (R280). -/
def bindsTile : Instr → Option Nat
  | .azero f => if f.mb 0 2 < 2 then some f.d.toNat else none
  | .ald f => some f.d.toNat
  | _ => none

/-- The expansion name an instruction binds where it is unbound (R320). -/
def bindsExp : Instr → Option Nat
  | .xclr f => if f.mb 0 2 < 2 then some f.d.toNat else none
  | .xld f => some f.d.toNat
  | _ => none

/-- The expansion names an instruction names. -/
def namesExp : Instr → List Nat
  | .xclr f | .xform f | .xld f | .xst f => [f.d.toNat]
  | .xshift f | .xm2l f | .xlsh f => [f.d.toNat, f.a.toNat]
  | .xeval f | .xadm f => [f.a.toNat]
  | _ => []

/-- The expansion name an operation writes. -/
def writesExp : Instr → Option Nat
  | .xclr f | .xform f | .xld f | .xshift f | .xm2l f | .xlsh f => some f.d.toNat
  | _ => none

/-- The wave has an operation in flight that satisfies `p`. -/
def State.anyOp (s : State) (c w : Nat) (p : Op → Bool) : Bool := s.ops.any (fun e => e.2.crew == c && e.2.wave == w && p e.2)

/-- The instructions a wave's clause has still to issue. -/
def Wave.toIssue (wv : Wave) : List Instr := match wv.clause with | some cl => decoded cl.hdr.cls cl.rest | none => []

/-- What the started clauses of cores still need, by a measure of a wave and its instructions. -/
def State.reserved (s : State) (core : Nat → Bool) (f : Wave → List Instr → Nat) : Nat :=
  s.crews.foldl (fun n e => if core e.2.core then e.2.waves.foldl (fun n x => if x.2.clause.isSome then n + f x.2 x.2.toIssue else n) n else n) 0

/-- Tiles a wave's instructions are to bind (R280). -/
def Wave.newTiles (wv : Wave) (is : List Instr) : Nat :=
  ((distinct (is.filterMap bindsTile)).filter (fun t => (wv.tiles.find? t).isNone)).length

/-- Expansion slots a wave's instructions are to bind (R320). -/
def Wave.newExps (wv : Wave) (is : List Instr) : Nat :=
  ((distinct (is.filterMap bindsExp)).filter (fun t => (wv.exps.find? t).isNone)).length

/-- The units the clause's instructions need have room beyond what started clauses will take, and what they must wait for has
completed. -/
def State.unitsAllow (s : State) (c : Nat) (cr : Crew) (w : Nat) (wv : Wave) (is : List Instr) : Bool :=
  let k := s.core cr.core
  let need (p : Instr → Bool) : Nat := (is.filter p).length
  let room (p : Instr → Bool) (core : Nat → Bool) (limit : Nat) : Bool :=
    need p == 0 || decide (s.countOps p core + s.reserved core (fun _ js => (js.filter p).length) + need p ≤ limit)
  let roomC := room isCopy (fun x => x == cr.core) Config.copies
  let roomG := room isToken (fun x => podOf x == podOf cr.core) Config.unitOps
  let roomS := room isBeam (fun x => dieOf x == dieOf cr.core) Config.unitOps
  let roomT := wv.newTiles is == 0 ||
    decide (k.tiles.length + s.reserved (fun x => x == cr.core) Wave.newTiles + wv.newTiles is ≤ Config.tiles)
  let mmas := !(is.filterMap tileOf).any (fun t => s.anyOp c w (fun op => match op.instr with | .mmas f => f.d.toNat == t | _ => false))
  let roomE := wv.newExps is == 0 ||
    decide (k.exps.length + s.reserved (fun x => x == cr.core) Wave.newExps + wv.newExps is ≤ Config.expSlots)
  let xld := !(is.flatMap namesExp).any (fun t => s.anyOp c w (fun op => match op.instr with | .xld f => f.d.toNat == t | _ => false))
  let xst := !is.any (fun i => match i with
    | .xst f => s.anyOp c w (fun op => writesExp op.instr == some f.d.toNat)
    | _ => false)
  roomC && roomG && roomS && roomT && mmas && roomE && xld && xst

/-- A K instruction of the strand other than ACOMP is outstanding (R307). -/
def State.kBusy (s : State) (c w k : Nat) : Bool :=
  s.anyOp c w (fun op => op.strand == k && (match opcodeOf op.instr with | some (4, o) => o != 0x04 | _ => false))

/-! ## Ready strands and the scheduler -/

/-- Strand `k` of a wave could start its next clause now (R52, R54): one that breaks a rule of clause fetch too, by those of its words that
decode. A clause whose reads wait for a walk does not start (R90). -/
def State.strandReady (s : State) (c : Nat) (cr : Crew) (w : Nat) (wv : Wave) (k : Nat) : Bool :=
  !s.kBusy c w k &&
  ((wv.strand k).tend || !s.fetchHeld cr (wv.strand k).pc &&
    match s.fetchClause cr (wv.strand k).pc with
    | .fault _ _ none => true
    | .fault _ _ (some h) => wv.waitAllows h
    | .bad h is => wv.flagsAllow h is && s.unitsAllow c cr w wv is
    | .ok h _ is => wv.flagsAllow h is && s.unitsAllow c cr w wv is)

/-- The running strand of a wave. -/
def Wave.running (wv : Wave) : Option Nat := (List.range 4).find? (fun k => (wv.strand k).st == .running)

/-- One round of R143's stalls: the running strand that cannot start its clause stalls and the wave chooses afresh. -/
def State.stallOnce (s : State) (c w : Nat) : State :=
  match s.crew? c with
  | none => s
  | some cr =>
    match cr.waves.find? w with
    | none => s
    | some wv =>
      match wv.running with
      | none => s.choose c w
      | some k =>
        if s.strandReady c cr w wv k then s
        else (s.modStrand c w k (fun st => { st with st := .stalled })).choose c w

/-- A stalled strand whose clause can start is runnable (R143), also while another strand's clause is in progress; a parked wave goes to
the end of its scheduler's rotation (R151). -/
def State.unstall (s : State) (c w : Nat) : State :=
  match s.crew? c with
  | none => s
  | some cr =>
    match cr.waves.find? w with
    | none => s
    | some wv =>
      if !wv.live || !s.crewRuns cr then s else
      let up := (List.range 4).filter (fun k => (wv.strand k).st == .stalled && s.strandReady c cr w wv k)
      if up.isEmpty then s else
      s.modWave c w (fun wv => (up.foldl (fun (x : Wave) k => x.modStrand k (fun st => { st with st := .runnable })) wv).unpark)

/-- An element of a load is served beyond the core's L1: one of an LR at pod or wider always (R95). -/
def State.beyondL1 (s : State) (c : Nat) (cr : Crew) (w : Nat) (wv : Wave) (sc : Nat) (st far : Bool) (e : Elem) : Bool :=
  match e.st with
  | .pending => far || (match s.serveNear c cr w wv e sc st with | .bytes _ => false | _ => true)
  | .remote _ => true
  | _ => false

/-- A load of the wave counted on flag `n` is served beyond its core's L1 (R151). -/
def State.loadBeyond (s : State) (c : Nat) (cr : Crew) (w : Nat) (wv : Wave) (n : Nat) : Bool :=
  s.anyOp c w (fun op => op.flag == n &&
    match op.instr with
    | .ld f => op.elems.any (s.beyondL1 c cr w wv f.scope (f.hint == 1) false)
    | .lr f => op.elems.any (s.beyondL1 c cr w wv f.scope false (decide (3 ≤ f.scope)))
    | .gath _ => true
    | _ => false)

/-- A wave is parked (R151): none of its strands is running or runnable, and a stalled one waits on a flag with a load beyond L1. -/
def State.parks (s : State) (c : Nat) (cr : Crew) (w : Nat) (wv : Wave) : Bool :=
  (List.range 4).all (fun k => !((wv.strand k).st == .running || (wv.strand k).st == .runnable)) &&
  (List.range 4).any (fun k => (wv.strand k).st == .stalled &&
    match s.fetchClause cr (wv.strand k).pc with
    | .ok h _ _ => (List.range 12).any (fun n => h.wait.getLsbD n && wv.flag n != 0 && s.loadBeyond c cr w wv n)
    | _ => false)

/-- Bring a wave's strands up to date (R143): a stalled strand whose clause can start is runnable; at a clause boundary a running one
whose clause cannot start is stalled, and the wave may be parked (R151). -/
def State.settleWave (s : State) (c w : Nat) : State :=
  let s1 := s.unstall c w
  match s1.crew? c with
  | none => s1
  | some cr =>
    match cr.waves.find? w with
    | none => s1
    | some wv =>
      if wv.clause.isSome || !wv.live || !s1.crewRuns cr then s1 else
      let s2 := (List.range 4).foldl (fun (s : State) _ => s.stallOnce c w) s1
      match s2.wave? c w with
      | none => s2
      | some wv2 => if !wv2.parked && s2.parks c cr w wv2 then s2.modWave c w (fun x => { x with parked := true }) else s2

/-- The crews of a core. -/
def State.crewsOn (s : State) (core : Nat) : List (Nat × Crew) := s.crews.filter (fun e => e.2.core == core)

/-- A wave may start a clause now: its crew runs, its running strand is ready, no fairness switch or expiry comes
first. -/
def State.waveReady (s : State) (c : Nat) (cr : Crew) (w : Nat) (wv : Wave) : Bool :=
  s.crewRuns cr && wv.live && wv.clause.isNone && wv.switchDue.isNone &&
  match wv.running with
  | none => false
  | some k => !((wv.strand k).resv.isSome && decide (64 ≤ (wv.strand k).since)) && s.strandReady c cr w wv k

/-- A wave that has given way waits for one of the slots to start a clause first (R148, R151). -/
def Wave.waitsFor (wv : Wave) (own : Nat) (slots : List Nat) : Bool :=
  match wv.givenWay with
  | none => false
  | some l => slots.any (fun q => q != own && !l.contains q)

/-- The wave a scheduler takes (R148): the first ready one in ascending slot order after the one that last started a
clause; none while a clause of the scheduler is in progress. One that has given way is passed over while another ready one has not
started a clause since; where every ready one has given way, all are offered (DESIGN CHOICE, log 71). -/
def State.scheduled (s : State) (core sch : Nat) : Option (Nat × Nat) :=
  let ws := (s.crewsOn core).flatMap (fun e => (e.2.waves.filter (fun x => e.2.slot x.1 % 4 == sch)).map (fun x => (e.1, e.2, x.1, x.2)))
  if ws.any (fun x => x.2.2.2.clause.isSome) then none else
  let ready := ws.filter (fun x => s.waveReady x.1 x.2.1 x.2.2.1 x.2.2.2)
  let slots := ready.map (fun x => x.2.1.slot x.2.2.1)
  let first := ready.filter (fun x => !x.2.2.2.waitsFor (x.2.1.slot x.2.2.1) slots)
  let last := (s.core core).last.rd 63 sch
  let key (x : Nat × Crew × Nat × Wave) : Nat := (x.2.1.slot x.2.2.1 + 63 - last) % 64
  ((if first.isEmpty then ready else first).foldl (fun (b : Option (Nat × Crew × Nat × Wave)) x =>
    match b with
    | none => some x
    | some y => if key x < key y then some x else some y) none).map (fun x => (x.1, x.2.2.1))

/-! ## TEND's wait (R179) -/

/-- Strand `k` of a wave comes to TEND: in a diverged wave the illegal-convergence trap, otherwise it waits. -/
def State.tendWait (s : State) (c w k hdr cls : Nat) : State :=
  match s.wave? c w with
  | none => s
  | some wv =>
    if (wv.strand k).mask ≠ wv.lanes then s.trap c w k Cause.illegalConvergence hdr cls
    else s.enterWait c w k .tend hdr

/-! ## Starting a clause -/

/-- A core caches a clause that it fetches (R360). -/
def Core.cache (k : Core) (x addr : Nat) (ws : List Dword) : Core :=
  { k with code := (x, addr, ws) :: k.code.filter (fun e => !(e.1 == x && e.2.1 == addr)) }

/-- A core's clause cache loses its n-th clause, newest first (log 35). -/
def State.forgetClause (s : State) (core n : Nat) : State := s.modCore core (fun k => { k with code := k.code.eraseIdx n })

/-- A wave that has given way has let a slot start a clause (R148). -/
def Wave.saw (wv : Wave) (slot : Nat) : Wave :=
  match wv.givenWay with
  | none => wv
  | some l => if l.contains slot then wv else { wv with givenWay := some (slot :: l) }

/-- A wave starts a clause (R148): it no longer gives way, and those of its scheduler that do have let it go first. -/
def State.started (s : State) (cr : Crew) (c w : Nat) : State :=
  let slot := cr.slot w
  let s1 := { s with crews := s.crews.mapV (fun _ q => if q.core = cr.core then { q with waves := q.waves.mapV (fun i wv =>
    if q.slot i % 4 = slot % 4 then wv.saw slot else wv) } else q) }
  (s1.modWave c w (fun wv => { wv with givenWay := none })).modCore cr.core (fun q => { q with last := q.last.put (slot % 4) slot })

/-- A clause has been fetched: cached translations of its words' pages without the right to fetch were dropped before the walks (R357),
and the walks that met a fault are over. -/
def State.dropFetch (s : State) (cr : Crew) (addr : Nat) (h : Option Header) : State :=
  (s.dropPages (dieOf cr.core) cr.ctx Need.fetch addr (h.elim 8 (fun x => 8 * (x.cnt + 2)))).endWalks (dieOf cr.core)

/-- CLAUSE_FETCH (R52, R54): the clause of the wave its scheduler takes is read and judged, and it starts; the flags it
waits on acquire (R99). A strand whose TB clause ended in a wait takes TEND first (R49). -/
def execClauseFetch (c w : Nat) (s : State) : Outcome State Fault Refusal :=
  let s := s.settleRestarts
  match s.crew? c with
  | none => hold s
  | some cr0 =>
    let s1 := (s.crewsOn cr0.core).foldl (fun (s : State) e => (e.2.waves.map (·.1)).foldl (fun (s : State) x => s.settleWave e.1 x) s) s
    match s1.crew? c with
    | none => hold s
    | some cr =>
      match cr.waves.find? w with
      | none => hold s
      | some wv =>
        if s1.scheduled cr.core (cr.slot w % 4) ≠ some (c, w) then .next s1 else
        match wv.running with
        | none => .next s1
        | some k =>
          let a := (wv.strand k).pc
          if (wv.strand k).tend then
            .next ((s1.modStrand c w k (fun st => { st with tend := false })).tendWait c w k (wv.strand k).waitHdr 7)
          else match s1.fetchClause cr a with
          | .fault cause addr h => .next ((s1.dropFetch cr a h).trap c w k cause addr ((h.map (fun (x : Header) => x.cls)).getD 0))
          | .bad h _ => .next ((s1.dropFetch cr a (some h)).trap c w k Cause.illegalEncoding a h.cls)
          | .ok h ws _ =>
            let s3 := ((s1.dropFetch cr a (some h)).started cr c w).modCore cr.core (fun q => q.cache cr.ctx a (packHeader h :: ws))
            .next ((s3.modWave c w (fun x => Wave.modStrand { x with clause := some ⟨a, h, ws, k⟩ } k
              (fun st => { st with pc := a + 8 * (h.cnt + 2) }))).acquireFlags c w h)

/-! ## Issue of one instruction -/

/-- The unit in which an instruction's device address counts its offset, with the right it needs, for the accesses of class M. -/
def devAccess : Instr → Option (Nat × Need)
  | .ld f => some (szBytes f.sz, Need.read)
  | .lr f => some (szBytes f.sz, Need.read)
  | .gath _ => some (0, Need.read)
  | .pref _ => some (256, Need.read)
  | .st f | .stw f => some (szBytes f.sz, Need.write)
  | .atom _ | .sc _ => some (0, Need.atomic)
  | .red f => some (atBytes f.aty, Need.atomic)
  | .scat f => some (0, if f.aop = 0 then Need.write else Need.atomic)
  | _ => none

/-- The device address of an instruction of a whole wave, with the right it needs: a barrier object at LVL 3 to 7, a wake word, the
graph record of GPW. -/
def State.waveAccess (s : State) (cr : Crew) (wv : Wave) : Instr → Option (Nat × Need)
  | .binit f | .bar f | .bara f => if 3 ≤ f.lvl then some (barAddr wv f.a.toNat f.lvl, Need.atomic) else none
  | .barw f | .barq f => if 3 ≤ f.lvl then some (barAddr wv f.a.toNat f.lvl, Need.read) else none
  | .wwait f => some ((wv.s64 f.a.toNat).toNat, Need.read)
  | .gpw _ => (s.kernel? cr.kernel).map (fun k => (k.graph + 8, Need.read))
  | _ => none

/-- The first address of a byte range in each page it touches, of an aligned range of virtual addresses. -/
def pageHeads (a n : Nat) : List Nat :=
  if a % 16 ≠ 0 ∨ 2 ^ 56 < a + n ∨ n = 0 then [] else
    (List.range ((a + n - 1) / 4096 - a / 4096 + 1)).map (fun i => max a ((a / 4096 + i) * 4096))

/-- The device ranges that ALD, AST, XLD and XST translate at issue (R295, R332), with the right they need. -/
def State.unitAccess (s : State) (cr : Crew) (wv : Wave) : Instr → Option (List (Nat × Nat) × Need)
  | .ald f => if f.m 5 then none else
      some ((List.range 128).map (fun i => ((wv.s64 f.a.toNat).toNat + i * (wv.s f.b.toNat).toNat, 512)), Need.read)
  | .ast f => if f.m 5 then none else
      some ((List.range 128).map (fun i => ((wv.s64 f.a.toNat).toNat + i * (wv.s f.b.toNat).toNat, if f.mb 0 3 < 2 then 512 else 256)), Need.write)
  | .xld f => if f.m 5 then none else some ([((wv.s64 f.a.toNat).toNat, 32 + 4 * (wv.xo + 1) ^ 2)], Need.read)
  | .xst f => if f.m 5 then none else
      let ord := (((wv.exps.find? f.d.toNat).bind (fun p => (s.core cr.core).exps.find? p)).map (·.ord)).getD 0
      some ([((wv.s64 f.a.toNat).toNat, 32 + 4 * (ord + 1) ^ 2)], Need.write)
  | _ => none

/-- The device addresses of the strand's next instruction, with the rights it needs. -/
def State.issueAddrs (s : State) (cr : Crew) (wv : Wave) (k : Nat) (i : Instr) : List (Nat × Need) :=
  match devAccess i, fieldsOf i with
  | some m, some f => (lanesOf (wv.active k f.pn f.pred.toNat)).map (fun l => (f.addr wv l 2 m.1, m.2))
  | _, _ => match s.unitAccess cr wv i with
    | some u => (u.1.flatMap (fun r => pageHeads r.1 r.2)).map (fun a => (a, u.2))
    | none => (s.waveAccess cr wv i).toList

/-- A device access of the strand has to wait for the walk of one of its addresses (R90, R356). -/
def State.issueHeld (s : State) (cr : Crew) (wv : Wave) (k : Nat) (i : Instr) : Bool :=
  !s.owners.isEmpty && (s.issueAddrs cr wv k i).any (fun a => s.walkHeld (dieOf cr.core) cr.ctx a.1 a.2)

/-- Cached translations that lack a right the instruction needs are dropped before its walks (R357). -/
def State.dropIssue (s : State) (c : Nat) (wv : Wave) (k : Nat) (i : Instr) : State :=
  match s.crew? c with
  | some cr =>
    if s.tlb.isEmpty then s else
    (s.issueAddrs cr wv k i).foldl (fun (s : State) a => s.dropLacking (dieOf cr.core) cr.ctx a.1 a.2) s
  | none => s

/-- The next instruction of a wave's clause, with the state in which it issues, its siblings' states up to date (R143); none while a
reservation has run out (R150), while a walk it needs waits (R356) or the dies are stopped (R383). -/
def State.beginIssue (s : State) (c w : Nat) : Option (State × Dword × Instr) :=
  let s := s.unstall c w
  match s.wave? c w with
  | none => none
  | some wv =>
    match wv.clause with
    | none => none
    | some cl =>
      let st := wv.strand cl.strand
      if s.stopped || (st.resv.isSome && decide (64 ≤ st.since)) then none else
      match cl.rest with
      | [] => none
      | d :: ds =>
        match decodeWord cl.hdr.cls d with
        | .error _ => none
        | .ok i =>
          if (s.crew? c).any (fun cr => s.issueHeld cr wv cl.strand i) then none else
          some ({ (s.dropIssue c wv cl.strand i).modWave c w (fun x => { x with clause := some { cl with rest := ds } }) with
            cur := some ⟨c, w, cl.strand, false⟩ }, d, i)

/-- The strand has issued one more instruction: its reservation's window counts it, and so does the count of an LR that has not
performed, with the LR itself (R150). -/
def State.countIssue (s : State) (q : Cursor) : State :=
  let s1 := s.modStrand q.crew q.wave q.strand (fun st => if st.resv.isSome then { st with since := st.since + 1 } else st)
  { s1 with ops := s1.ops.mapV (fun _ op => match op.instr with
      | .lr _ => if op.crew = q.crew ∧ op.wave = q.wave ∧ op.strand = q.strand then { op with count := op.count + 1 } else op
      | _ => op) }

/-- A wave that a vacate stops loses its reservations at its boundary (R107). -/
def Wave.unreserve (wv : Wave) : Wave := { wv with strands := wv.strands.mapV (fun _ st => { st with resv := none, since := 0 }) }

/-- The end of a clause (R49, R54, R148, R173): TB as TEND, YLD as YIELD, whose wave gives way also where its strand waits or has ended,
and the stop of a wave whose task has stopped. -/
def State.endClause (s : State) (q : Cursor) (cl : Clause) : State :=
  let st (s : State) : Strand := ((s.wave? q.crew q.wave).map (fun x => x.strand q.strand)).getD Strand.unused
  let s1 :=
    if cl.hdr.tb then
      match (st s).st with
      | .running => s.tendWait q.crew q.wave q.strand cl.addr cl.hdr.cls
      | .runnable => s.modStrand q.crew q.wave q.strand (fun st => { st with tend := true, waitHdr := cl.addr })
      | .waiting .tend => s
      | .waiting _ => s.modStrand q.crew q.wave q.strand (fun st => { st with tend := true })
      | _ => s
    else s
  let s2 := s1.modWave q.crew q.wave (fun x => { x with clause := none })
  let s3 := if !cl.hdr.yld then s2
    else if (st s2).st == .running then s2.giveWay q.crew q.wave q.strand
    else s2.modWave q.crew q.wave (fun x => { x with givenWay := some [] })
  match s3.crew? q.crew with
  | some cr =>
    let s3 := if cr.freezing then s3.modWave q.crew q.wave Wave.unreserve else s3
    let s4 := if cr.task == .stopped then s3.stopOps q.crew else s3
    if cr.task == .stopped || cr.restarting then (s4.modCrew q.crew Crew.stopWaves).settleRestart q.crew else s4
  | none => s3

/-- After an instruction: one that must wait issues again; otherwise it is counted in the reservation's window (R150), and
after the last the clause ends. A wave that has trapped has no clause left. -/
def State.finishIssue (s : State) (d : Dword) (_ : Instr) : State :=
  match s.cur with
  | none => s
  | some q =>
    let s0 := if q.again then { s with cur := none }
      else { s with cur := none }.endWalks (dieOf (s.coreOf q.crew))
    match s.wave? q.crew q.wave with
    | none => s0
    | some wv =>
      match wv.clause with
      | none => s0
      | some cl =>
        if q.again then s0.modWave q.crew q.wave (fun x => { x with clause := some { cl with rest := d :: cl.rest, strand := q.strand } })
        else
          let s1 := s0.countIssue q
          if cl.rest.isEmpty then s1.endClause q cl else s1

/-! ## Time -/

/-- The Tabor counter counts nanoseconds, at half rate while it is ahead of its master: the master gains the other half (R372). -/
def State.taborTick (s : State) (ns : Nat) : State :=
  let h := if s.slowHalf then 1 else 0
  let slow := min ns (2 * s.ahead - h)
  { s with
    tabor := s.tabor + BitVec.ofNat 64 (ns - slow + (slow + h) / 2)
    ahead := s.ahead - (slow + h) / 2
    slowHalf := (slow + h) % 2 == 1 }

/-- Cycles pass for a strand (R150, R158, R245): one that is runnable and not running ages, and a wait's limit may run out by cycle
`now`. -/
def Strand.pass (st : Strand) (cycles now : Nat) : Strand :=
  if st.st == .runnable then { st with age := st.age + cycles } else st.expire now

/-- Time passes (R143, R150, R372): strands age, waits run out, BUSY of the Clave lasts at most 64 cycles (R374). Waits on objects of
another package may end (log 17). -/
def State.tick (s : State) (cycles ns : Nat) : State :=
  let s := s.settleRestarts
  let s1 := s.farWakes.farQueues
  let s1 := s1.crews.foldl (fun (s : State) e => (e.2.waves.map (·.1)).foldl (fun (s : State) w => s.settleWave e.1 w) s) s1
  { s1.taborTick ns with
    crews := s1.crews.mapV (fun _ cr => if cr.freezing then cr else { cr with waves := cr.waves.mapV (fun _ wv => { wv with
      strands := wv.strands.mapV (fun _ st => st.pass cycles (s1.cycle + cycles)) }) })
    cycle := s1.cycle + cycles
    claveBusy := s1.claveBusy && decide (s1.cycle + cycles < s1.claveSince + 64) }

end Sys2Proof.Machine
end

