-- ==== Sys2Proof/Machine/Memory.lean ====
section
/-!
DEFINITION. Class M: memory access instructions (R213 to R232) and the events of the ordering machine (R83 to R94).
-/

namespace Sys2Proof.Machine

open Sys2Proof Host

/-! ## Issue -/

/-- The shape of most M instructions at issue: named registers, checks of R218, then `go` with the elements. -/
def State.access (s : State) (i : Instr) (f : Fields) (vs : List (Nat × Nat)) (form : Crew → Wave → Form)
    (dst : Wave → Nat → List Nat) (data data2 : Wave → Nat → Nat)
    (go : Cursor → Crew → Wave → LaneMask → List Elem → State → State) : Outcome State Fault Refusal :=
  s.laned i f.pn f.pred vs (fun q cr w act =>
    let m := form cr w
    match s.elements cr w f m act (dst w) (data w) (data2 w) with
    | .error e => (s.dropLackingLanes cr w f m act).trapAt e.1 e.2
    | .ok es => go q cr w act es (s.dropLackingAll cr m es))

/-- Launch the operation of an access. -/
def launchAccess (i : Instr) (q : Cursor) (cr : Crew) (w : Wave) (act : LaneMask) (es : List Elem) (s : State) : State :=
  s.launch (accessOp s q cr w i act es)

/-- No registers. -/
def noDst (_ : Wave) (_ : Nat) : List Nat := []

/-- No data. -/
def noData (_ : Wave) (_ : Nat) : Nat := 0

/-- The registers of a loaded element (R215). -/
def Fields.loadDst (f : Fields) (_ : Wave) (l : Nat) : List Nat := groupKeys f.kd f.d.toNat l (szGroup f.sz)

/-- The form of a device access of SZ. -/
def Fields.devForm (f : Fields) (uniform : Bool) (need : Need) : Form :=
  ⟨false, uniform, szBytes f.sz, szBytes f.sz, szBytes f.sz, need, none, false⟩

/-- The form of a scratchpad access of SZ. -/
def Fields.spadForm (f : Fields) (uniform : Bool) : Form :=
  ⟨true, uniform, szBytes f.sz, szBytes f.sz, szBytes f.sz, Need.read, none, false⟩

/-- LD (R221). -/
def execLd (f : Fields) (s : State) : Outcome State Fault Refusal :=
  s.access (.ld f) f (vNamed f.kd f.d (szGroup f.sz) ++ f.memNamed 2) (fun _ _ => Fields.devForm f f.uniform Need.read)
    (Fields.loadDst f) noData noData (fun q cr w act es s => launchAccess (.ld f) q cr w act (es.flatMap Elem.halves) s)

/-- LDS (R221). -/
def execLds (f : Fields) (s : State) : Outcome State Fault Refusal :=
  s.access (.lds f) f (vNamed f.kd f.d (szGroup f.sz) ++ f.memNamed 1) (fun _ _ => Fields.spadForm f f.uniform)
    (Fields.loadDst f) noData noData (fun q cr w act es s => launchAccess (.lds f) q cr w act (es.flatMap Elem.halves) s)

/-- ST (R222). -/
def execSt (f : Fields) (s : State) : Outcome State Fault Refusal :=
  s.access (.st f) f (vNamed f.kd f.d (szGroup f.sz) ++ f.memNamed 2) (fun _ _ => Fields.devForm f f.uniform Need.write)
    noDst (fun w l => f.rD w (szGroup f.sz) l % 2 ^ (8 * szBytes f.sz)) noData
    (fun q cr w act es s => launchAccess (.st f) q cr w act (es.flatMap Elem.halves) s)

/-- STS (R222). -/
def execSts (f : Fields) (s : State) : Outcome State Fault Refusal :=
  s.access (.sts f) f (vNamed f.kd f.d (szGroup f.sz) ++ f.memNamed 1) (fun _ _ => Fields.spadForm f f.uniform)
    noDst (fun w l => f.rD w (szGroup f.sz) l % 2 ^ (8 * szBytes f.sz)) noData
    (fun q cr w act es s => launchAccess (.sts f) q cr w act (es.flatMap Elem.halves) s)

/-- The operand of an atomic: for .cas the comparand, followed by the new value (R217). -/
def Fields.atomData (f : Fields) (w : Wave) (l : Nat) : Nat := f.rc w f.agrp l

/-- The new value of .cas. -/
def Fields.atomData2 (f : Fields) (w : Wave) (l : Nat) : Nat :=
  if f.aop = 8 then w.rd f.kc (f.c.toNat + f.agrp) l f.agrp else 0

/-- The registers of an atomic's old value. -/
def Fields.atomDst (f : Fields) (_ : Wave) (l : Nat) : List Nat := groupKeys f.kd f.d.toNat l f.agrp

/-- ATOM (R223): at pod or wider a versioned task becomes irrevocable first (R98). -/
def execAtom (f : Fields) (s : State) : Outcome State Fault Refusal :=
  s.access (.atom f) f (vNamed f.kd f.d f.agrp ++ f.memNamed 2 ++ vNamed f.kc f.c f.acgrp)
    (fun _ _ => ⟨false, f.uniform && f.kc, atBytes f.aty, atBytes f.aty, 0, Need.atomic, none, false⟩)
    (Fields.atomDst f) (Fields.atomData f) (Fields.atomData2 f) (fun q _ w act es s =>
      let go (s : State) : State := match s.crew? q.crew with
        | some cr => launchAccess (.atom f) q cr w act es s
        | none => s
      if 3 ≤ f.scope then s.irrevocably go else go s)

/-- ATOMS (R223). -/
def execAtoms (f : Fields) (s : State) : Outcome State Fault Refusal :=
  s.access (.atoms f) f (vNamed f.kd f.d f.agrp ++ f.memNamed 1 ++ vNamed f.kc f.c f.acgrp)
    (fun _ _ => ⟨true, f.uniform && f.kc, atBytes f.aty, atBytes f.aty, 0, Need.atomic, none, false⟩)
    (Fields.atomDst f) (Fields.atomData f) (Fields.atomData2 f) (fun q cr w act es s => launchAccess (.atoms f) q cr w act es s)

/-- LR (R224): aligned to 8 for either width (R218). -/
def execLr (f : Fields) (s : State) : Outcome State Fault Refusal :=
  s.access (.lr f) f [] (fun _ _ => ⟨false, true, szBytes f.sz, 8, szBytes f.sz, Need.read, none, false⟩)
    (Fields.loadDst f) noData noData (fun q _ w act es s =>
      let go (s : State) : State := match s.crew? q.crew with
        | some cr => launchAccess (.lr f) q cr w act es s
        | none => s
      if 3 ≤ f.scope then s.irrevocably go else go s)

/-- SC (R224). -/
def execSc (f : Fields) (s : State) : Outcome State Fault Refusal :=
  s.access (.sc f) f [] (fun _ _ => ⟨false, true, szBytes f.sz, 8, 0, Need.atomic, none, false⟩)
    (fun _ l => groupKeys f.kd f.d.toNat l 1) (fun w l => f.rc w (szGroup f.sz) l) noData (fun q _ w act es s =>
      let go (s : State) : State := match s.crew? q.crew with
        | some cr => launchAccess (.sc f) q cr w act es s
        | none => s
      if 3 ≤ f.scope then s.irrevocably go else go s)

/-- WALKRED's bit of a reduction (R125, R133). -/
def walkBit (op ty : Nat) : Nat := if op = 1 then (if ty = 4 ∨ ty = 5 then 6 else 0) else op - 1

/-- The kernel's walker does not permit the reduction (R133). -/
def State.walkForbids (s : State) (cr : Crew) (op ty : Nat) : Bool :=
  match s.kernel? cr.kernel with
  | some k => k.walk && !k.walkred.testBit (walkBit op ty)
  | none => false

/-- R225: active lanes on the same address combine in ascending lane order; lanes of an open chunk stay apart, since each
writes its own segment (R301). -/
def combine (op ty : Nat) (apart : Bool) (es : List Elem) : List Elem :=
  es.foldl (fun acc e =>
    match if apart then none else acc.findIdx? (fun x => x.pa == e.pa) with
    | some i => acc.modify i (fun x => { x with mask := x.mask ||| e.mask, data := atomNew op ty x.data e.data 0 1 })
    | none => acc ++ [e]) []

/-- RED (R225). -/
def execRed (f : Fields) (s : State) : Outcome State Fault Refusal :=
  s.access (.red f) f (vNamed f.kd f.d f.agrp ++ f.memNamed 2)
    (fun cr _ => ⟨false, f.uniform, atBytes f.aty, atBytes f.aty, atBytes f.aty, Need.atomic, none, s.walkForbids cr f.aop f.aty⟩)
    noDst (fun w l => f.rD w f.agrp l) noData
    (fun q cr w act es s => launchAccess (.red f) q cr w act (combine f.aop f.aty w.inChunk es) s)

/-- GATH (R226): bound s(c). -/
def execGath (f : Fields) (s : State) : Outcome State Fault Refusal :=
  s.access (.gath f) f (vNamed f.kd f.d (szGroup f.sz) ++ f.memNamed 2)
    (fun _ w => ⟨false, f.uniform, szBytes f.sz, szBytes f.sz, 0, Need.read, some (w.s f.c.toNat).toNat, false⟩)
    (Fields.loadDst f) noData noData (fun q cr w act es s => launchAccess (.gath f) q cr w act (es.flatMap Elem.halves) s)

/-- SCAT (R227): with OP 0 plain, otherwise combined as RED. -/
def execScat (f : Fields) (s : State) : Outcome State Fault Refusal :=
  let plain := f.aop == 0
  let n := if plain then szGroup f.sz else f.agrp
  let b := if plain then szBytes f.sz else atBytes f.aty
  s.access (.scat f) f (vNamed f.kd f.d n ++ f.memNamed 2)
    (fun cr w => ⟨false, f.uniform, b, b, 0, if plain then Need.write else Need.atomic, some (w.s f.c.toNat).toNat,
      !plain && s.walkForbids cr f.aop f.aty⟩)
    noDst (fun w l => f.rD w n l % 2 ^ (8 * b)) noData
    (fun q cr w act es s => launchAccess (.scat f) q cr w act
      (if plain then es.flatMap Elem.halves else combine f.aop f.aty w.inChunk es) s)

/-- CONFL's result for a lane (R228): COUNT, RANK, FIRST and LEAD of the active lanes whose key equals this lane's. -/
def conflBits (act : LaneMask) (key : Nat → Nat) (l : Nat) : Nat :=
  let eq := (lanesOf act).filter (fun k => key k == key l)
  let rank := (eq.filter (fun k => decide (k < l))).length
  eq.length * 2 ^ 16 + rank * 2 ^ 8 + (if rank = 0 then 128 else 0) + eq.headD 0

/-- CONFL (R228): the keys are read at issue (R220), the result is written when it completes. -/
def execConfl (f : Fields) (s : State) : Outcome State Fault Refusal :=
  s.laned (.confl f) f.pn f.pred (vNamed f.kd f.d 1 ++ vNamed f.ka f.a (szGroup f.sz)) (fun q cr w act =>
    let es := (lanesOf act).map (fun l => (⟨l, laneBit l, 0, 0, 0, conflBits act (fun k => f.ra w (szGroup f.sz) k) l, 0,
      [vKey f.d.toNat l], none, .pending⟩ : Elem))
    s.launch (accessOp s q cr w (.confl f) act es))

/-- FENCE (R88, R229): what its release half waits for is fixed as it issues. -/
def execFence (f : Fields) (s : State) : Outcome State Fault Refusal :=
  s.laned (.fence f) f.pn f.pred [] (fun q cr w act =>
    s.launch { newOp s q cr w (.fence f) act with waits := s.releaseList q.crew q.wave act f.scope })

/-- FENCEW (R89, R229). -/
def execFencew (f : Fields) (s : State) : Outcome State Fault Refusal :=
  s.laned (.fencew f) f.pn f.pred [] (fun q cr w act =>
    s.launch { newOp s q cr w (.fencew f) act with waits := s.releaseList q.crew q.wave act 0 })

/-- PREF (R230): a lane whose address fails a check prefetches nothing. -/
def execPref (f : Fields) (s : State) : Outcome State Fault Refusal :=
  s.laned (.pref f) f.pn f.pred (f.memNamed 2) (fun q cr w act =>
    let uni := f.ka && (f.kb || f.b == 0)
    let form : Form := ⟨false, uni, 1, 1, 256, Need.read, none, false⟩
    let es := (w.shares uni act).filterMap (fun x =>
      match s.checkLane cr w f form x.1 with
      | .ok a => some (⟨x.1, x.2, a.1, a.2, 1, 0, 0, [], none, .pending⟩ : Elem)
      | .error _ => none)
    (s.dropLackingLanes cr w f form act).launch (accessOp s q cr w (.pref f) act es))

/-- STW (R231): a versioned task becomes irrevocable first (R98); the release half is waited for before its elements
perform. -/
def execStw (f : Fields) (s : State) : Outcome State Fault Refusal :=
  s.access (.stw f) f (vNamed f.kd f.d (szGroup f.sz) ++ f.memNamed 2) (fun _ _ => Fields.devForm f f.uniform Need.write)
    noDst (fun w l => f.rD w (szGroup f.sz) l) noData (fun q _ w act es s =>
      s.irrevocably (fun s => match s.crew? q.crew with
        | some cr => s.launch { accessOp s q cr w (.stw f) act es with waits := s.releaseList q.crew q.wave act f.scope }
        | none => s))

/-! ## Performing an access (R83) -/

/-- Scratchpad access of an element: held back while a copy's range overlaps it (R92). -/
def State.onSpad (s : State) (op : Op) (e : Elem) (k : State → Nat → State) : State :=
  if s.spadFree op.crew e.va e.w then k s (leNat (((s.crew? op.crew).map (fun cr => cr.spadRead e.va e.w)).getD [])) else s

/-- A reduction element enters the version, its segment, or the partition's queue (R94, R97, R225, R301). -/
def State.reduce (s : State) (o n : Nat) (op : Op) (e : Elem) (aop ty : Nat) : State :=
  let r : RedEntry := ⟨e.pa, e.va, aop, ty, e.data, op.crew, some (o, n), op.epoch, op.ctx⟩
  let x := s.holdRed op.crew e.seg (op.crew, op.wave, op.strand) op.hdr 1 r
  x.1.modElem o n (fun y => { y with st := if x.2 then .complete else .performed })

/-- Elements of a plain SCAT perform together: its lines are owned (R90, R227); an element homed elsewhere is sent, once those of lower
lanes on its bytes are acknowledged (R220, R367), or held in the version or segment (R97). -/
def State.scatter (s : State) (o : Nat) (op : Op) (core : Nat) : State :=
  let lines := op.homeLines
  let s1 := (s.own o core lines).modOp o (fun op => { op with st := .active, elems := op.elems.map (fun e =>
    match homeOf e.pa with | .hbm => { e with st := .performed } | _ => e) })
  (List.range op.elems.length).foldl (fun (s : State) n =>
    match op.elems[n]? with
    | none => s
    | some e =>
      let direct := e.seg.isNone && (match s.crew? op.crew with | some cr => cr.direct | none => true)
      match homeOf e.pa, direct with
      | .hbm, _ => s
      | .remote p, true =>
        if (op.elems.take n).any (fun x => x.overlaps e false) then s
        else s.request 3 p e.pa (bytesWords (leBytes e.w e.data)) o n noCore op.epoch op.ctx e.va
      | _, true => (s.agentWrite e.pa (leBytes e.w e.data)).modElem o n (fun x => { x with st := .complete })
      | _, false => (s.storeEngine o op false e.seg 1 e.pa (leBytes e.w e.data)).modElem o n (fun x => { x with st := .complete })) s1

/-- ACCESS_PERFORM of an M-class element (R83): nothing where the rules hold it back. A GATH is performed with its first
element, and its reads wait for the engine operations that owned their lines then (R91, R226). -/
def State.performAccess (s : State) (o n : Nat) (atHome : Bool) : State :=
  match s.op? o with
  | none => s
  | some op =>
    match s.crew? op.crew, s.wave? op.crew op.wave, op.elems[n]? with
    | some cr, some w, some e =>
      if !(e.st == .pending) || !s.mayPerform o op n e then s else
      match op.instr with
      | .ld f => s.load o n op cr w e f.scope (f.hint == 1) atHome (fun s v => s.finishLoad o n op e f.sz v)
      | .lds f => s.onSpad op e (fun s v => s.finishLoad o n op e f.sz v)
      | .st f =>
        (s.storeLocal o n op cr e f.scope e.data (decide (3 ≤ f.scope))).modElem o n (fun x => { x with
          st := if 3 ≤ f.scope then .performed else .complete })
      | .sts _ => s.onSpad op e (fun s _ =>
          (s.spadWrite op.crew e.va (leBytes e.w e.data)).modElem o n (fun x => { x with st := .complete }))
      | .atom f => s.atomic o n op cr w e f.scope f.aop f.aty
      | .atoms f => s.onSpad op e (fun s m =>
          (if atomWrites f.aop m e.data e.data2 then s.spadWrite op.crew e.va (leBytes e.w (atomNew f.aop f.aty m e.data e.data2 1)) else s).finishElem o n e m)
      | .lr f => s.loadReserved o n op cr w e f.scope
      | .sc f => s.storeConditional o n op cr w e f.scope
      | .red f => s.reduce o n op e f.aop f.aty
      | .scat f =>
        if f.aop = 0 then
          if op.st == .active then (match homeOf e.pa with
            | .remote p => s.request 3 p e.pa (bytesWords (leBytes e.w e.data)) o n noCore op.epoch op.ctx e.va
            | _ => s)
          else if (List.range op.elems.length).all (fun k => match op.elems[k]? with | some x => s.mayPerform o { op with instr := .red f } k x | none => true)
          then s.scatter o op cr.core else s
        else s.reduce o n op e f.aop f.aty
      | .gath f =>
        let ws := if op.st == .queued then s.ownersNow else op.waits
        let s := if op.st == .queued then s.modOp o (fun op => { op with st := .active, waits := ws }) else s
        match homeOf e.pa with
        | .remote p => if s.writeAway cr.core e.pa e.w then s else s.request 1 p e.pa [] o n noCore op.epoch op.ctx e.va
        | .host =>
          let r := s.hostRead e.pa e.w
          r.2.finishLoad o n op e f.sz (s.overView (w.viewOf op.crew (cr.slot op.wave) e.lane).1 e.pa e.w (leNat r.1))
        | .cxl => s
        | .hbm =>
          if !s.readable o ws e.pa e.w then s
          else if s.poisonedFor op.crew e.pa e.w then (s.modElem o n (fun x => { x with st := .complete })).trapOp op Cause.memoryPoison e.va
          else (s.setMarks op.crew op.wave e.mask).finishLoad o n op e f.sz
            (leNat (s.homeBytes (w.viewOf op.crew (cr.slot op.wave) e.lane).1 e.pa e.w))
      | .pref f =>
        let s1 := s.modElem o n (fun x => { x with st := .complete })
        if atHome && f.hint == 1 && s.unowned (e.pa / 256 * 256) 256 && !s.poisonedFor op.crew e.pa 1 && (match homeOf e.pa with | .hbm => true | _ => false)
        then s1.fill op.crew cr (View.ofCrew op.crew) none (e.pa / 256) 3 else s1
      | .stw f =>
        if !(op.waits.all (s.released op.lanes)) then s else
        match homeOf e.pa with
        | .remote p => s.request 6 p e.pa (splitWords 4 e.data) o n cr.core op.epoch op.ctx e.va
        | .host => (s.hostStore cr.core (some (op.crew, op.wave, op.strand)) e.pa (leBytes (szBytes f.sz) e.data)).modElem o n
            (fun x => { x with st := .complete })
        | .cxl => s
        | .hbm =>
          if !s.unowned e.pa e.w then s
          else ((s.wakeStore (some cr.core) (some (op.crew, op.wave, op.strand)) e.pa (leBytes e.w e.data) State.evalWakes).dropCopy
            cr.core (e.pa / 256)).modElem o n (fun x => { x with st := .complete })
      | _ => s
    | _, _, _ => s

/-- An agent that is no strand writes a wake word for a context, as STW at scope system: waiters are evaluated at its home in the same step
(R121, R231, R373). -/
def State.agentWake (s : State) (x epoch pa va : Nat) (bs : List Byte) : State :=
  match homeOf pa with
  | .remote p => s.sendFor (Origin.forCtx x epoch) 6 p pa va bs.length (splitWords 4 (leNat bs))
  | .host => s.hostStore noCore none pa bs
  | _ => s.wakeStore none none pa bs State.evalWakes

/-- A plain SCAT writes its elements of one line it owns, in ascending lane order, and releases the line (R90, R227). -/
def State.scatterUnit (s : State) (o : Nat) (op : Op) : State :=
  match op.lines.find? (fun l => s.turnOf o l) with
  | none => s
  | some line =>
    let ns := (List.range op.elems.length).filter (fun n => match op.elems[n]? with
      | some e => e.st == .performed && e.pa / 256 == line
      | none => false)
    let s1 := ns.foldl (fun (s : State) n =>
      match op.elems[n]? with
      | none => s
      | some e =>
        (s.storeEngine o op false e.seg 1 e.pa (leBytes e.w e.data)).modElem o n (fun x => { x with st := .complete })) s
    s1.release o line

/-- An instruction that reads memory element by element (R219). -/
def readsMemory : Instr → Bool
  | .ld _ | .lds _ | .atom _ | .atoms _ | .lr _ | .gath _ | .sc _ => true
  | _ => false

/-- The read of an element suffers an uncorrectable error (R219): it raises the memory-poison trap at the element's address. -/
def State.readError (s : State) (o n : Nat) : State :=
  match s.op? o with
  | none => s
  | some op =>
    match op.elems[n]? with
    | none => s
    | some e =>
      if !(e.st == .pending) || !readsMemory op.instr || !s.mayPerform o op n e then s
      else (s.modElem o n (fun x => { x with st := .complete })).trapOp op Cause.memoryPoison e.va

/-! ## Events of the ordering machine -/

/-- A drain to another package (R86, R366): its element, if one waits, completes at the acknowledgement; with no path it is lost for its
task (R369). -/
def State.drainAway (s : State) (core p : Nat) (e : WEntry) : State :=
  let x := e.op.getD (noOp, 0)
  let g : Origin := ⟨some (e.crew, e.wave, e.strand), e.attempt, e.ctx, e.epoch, core, x.1, x.2, []⟩
  match s.openPort with
  | some _ => ((s.sendFor g 3 p e.pa e.va e.bytes.length (bytesWords e.bytes)).modElem x.1 x.2
      (fun y => { y with st := .remote s.msgNo })).tagPend s.msgNo e.id
  | none => (s.modElem x.1 x.2 (fun y => { y with st := .complete })).lost g e.va

/-- WRITE_QUEUE_DRAIN (R86): the entry drains into the committed line, the version or the segment; not past an older entry
with a byte in common, nor while an engine owns the line (R90). -/
def execWriteQueueDrain (core idx : Nat) (s : State) : Outcome State Fault Refusal :=
  let k := s.core core
  match k.wq[idx]? with
  | none => hold s
  | some e =>
    let n := e.bytes.length
    if (k.wq.take idx).any (fun x => decide (x.pa < e.pa + n) && decide (e.pa < x.pa + x.bytes.length)) then hold s
    else
      let gone (s : State) : State := s.modCore core (fun k => { k with wq := k.wq.filter (fun x => x.id != e.id) })
      let done (s : State) : State := match e.op with
        | some p => s.modElem p.1 p.2 (fun x => { x with st := .complete })
        | none => s
      let versioned := e.seg.isSome || (!e.direct && (match s.crew? e.crew with | some cr => !cr.direct | none => false))
      match homeOf e.pa, versioned with
      | .remote p, false =>
        if s.sentAway core e.pa n || s.atomAway core e.pa n then hold s else .next ((gone s).drainAway core p e)
      | _, _ =>
        if !s.unowned e.pa n then hold s
        else
          let s1 := done ((gone s).storeHome e.crew e.direct e.seg (e.crew, e.wave, e.strand) e.hdr 1 e.va e.pa e.bytes)
          let lines := (linesOf e.pa n).filter (fun l => (s1.core core).l1.any (fun x => x.line == l && decide (5 ≤ x.tag) && x.crew.isNone))
          .next (if versioned then s1 else { s1 with
            sharers := lines.foldl (fun (t : Tab (List Nat)) l => t.put l (distinct ((t.rd [] l) ++ [core]))) s1.sharers })

/-- INVALIDATION_APPLY (R87). -/
def execInvalidationApply (core idx : Nat) (s : State) : Outcome State Fault Refusal :=
  match (s.core core).inv[idx]? with
  | none => hold s
  | some e => .next (s.modCore core (fun k => { k with
      inv := k.inv.eraseIdx idx, l1 := k.l1.filter (fun l => l.line != e.1 || decide (l.tag ≤ 2)) }))

/-- FENCE_COMPLETION (R88, R89): once steps 1 to 3 hold, step 4 in one step. -/
def execFenceCompletion (o : Nat) (s : State) : Outcome State Fault Refusal :=
  match s.op? o with
  | none => hold s
  | some op =>
    if !(op.waits.all (s.released op.lanes)) then hold s else
    match op.instr with
    | .fence f => .next ((s.acquire op.crew op.wave f.scope).endOp o 3)
    | .fencew _ => .next ((s.acquire op.crew op.wave 0).endOp o 3)
    | _ => hold s

/-- REDUCTION_APPLY (R94, R225): a read and a write of the target in one step at its home; NaN class code 0xA (R216). -/
def execReductionApply (idx : Nat) (s : State) : Outcome State Fault Refusal :=
  match s.reds[idx]? with
  | none => hold s
  | some r =>
    let w := atBytes r.ty
    let gone := { s with reds := s.reds.eraseIdx idx }
    let done (s : State) : State := match r.done with
      | some p => s.modElem p.1 p.2 (fun x => { x with st := .complete })
      | none => s
    match homeOf r.pa with
    | .remote p =>
      let x := r.done.getD (noOp, 0)
      .next (gone.request 4 p r.pa (splitWords 2 r.data ++ splitWords 2 0) x.1 x.2 (s.coreOf r.crew) r.epoch r.ctx r.va)
    | .host =>
      let h := gone.hostRead r.pa w
      .next (done (h.2.hostStore (s.coreOf r.crew) none r.pa (leBytes w (atomNew r.op r.ty (leNat h.1) r.data 0 0xA))))
    | .cxl => .next (done gone)
    | .hbm =>
      if !s.unowned r.pa w then hold s
      else .next (done (gone.agentWrite r.pa (leBytes w (atomNew r.op r.ty (leNat (s.mem.bytes r.pa w)) r.data 0 0xA))))

/-- LONG_LATENCY_COMPLETION of an access of class M (R56, R82): every element has completed. A plain SCAT completes at the scope of its
destinations, a RED or a combining SCAT at its own (R99, R225, R227). -/
def State.completeAccess (s : State) (o : Nat) (op : Op) : State :=
  match op.instr with
  | .confl _ => (s.opWrite o (op.elems.flatMap (fun e => e.dst.map (fun d => (d, BitVec.ofNat 32 e.data))))).endOp o 3
  | .fence _ | .fencew _ => s
  | .scat f =>
    if op.elems.all Elem.done && op.lines.isEmpty && !s.unacked o then
      (s.noteAcquire op (if f.aop = 0 then op.elems.foldl (fun m e => max m (destScope e.pa)) 5 else f.scope)).endOp o 3 else s
  | .red f => if op.elems.all Elem.done then (s.noteAcquire op f.scope).endOp o 3 else s
  | _ => if op.elems.all Elem.done then s.endOp o 3 else s

end Sys2Proof.Machine
end

