-- ==== Sys2Proof/Machine/Tensor.lean ====
section
/-!
DEFINITION. Pure data of the copy and transform engines: formats and tile-scale conversion (R256, R260), shape records and
their checks (R256, R257), the tensor walk (R258), row and plane layout (R259), compressed blocks (R274, R277), guard
tags (R265).
-/

namespace Sys2Proof.Machine

open Sys2Proof

/-! ## Formats (R256) -/

/-- Bits of a format code; codes 10 to 15 are reserved. -/
def tfBits : Nat → Nat
  | 0 | 7 | 8 | 9 => 8
  | 1 | 5 | 6 => 16
  | 2 | 4 => 32
  | 3 => 4
  | _ => 0

/-- Codes 0 to 3 are raw. -/
def tfRaw (c : Nat) : Bool := decide (c ≤ 3)

/-- The numeric format of codes 4 to 9. -/
def tfFmt : Nat → CvtFmt
  | 4 => .flt fp32
  | 5 => .flt bf16
  | 6 => .flt fp16
  | 7 => .flt e5m2
  | 8 => .flt e4m3
  | _ => .int true 8

/-- A value converted into a numeric format by round to nearest even; a NaN code of the format given converts by R35, and
becomes 0 in an integer. -/
def toFmt (dst : CvtFmt) (nsat : Bool) (x : FNum) (nan : Nat) : Nat :=
  match dst with
  | .flt g => (match x with | .nan => nan | n => g.encode 0 (ovfFor g nsat) n)
  | .int sg w =>
    match x with
    | .nan => 0
    | .inf s => wrapNat w (clampInt sg w (if s then -(2 ^ 70 : Nat) else (2 ^ 70 : Nat)))
    | .fin _ d => wrapNat w (clampInt sg w (d.toInt 0))

/-- R260: an element of code `x` in format `src` times the FP32 `scale`, rounded once into `dst`; `cls` is the class code of
a generated NaN. Equal formats copy the bits. -/
def cvtScaled (src dst : Nat) (nsat : Bool) (cls scale x : Nat) : Nat :=
  if src = dst then x else
  let num : FNum := match tfFmt src with
    | .flt f => f.decode x
    | .int sg w => .fin (decide (readInt sg w x < 0)) (.ofInt (readInt sg w x))
  let nanTo (f : Fmt) (c : Nat) : Nat := match tfFmt dst with | .flt g => nanConv f g c cls | .int _ _ => 0
  match num, fp32.decode scale with
  | .nan, _ => (match tfFmt src with | .flt f => nanTo f x | .int _ _ => 0)
  | _, .nan => nanTo fp32 scale
  | a, b =>
    match a.mul b with
    | .error cause => (match tfFmt dst with | .flt g => g.qnan cause cls | .int _ _ => 0)
    | .ok v => toFmt (tfFmt dst) nsat v 0

/-! ## Shape records (R256, R257) -/

/-- A tensor shape record (R256). -/
structure Shape where
  /-- BASE. -/
  base : Nat
  /-- EXT0 to EXT4. -/
  ext : List Nat
  /-- Strides of dimensions 1 to 4 in bytes. -/
  str : List Nat
  /-- Box sizes, BOXk + 1. -/
  box : List Nat
  /-- STRSH byte. -/
  strsh : Nat
  /-- FILL. -/
  fill : Nat
  /-- CTRL. -/
  ctrl : Nat
  /-- GTP in bytes. -/
  gtp : Nat
  /-- SCALEP in bytes. -/
  scalep : Nat

/-- Read a record from its 64 bytes. -/
def Shape.ofBytes (bs : List Byte) : Shape :=
  let n := leNat bs
  let sh := bitsOf n (8 * 0x2D) 8
  { base := bitsOf n 0 64
    ext := (List.range 5).map (fun k => bitsOf n (64 + 32 * k) 32)
    str := (List.range 4).map (fun k => bitsOf n (8 * 0x1C + 24 * k) 24 * 2 ^ (sh % 32))
    box := (List.range 5).map (fun k => bitsOf n (8 * 0x28 + 8 * k) 8 + 1)
    strsh := sh
    fill := bitsOf n (8 * 0x2E) 16
    ctrl := bitsOf n (8 * 0x30) 32
    gtp := bitsOf n (8 * 0x34) 48 * 256
    scalep := bitsOf n (8 * 0x3A) 48 * 256 }

/-- TFMT. -/
def Shape.tf (r : Shape) : Nat := bitsOf r.ctrl 0 4
/-- SFMT. -/
def Shape.sf (r : Shape) : Nat := bitsOf r.ctrl 4 4
/-- LAYOUT is plane. -/
def Shape.plane (r : Shape) : Bool := bitOf r.ctrl 9
/-- TRANS. -/
def Shape.trans (r : Shape) : Bool := bitOf r.ctrl 10
/-- GUARD. -/
def Shape.guarded (r : Shape) : Bool := bitOf r.ctrl 11
/-- NSAT. -/
def Shape.nsat (r : Shape) : Bool := bitOf r.ctrl 12
/-- CZ. -/
def Shape.cz (r : Shape) : Nat := bitsOf r.ctrl 13 3
/-- GVER. -/
def Shape.gver (r : Shape) : Nat := bitsOf r.ctrl 16 16
/-- A keep code. -/
def Shape.keep (r : Shape) : Bool := decide (5 ≤ r.cz)
/-- Slot bytes. -/
def Shape.slot (r : Shape) : Nat := 64 * (r.cz % 4)
/-- A0 (R261). -/
def Shape.a0 (r : Shape) : Nat := r.base / 256 * 256
/-- Box size of a dimension. -/
def Shape.boxn (r : Shape) (k : Nat) : Nat := r.box.getD k 1
/-- Extent of a dimension. -/
def Shape.extn (r : Shape) (k : Nat) : Nat := r.ext.getD k 0
/-- Elements of the box. -/
def Shape.count (r : Shape) : Nat := r.box.foldl (· * ·) 1
/-- Destination row length n0 (R258). -/
def Shape.n0 (r : Shape) : Nat := if r.trans then r.boxn 1 else r.boxn 0
/-- n1. -/
def Shape.n1 (r : Shape) : Nat := if r.trans then r.boxn 0 else r.boxn 1

/-- First and last uncompressed byte, relative to A0, of the dimension-0 run that starts at coordinates `c`. -/
def Shape.run (r : Shape) (c : List Int) : Int × Int :=
  let b : Int := ((tfBits r.tf : Nat) : Int)
  let c0 := c.getD 0 0
  let at0 : Int := ((r.base - r.a0 : Nat) : Int) + ((List.range 4).map (fun k => c.getD (k + 1) 0 * ((r.str.getD k 0 : Nat) : Int))).sum
  (at0 + c0 * b / 8, at0 + (c0 + ((r.boxn 0 : Nat) : Int)) * b / 8)

/-- A keep code's box starts and ends on 256-byte blocks inside EXT0 (R257). -/
def Shape.blockRun (r : Shape) (c : List Int) : Bool :=
  let x := r.run c
  let c0 := c.getD 0 0
  decide (0 ≤ c0) && decide (c0 + ((r.boxn 0 : Nat) : Int) ≤ ((r.extn 0 : Nat) : Int)) && decide (x.1 % 256 = 0) && decide (x.2 % 256 = 0)

/-- Bytes of the packed stream: of a keep code, SLOT bytes for each covered block (R261). -/
def Shape.stream (r : Shape) (c : List Int) : Nat :=
  if r.keep then
    let x := r.run c
    r.slot * ((x.2 - x.1) / 256).toNat
  else r.count * tfBits r.sf / 8

/-- The rules of R257 over a captured record: `toS` is .g2s, `rows` CPYG, `c` the starting coordinates. -/
def Shape.ok (r : Shape) (toS rows : Bool) (c : List Int) : Bool :=
  let dst := if toS then r.sf else r.tf
  decide (r.base < 2 ^ 56) && decide (r.strsh ≤ 24) && !bitOf r.ctrl 8 && r.cz != 4 && tfBits r.tf != 0 && tfBits r.sf != 0 &&
  r.ext.all (· != 0) && (r.tf == r.sf || (!tfRaw r.tf && !tfRaw r.sf)) && !(r.nsat && tfBits dst == 32) &&
  !(r.plane && r.n0 % 64 != 0) &&
  !((r.tf == 3 || r.sf == 3) && (r.extn 0 % 2 != 0 || r.boxn 0 % 2 != 0 || decide (c.getD 0 0 % 2 ≠ 0))) &&
  decide (r.count * tfBits r.sf / 8 ≤ 2 ^ 24) && !(r.guarded && r.gtp == 0) && !(r.cz != 0 && (!toS || rows)) &&
  !(r.keep && (r.trans || r.box.tail.any (· != 1) || r.tf != r.sf || r.scalep != 0 || !r.blockRun c)) &&
  !(rows && (r.boxn 2 != 1 || r.boxn 3 != 1 || r.boxn 4 != 1))

/-! ## The tensor walk (R258) and the layouts (R259) -/

/-- The box indices of packed element `e`. -/
def Shape.index (r : Shape) (e : Nat) : List Nat :=
  let j0 := e % r.n0
  let j1 := e / r.n0 % r.n1
  let rest := e / (r.n0 * r.n1)
  let i2 := rest % r.boxn 2
  let i3 := rest / r.boxn 2 % r.boxn 3
  let i4 := rest / (r.boxn 2 * r.boxn 3)
  if r.trans then [j1, j0, i2, i3, i4] else [j0, j1, i2, i3, i4]

/-- Coordinates of packed element `e`: the starts `c`, or for CPYG the row list in dimension 1 (R269). -/
def Shape.coord (r : Shape) (c : List Int) (rows : Option (List Nat)) (e : Nat) : List Int :=
  let i := r.index e
  (List.range 5).map (fun k =>
    match rows, k with
    | some l, 1 => ((l.getD (i.getD 1 0) (2 ^ 32) : Nat) : Int)
    | _, _ => c.getD k 0 + ((i.getD k 0 : Nat) : Int))

/-- The element lies inside the extents. -/
def Shape.inside (r : Shape) (x : List Int) : Bool :=
  (List.range 5).all (fun k => decide (0 ≤ x.getD k 0) && decide (x.getD k 0 < ((r.extn k : Nat) : Int)))

/-- The address of an element inside the extents, in bits from address 0. -/
def Shape.bitAddr (r : Shape) (x : List Int) : Nat :=
  8 * (r.base + ((List.range 4).map (fun k => (x.getD (k + 1) 0).toNat * r.str.getD k 0)).sum) + (x.getD 0 0).toNat * tfBits r.tf

/-- FILL in a format (R260). -/
def fillCode (fmt fill : Nat) : Nat :=
  match tfBits fmt with
  | 32 => fill * 2 ^ 16
  | 16 => fill
  | 8 => fill % 256
  | _ => fill % 16

/-- The elements whose bits byte `x` of a packed stream holds: (element, bit of its code, bit of the byte) for each of
the eight bits (R259). -/
def layoutBits (plane : Bool) (b n x : Nat) : List (Nat × Nat × Nat) :=
  (List.range 8).map (fun k =>
    if plane then
      let row := b * n / 8
      let y := x % row
      (x / row * n + y % (n / 8) * 8 + k, y / (n / 8), k)
    else ((8 * x + k) / b, (8 * x + k) % b, k))

/-- A byte of a packed stream from its elements' codes. -/
def packByte (plane : Bool) (b n x : Nat) (elem : Nat → Nat) : Byte :=
  BitVec.ofNat 8 ((layoutBits plane b n x).foldl (fun acc t => if bitOf (elem t.1) t.2.1 then acc + 2 ^ t.2.2 else acc) 0)

/-- The stream bytes that hold element `e`'s bits, with the place of each bit: (byte, bit of it) for bits 0 to b − 1. -/
def elemBits (plane : Bool) (b n e : Nat) : List (Nat × Nat) :=
  (List.range b).map (fun p =>
    if plane then (e / n * (b * n / 8) + p * (n / 8) + e % n / 8, e % 8)
    else ((e * b + p) / 8, (e * b + p) % 8))

/-- An element's code from the bytes of a stream. -/
def unpackElem (plane : Bool) (b n e : Nat) (byte : Nat → Byte) : Nat :=
  (List.range b).foldl (fun acc p =>
    match (elemBits plane b n e)[p]? with
    | some t => if (byte t.1).getLsbD t.2 then acc + 2 ^ p else acc
    | none => acc) 0

/-- The last stream byte that holds a bit of an element (R251). -/
def lastByte (plane : Bool) (b n e : Nat) : Nat := (elemBits plane b n e).foldl (fun m t => max m t.1) 0

/-! ## Compressed blocks (R274, R277) -/

/-- Little-endian words of bytes. -/
def wordAt (bs : List Byte) (at_ : Nat) : Nat := leNat ((bs.drop at_).take 4)

/-- The literal flags of a block. -/
def litOf (bs : List Byte) (w : Nat) : Bool := bitOf (leNat (bs.take 8)) w

/-- The code of word `w`, for NDICT dictionary words. -/
def codeOf (bs : List Byte) (nd w : Nat) : Nat := bitsOf (leNat ((bs.drop (16 + 4 * nd + w / 2)).take 1)) (4 * (w % 2)) 4

/-- The plane bytes of 64 words with plane-delta undone. -/
def undelta (on : Bool) (ws : List Nat) : List Nat :=
  if !on then ws else
  (List.range 8).foldl (fun (acc : List Nat) p =>
    if p = 0 then acc else (List.range 8).foldl (fun acc i =>
      acc.set (8 * p + i) (acc.getD (8 * p + i) 0 ^^^ acc.getD (8 * (p - 1) + i) 0)) acc) ws

/-- 256 bytes from 64 plane words (R274). -/
def fromPlanes (ws : List Nat) : List Byte :=
  (List.range 256).map (fun i => BitVec.ofNat 8 ((List.range 8).foldl (fun acc p =>
    if bitOf (ws.getD (8 * p + i / 32) 0) (i % 32) then acc + 2 ^ p else acc) 0))

/-- 64 plane words of 256 bytes (R274). -/
def toPlanes (bs : List Byte) : List Nat :=
  (List.range 64).map (fun w => (List.range 32).foldl (fun acc k =>
    if (bs.getD (32 * (w % 8) + k) 0).getLsbD (w / 8) then acc + 2 ^ k else acc) 0)

/-- Expand a compressed block of a slot (R277); none where it breaks the rule. -/
def expandBlock (slot : Nat) (bs : List Byte) : Option (List Byte) :=
  let nd := (bs.getD 8 0).toNat
  let b9 := (bs.getD 9 0).toNat
  let lits := ((List.range 64).filter (litOf bs)).length
  let n := 16 + 4 * nd + 32 + 4 * lits
  if 16 < nd || 2 ≤ b9 || ((bs.drop 10).take 6).any (· != 0) || decide (slot < n) ||
    (List.range 64).any (fun w => if litOf bs w then codeOf bs nd w != 0 else decide (nd ≤ codeOf bs nd w)) then none
  else
    let ws := (List.range 64).map (fun w =>
      if litOf bs w then wordAt bs (16 + 4 * nd + 32 + 4 * ((List.range w).filter (litOf bs)).length)
      else wordAt bs (16 + 4 * codeOf bs nd w))
    some (fromPlanes (undelta (b9 == 1) ws))

/-- Compress 256 bytes (R274): plane-delta on, the dictionary the first 16 distinct words that occur at least twice. -/
def compressBlock (bs : List Byte) : List Byte :=
  let pl := toPlanes bs
  let ws := (List.range 64).map (fun w => if w < 8 then pl.getD w 0 else pl.getD w 0 ^^^ pl.getD (w - 8) 0)
  let dict := ((distinct ws).filter (fun v => decide (2 ≤ (ws.filter (· == v)).length))).take 16
  let lit := (List.range 64).filter (fun w => !dict.contains (ws.getD w 0))
  let code (w : Nat) : Nat := if lit.contains w then 0 else (dict.findIdx? (· == ws.getD w 0)).getD 0
  leBytes 8 ((lit.map (fun w => 2 ^ w)).sum) ++ leBytes 1 dict.length ++ leBytes 1 1 ++ leBytes 6 0 ++
    dict.flatMap (leBytes 4) ++ (List.range 32).map (fun k => BitVec.ofNat 8 (code (2 * k) + 16 * code (2 * k + 1))) ++
    (lit.flatMap (fun w => leBytes 4 (ws.getD w 0)))

/-! ## Guard tags (R265) -/

/-- One bit step of CRC-32C, reflected. -/
def crcBit (c : Nat) : Nat := if c % 2 = 1 then (c / 2) ^^^ 0x82F63B78 else c / 2

/-- CRC-32C of bytes (R265). -/
def crc32c (bs : List Byte) : Nat :=
  (bs.foldl (fun c b => (List.range 8).foldl (fun c _ => crcBit c) (c ^^^ b.toNat)) 0xFFFFFFFF) ^^^ 0xFFFFFFFF

/-- The tag of a block at virtual address `x` with a version (R265). -/
def guardTag (block : List Byte) (x ver : Nat) : List Byte := leBytes 4 (crc32c block) ++ leBytes 6 (x / 256) ++ leBytes 2 ver

end Sys2Proof.Machine
end

