-- ==== Sys2Proof/Machine/Copy.lean ====
section
/-!
DEFINITION. The copy engine (R251 to R270): copies from issue through units, faults, resume and cancel; what every engine
shares in reading sources (R91, R219) and writing lines it owns (R90); RCFENCE and HCAN.
-/

namespace Sys2Proof.Machine

open Sys2Proof Host

/-! ## Engine reads (R91) -/

/-- What an engine's read gives: a value, a condition to wait for, a message to ask another package with, or a fault. -/
inductive Got (α : Type) where
  | ok (a : α)
  | wait
  | ask (pkg pa va n : Nat)
  | fault (cause addr : Nat)

/-- Continue with a value. -/
def Got.bind {α β : Type} (g : Got α) (k : α → Got β) : Got β :=
  match g with
  | .ok a => k a
  | .wait => .wait
  | .ask p a v n => .ask p a v n
  | .fault c a => .fault c a

/-- A source range. -/
inductive Src where
  /-- Scratchpad bytes. -/
  | sp (a n : Nat)
  /-- Device bytes. -/
  | dev (va n : Nat)
  deriving DecidableEq, Repr

/-- The key of a source byte: scratchpad or device address. -/
def srcKey (dev : Bool) (a : Nat) : Nat := if dev then 2 * a + 1 else 2 * a

/-- One mapped piece of a device range for an operation: bytes already read stand (R91); poison, and a line that an
operation performed before owns, are met as R91 and R219 say. Another package is asked block by block; the crew's version lies over
what it and the host hold (R255). -/
def State.readPiece (s : State) (o : Nat) (op : Op) (va pa n : Nat) (t : Tab Byte) : Got (Tab Byte) :=
  let idx := List.range n
  let missing := idx.filter (fun i => (t.find? (srcKey true (va + i))).isNone)
  if missing.isEmpty then .ok t else
  match homeOf pa with
  | .remote p =>
    let i := missing.headD 0
    .ask p (pa + i) (va + i) (min (n - i) (256 - (pa + i) % 256))
  | .host => .ok (missing.foldl (fun (t : Tab Byte) i =>
      t.put (srcKey true (va + i)) (s.verByte op.crew (pa + i) (Config.hostByte s.fresh (pa + i)))) t)
  | .cxl => .fault Cause.pageFault va
  | .hbm =>
    if !s.readable o op.waits pa n then .wait
    else match s.firstPoison op.crew pa missing with
    | some i => .fault Cause.memoryPoison (va + i)
    | none => .ok (missing.foldl (fun (t : Tab Byte) i => t.put (srcKey true (va + i)) (s.homeByte (View.ofCrew op.crew) (pa + i))) t)

/-- Read source ranges in order into a table of bytes, over what the operation has read already. -/
def State.gather (s : State) (o : Nat) (op : Op) (die : Nat) (l : List Src) : Got (Tab Byte) :=
  l.foldl (fun (g : Got (Tab Byte)) r => g.bind (fun t =>
    match r with
    | .sp a n =>
      match s.crew? op.crew with
      | none => .wait
      | some cr => .ok ((List.range n).foldl (fun (t : Tab Byte) i =>
          if (t.find? (srcKey false (a + i))).isSome then t else t.put (srcKey false (a + i)) (cr.sp.rd 0 (a + i))) t)
    | .dev va n =>
      let pages := if n = 0 then 0 else (va + n - 1) / 4096 - va / 4096 + 1
      (List.range pages).foldl (fun (g : Got (Tab Byte)) i => g.bind (fun t =>
        let lo := max va ((va / 4096 + i) * 4096)
        let hi := min (va + n) ((va / 4096 + i + 1) * 4096)
        if 2 ^ 56 ≤ lo then .fault Cause.protection lo
        else if s.walkHeld die op.ctx lo Need.read then .wait
        else match s.translate die op.ctx lo Need.read with
        | .error c => .fault c lo
        | .ok pa => s.readPiece o op lo pa (hi - lo) t)) (.ok t))) (.ok op.buf)

/-- Cached translations that lack R are dropped for the device pages of source ranges (R357). -/
def State.dropSources (s : State) (die x : Nat) (l : List Src) : State :=
  l.foldl (fun (s : State) r => match r with
    | .sp _ _ => s
    | .dev va n => s.dropPages die x Need.read va n) s

/-- The bytes of a range from a table. -/
def tabBytes (t : Tab Byte) (dev : Bool) (a n : Nat) : List Byte := (List.range n).map (fun i => t.rd 0 (srcKey dev (a + i)))

/-- Ask another package for source bytes, once (R366); the answer's element number is `noOp` and the virtual address. -/
def State.askRemote (s : State) (o : Nat) (op : Op) (pkg pa va n : Nat) : State :=
  if s.pend.any (fun e => e.2.op == o && e.2.msg.addr == pa && e.2.msg.kind == 1) then s
  else s.sendFor { op.origin o with elem := noOp + va } 1 pkg pa va n []

/-! ## Engine writes (R90) -/

/-- Runs of a table of device bytes, split at pages and lines, with their physical addresses; or the first failing
address. -/
def State.writeRuns (s : State) (op : Op) (die : Nat) (t : Tab Byte) : Except (Nat × Nat) (List (Nat × List Byte)) :=
  (runs t).foldl (fun acc r =>
    match acc with
    | .error e => .error e
    | .ok l =>
      if 2 ^ 56 ≤ r.1 then .error (Cause.protection, r.1)
      else match s.translate die op.ctx r.1 Need.write with
      | .error c => .error (c, r.1)
      | .ok pa => .ok (l ++ [(pa, r.2)])) (.ok [])

/-- Cached translations that lack W are dropped for the pages of a table of device bytes (R357). -/
def State.dropRuns (s : State) (die x : Nat) (t : Tab Byte) : State :=
  (runs t).foldl (fun (s : State) r => s.dropLacking die x r.1 Need.write) s

/-- A fault of an engine's translation: what the die's cache holds without the right has been dropped (R357). -/
def State.dropFaulted (s : State) (die x cause a : Nat) : State :=
  if cause = Cause.pageFault ∨ cause = Cause.protection
  then (s.dropLacking die x a Need.read).dropLacking die x a Need.write else s

/-- A write of an engine waits for the walk of one of its pages (R90, R356). -/
def State.runsHeld (s : State) (die x : Nat) (t : Tab Byte) : Bool := (runs t).any (fun r => s.walkHeld die x r.1 Need.write)

/-- The widest scope of the frames that physical runs lie in (R99). -/
def runsScope (l : List (Nat × List Byte)) : Nat := l.foldl (fun m r => max m (destScope r.1)) 5

/-- The lines of this package that a list of physical runs touches. -/
def runLines (l : List (Nat × List Byte)) : List Nat :=
  distinct (l.flatMap (fun r => match homeOf r.1 with | .hbm => linesOf r.1 r.2.length | _ => []))

/-- A block whose 256 bytes an engine has all written is no longer poisoned: at once, or for the crew alone while the bytes lie
in its version (R265). -/
def State.mend (s : State) (c line : Nat) : State :=
  if (s.crew? c).any (fun cr => cr.task != .irrevocable)
  then (if s.poison.contains line then s.modCrew c (fun cr => { cr with mended := line :: cr.mended.filter (· ≠ line) }) else s)
  else { s with poison := s.poison.filter (· ≠ line) }

/-- Where the physical pages of a table's runs lie in virtual addresses, for the ADDR of a lost access (R369). -/
def outPages (t : Tab Byte) (l : List (Nat × List Byte)) : Tab Nat := ((runs t).zip l).map (fun e => (e.2.1 / 4096, e.1.1 / 4096))

/-- Write physical runs for an operation, into its task's version or the committed lines (R255, R170); a block whose 256
bytes are all written is mended (R265). `vas` says where their pages lie in virtual addresses. -/
def State.engineWrite (s : State) (o : Nat) (op : Op) (cls : Nat) (vas : Tab Nat) (l : List (Nat × List Byte)) : State :=
  l.foldl (fun (s : State) r =>
    let s1 := s.storeEngineAt o op vas cls r.1 r.2
    if r.1 % 256 = 0 ∧ r.2.length = 256 then s1.mend op.crew (r.1 / 256) else s1) s

/-- Own the lines an operation does not own yet. -/
def State.ownMore (s : State) (o core : Nat) (op : Op) (lines : List Nat) : State :=
  s.own o core (lines.filter (fun l => !op.lines.contains l))

/-! ## Geometry of a copy -/

/-- The fields of a copy instruction. -/
def copyFields (i : Instr) : Option Fields :=
  match i with | .cpy f | .cpyt f | .cpyg f => some f | _ => none

/-- DIR (R266). -/
def Op.dir (op : Op) : Nat := match copyFields op.instr with | some f => f.hint | none => 0

/-- The copy goes through a shape record. -/
def isTensor : Instr → Bool
  | .cpyt _ | .cpyg _ => true
  | _ => false

/-- CPYG. -/
def isRows : Instr → Bool
  | .cpyg _ => true
  | _ => false

/-- The captured record. -/
def Op.shape (op : Op) : Shape := Shape.ofBytes op.cap

/-- The starting coordinates (R258, R269). -/
def Op.coords (op : Op) : List Int :=
  if isRows op.instr then [sextNat 32 ((op.blk.getD 1 0).toNat), 0, 0, 0, 0]
  else (List.range 5).map (fun k => sextNat 32 ((op.blk.getD k 0).toNat))

/-- The row list, for CPYG. -/
def Op.rowList (op : Op) : Option (List Nat) := if isRows op.instr then some op.rows else none

/-- The scratchpad address of the copy's stream. -/
def Op.spAt (op : Op) : Nat := if isTensor op.instr then op.dv else if op.dir = 0 then op.dv else op.av

/-- The elements that unit `n` of a packed stream concerns: into the scratchpad those with a bit in it, out of it those
whose last stream byte lies in it (R251). -/
def unitElems (r : Shape) (toS : Bool) (lo hi : Nat) : List Nat :=
  let es := distinct ((List.range (hi - lo)).flatMap (fun k => (layoutBits r.plane (tfBits r.sf) r.n0 (lo + k)).map (·.1)))
  let es := es.filter (fun e => decide (e < r.count))
  if toS then es else es.filter (fun e => let x := lastByte r.plane (tfBits r.sf) r.n0 e; decide (lo ≤ x) && decide (x < hi))

/-- The uncompressed blocks that hold an element's bits. -/
def elemBlocks (r : Shape) (x : List Int) : List Nat :=
  let a := r.bitAddr x
  (List.range ((a + tfBits r.tf - 1) / 8 / 256 - a / 8 / 256 + 1)).map (fun i => a / 8 / 256 + i)

/-- The uncompressed blocks whose slots a unit of a keep code's stream covers: none of a box outside the extents (R258, R261). -/
def Op.keepBlocks (op : Op) (lo hi : Nat) : List Nat :=
  let r := op.shape
  if !r.inside op.coords then [] else
  let m0 := ((r.run op.coords).1 / 256).toNat + r.a0 / 256
  (List.range ((hi - 1) / r.slot - lo / r.slot + 1)).map (fun i => m0 + lo / r.slot + i)

/-- The source ranges of a unit (R258, R261, R265): elements, whole slots where the tensor is compressed, whole blocks and
their tags where tags are checked. -/
def Op.unitSources (op : Op) (lo hi : Nat) : List Src :=
  if !isTensor op.instr then (if op.dir = 1 then [.sp (op.av + lo) (hi - lo)] else [.dev (op.av + lo) (hi - lo)])
  else
    let r := op.shape
    let tags (bl : List Nat) : List Src := if r.guarded then bl.map (fun b => .dev (r.gtp + 12 * ((256 * b - r.a0) / 256)) 12) else []
    let slotOf (b : Nat) : Src := .dev (r.a0 + r.slot * ((256 * b - r.a0) / 256)) r.slot
    if op.dir = 1 then
      distinct ((unitElems r false lo hi).flatMap (fun e => ((elemBits r.plane (tfBits r.sf) r.n0 e).map (fun t => Src.sp (op.dv + t.1) 1))))
    else if r.keep then
      let bl := op.keepBlocks lo hi
      bl.map slotOf ++ tags bl
    else
      let xs := ((unitElems r true lo hi).map (fun e => r.coord op.coords op.rowList e)).filter r.inside
      let bl := distinct (xs.flatMap (elemBlocks r))
      if r.cz ≠ 0 then bl.map slotOf ++ tags bl
      else if r.guarded then bl.map (fun b => .dev (256 * b) 256) ++ tags bl
      else xs.map (fun x => .dev (r.bitAddr x / 8) ((r.bitAddr x + tfBits r.tf - 1) / 8 - r.bitAddr x / 8 + 1))

/-- The blocks a tensor unit reads. -/
def Op.unitBlocks (op : Op) (lo hi : Nat) : List Nat :=
  let r := op.shape
  if r.keep then op.keepBlocks lo hi
  else distinct ((((unitElems r true lo hi).map (fun e => r.coord op.coords op.rowList e)).filter r.inside).flatMap (elemBlocks r))

/-- The bytes of an uncompressed block from what was read; none where a slot breaks R277. -/
def blockBytes (r : Shape) (t : Tab Byte) (b : Nat) : Option (List Byte) :=
  if r.cz = 0 then some (tabBytes t true (256 * b) 256)
  else expandBlock r.slot (tabBytes t true (r.a0 + r.slot * ((256 * b - r.a0) / 256)) r.slot)

/-- A unit's source blocks pass: slots that must expand do, and tags agree (R261, R265). The error is a cause with ADDR
and, for a failed tag, the block. -/
def Op.checkBlocks (op : Op) (t : Tab Byte) (lo hi : Nat) : Option (Nat × Nat × Option Nat) :=
  let r := op.shape
  if r.cz = 0 && !r.guarded then none else
  ((op.unitBlocks lo hi).filterMap (fun b =>
    if r.keep && !r.guarded then none else
    match blockBytes r t b with
    | none => some (Cause.engineFault, op.av, none)
    | some bs =>
      if r.guarded && tabBytes t true (r.gtp + 12 * ((256 * b - r.a0) / 256)) 12 ≠ guardTag bs (256 * b) r.gver
      then some (Cause.guardMismatch, 256 * b, some b) else none)).head?

/-- A tensor element's code in TFMT from what was read. -/
def Op.tensorCode (op : Op) (t : Tab Byte) (x : List Int) : Nat :=
  let r := op.shape
  let a := r.bitAddr x
  let byteAt (k : Nat) : Byte :=
    if r.cz = 0 then t.rd 0 (srcKey true k)
    else ((blockBytes r t (k / 256)).getD []).getD (k % 256) 0
  bitsOf (leNat ((List.range 5).map (fun i => byteAt (a / 8 + i)))) (a % 8) (tfBits r.tf)

/-- The bytes a unit writes, with their addresses: scratchpad or device (R258 to R261). `old` gives a device byte's value
where only half of it is written. -/
def Op.unitOut (op : Op) (t : Tab Byte) (lo hi : Nat) (old : Nat → Byte) (free : Nat → Byte) : Tab Byte :=
  if !isTensor op.instr then
    (List.range (hi - lo)).foldl (fun (w : Tab Byte) i =>
      w.put (op.dv + lo + i) (t.rd 0 (srcKey (op.dir != 1) (op.av + lo + i)))) []
  else
    let r := op.shape
    let co (e : Nat) : List Int := r.coord op.coords op.rowList e
    if op.dir = 1 then
      (unitElems r false lo hi).foldl (fun (w : Tab Byte) e =>
        let x := co e
        if !r.inside x then w else
        let c := cvtScaled r.sf r.tf r.nsat 3 op.scale.toNat (unpackElem r.plane (tfBits r.sf) r.n0 e (fun k => t.rd 0 (srcKey false (op.dv + k))))
        let a := r.bitAddr x
        if tfBits r.tf = 4 then
          let b := ((w.find? (a / 8)).getD (old (a / 8))).toNat
          w.put (a / 8) (BitVec.ofNat 8 (if a % 8 = 0 then b / 16 * 16 + c % 16 else b % 16 + 16 * (c % 16)))
        else putBytes w (a / 8) (leBytes (tfBits r.tf / 8) c)) []
    else if r.keep then
      let m0 := ((r.run op.coords).1 / 256).toNat
      let inside := r.inside (co 0)
      (List.range (hi - lo)).foldl (fun (w : Tab Byte) i =>
        let x := lo + i
        w.put (op.dv + x) (if inside then t.rd 0 (srcKey true (r.a0 + r.slot * (m0 + x / r.slot) + x % r.slot)) else free x)) []
    else
      let code (e : Nat) : Nat :=
        let x := co e
        if r.inside x then cvtScaled r.tf r.sf r.nsat 3 op.scale.toNat (op.tensorCode t x) else fillCode r.sf r.fill
      (List.range (hi - lo)).foldl (fun (w : Tab Byte) i =>
        w.put (op.dv + lo + i) (packByte r.plane (tfBits r.sf) r.n0 (lo + i) code)) []

/-! ## Issue (R266 to R269) -/

/-- The entry an operation takes (R114): the lowest of the queue not used by the operations that `same` picks; the spec does not say which
(DESIGN CHOICE, log 106). -/
def State.freeEntry (s : State) (same : Op → Bool) : Nat :=
  let used := (s.ops.filter (fun e => same e.2)).map (fun e => e.2.entry)
  ((List.range (used.length + 1)).find? (fun k => !used.contains k)).getD 0

/-- The value of an operand as the engine queue window shows it (R114). -/
def sVal (w : Wave) (r n : Nat) : Nat := w.rd true r 0 n

/-- A copy issues, with its operands captured (R114, R252). -/
def State.issueCopy (s : State) (i : Instr) (f : Fields) (q : Cursor) (cr : Crew) (w : Wave) (na nd nb : Nat) : State :=
  let scope := if f.hint = 0 then 1 else 5
  s.launchH { newOp s q cr w i (w.strand q.strand).mask with
    av := sVal w f.a.toNat na, dv := sVal w f.d.toNat nd, bv := sVal w f.b.toNat (min nb 2),
    blk := (List.range nb).map (fun k => w.s (f.b.toNat + k)), cv := if f.kc then (w.s f.c.toNat).toNat else 0,
    entry := s.freeEntry (fun op => isCopy op.instr && (match s.crew? op.crew with | some c => c.core == cr.core | none => false)) } scope

/-- CPY (R267): count, then protection for D and A, then alignment for D and A. -/
def execCpy (f : Fields) (s : State) : Outcome State Fault Refusal :=
  s.waved (.cpy f) [] (fun q cr w =>
    let count := (w.s f.b.toNat).toNat
    let dDev := f.hint != 0
    let aDev := f.hint != 1
    let d := sVal w f.d.toNat (if dDev then 2 else 1)
    let a := sVal w f.a.toNat (if aDev then 2 else 1)
    let bad (dev : Bool) (x : Nat) : Bool := if dev then decide (2 ^ 56 ≤ x) else decide (cr.spadBytes < x + count)
    if count < 16 ∨ 2 ^ 24 < count ∨ count % 16 ≠ 0 then s.trapHdr Cause.arithmeticCheck
    else if bad dDev d then s.trapAt Cause.protection d
    else if bad aDev a then s.trapAt Cause.protection a
    else if d % 16 ≠ 0 then s.trapAt Cause.misaligned d
    else if a % 16 ≠ 0 then s.trapAt Cause.misaligned a
    else s.issueCopy (.cpy f) f q cr w (if aDev then 2 else 1) (if dDev then 2 else 1) 1)

/-- CPYT (R268). -/
def execCpyt (f : Fields) (s : State) : Outcome State Fault Refusal :=
  s.waved (.cpyt f) [] (fun q cr w =>
    let a := sVal w f.a.toNat 2
    if 2 ^ 56 ≤ a then s.trapAt Cause.protection a
    else if a % 64 ≠ 0 then s.trapAt Cause.misaligned a
    else s.issueCopy (.cpyt f) f q cr w 2 1 5)

/-- CPYG (R269). -/
def execCpyg (f : Fields) (s : State) : Outcome State Fault Refusal :=
  s.waved (.cpyg f) [] (fun q cr w =>
    let a := sVal w f.a.toNat 2
    if 2 ^ 56 ≤ a then s.trapAt Cause.protection a
    else if a % 64 ≠ 0 then s.trapAt Cause.misaligned a
    else s.issueCopy (.cpyg f) f q cr w 2 1 2)

/-- RCFENCE (R270): it waits for steps 1 and 2 of R88 at pod. -/
def execRcfence (f : Fields) (s : State) : Outcome State Fault Refusal :=
  s.waved (.rcfence f) [] (fun q cr w =>
    s.launch { newOp s q cr w (.rcfence f) (w.strand q.strand).mask with
      av := if f.m 0 then sVal w f.a.toNat 2 else 0
      waits := s.releaseList q.crew q.wave (w.strand q.strand).mask 3 })

/-- KICK (R275): it waits for the release half at pod, then stores the write index. -/
def execKick (f : Fields) (s : State) : Outcome State Fault Refusal :=
  s.waved (.kick f) [] (fun q cr w =>
    s.launch { newOp s q cr w (.kick f) (w.strand q.strand).mask with
      av := sVal w f.a.toNat 1
      waits := s.releaseList q.crew q.wave (w.strand q.strand).mask 3 })

/-! ## Performing a copy (R252, R254, R257, R262) -/

/-- No older FENCE or FENCEW of the wave for lanes of the operation is incomplete (R91). -/
def State.engineClear (s : State) (o : Nat) (op : Op) : Bool :=
  s.ops.all (fun p => !(p.2.crew == op.crew && p.2.wave == op.wave && decide (p.1 < o) &&
    (match p.2.instr with | .fence _ | .fencew _ => p.2.lanes &&& op.lanes != 0 | _ => false)))

/-- An older RCFENCE of the copy's strand is incomplete (R270). -/
def State.recordHeld (s : State) (o : Nat) (op : Op) : Bool :=
  isTensor op.instr && s.ops.any (fun p => p.2.crew == op.crew && p.2.wave == op.wave && p.2.strand == op.strand && decide (p.1 < o) &&
    (match p.2.instr with | .rcfence _ => true | _ => false))

/-- The device byte ranges a copy of a stream length writes. -/
def Op.destRanges (op : Op) (len : Nat) : List (Nat × Nat) :=
  if op.dir = 0 then []
  else if !isTensor op.instr then [(op.dv, len)]
  else
    let r := op.shape
    (((List.range r.count).map (fun e => r.coord op.coords op.rowList e)).filter r.inside).map (fun x => (r.bitAddr x / 8, (tfBits r.tf + 7) / 8))

/-- The walk of a page of a copy's destination waits for an engine's line (R90, R356). -/
def State.destHeld (s : State) (op : Op) (die len : Nat) : Bool :=
  (op.destRanges len).any (fun d => s.rangeHeld die op.ctx Need.write d.1 d.2)

/-- The copy becomes active: length, range, and the lines of its destination as far as they are mapped (R90, R92, R254). -/
def State.activate (s : State) (o : Nat) (op : Op) (cr : Crew) (len : Nat) : State :=
  let op1 := { op with st := .active, len := len, waits := s.ownersNow }
  let s1 := { s with ops := s.ops.put o op1 }
  let s2 := if op.dir = 2 then s1 else s1.modCore cr.core (fun k => { k with ranges := k.ranges.filter (fun r => r.op ≠ o) ++ [⟨op.crew, op.spAt, len, o⟩] })
  let lines := distinct ((op1.destRanges len).flatMap (fun d =>
    (List.range ((d.1 + d.2 - 1) / 256 - d.1 / 256 + 1)).filterMap (fun i =>
      match s.translate (dieOf cr.core) op.ctx ((d.1 / 256 + i) * 256) Need.write with
      | .ok pa => (match homeOf pa with | .hbm => some (pa / 256) | _ => none)
      | .error _ => none)))
  s2.own o cr.core lines

/-- A copy faults before it is performed (R252): nothing is captured, no range and no line is held, OFFSET is 0. -/
def State.performFault (s : State) (o : Nat) (op : Op) (core cause addr : Nat) : State :=
  let op1 := { op with cap := [], scale := 0, rows := [], buf := [], off := 0, len := 0, lines := [] }
  let s1 := { s.releaseLines o op.lines with ops := s.ops.put o op1 }
  (s1.modCore core (fun k => { k with ranges := k.ranges.filter (fun r => r.op ≠ o) })).evFault o op1 core cause addr

/-- The record of a tensor copy: from the shape-record cache, or read at home (R262); whether it was a miss. -/
def State.readRecord (s : State) (o : Nat) (op : Op) (cr : Crew) : Got (List Byte × Bool) :=
  match (s.core cr.core).shapes.find? (fun e => e.1 == op.ctx && e.2.1 == op.av) with
  | some e => .ok (e.2.2, false)
  | none => (s.gather o { op with waits := s.ownersNow } (dieOf cr.core) [.dev op.av 64]).bind (fun t => .ok (tabBytes t true op.av 64, true))

/-- What is read to perform a copy (R260, R262, R357): the record, and the tile scale it names. -/
def State.recordSources (s : State) (op : Op) (core : Nat) : List Src :=
  match (s.core core).shapes.find? (fun e => e.1 == op.ctx && e.2.1 == op.av) with
  | some e => let r := Shape.ofBytes e.2.2; if r.scalep = 0 then [] else [.dev r.scalep 4]
  | none => [.dev op.av 64]

/-- COPY_PERFORM (R252, R262): a queued copy is performed in one step. A fault here leaves it faulted with nothing
captured. `victim` is the cache entry a miss replaces where all 32 are in use. -/
def execCopyPerform (o victim : Nat) (s : State) : Outcome State Fault Refusal :=
  match s.op? o with
  | none => hold s
  | some op =>
    match s.crew? op.crew with
    | none => hold s
    | some cr =>
      if !isCopy op.instr || !(op.st == .queued) || !s.engineClear o op || s.recordHeld o op then hold s
      else if !isTensor op.instr then
        (if s.destHeld op (dieOf cr.core) ((op.blk.getD 0 0).toNat) then hold s else .next (s.activate o op cr ((op.blk.getD 0 0).toNat)))
      else
        let die := dieOf cr.core
        match s.readRecord o op cr with
        | .wait => hold s
        | .ask p pa va n => .next (s.askRemote o op p pa va n)
        | .fault c a => .next ((s.dropSources die op.ctx (s.recordSources op cr.core)).performFault o op cr.core c a)
        | .ok (bs, miss) =>
          let r := Shape.ofBytes bs
          let c := op.coords
          let toS := op.dir == 0
          if !r.ok toS (isRows op.instr) c then .next (s.performFault o op cr.core Cause.engineFault op.av)
          else if cr.spadBytes < op.spAt + r.stream c then .next (s.performFault o op cr.core Cause.protection op.spAt)
          else
            let now := { op with waits := s.ownersNow }
            match if r.scalep = 0 then Got.ok 0x3F800000 else
              (s.gather o now die [.dev r.scalep 4]).bind (fun t => .ok (leNat (tabBytes t true r.scalep 4))) with
            | .wait => hold s
            | .ask p pa va n => .next (s.askRemote o op p pa va n)
            | .fault c a => .next ((s.dropPages die op.ctx Need.read r.scalep 4).performFault o op cr.core c a)
            | .ok scale =>
              let listAt := op.bv % 2 ^ 32
              let n := r.boxn 1
              if isRows op.instr && decide (cr.spadBytes < listAt + 4 * n) then .next (s.performFault o op cr.core Cause.protection listAt)
              else
                let rows := if isRows op.instr then (List.range n).map (fun i => leNat (cr.spadRead (listAt + 4 * i) 4)) else []
                let op1 := { op with cap := bs, scale := BitVec.ofNat 32 scale, rows := rows, buf := [] }
                if s.destHeld op1 die (r.stream c) then hold s else
                let s1 := if miss then s.modCore cr.core (fun k =>
                    let e := (op.ctx, op.av, bs)
                    { k with shapes := if k.shapes.length < 32 then k.shapes ++ [e] else k.shapes.set (victim % 32) e }) else s
                .next ((s1.dropSources die op.ctx (s.recordSources op cr.core)).activate o op1 cr (r.stream c))

/-! ## Units (R251, R264) -/

/-- A copy completes (R252): the completion has the widest scope of the frames it wrote (R99, R255). -/
def State.endCopy (s : State) (o : Nat) (op : Op) : State :=
  let sc := if op.dir = 0 then 1 else max 5 op.count
  ((s.noteAcquire op sc).noteFuture op o sc).endOp o 3

/-- Source bytes a unit of a .g2g copy is about to overwrite are read first (R267); one that cannot be read faults the copy at the unit
that would overwrite it. -/
def State.readAhead (s : State) (o : Nat) (op : Op) (die lo hi : Nat) : Got (Tab Byte) :=
  if op.dir ≠ 2 then .ok op.buf else
  let a := max (op.dv + lo) (op.av + hi)
  let b := min (op.dv + hi) (op.av + op.len)
  if b ≤ a then .ok op.buf else s.gather o op die [.dev a (b - a)]

/-- Lines a contiguous copy has written to their end. -/
def doneLines (op : Op) (l : List (Nat × List Byte)) (last : Bool) : List Nat :=
  if isTensor op.instr then [] else
  (runLines l).filter (fun x => last || l.any (fun r => r.1 / 256 == x && (r.1 + r.2.length) % 256 == 0))

/-- After a unit is written: the offset, the scope of the frames, the credit of a named barrier (R237), and after the last unit the
end, once other packages have acknowledged (R91). -/
def State.unitWritten (s : State) (o : Nat) (op : Op) (hi scope : Nat) (t : Tab Byte) : State :=
  let lo := op.off
  let s1 := s.modOp o (fun op => { op with off := hi, buf := t, count := max op.count scope })
  let s2 := match copyFields op.instr with
    | some f => if f.kc then s1.credit op.crew op.cv (hi - lo) else s1
    | none => s1
  if op.len ≤ hi then
    (match s2.op? o with
    | some op => if s2.unacked o then s2 else s2.endCopy o op
    | none => s2)
  else s2

/-- COPY_UNIT_WRITE (R251, R264): the next unit is read, checked and written whole, credited to a named barrier (R237);
after the last the copy completes. A fault leaves the copy faulted at the unit; so does a named object that is no barrier (R234; DESIGN
CHOICE, log 83). -/
def execCopyUnitWrite (o : Nat) (s : State) : Outcome State Fault Refusal :=
  match s.op? o with
  | none => hold s
  | some op =>
    match s.crew? op.crew with
    | none => hold s
    | some cr =>
      if !isCopy op.instr || !(op.st == .active) then hold s
      else if op.len ≤ op.off then (if s.unacked o then hold s else .next (s.endCopy o op))
      else
        let die := dieOf cr.core
        let lo := op.off
        let hi := min (lo + 256) op.len
        let dropped (s : State) : State := s.dropSources die op.ctx (op.unitSources lo hi)
        match (s.gather o op die (op.unitSources lo hi)).bind (fun t => (s.readAhead o { op with buf := t } die lo hi)) with
        | .wait => hold s
        | .ask p pa va n => .next (s.askRemote o op p pa va n)
        | .fault c a => .next ((dropped s).evFault o op cr.core c a)
        | .ok t =>
          match if isTensor op.instr && op.dir == 0 then op.checkBlocks t lo hi else none with
          | some (c, a, blk) =>
            let s1 := match blk with
              | some b => (match s.translate die op.ctx (256 * b) Need.read with
                  | .ok pa => { s with poison := distinct (s.poison ++ [pa / 256]) }
                  | .error _ => s)
              | none => s
            .next (s1.evFault o op cr.core c a)
          | none =>
            if (copyFields op.instr).any (fun f => f.kc) && s.noBarrier op.crew op.cv
            then .next (s.evFault o op cr.core Cause.protection op.cv) else
            let old (va : Nat) : Byte := match s.translate die op.ctx va Need.write with
              | .ok pa => s.homeByte (View.ofCrew op.crew) pa
              | .error _ => 0
            let out := op.unitOut t lo hi old (fun x => (Config.freeWord (s.fresh + x)).extractLsb' 0 8)
            let s0 := dropped { s with fresh := s.fresh + 512 }
            if op.dir = 0 then .next (((runs out).foldl (fun (s : State) r => s.spadWrite op.crew r.1 r.2) s0).unitWritten o op hi 0 t)
            else if s.runsHeld die op.ctx out then hold s
            else
              match s0.writeRuns op die out with
              | .error e => .next ((s0.dropRuns die op.ctx out).evFault o op cr.core e.1 e.2)
              | .ok l =>
                let need := runLines l
                if !(need.all (fun x => op.lines.contains x)) then .next (s.ownMore o cr.core op need)
                else if !(need.all (fun x => s.turnOf o x)) then hold s
                else
                  match if cr.direct then ((runs out).zip l).find? (fun w => s.cutOff w.2.1) else none with
                  | some w => .next ((s.event 6 0x61 0 0).evFault o op cr.core Cause.memoryPoison w.1.1)
                  | none =>
                  let s1 := (s0.dropRuns die op.ctx out).engineWrite o op 3 (outPages out l) l
                  if !((s1.op? o).any (fun op => op.st == .active)) then .next s1
                  else .next (((doneLines op l (decide (op.len ≤ hi))).foldl (fun (s : State) x => s.release o x) s1).unitWritten o op hi
                      (runsScope l) t)

/-- ENGINE_SOURCE_READ (R91): a copy reads a unit's sources ahead of its write. -/
def State.copySourceRead (s : State) (o : Nat) (op : Op) (unit : Nat) : State :=
  match s.crew? op.crew with
  | none => s
  | some cr =>
    let lo := 256 * unit
    if !(op.st == .active) || decide (op.len ≤ lo) || decide (lo < op.off) then s else
    let srcs := op.unitSources lo (min (lo + 256) op.len)
    match s.gather o op (dieOf cr.core) srcs with
    | .ok t => (s.dropSources (dieOf cr.core) op.ctx srcs).modOp o (fun op => { op with buf := t })
    | .ask p pa va n => s.askRemote o op p pa va n
    | .wait => s
    | .fault c a =>
      let s1 := s.dropSources (dieOf cr.core) op.ctx srcs
      if lo = op.off then s1.evFault o op cr.core c a else s1

/-- A token-merging or beam operation has committed its outputs in the one step of its completion and waits only for other packages'
acknowledgements (R337): nothing of it can be cancelled or abandoned any more. -/
def Op.committed (op : Op) : Bool := op.st == .active && op.off == 1 && (isToken op.instr || isBeam op.instr)

/-- A copy is cancelled (R115, R249, R252): a named barrier with bytes missing becomes broken (R236). -/
def State.cancelCopy (s : State) (o : Nat) (op : Op) : State :=
  let s1 := s.endOp o 4
  match op.shortOf with
  | some a => s1.breakBarrier op.crew a
  | none => s1

/-- SHAPE_CACHE_DROP (R262): the machine may drop any entry at any step. -/
def execShapeCacheDrop (core idx : Nat) (s : State) : Outcome State Fault Refusal :=
  .next (s.modCore core (fun k => { k with shapes := k.shapes.eraseIdx idx }))

/-- RCFENCE completes (R270): the named entries are dropped in the same step. -/
def State.completeRcfence (s : State) (o : Nat) (op : Op) (f : Fields) : State :=
  if !(op.waits.all (s.released op.lanes)) then s else
  match s.crew? op.crew with
  | none => s
  | some cr =>
    (s.modCore cr.core (fun k => { k with shapes := k.shapes.filter (fun e => !(e.1 == op.ctx && (!f.m 0 || e.2.1 == op.av))) })).endOp o 3

/-- HCAN (R249): a copy is cancelled; a token-merging or beam operation is abandoned and completes as cancelled; a PROOT, and
any other engine's operation, completes normally. -/
def execHcan (f : Fields) (s : State) : Outcome State Fault Refusal :=
  s.waved (.hcan f) [] (fun _ _ w =>
    let h := w.handle f.a.toNat
    if h.code ≠ 1 ∧ h.code ≠ 2 then s else
    match s.op? h.op with
    | none => s
    | some op =>
      match op.instr with
      | .cpy _ | .cpyt _ | .cpyg _ => s.cancelCopy h.op op
      | .tkmatch _ | .tkmerge _ | .tkunmerge _ | .tksize _ | .beam _ => if op.committed then s else s.endOp h.op 4
      | _ => s)

end Sys2Proof.Machine
end

