-- ==== Sys2Proof/Machine/Matrix.lean ====
section
/-!
DEFINITION. The matrix engine (R276 to R296): operands and format blocks, tiles and their binding, the checks at issue,
MMA, MMAS, MMSM and the tile instructions, and what is recorded of a stopped MMAS.
-/

namespace Sys2Proof.Machine

open Sys2Proof Host

/-! ## Formats (R276, R279) -/

/-- Code bits of a matrix format. -/
def mxBits (c : Nat) : Nat := [4, 8, 8, 8, 4, 16, 16, 32].getD c 32

/-- Elements per 256 bytes of a matrix format. -/
def mxDepth (c : Nat) : Nat := 2048 / mxBits c

/-- Bytes of a side-array entry. -/
def mxEntry (c : Nat) : Nat := if c = 0 then 2 else 1

/-- The tile type of a permitted pair: true for INT32 (R279). -/
def mxPair (af bf : Nat) (as_ bs : Bool) : Option Bool :=
  match af with
  | 0 => if bf = 0 && as_ && bs then some false else none
  | 1 | 2 => if bf = 1 || bf = 2 then some false else none
  | 3 => if bf = 3 && as_ == bs then some (!as_) else none
  | 4 => if bf = 4 && !as_ && !bs then some true else none
  | _ => if bf = af && !as_ && !bs then some false else none

/-- An element's value with its side bits (scale low, extra byte high); a NaN as FP32 code, of class X where it is
generated (R22, R23, R35). -/
def mxValue (c : Nat) (scaled : Bool) (side code : Nat) : Except Nat FNum :=
  let nan (f : Fmt) : Except Nat FNum := match f.decode code with
    | .nan => .error (nanConv f fp32 code 2)
    | x => .ok x
  let int (w : Nat) : FNum := .fin (decide (sextNat w code < 0)) (.ofInt (sextNat w code))
  let block (bf : Nat) : Except Nat FNum := match blockValue bf (side % 256) (side / 256) code with
    | .error e => .error (qnan32 e 2)
    | .ok x => .ok x
  match c with
  | 0 => block 0
  | 1 => if scaled then block 1 else nan e4m3
  | 2 => if scaled then block 2 else nan e5m2
  | 3 => if scaled then block 3 else .ok (int 8)
  | 4 => .ok (int 4)
  | 5 => nan bf16
  | 6 => nan fp16
  | _ => (match fp32.decode code with | .nan => .error (fp32.quiet code) | x => .ok x)

/-! ## The arithmetic of a chunk (R39, R40) -/

/-- A chunk's exact sum of products; a NaN as its FP32 code. -/
def chunkSum (a b : List (Except Nat FNum)) : Except Nat FNum :=
  let bad := (a ++ b).filterMap (fun x => match x with | .error c => some c | .ok _ => none)
  match bad.head? with
  | some c => .error c
  | none =>
    let val (x : Except Nat FNum) : FNum := match x with | .ok v => v | .error _ => .nan
    match sumProducts 0 ((a.zip b).map (fun p => [val p.1, val p.2])) with
    | .error e => .error (qnan32 e 2)
    | .ok v => .ok v

/-- A chunk's sum is an exact zero. -/
def exactZero (x : Except Nat FNum) : Bool := match x with | .ok (.fin _ v) => v.m == 0 | _ => false

/-- One chunk into an FP32 accumulator element (R39). -/
def accF (acc : Nat) (x : Except Nat FNum) : Nat :=
  if exactZero x then acc
  else if fp32.isNan acc then fp32.quiet acc
  else match x with
    | .error c => c
    | .ok v => (match sumNums 0 [fp32.decode acc, v] with | .error e => qnan32 e 2 | .ok y => fp32.encode 0 .ieee y)

/-- One chunk into an INT32 accumulator element, saturating (R40). -/
def accI (acc : Nat) (x : Except Nat FNum) : Nat :=
  match x with
  | .ok (.fin _ v) => wrapNat 32 (clampInt true 32 (sextNat 32 acc + v.floor))
  | _ => acc

/-- Row `a` against row `b`, chunk by chunk in ascending order, for the chunks that `sel` picks. -/
def accRows (int : Bool) (sel : Nat → Bool) (acc : Nat) (a b : List (List (Except Nat FNum))) : Nat :=
  (List.range a.length).foldl (fun v c =>
    if sel c then (if int then accI else accF) v (chunkSum (a.getD c []) (b.getD c [])) else v) acc

/-! ## Operands in the scratchpad (R278, R288) -/

/-- An operand: 128 rows of `k` elements at `addr`, kept compressed in slots where `slot` is not 0, its side array and its
bitmap where it has them. -/
structure Operand where
  /-- Format code. -/
  fmt : Nat
  /-- Address. -/
  addr : Nat
  /-- K. -/
  k : Nat
  /-- Slot bytes, or 0. -/
  slot : Nat
  /-- Side array. -/
  side : Option Nat
  /-- Bitmap. -/
  bits : Option Nat

/-- Bytes of an operand's row. -/
def Operand.pitch (m : Operand) : Nat := m.k * mxBits m.fmt / 8

/-- The ranges of an operand: rows, side array. -/
def Operand.ranges (m : Operand) : List (Nat × Nat) :=
  [(m.addr, 128 * (if m.slot = 0 then m.pitch else m.slot))] ++
  (match m.side with | some a => [(a, 128 * (m.k / 32) * mxEntry m.fmt)] | none => []) ++
  (match m.bits with | some a => [(a, 16 * m.k)] | none => [])

/-- A row's elements by chunks; the error is the address of a slot that breaks R277. -/
def Operand.row (m : Operand) (byte : Nat → Byte) (i : Nat) : Except Nat (List (List (Except Nat FNum))) :=
  let at_ := m.addr + i * (if m.slot = 0 then m.pitch else m.slot)
  let bytes : Option (List Byte) :=
    if m.slot = 0 then some ((List.range m.pitch).map (fun t => byte (at_ + t)))
    else expandBlock m.slot ((List.range m.slot).map (fun t => byte (at_ + t)))
  match bytes with
  | none => .error at_
  | some bs =>
    let keep (k : Nat) : Bool := match m.bits with | none => true | some a => (byte (a + i * m.k / 8 + k / 8)).getLsbD (k % 8)
    let sideOf (c : Nat) : Nat := match m.side with
      | none => 127
      | some a =>
        let n := a + (i * m.k / 32 + c) * mxEntry m.fmt
        if m.fmt = 0 then (byte n).toNat + 256 * (byte (n + 1)).toNat else (byte n).toNat
    .ok ((List.range (m.k / 32)).map (fun c => (List.range 32).map (fun x =>
      let k := 32 * c + x
      if keep k then mxValue m.fmt m.side.isSome (sideOf c) (unpackElem true (mxBits m.fmt) m.k k (fun t => bs.getD t 0))
      else .ok (.fin false ⟨0, 0⟩))))

/-- All 128 rows of an operand. -/
def Operand.rows (m : Operand) (byte : Nat → Byte) : Except Nat (List (List (List (Except Nat FNum)))) :=
  (List.range 128).foldl (fun acc i =>
    match acc with
    | .error e => .error e
    | .ok l => match m.row byte i with | .error e => .error e | .ok r => .ok (l ++ [r])) (.ok [])

/-! ## The format block (R284) -/

/-- AF. -/
def ctlAF (c : Nat) : Nat := bitsOf c 29 3
/-- BF. -/
def ctlBF (c : Nat) : Nat := bitsOf c 26 3
/-- AS. -/
def ctlAS (c : Nat) : Bool := bitOf c 25
/-- BS. -/
def ctlBS (c : Nat) : Bool := bitOf c 24
/-- AZ. -/
def ctlAZ (c : Nat) : Nat := bitsOf c 22 2
/-- BZ. -/
def ctlBZ (c : Nat) : Nat := bitsOf c 20 2
/-- K. -/
def ctlK (c : Nat) : Nat := 64 * (bitsOf c 17 3 + 1)
/-- MB. -/
def ctlMB (c : Nat) : Bool := bitOf c 16
/-- VF. -/
def ctlVF (c : Nat) : Nat := bitsOf c 13 3
/-- T. -/
def ctlT (c : Nat) : Nat := bitsOf c 8 5
/-- TG. -/
def ctlTG (c : Nat) : Bool := bitOf c 7

/-- Word `n` of a format block. -/
def fbWord (blk : List Word) (n : Nat) : Nat := (blk.getD n 0).toNat

/-- Operand A of an instruction with a format block; `sparse` for MMAS. -/
def opA (sparse : Bool) (aa : Nat) (blk : List Word) : Operand :=
  let c := fbWord blk 0
  ⟨ctlAF c, aa, ctlK c, 64 * ctlAZ c, if ctlAS c then some (fbWord blk 1) else none, if sparse then some (fbWord blk 3) else none⟩

/-- Operand B. -/
def opB (sparse : Bool) (ba : Nat) (blk : List Word) : Operand :=
  let c := fbWord blk 0
  ⟨ctlBF c, ba, ctlK c, 64 * ctlBZ c, if ctlBS c then some (fbWord blk 2) else none, if sparse then some (fbWord blk 4) else none⟩

/-- The V operand of MMSM. -/
def opV (blk : List Word) : Operand := ⟨ctlVF (fbWord blk 0), fbWord blk 3, 128, 0, none, none⟩

/-- The three instructions with a format block. -/
inductive MxKind where
  | dense
  | sparse
  | softmax
  deriving DecidableEq, Repr

/-- The ranges that R285 orders 4 and 5 check, with their alignments. -/
def mxRanges (kind : MxKind) (aa ba : Nat) (blk : List Word) : List (Nat × Nat × Nat) :=
  let c := fbWord blk 0
  let a := opA false aa blk
  let b := opB false ba blk
  let size (m : Operand) : Nat := 128 * (if m.slot = 0 then m.pitch else m.slot)
  let side (m : Operand) : List (Nat × Nat × Nat) := match m.side with
    | some x => [(x, 128 * (m.k / 32) * mxEntry m.fmt, mxEntry m.fmt)]
    | none => []
  [(aa, size a, 32), (ba, size b, 32)] ++ side a ++ side b ++
  (match kind with
    | .dense => []
    | .sparse => [(fbWord blk 3, 16 * ctlK c, 8), (fbWord blk 4, 16 * ctlK c, 8)]
    | .softmax =>
      [(fbWord blk 3, size (opV blk), 32), (fbWord blk 4, 1024, 16)] ++
      (if ctlMB c then [(fbWord blk 5, 512, 4)] else []) ++ (if ctlTG c then [(fbWord blk 7, 16, 16)] else []))

/-- R285 orders 3 to 5: a cause, with its address where that is not the clause header. -/
def mxCheck (kind : MxKind) (spad : Nat) (int : Bool) (aa ba : Nat) (blk : List Word) : Option (Nat × Option Nat) :=
  let c := fbWord blk 0
  let af := ctlAF c
  let bf := ctlBF c
  let kept (z f : Nat) : Bool := z != 0 && (decide (ctlK c < mxDepth f) || kind == .sparse)
  if c % 128 ≠ 0 || mxPair af bf (ctlAS c) (ctlBS c) ≠ some int || decide (mxDepth af < ctlK c) || decide (mxDepth bf < ctlK c) ||
    kept (ctlAZ c) af || kept (ctlBZ c) bf || (kind == .softmax && (int || !([1, 2, 5, 6].contains (ctlVF c))))
  then some (Cause.arithmeticCheck, none)
  else
    match (mxRanges kind aa ba blk).find? (fun r => decide (spad < r.1 + r.2.1)) with
    | some r => some (Cause.protection, some r.1)
    | none => ((mxRanges kind aa ba blk).find? (fun r => r.1 % r.2.2 != 0)).map (fun r => (Cause.misaligned, some r.1))

/-! ## Tiles (R280, R281) -/

/-- A tile of a core. -/
def State.tile (s : State) (core p : Nat) : Tile := (s.core core).tiles.rd ⟨false, [], [], false, []⟩ p

/-- Change a tile in use. -/
def State.modTile (s : State) (core p : Nat) (f : Tile → Tile) : State := s.modCore core (fun k => { k with tiles := k.tiles.modify p f })

/-- An element of a tile. -/
def Tile.at (t : Tile) (i n : Nat) : Nat := (t.el.rd 0 (128 * i + n)).toNat

/-- A tile's elements from a function of row and column. -/
def tileOfFn (f : Nat → Nat → Nat) : Tab Word :=
  (List.range 16384).filterMap (fun k => let v := BitVec.ofNat 32 (f (k / 128) (k % 128)); if v = 0 then none else some (k, v))

/-- Word 0 of the side registers (R281). -/
def sideWord (st step flag live : Nat) : Dword :=
  BitVec.ofNat 64 (st * 2 ^ 60 + (step % 32) * 2 ^ 48 + (flag % 16) * 2 ^ 44 + live % 2 ^ 32)

/-- A tile name is bound, or a physical tile is free to bind it to. The room that a clause's unbound names need is kept from its start
(R280); a name that was released earlier in its own clause may find no tile free, and its instruction waits for one (DESIGN CHOICE,
log 92). -/
def State.tileRoom (s : State) (core : Nat) (w : Wave) (name : Nat) : Bool :=
  (w.tiles.find? name).isSome || decide ((s.core core).tiles.length < Config.tiles)

/-- Bind a tile name: a free physical tile where it is unbound, its type set afresh (R280). The lowest free one is taken (DESIGN CHOICE,
log 93). -/
def State.bindTile (s : State) (c w name : Nat) (int : Bool) : State × Nat :=
  match s.crew? c with
  | none => (s, 0)
  | some cr =>
    match (cr.waves.find? w).bind (fun wv => wv.tiles.find? name) with
    | some p => (s.modTile cr.core p (fun t => { t with int := int }), p)
    | none =>
      let p := (s.core cr.core).tiles.freeKey
      ((s.modCore cr.core (fun k => { k with tiles := k.tiles.put p ⟨int, [], [], true, []⟩ })).modWave c w (fun wv =>
        { wv with tiles := wv.tiles.put name p }), p)

/-! ## Issue (R285, R286) -/

/-- An X instruction issues: check 1 of R285, and check 2 for one that needs a bound tile; `body` is given the physical
tile. -/
def State.matrixIssue (s : State) (i : Instr) (name : Nat) (needs : Bool) (body : Cursor → Crew → Wave → Nat → State) :
    Outcome State Fault Refusal :=
  s.waved i [] (fun q cr w =>
    if (w.strand q.strand).mask ≠ allLanes then s.trapHdr Cause.illegalConvergence
    else match w.tiles.find? name with
      | some p => body q cr w p
      | none => if needs then s.trapHdr Cause.protection else body q cr w 0)

/-- A trap of a check, at the clause header or an address. -/
def State.checkTrap (s : State) (e : Nat × Option Nat) : State :=
  match e.2 with | some a => s.trapAt e.1 a | none => s.trapHdr e.1

/-- An instruction with a format block issues. -/
def State.productIssue (s : State) (i : Instr) (f : Fields) (kind : MxKind) : Outcome State Fault Refusal :=
  s.matrixIssue i f.d.toNat true (fun q cr w p =>
    let aa := sVal w f.a.toNat 1
    let ba := sVal w f.b.toNat 1
    let blk := (List.range 8).map (fun n => w.s (f.c.toNat + n))
    match mxCheck kind cr.spadBytes (s.tile cr.core p).int aa ba blk with
    | some e => s.checkTrap e
    | none => s.launch { newOp s q cr w i allLanes with av := aa, bv := ba, blk := blk, phys := p })

/-- MMA (R287). -/
def execMma (f : Fields) (s : State) : Outcome State Fault Refusal := s.productIssue (.mma f) f .dense

/-- MMAS (R288). -/
def execMmas (f : Fields) (s : State) : Outcome State Fault Refusal := s.productIssue (.mmas f) f .sparse

/-- MMSM (R290). -/
def execMmsm (f : Fields) (s : State) : Outcome State Fault Refusal := s.productIssue (.mmsm f) f .softmax

/-- A scratchpad range of ARESC and MMASK. -/
def State.rowCheck (s : State) (cr : Crew) (a n al : Nat) (k : State) : State :=
  if cr.spadBytes < a + n then s.trapAt Cause.protection a
  else if a % al ≠ 0 then s.trapAt Cause.misaligned a
  else k

/-- ARESC (R292). -/
def execAresc (f : Fields) (s : State) : Outcome State Fault Refusal :=
  s.matrixIssue (.aresc f) f.d.toNat true (fun q cr w p =>
    if (s.tile cr.core p).int then s.trapHdr Cause.arithmeticCheck
    else
      let a := sVal w f.a.toNat 1
      s.rowCheck cr a 512 4 (s.launch { newOp s q cr w (.aresc f) allLanes with av := a, phys := p }))

/-- MMASK (R293). -/
def execMmask (f : Fields) (s : State) : Outcome State Fault Refusal :=
  s.matrixIssue (.mmask f) f.d.toNat true (fun q cr w p =>
    if (s.tile cr.core p).int && !f.m 0 then s.trapHdr Cause.arithmeticCheck
    else
      let a := sVal w f.a.toNat 1
      s.rowCheck cr a 2048 16 (s.launch { newOp s q cr w (.mmask f) allLanes with av := a, phys := p }))

/-- AZERO (R294): TY 2 unbinds the name at issue; the physical tile is free when the operation completes (R280). -/
def execAzero (f : Fields) (s : State) : Outcome State Fault Refusal :=
  s.matrixIssue (.azero f) f.d.toNat (f.mb 0 2 == 2) (fun q cr w p =>
    if f.mb 0 2 = 2 then
      (s.launch { newOp s q cr w (.azero f) allLanes with phys := p }).releaseUnits q.crew q.wave (· == p) (fun _ => false)
    else if !s.tileRoom cr.core w f.d.toNat then s.retry
    else
      let b := s.bindTile q.crew q.wave f.d.toNat (f.mb 0 2 == 1)
      b.1.launch { newOp s q cr w (.azero f) allLanes with phys := b.2 })

/-- The pieces of a row of ALD and AST: page by page, with physical addresses. -/
def State.rowPieces (s : State) (cr : Crew) (need : Need) (spad : Bool) (i a n : Nat) : Except (Nat × Nat) (List Elem) :=
  let piece (va pa n : Nat) : Elem := ⟨i, 0, va, pa, n, 0, 0, [], none, .pending⟩
  if spad then .ok [piece a 0 n] else
  match s.pieces (dieOf cr.core) cr.ctx need a n with
  | .error e => .error (e.1, a)
  | .ok l => .ok (l.foldl (fun (acc : List Elem × Nat) p => (acc.1 ++ [piece acc.2 p.1 p.2], acc.2 + p.2)) ([], a)).1

/-- R295's checks at issue, in order, and the rows' pieces. -/
def State.rowsCheck (s : State) (cr : Crew) (need : Need) (spad : Bool) (a pitch w : Nat) : Except (Nat × Option Nat) (List Elem) :=
  let n := 128 * w
  if pitch % 16 ≠ 0 || decide (pitch < n) || decide (2 ^ 24 < pitch) then .error (Cause.arithmeticCheck, none) else
  match (List.range 128).find? (fun i => let x := a + i * pitch; if spad then decide (cr.spadBytes < x + n) else decide (2 ^ 56 ≤ x)) with
  | some i => .error (Cause.protection, some (a + i * pitch))
  | none =>
    if a % 16 ≠ 0 then .error (Cause.misaligned, some a) else
    (List.range 128).foldl (fun acc i =>
      match acc with
      | .error e => .error e
      | .ok l => match s.rowPieces cr need spad i (a + i * pitch) n with
        | .error e => .error (e.1, some e.2)
        | .ok p => .ok (l ++ p)) (.ok [])

/-- ALD (R295). -/
def execAld (f : Fields) (s : State) : Outcome State Fault Refusal :=
  s.matrixIssue (.ald f) f.d.toNat false (fun q cr w _ =>
    match s.rowsCheck cr Need.read (f.m 5) (sVal w f.a.toNat (if f.m 5 then 1 else 2)) (sVal w f.b.toNat 1) 4 with
    | .error e => s.checkTrap e
    | .ok es =>
      if !s.tileRoom cr.core w f.d.toNat then s.retry else
      let b := s.bindTile q.crew q.wave f.d.toNat (f.m 0)
      b.1.launch { newOp s q cr w (.ald f) allLanes with elems := es, phys := b.2 })

/-- Bytes of an element AST stores. -/
def astBytes (df : Nat) : Nat := if df < 2 then 4 else 2

/-- AST (R295). -/
def execAst (f : Fields) (s : State) : Outcome State Fault Refusal :=
  s.matrixIssue (.ast f) f.d.toNat true (fun q cr w p =>
    if (f.mb 0 3 == 1) != (s.tile cr.core p).int then s.trapHdr Cause.arithmeticCheck
    else match s.rowsCheck cr Need.write (f.m 5) (sVal w f.a.toNat (if f.m 5 then 1 else 2)) (sVal w f.b.toNat 1) (astBytes (f.mb 0 3)) with
    | .error e => s.checkTrap e
    | .ok es => s.launch { newOp s q cr w (.ast f) allLanes with elems := es, phys := p })

/-- MSIDE (R296): the value to set is read at issue. -/
def execMside (f : Fields) (s : State) : Outcome State Fault Refusal :=
  s.matrixIssue (.mside f) f.a.toNat true (fun q cr w p =>
    s.launch { newOp s q cr w (.mside f) allLanes with
      phys := p, dv := if f.m 5 then sVal w f.d.toNat 2 else 0
      dsts := if f.m 5 then [] else groupKeys true f.d.toNat 0 2 })

/-! ## Performing (R282, R291) -/

/-- No earlier operation of the wave on the same tile is in flight, and none that has begun, such as an MMAS that an MSIDE
resumed (R282). -/
def State.tileTurn (s : State) (o : Nat) (op : Op) : Bool :=
  s.ops.all (fun p => !(p.2.crew == op.crew && p.2.wave == op.wave && p.2.tileUsed == op.tileUsed &&
    (decide (p.1 < o) || (p.1 != o && p.2.st == .active))))

/-- What an MMSM's tag word says (R291): the tile's code and its mask address. -/
def tagOf (word t : Nat) : Nat × Nat :=
  (bitsOf word (2 * t) 2, bitsOf word 64 32 + 2048 * ((List.range t).filter (fun u => bitsOf word (2 * u) 2 == 2)).length)

/-- An X operation performs: its turn at its tile has come. MMAS shows ST 1; MMSM reads its tag word; AST owns its
device lines. -/
def State.performMatrix (s : State) (o : Nat) (op : Op) : State :=
  match s.crew? op.crew with
  | none => s
  | some cr =>
    if !(op.st == .queued) || !s.tileTurn o op || !s.engineClear o op then s else
    let go (s : State) : State := s.modOp o (fun op => { op with st := .active, waits := s.ownersNow })
    match op.instr with
    | .mmas _ => (go s).modTile cr.core op.phys (fun t => { t with side := t.side.wr 0 0 (sideWord 1 op.off op.flag op.count) })
    | .mmsm _ =>
      let c := fbWord op.blk 0
      if !ctlTG c then (go s).modOp o (fun op => { op with count := 1 })
      else
        let tag := tagOf (leNat (cr.spadRead (fbWord op.blk 7) 16)) (ctlT c)
        if tag.1 = 3 then s.trapOp op Cause.engineFault (fbWord op.blk 7)
        else if tag.1 = 2 ∧ cr.spadBytes < tag.2 + 2048 then s.trapOp op Cause.protection tag.2
        else if tag.1 = 2 ∧ tag.2 % 16 ≠ 0 then s.trapOp op Cause.misaligned tag.2
        else (go s).modOp o (fun op => { op with count := tag.1, off := tag.2 })
    | .ast f =>
      if f.m 5 then go s else
      (go s).own o cr.core (distinct (op.elems.flatMap (fun e => match homeOf e.pa with | .hbm => linesOf e.pa e.w | _ => [])))
    | _ => go s

/-! ## Results -/

/-- An operation's scratchpad source bytes: those already read, the others now (R282). -/
def State.spadByte (s : State) (op : Op) (a : Nat) : Byte :=
  match op.buf.find? (srcKey false a) with
  | some b => b
  | none => ((s.crew? op.crew).map (fun cr => cr.sp.rd 0 a)).getD 0

/-- An FP32 value of the scratchpad. -/
def State.spadWord (s : State) (op : Op) (a : Nat) : Nat := leNat ((List.range 4).map (fun i => s.spadByte op (a + i)))

/-- A product of operand rows into a tile, for the chunks that `sel` picks. -/
def productTile (t : Tile) (int : Bool) (sel : Nat → Bool) (a b : List (List (List (Except Nat FNum)))) : Tile :=
  { t with el := tileOfFn (fun i j => accRows int sel (t.at i j) (a.getD i []) (b.getD j [])) }

/-- The live blocks of a step of MMAS (R289). -/
def liveBlocks (byte : Nat → Byte) (k abits bbits step : Nat) : Nat :=
  let live (m g x : Nat) : Bool := (List.range 16).any (fun r => (byte (m + (16 * g + r) * k / 8 + x / 8)).getLsbD (x % 8))
  ((List.range 32).map (fun y =>
    let x := 32 * step + y
    ((List.range 8).filter (fun g => live abits g x)).length * ((List.range 8).filter (fun h => live bbits h x)).length)).sum

/-- log2(e) in FP32 (R290). -/
def l2e : Nat := 0x3FB8AA3B

/-- FEXP2(round(FP32, (x − m) × L2E, RNE)) (R290). -/
def softExp (x m : Nat) : Nat :=
  fexp2Bits (fp32.arith 2 0 [x, m] (fun l => match l with
    | [a, b] => (match sumNums 0 [a, b.negate] with | .error e => .error e | .ok d => d.mul (fp32.decode l2e))
    | _ => .error 0))

/-- The codes of a VF operand row from FP32 probabilities (R290, R29, R35). -/
def softRow (vf : Nat) (ps : List Nat) : List (List (Except Nat FNum)) :=
  let g := match vf with | 1 => e4m3 | 2 => e5m2 | 5 => bf16 | _ => fp16
  let code (p : Nat) : Nat := toFmt (.flt g) false (fp32.decode p) (nanConv fp32 g p 2)
  (List.range 4).map (fun c => (List.range 32).map (fun x => mxValue vf false 127 (code (ps.getD (32 * c + x) 0))))

/-- One row of MMSM (R290): new m, new l, and the row's elements. `logit j` is t(j) after the mask. -/
def softmaxRow (mo lo : Nat) (logit : List Nat) (row : List Nat) (vf : Nat) (v : List (List (List (Except Nat FNum)))) :
    Nat × Nat × List Nat :=
  let mn := logit.foldl (fun a t => fp32.minmax true a t) mo
  let none_ := mn == 0xFF800000
  let alpha := if none_ then 0x3F800000 else softExp mo mn
  let ps := if none_ then logit.map (fun _ => 0) else logit.map (fun t => softExp t mn)
  let l := fp32.fma 2 0 alpha lo ((laneTree (fp32.add 2 0) allLanes (fun j => ps.getD j 0)).getD 0)
  let q := softRow vf ps
  (mn, l, (List.range 128).map (fun n => accRows false (fun _ => true) (fp32.mul 2 0 (row.getD n 0) alpha) q (v.getD n [])))

/-- MMSM's effect (R290). -/
def State.softmax (s : State) (op : Op) (t : Tile) : Except Nat (Tab Word × List (Nat × List Byte)) :=
  let byte := s.spadByte op
  let c := fbWord op.blk 0
  match (opA false op.av op.blk).rows byte, (opB false op.bv op.blk).rows byte, (opV op.blk).rows byte with
  | .ok q, .ok k, .ok v =>
    let stat := fbWord op.blk 4
    let rows := (List.range 128).map (fun i =>
      let logit := (List.range 128).map (fun j =>
        let x := accRows false (fun _ => true) 0 (q.getD i []) (k.getD j [])
        if op.count = 2 && !(byte (op.off + 16 * i + j / 8)).getLsbD (j % 8) then 0xFF800000
        else fp32.fma 2 0 (fbWord op.blk 6) x (if ctlMB c then s.spadWord op (fbWord op.blk 5 + 4 * j) else 0))
      softmaxRow (s.spadWord op (stat + 4 * i)) (s.spadWord op (stat + 512 + 4 * i)) logit
        ((List.range 128).map (fun n => t.at i n)) (ctlVF c) v)
    .ok (tileOfFn (fun i n => (rows.getD i (0, 0, [])).2.2.getD n 0),
      (List.range 128).flatMap (fun i =>
        let r := rows.getD i (0, 0, [])
        [(stat + 4 * i, leBytes 4 r.1), (stat + 512 + 4 * i, leBytes 4 r.2.1)]))
  | .error a, _, _ => .error a
  | _, .error a, _ => .error a
  | _, _, .error a => .error a

/-- ARESC of one element (R292). -/
def rescale (div : Bool) (a f : Nat) : Nat :=
  if !div then fp32.mul 2 0 a f
  else fp32.arith 2 0 [a, f] (fun _ => match fp32.decode a, fp32.decode f with
    | x, .inf t => x.mul (.fin t ⟨0, 0⟩)
    | x, .fin t d => if d.m = 0 then x.mul (.inf t) else (match x with
        | .fin n v => .ok (fp32.decode (fp32.roundQuot 0 .ieee (n != t) v.m.natAbs d.m.natAbs (v.e - d.e)))
        | .inf n => .ok (.inf (n != t))
        | .nan => .ok .nan)
    | x, .nan => .ok x)

/-- AST's bytes of one element (R295). -/
def astElem (df : Nat) (nsat : Bool) (x : Nat) : List Byte :=
  match df with
  | 2 => leBytes 2 (toFmt (.flt bf16) nsat (fp32.decode x) (nanConv fp32 bf16 x 2))
  | 3 => leBytes 2 (toFmt (.flt fp16) nsat (fp32.decode x) (nanConv fp32 fp16 x 2))
  | _ => leBytes 4 x

/-- The bytes of a piece of a row AST stores. -/
def astPiece (t : Tile) (f : Fields) (row0 : Nat) (e : Elem) : List Byte :=
  let w := astBytes (f.mb 0 3)
  ((List.range (e.w / w)).flatMap (fun k => astElem (f.mb 0 3) (f.m 3) (t.at e.lane ((e.va - row0) / w + k)))).take e.w

/-- The first byte of an operation's row `i`. -/
def Op.rowStart (op : Op) (i : Nat) : Nat := ((op.elems.filter (fun e => e.lane == i)).head?.map (·.va)).getD 0

/-- AST writes its next piece; a line no later piece touches is released (R90, R295). -/
def State.astUnit (s : State) (o : Nat) (op : Op) (f : Fields) : State :=
  match s.crew? op.crew with
  | none => s
  | some cr =>
    if !(op.st == .active) then s else
    match op.elems.findIdx? (fun e => e.st == .pending) with
    | none => s
    | some n =>
      match op.elems[n]? with
      | none => s
      | some e =>
        let bs := astPiece (s.tile cr.core op.phys) f (op.rowStart e.lane) e
        let done (s : State) : State := s.modElem o n (fun x => { x with st := .complete })
        if f.m 5 then done (s.spadWrite op.crew e.va bs)
        else
          let lines := match homeOf e.pa with | .hbm => linesOf e.pa e.w | _ => []
          if !(lines.all (fun l => s.turnOf o l)) then s
          else
            let s1 := done (s.engineWrite o op 2 (op.origin o).vas (lines.map (fun l =>
              let lo := max e.pa (256 * l)
              let hi := min (e.pa + e.w) (256 * l + 256)
              (lo, (bs.drop (lo - e.pa)).take (hi - lo))) ++ (if lines.isEmpty then [(e.pa, bs)] else [])))
            let later := (op.elems.drop (n + 1)).flatMap (fun x => linesOf x.pa x.w)
            (lines.filter (fun l => !later.contains l)).foldl (fun (s : State) l => s.release o l) s1

/-- ALD reads a piece of a row, if it has not (R91, R219): whether all of it is there, and the state. -/
def State.aldRead (s : State) (o : Nat) (op : Op) (core n : Nat) : Got (Tab Byte) :=
  match op.elems[n]? with
  | none => .ok op.buf
  | some e =>
    match op.instr with
    | .ald f => if f.m 5 then s.gather o op (dieOf core) [.sp e.va e.w] else s.readPiece o op e.va e.pa e.w op.buf
    | _ => .ok op.buf

/-- The words ALD copies into its tile. -/
def aldTile (op : Op) (spad : Bool) (t : Tab Byte) : Tab Word :=
  let starts := (List.range 128).map op.rowStart
  tileOfFn (fun i n => leNat (tabBytes t (!spad) (starts.getD i 0 + 4 * n) 4))

/-! ## MSIDE and the recorded MMAS (R296) -/

/-- The block words 3 to 6 record. -/
def recordedBlock (t : Tile) : List Word := (List.range 8).map (fun n => BitVec.ofNat 32 (bitsOf (t.side.rd 0 (3 + n / 2)).toNat (32 * (n % 2)) 32))

/-- Words 1 to 6 of a tile's side registers for an MMAS (R281). -/
def recordMmas (side : Tab Dword) (op : Op) (word : Dword) : Tab Dword :=
  let t := (side.wr 0 1 word).wr 0 2 (BitVec.ofNat 64 (op.av % 2 ^ 32 + op.bv % 2 ^ 32 * 2 ^ 32))
  (List.range 4).foldl (fun (t : Tab Dword) m => t.wr 0 (3 + m) ((op.blk.getD (2 * m + 1) 0) ++ (op.blk.getD (2 * m) 0))) t

/-- MMAS stops at a chunk boundary (R283): its tile records it with ST 2. -/
def State.stopMmas (s : State) (core o : Nat) (op : Op) : State :=
  (s.modOp o (fun op => { op with st := .frozen, buf := [] })).modTile core op.phys (fun t =>
    { t with side := (recordMmas t.side op (((encode op.instr).map (·.2)).getD 0)).wr 0 0 (sideWord 2 op.off op.flag op.count) })

/-- The stopped MMAS of a tile. -/
def State.stoppedMmas (s : State) (op : Op) : Option Nat :=
  (s.ops.filter (fun p => p.2.crew == op.crew && p.2.wave == op.wave && p.2.phys == op.phys && p.2.st == .frozen &&
    (match p.2.instr with | .mmas _ => true | _ => false))).head?.map (·.1)

/-- The instruction that words 1 to 6 record, on the tile an MSIDE names. -/
def recordedInstr (t : Tile) (name : BitVec 8) : Instr :=
  match decodeWord 2 (t.side.rd 0 1) with
  | .ok (.mmas f) => .mmas { f with d := name }
  | _ => .mmas ⟨false, 0, name, 0, 0, 0, false, true, true, true, 0⟩

/-- Writing word 0 (R296). -/
def State.setSide0 (s : State) (op : Op) (cr : Crew) (w : Wave) (f : Fields) : State :=
  let t := s.tile cr.core op.phys
  let old := (t.side.rd 0 0).toNat
  let st := bitsOf old 60 4
  let st' := bitsOf op.dv 60 4
  let step := bitsOf op.dv 48 5
  let flag := bitsOf op.dv 44 4
  let live := bitsOf old 0 32
  let blk := recordedBlock t
  if st = 2 ∧ st' = 0 then
    let s1 := match s.stoppedMmas op with
      | some o => s.endOp o 3
      | none => s.modWave op.crew op.wave (fun w => { w with fl := w.fl.wr 0 (bitsOf old 44 4) (w.fl.rd 0 (bitsOf old 44 4) - 1) })
    s1.modTile cr.core op.phys (fun t => { t with side := t.side.wr 0 0 (sideWord 0 step flag live) })
  else if st ≠ 0 ∨ st' ≠ 2 ∨ 12 ≤ flag ∨ 63 ≤ w.flag flag ∨ ctlK (fbWord blk 0) / 32 < step then s
  else
    let two := (t.side.rd 0 2).toNat
    match mxCheck .sparse cr.spadBytes t.int (two % 2 ^ 32) (two / 2 ^ 32) blk with
    | some e =>
      (s.modTile cr.core op.phys (fun t => { t with side := t.side.wr 0 0 (sideWord 2 step flag live) })).trapOp op e.1 (e.2.getD op.hdr)
    | none =>
      (s.launch { op with
        instr := recordedInstr t f.a, flag := flag, st := .active, av := two % 2 ^ 32, bv := two / 2 ^ 32, blk := blk, dv := 0,
        dsts := [], off := step, count := live }).modTile cr.core op.phys (fun t => { t with side := t.side.wr 0 0 (sideWord 1 step flag live) })

/-- MSIDE's effect (R296). -/
def State.sideEffect (s : State) (o : Nat) (op : Op) (cr : Crew) (f : Fields) : State :=
  let n := f.mb 0 5
  let t := s.tile cr.core op.phys
  if !f.m 5 then s.opWrite o (op.dsts.zip (split64 (t.side.rd 0 n).toNat))
  else if n = 0 then (match s.wave? op.crew op.wave with | some w => s.setSide0 op cr w f | none => s)
  else if 7 ≤ n ∨ bitsOf (t.side.rd 0 0).toNat 60 4 = 1 then s
  else s.modTile cr.core op.phys (fun t => { t with side := t.side.wr 0 n (BitVec.ofNat 64 op.dv) })

/-! ## Steps and completion -/

/-- MMAS_STEP (R283, R289): one chunk, with STEP and LIVE in the tile's side registers. -/
def execMmasStep (o : Nat) (s : State) : Outcome State Fault Refusal :=
  match s.op? o with
  | none => hold s
  | some op =>
    match s.crew? op.crew, op.instr with
    | some cr, .mmas _ =>
      let k := ctlK (fbWord op.blk 0)
      if !(op.st == .active) || decide (k / 32 ≤ op.off) then hold s else
      let byte := s.spadByte op
      match (opA true op.av op.blk).rows byte, (opB true op.bv op.blk).rows byte with
      | .ok a, .ok b =>
        let live := op.count + liveBlocks byte k (fbWord op.blk 3) (fbWord op.blk 4) op.off
        .next ((s.modOp o (fun op => { op with off := op.off + 1, count := live })).modTile cr.core op.phys (fun t =>
          { productTile t t.int (· == op.off) a b with side := t.side.wr 0 0 (sideWord 1 (op.off + 1) op.flag live) }))
      | _, _ => hold s
    | _, _ => hold s

/-- The completion of an X operation that has performed (R91, R282, R287 to R296). -/
def State.completeMatrix (s : State) (o : Nat) (op : Op) : State :=
  match s.crew? op.crew with
  | none => s
  | some cr =>
    if !(op.st == .active) then s else
    let byte := s.spadByte op
    let t := s.tile cr.core op.phys
    let put (s : State) (el : Tab Word) : State := s.modTile cr.core op.phys (fun t => { t with el := el })
    match op.instr with
    | .mma _ =>
      match (opA false op.av op.blk).rows byte, (opB false op.bv op.blk).rows byte with
      | .ok a, .ok b =>
        let int := (mxPair (ctlAF (fbWord op.blk 0)) (ctlBF (fbWord op.blk 0)) (ctlAS (fbWord op.blk 0)) (ctlBS (fbWord op.blk 0))).getD false
        (put s (productTile t int (fun _ => true) a b).el).endOp o 3
      | .error x, _ => s.trapOp op Cause.engineFault x
      | _, .error x => s.trapOp op Cause.engineFault x
    | .mmas _ =>
      let k := ctlK (fbWord op.blk 0)
      if op.off < k / 32 then s
      else (s.modTile cr.core op.phys (fun t => { t with side := t.side.wr 0 0 (sideWord 0 (k / 32) op.flag op.count) })).endOp o 3
    | .mmsm _ =>
      if op.count = 0 then (s.noteAcquire op 1).endOp o 3 else
      match s.softmax op t with
      | .ok r => ((r.2.foldl (fun (s : State) e => s.spadWrite op.crew e.1 e.2) (put s r.1)).noteAcquire op 1).endOp o 3
      | .error x => s.trapOp op Cause.engineFault x
    | .aresc f => (put s (tileOfFn (fun i n => rescale (f.m 0) (t.at i n) (s.spadWord op (op.av + 4 * i))))).endOp o 3
    | .mmask f =>
      (put s (tileOfFn (fun i n => if (byte (op.av + 16 * i + n / 8)).getLsbD (n % 8) then t.at i n else if f.m 0 then 0 else 0xFF800000))).endOp o 3
    | .azero f =>
      if f.mb 0 2 = 2 then s.endOp o 3
      else (s.modTile cr.core op.phys (fun t => { t with el := [], side := [] })).endOp o 3
    | .ald f =>
      match (List.range op.elems.length).foldl (fun (g : Got (Tab Byte)) n => g.bind (fun t => s.aldRead o { op with buf := t } cr.core n)) (.ok op.buf) with
      | .ok b => (put s (aldTile op (f.m 5) b)).endOp o 3
      | .ask p pa va n => s.askRemote o op p pa va n
      | .fault c a => s.trapOp op c a
      | .wait => s
    | .ast f =>
      if op.elems.any (fun e => e.st == .pending) || !op.lines.isEmpty || s.unacked o then s else
      let s1 := if f.m 4 then s.releaseUnits op.crew op.wave (· == op.phys) (fun _ => false) else s
      (s1.noteAcquire op (if f.m 5 then 1 else op.elems.foldl (fun m e => max m (destScope e.pa)) 5)).endOp o 3
    | .mside f => (s.sideEffect o op cr f).endOp o 3
    | _ => s

/-- An engine reads a unit of an X operation's sources early (R91, R282): 256 bytes of the scratchpad, or a piece of
ALD's rows. -/
def State.matrixSourceRead (s : State) (o : Nat) (op : Op) (unit : Nat) : State :=
  match s.crew? op.crew with
  | none => s
  | some cr =>
    if !(op.st == .active) then s else
    let g := match op.instr with
      | .ald _ => s.aldRead o op cr.core unit
      | _ => s.gather o op (dieOf cr.core) [.sp (256 * unit) 256]
    match g with
    | .ok t => s.modOp o (fun op => { op with buf := t })
    | .ask p pa va n => s.askRemote o op p pa va n
    | .fault c a => s.trapOp op c a
    | .wait => s

end Sys2Proof.Machine
end

