-- ==== Sys2Proof/Machine/Expansion.lean ====
section
/-!
DEFINITION. The expansion unit (R318 to R332): registers and descriptors, the harmonics of R321, translations, evaluation
and admissibility, XLD and XST.
-/

namespace Sys2Proof.Machine

open Sys2Proof Host

/-! ## Exact values with the rules of R322 -/

/-- An exact value, or a NaN as FP32 code. -/
abbrev Ex := Except Nat FNum

/-- An expression over operands: the first NaN operand in the order given (R36), a generated NaN of class 0x5, or the exact
value. -/
def exact (ops : List Nat) (k : Except Nat FNum) : Ex :=
  match fp32.firstNan ops with
  | some c => .error c
  | none => match k with | .error e => .error (qnan32 e 5) | .ok x => .ok x

/-- Every zero the unit produces is +0. -/
def plusZero (c : Nat) : Nat := if c = 0x80000000 then 0 else c

/-- One rounding to FP32. -/
def rndE (x : Ex) : Nat := match x with | .error c => c | .ok v => plusZero (fp32.encode 0 .ieee v)

/-- One rounding of an exact value divided by a positive integer. -/
def rndDiv (x : Ex) (d : Nat) : Nat :=
  match x with
  | .error c => c
  | .ok (.fin _ v) => plusZero (fp32.roundQuot 0 .ieee (decide (v.m < 0)) v.m.natAbs d v.e)
  | .ok v => rndE (.ok v)

/-- One addition into an accumulator, one rounding. -/
def addE (acc : Nat) (t : Ex) : Nat :=
  if fp32.isNan acc then fp32.quiet acc else
  match t with
  | .error c => c
  | .ok x => rndE (exact [] (sumNums 0 [fp32.decode acc, x]))

/-- An integer as a number. -/
def intNum (n : Int) : FNum := .fin (decide (n < 0)) (.ofInt n)

/-- Decode FP32. -/
def dec (c : Nat) : FNum := fp32.decode c

/-- A complex number of FP32 parts, with the signs that conjugation and negation put on them. -/
structure Cx where
  /-- Real part. -/
  re : Nat
  /-- Imaginary part. -/
  im : Nat
  /-- The real part is negated. -/
  nr : Bool
  /-- The imaginary part is negated. -/
  ni : Bool
  deriving DecidableEq, Repr

/-- Zero. -/
def Cx.zero : Cx := ⟨0, 0, false, false⟩

/-- The parts' codes, real part first. -/
def Cx.codes (a : Cx) : List Nat := [a.re, a.im]

/-- The real part's value. -/
def Cx.r (a : Cx) : FNum := if a.nr then (dec a.re).negate else dec a.re

/-- The imaginary part's value. -/
def Cx.i (a : Cx) : FNum := if a.ni then (dec a.im).negate else dec a.im

/-- The conjugate. -/
def Cx.conj (a : Cx) : Cx := { a with ni := !a.ni }

/-- The negative. -/
def Cx.neg (a : Cx) : Cx := { a with nr := !a.nr, ni := !a.ni }

/-- `C(n, -m) := (-1)^m conj(C(n, m))` (R319). -/
def Cx.mirror (a : Cx) (m : Nat) : Cx := if m % 2 = 0 then a.conj else a.conj.neg

/-- A sum of signed products. -/
def prods (l : List (List FNum)) : Except Nat FNum := sumProducts 0 l

/-- The real or imaginary part of a product, exact; the coefficient's NaN first (R329). -/
def Cx.mulPart (a b : Cx) (imag : Bool) : Ex :=
  exact (a.codes ++ b.codes) (prods (if imag then [[a.r, b.i], [a.i, b.r]] else [[a.r, b.r], [a.i.negate, b.i]]))

/-! ## Coefficients and harmonics (R319, R321) -/

/-- Degree, order and part of word `k`: true for the imaginary part. -/
def wordIndex (k : Nat) : Nat × Nat × Bool :=
  let n := isqrt k
  let r := k - n * n
  (n, (r + 1) / 2, decide (0 < r) && r % 2 == 0)

/-- Coefficient (n, m) of a slot's words, for m of either sign. -/
def coeff (w : Tab Word) (n : Nat) (m : Int) : Cx :=
  let a := m.natAbs
  let c : Cx := if a = 0 then ⟨(w.rd 0 (n * n)).toNat, 0, false, false⟩
    else ⟨(w.rd 0 (n * n + 2 * a - 1)).toNat, (w.rd 0 (n * n + 2 * a)).toNat, false, false⟩
  if n < a then .zero else if m < 0 then c.mirror a else c

/-- A harmonic of a table by degree, for m of either sign; beyond the degree it is 0. -/
def harm (h : List (List Cx)) (n : Int) (m : Int) : Cx :=
  if n < 0 || decide (n < (m.natAbs : Int)) then .zero
  else
    let c := (h.getD n.toNat []).getD m.natAbs .zero
    if m < 0 then c.mirror m.natAbs else c

/-- x² + y² + z², exact. -/
def normSq (v : List Nat) : Ex := exact v (prods (v.map (fun c => [dec c, dec c])))

/-- The regular harmonics up to degree `p` (R321). -/
def regTable (v : List Nat) (p : Nat) : List (List Cx) :=
  let x := v.getD 0 0
  let y := v.getD 1 0
  let z := v.getD 2 0
  let r2 := rndE (normSq v)
  (List.range p).foldl (fun (h : List (List Cx)) i =>
    let n := i + 1
    let d := harm h (n - 1 : Nat) (n - 1 : Nat)
    let top : Cx := ⟨rndDiv (exact ([x, y] ++ d.codes) (prods [[dec x, d.r], [(dec y).negate, d.i]])) (2 * n),
      rndDiv (exact ([x, y] ++ d.codes) (prods [[dec x, d.i], [dec y, d.r]])) (2 * n), false, false⟩
    let row := (List.range n).map (fun (m : Nat) =>
      let a := harm h (n - 1 : Nat) m
      let b := harm h ((n : Int) - 2) m
      let part (f : Cx → FNum) (g : Cx → Nat) : Nat :=
        rndDiv (exact [z, g a, r2, g b] (prods [[intNum (2 * n - 1), dec z, f a], [(dec r2).negate, f b]])) ((n + m) * (n - m))
      ⟨part Cx.r Cx.re, part Cx.i Cx.im, false, false⟩)
    h ++ [row ++ [top]]) [[⟨0x3F800000, 0, false, false⟩]]

/-- 1 / √s of an exact sum of squares (R321). -/
def rhoOf (s : Ex) : Nat :=
  match s with
  | .error c => c
  | .ok (.fin _ v) => if v.m = 0 then fp32.inf else rsqExact v
  | .ok _ => 0

/-- The irregular harmonics up to degree `p` (R321). -/
def irrTable (v : List Nat) (p : Nat) : List (List Cx) :=
  let x := v.getD 0 0
  let y := v.getD 1 0
  let z := v.getD 2 0
  let nan : Cx := ⟨qnan32 8 5, qnan32 8 5, false, false⟩
  if v.all (fun c => c % 2 ^ 31 == 0) then (List.range (p + 1)).map (fun n => List.replicate (n + 1) nan) else
  let rho := rhoOf (normSq v)
  let q := rndE (exact [rho] (prods [[dec rho, dec rho]]))
  (List.range p).foldl (fun (h : List (List Cx)) i =>
    let n := i + 1
    let d := harm h (n - 1 : Nat) (n - 1 : Nat)
    let kq : List FNum := [intNum (2 * n - 1), dec q]
    let top : Cx := ⟨rndE (exact ([q, x, y] ++ d.codes) (prods [kq ++ [dec x, d.r], kq ++ [(dec y).negate, d.i]])),
      rndE (exact ([q, x, y] ++ d.codes) (prods [kq ++ [dec x, d.i], kq ++ [dec y, d.r]])), false, false⟩
    let row := (List.range n).map (fun (m : Nat) =>
      let a := harm h (n - 1 : Nat) m
      let b := harm h ((n : Int) - 2) m
      let part (f : Cx → FNum) (g : Cx → Nat) : Nat :=
        rndE (exact [q, z, g a, g b] (match prods [[intNum (2 * n - 1), dec z, f a],
            [intNum (((m : Int) * m) - ((n : Int) - 1) * ((n : Int) - 1)), f b]] with
          | .error c => .error c
          | .ok y => (dec q).mul y))
      ⟨part Cx.r Cx.re, part Cx.i Cx.im, false, false⟩)
    h ++ [row ++ [top]]) [[⟨rho, 0, false, false⟩]]

/-- Componentwise difference, each rounded. -/
def vecSub (a b : List Nat) : List Nat :=
  (List.range 3).map (fun i => rndE (exact [a.getD i 0, b.getD i 0] (sumNums 0 [dec (a.getD i 0), (dec (b.getD i 0)).negate])))

/-- Bisection for the least FP32 code, as a signed integer in `(lo, hi]`, that satisfies an upward closed test. -/
def bisect (ok : Int → Bool) : Nat → Int → Int → Int
  | 0, _, hi => hi
  | n + 1, lo, hi =>
    let mid := (lo + hi) / 2
    if hi ≤ lo + 1 then hi else if ok mid then bisect ok n lo mid else bisect ok n mid hi

/-- round(FP32, √s + r, RU) from the exact value, for an exact `s` and an FP32 code `r` (R328, R329). -/
def rootPlusUp (s : Ex) (r : Nat) : Nat :=
  match s with
  | .error c => c
  | .ok (.inf t) => rndE (exact [r] (sumNums 0 [.inf t, dec r]))
  | .ok .nan => rndE (exact [r] (.ok (dec r)))
  | .ok (.fin _ v) =>
    match dec r with
    | .fin _ d =>
      let val (k : Int) : Dy := if k < 0 then (val32 (-k).toNat).neg else val32 k.toNat
      let up (k : Int) : Bool := let y := (val k).sub d; decide (0 ≤ y.m) && v.le (y.mul y)
      if !up 0x7F7FFFFF then 0x7F800000
      else
        let k := bisect up 34 (-0x7F7FFFFF - 1) 0x7F7FFFFF
        if k < 0 then 0x80000000 + (-k).toNat else k.toNat
    | _ => rndE (exact [r] (.ok (dec r)))

/-! ## Slots and descriptors (R318, R320) -/

/-- An empty slot. -/
def Exp.empty : Exp := ⟨[], 0, 0, 0, 0, 0, 0, true, []⟩

/-- A slot of a core. -/
def State.exp (s : State) (core p : Nat) : Exp := (s.core core).exps.rd Exp.empty p

/-- Change a slot in use. -/
def State.modExp (s : State) (core p : Nat) (f : Exp → Exp) : State := s.modCore core (fun k => { k with exps := k.exps.modify p f })

/-- An expansion name is bound, or a slot is free to bind it to; a name released earlier in its own clause may find none free, and its
instruction waits for one (R320; DESIGN CHOICE, log 92). -/
def State.expRoom (s : State) (core : Nat) (w : Wave) (name : Nat) : Bool :=
  (w.exps.find? name).isSome || decide ((s.core core).exps.length < Config.expSlots)

/-- Bind an expansion name (R320): a free slot where it is unbound, the lowest one (DESIGN CHOICE, log 93). -/
def State.bindExp (s : State) (c w name : Nat) : State × Nat :=
  match s.crew? c with
  | none => (s, 0)
  | some cr =>
    match (cr.waves.find? w).bind (fun wv => wv.exps.find? name) with
    | some p => (s, p)
    | none =>
      let p := (s.core cr.core).exps.freeKey
      ((s.modCore cr.core (fun k => { k with exps := k.exps.put p Exp.empty })).modWave c w (fun wv => { wv with exps := wv.exps.put name p }), p)

/-- The descriptor as four words: centre and radius. -/
def Exp.desc (e : Exp) : List Word := [e.cx, e.cy, e.cz, e.rad]

/-- The 16 bytes of a descriptor's bits 127:0. -/
def Exp.head (e : Exp) (ord : Nat) : Nat := e.kind + ord * 2 ^ 8

/-- A later XCLR of the slot is in flight: it has rewritten the descriptor that an older operation would change (R327). -/
def State.overwritten (s : State) (o : Nat) (op : Op) (p : Nat) : Bool :=
  s.ops.any (fun e => decide (o < e.1) && e.2.crew == op.crew && e.2.wave == op.wave && e.2.phys == p &&
    (match e.2.instr with | .xclr f => decide (f.mb 0 2 < 2) | _ => false))

/-! ## Issue (R323, R325) -/

/-- An E instruction names a register with a KIND it requires, if any. -/
structure Want where
  /-- Name. -/
  name : Nat
  /-- KIND required; 0 for any. -/
  kind : Nat

/-- The checks of R325, in order, and the slots named. -/
def State.expCheck (s : State) (_ : Cursor) (cr : Crew) (w : Wave) (l : List Want) : Except Nat (List Nat) :=
  let slots := l.map (fun x => w.exps.find? x.name)
  if slots.any (·.isNone) then .error Cause.protection
  else
    let ps := slots.map (·.getD 0)
    if (l.zip ps).any (fun x => x.1.kind != 0 && (s.exp cr.core x.2).kind != x.1.kind)
    then .error Cause.arithmeticCheck else .ok ps

/-- The operation of an E instruction on the slots named: descriptors read at issue (R323). -/
def State.expOp (s : State) (q : Cursor) (cr : Crew) (w : Wave) (i : Instr) (lanes : LaneMask) (p p2 : Nat) : Op :=
  let e := s.exp cr.core p
  let e2 := s.exp cr.core p2
  { newOp s q cr w i lanes with
    phys := p, phys2 := p2, blk := e.desc ++ e2.desc, cv := e.kind, dv := e2.kind }

/-- XORD, register form (R326). -/
def execXord (f : Fields) (s : State) : Outcome State Fault Refusal :=
  s.waved (.xord f) [] (fun q cr w =>
    let v := (w.s f.a.toNat).toNat
    if 15 < v then s.trapHdr Cause.arithmeticCheck
    else (s.launch (newOp s q cr w (.xord f) (w.strand q.strand).mask)).modWave q.crew q.wave (fun wv => { wv with xo := v }))

/-- XORD, immediate form (R326). -/
def execXordImm (f : ImmFields) (s : State) : Outcome State Fault Refusal :=
  s.waved (.xordImm f) [] (fun q cr w =>
    (s.launch (newOp s q cr w (.xordImm f) (w.strand q.strand).mask)).modWave q.crew q.wave (fun wv => { wv with xo := f.imm.toNat }))

/-- A descriptor as XCLR writes it. -/
def clearedExp (e : Exp) (kind : Nat) (g : List Word) : Exp :=
  { e with kind := kind, ord := 0, cx := g.getD 0 0, cy := g.getD 1 0, cz := g.getD 2 0, rad := g.getD 3 0 }

/-- XCLR (R327): the descriptor is written as it issues, for the reads at issue of later instructions, and with the words
when it performs; .rel unbinds the name. -/
def execXclr (f : Fields) (s : State) : Outcome State Fault Refusal :=
  s.waved (.xclr f) [] (fun q cr w =>
    if f.mb 0 2 = 2 then
      match s.expCheck q cr w [⟨f.d.toNat, 0⟩] with
      | .error c => s.trapHdr c
      | .ok ps => (s.launch (s.expOp q cr w (.xclr f) allLanes (ps.getD 0 0) (ps.getD 0 0))).releaseUnits q.crew q.wave (fun _ => false)
          (· == ps.getD 0 0)
    else if !s.expRoom cr.core w f.d.toNat then s.retry
    else
      let b := s.bindExp q.crew q.wave f.d.toNat
      let g := (List.range 4).map (fun n => w.s (f.a.toNat + n))
      let s1 := b.1.modExp cr.core b.2 (fun e => clearedExp e (f.mb 0 2 + 1) g)
      s1.launch { s1.expOp q cr w (.xclr f) allLanes b.2 b.2 with blk := g })

/-- The v registers of a lane group, captured. -/
def captureV (w : Wave) (act : LaneMask) (r n slot : Nat) : Tab Word :=
  (List.range n).flatMap (fun k => (lanesOf act).map (fun l => (128 * (slot + k) + l, w.v (r + k) l)))

/-- XFORM (R328): the checks of R325 come before R48's, as its entry lists them. -/
def execXform (f : Fields) (s : State) : Outcome State Fault Refusal :=
  s.laned (.xform f) f.pn f.pred [] (fun q cr w act =>
    match s.expCheck q cr w [⟨f.d.toNat, 1⟩] with
    | .error c => s.trapHdr c
    | .ok ps => if !w.holds f.a.toNat 4 then s.trapHdr Cause.protection else s.launch { s.expOp q cr w (.xform f) act (ps.getD 0 0) (ps.getD 0 0) with vcap := captureV w act f.a.toNat 4 0 })

/-- The three translations issue: KIND of D and A. -/
def State.translateIssue (s : State) (i : Instr) (f : Fields) (kd ka : Nat) : Outcome State Fault Refusal :=
  s.waved i [] (fun q cr w =>
    match s.expCheck q cr w [⟨f.d.toNat, kd⟩, ⟨f.a.toNat, ka⟩] with
    | .error c => s.trapHdr c
    | .ok ps => s.launch (s.expOp q cr w i (w.strand q.strand).mask (ps.getD 0 0) (ps.getD 1 0)))

/-- XSHIFT (R329). -/
def execXshift (f : Fields) (s : State) : Outcome State Fault Refusal := s.translateIssue (.xshift f) f 1 1

/-- XM2L (R329). -/
def execXm2l (f : Fields) (s : State) : Outcome State Fault Refusal := s.translateIssue (.xm2l f) f 2 1

/-- XLSH (R329). -/
def execXlsh (f : Fields) (s : State) : Outcome State Fault Refusal := s.translateIssue (.xlsh f) f 2 2

/-- XEVAL (R330): of a multipole or a local; a register that is neither has no KIND that the entry takes (R325). The checks of R325 come
before R48's, as its entry lists them. -/
def execXeval (f : Fields) (s : State) : Outcome State Fault Refusal :=
  s.laned (.xeval f) f.pn f.pred [] (fun q cr w act =>
    match s.expCheck q cr w [⟨f.a.toNat, 0⟩] with
    | .error c => s.trapHdr c
    | .ok ps =>
      let p := ps.getD 0 0
      if (s.exp cr.core p).kind = 0 then s.trapHdr Cause.arithmeticCheck
      else if !w.holds f.d.toNat 4 || !w.holds f.b.toNat 4 then s.trapHdr Cause.protection
      else s.launch { s.expOp q cr w (.xeval f) act p p with
        vcap := captureV w act f.b.toNat 4 0 ++ captureV w act f.d.toNat 4 4,
        dsts := (lanesOf act).flatMap (fun l => groupKeys false f.d.toNat l 4) })

/-- XADM (R331). -/
def execXadm (f : Fields) (s : State) : Outcome State Fault Refusal :=
  s.laned (.xadm f) f.pn f.pred [(f.b.toNat, 4)] (fun q cr w act =>
    match s.expCheck q cr w [⟨f.a.toNat, 0⟩] with
    | .error c => s.trapHdr c
    | .ok ps =>
      let p := ps.getD 0 0
      s.launch { s.expOp q cr w (.xadm f) act p p with
        vcap := captureV w act f.b.toNat 4 0, av := (w.s f.c.toNat).toNat, dsts := (lanesOf act).map (pKey f.d.toNat) })

/-- R332's checks of a record's range at issue, and its pieces; a device range is split at pages and lines. -/
def State.recordCheck (s : State) (cr : Crew) (need : Need) (spad : Bool) (a n : Nat) : Except (Nat × Nat) (List Elem) :=
  let piece (va pa n : Nat) : Elem := ⟨0, 0, va, pa, n, 0, 0, [], none, .pending⟩
  if (if spad then decide (cr.spadBytes < a + n) else decide (2 ^ 56 < a + n)) then .error (Cause.protection, a)
  else if a % 16 ≠ 0 then .error (Cause.misaligned, a)
  else if spad then .ok [piece a 0 n]
  else match s.pieces (dieOf cr.core) cr.ctx need a n with
    | .error e => .error e
    | .ok l =>
      let pages := (l.foldl (fun (acc : List (Nat × Nat × Nat) × Nat) p => (acc.1 ++ [(acc.2, p.1, p.2)], acc.2 + p.2)) ([], a)).1
      .ok (pages.flatMap (fun p => (linesOf p.2.1 p.2.2).map (fun x =>
        let lo := max p.2.1 (256 * x)
        piece (p.1 + (lo - p.2.1)) lo (min (p.2.1 + p.2.2) (256 * x + 256) - lo))))

/-- XLD (R332). -/
def execXld (f : Fields) (s : State) : Outcome State Fault Refusal :=
  s.waved (.xld f) [] (fun q cr w =>
    let a := sVal w f.a.toNat (if f.m 5 then 1 else 2)
    match s.recordCheck cr Need.read (f.m 5) a (32 + 4 * (w.xo + 1) ^ 2) with
    | .error e => s.trapAt e.1 e.2
    | .ok es =>
      if !s.expRoom cr.core w f.d.toNat then s.retry else
      let b := s.bindExp q.crew q.wave f.d.toNat
      b.1.launch { newOp b.1 q cr w (.xld f) allLanes with elems := es, av := a, phys := b.2, phys2 := b.2 })

/-- XST (R332): the ORD at issue is stored. -/
def execXst (f : Fields) (s : State) : Outcome State Fault Refusal :=
  s.waved (.xst f) [] (fun q cr w =>
    match s.expCheck q cr w [⟨f.d.toNat, 0⟩] with
    | .error c => s.trapHdr c
    | .ok ps =>
      let p := ps.getD 0 0
      let a := sVal w f.a.toNat (if f.m 5 then 1 else 2)
      let ord := (s.exp cr.core p).ord
      match s.recordCheck cr Need.write (f.m 5) a (32 + 4 * (ord + 1) ^ 2) with
      | .error e => s.trapAt e.1 e.2
      | .ok es => s.launch { s.expOp q cr w (.xst f) allLanes p p with elems := es, av := a, count := ord })

/-! ## Performing (R323) -/

/-- No earlier E operation of the wave is in flight. -/
def State.expTurn (s : State) (o : Nat) (op : Op) : Bool :=
  s.ops.all (fun p => !(p.2.crew == op.crew && p.2.wave == op.wave && decide (p.1 < o) &&
    (match opcodeOf p.2.instr with | some (5, _) => true | _ => false)))

/-- An E operation performs: XST owns its device lines. -/
def State.performExpansion (s : State) (o : Nat) (op : Op) : State :=
  match s.crew? op.crew with
  | none => s
  | some cr =>
    if !(op.st == .queued) || !s.expTurn o op || !s.engineClear o op then s else
    let s1 := s.modOp o (fun op => { op with st := .active, waits := s.ownersNow })
    match op.instr with
    | .xst f =>
      if f.m 5 then s1 else
      s1.own o cr.core (distinct (op.elems.flatMap (fun e => match homeOf e.pa with | .hbm => linesOf e.pa e.w | _ => [])))
    | _ => s1

/-! ## Results -/

/-- Captured centre of the first (0) or second (1) register. -/
def Op.centre (op : Op) (k : Nat) : List Nat := ((op.blk.drop (4 * k)).take 3).map (·.toNat)

/-- Captured radius. -/
def Op.radius (op : Op) (k : Nat) : Nat := (op.blk.getD (4 * k + 3) 0).toNat

/-- A captured v register of a lane. -/
def Op.lane (op : Op) (k l : Nat) : Nat := (op.vcap.rd 0 (128 * k + l)).toNat

/-- XFORM's effect on a slot (R328). -/
def formExp (op : Op) (e : Exp) : Exp :=
  let ls := lanesOf op.lanes
  let dv (l : Nat) : List Nat := vecSub ((List.range 3).map (fun k => op.lane k l)) (op.centre 0)
  let tabs : Tab (List (List Cx)) := ls.map (fun l => (l, regTable (dv l) op.xo))
  let term (l n m : Nat) (im : Bool) : Nat :=
    let h := (harm (tabs.rd [] l) n m).conj
    let w := op.lane 3 l
    rndE (exact (w :: (if im then [h.im] else [h.re])) (prods [[dec w, if im then h.i else h.r]]))
  { e with
    w := (List.range ((op.xo + 1) ^ 2)).foldl (fun (t : Tab Word) k =>
      let x := wordIndex k
      match laneTree (fun a b => addE a (exact [b] (.ok (dec b)))) op.lanes (fun l => term l x.1 x.2.1 x.2.2) with
      | none => t
      | some v => t.wr 0 k (BitVec.ofNat 32 (addE (t.rd 0 k).toNat (exact [v] (.ok (dec v)))))) e.w
    rad := BitVec.ofNat 32 (ls.foldl (fun r l => fp32.minmax true r (rootPlusUp (normSq (dv l)) 0)) e.rad.toNat)
    ord := max e.ord op.xo }

/-- The terms of a translation added to D(n, m), in order (R329): coefficient, harmonic. -/
def shiftTerms (i : Instr) (p : Nat) (w : Tab Word) (h : List (List Cx)) (n m : Nat) : List (Cx × Cx) :=
  let span (k : Nat) : List Int := (List.range (2 * k + 1)).map (fun (x : Nat) => (x : Int) - (k : Int))
  match i with
  | .xshift _ =>
    (List.range (n + 1)).flatMap (fun k => (span k).filterMap (fun l =>
      if ((m : Int) - l).natAbs ≤ n - k then some (coeff w (n - k) ((m : Int) - l), (harm h k l).conj) else none))
  | .xm2l _ =>
    (List.range (p + 1 - n)).flatMap (fun j => (span j).filterMap (fun l =>
      if (l + (m : Int)).natAbs ≤ j + n then
        some (if n % 2 = 1 then (coeff w j l).neg else coeff w j l, harm h (j + n : Nat) (l + (m : Int))) else none))
  | _ =>
    (List.range (p + 1 - n)).flatMap (fun j => (span j).filterMap (fun l =>
      if ((m : Int) + l).natAbs ≤ n + j then some (coeff w (n + j) ((m : Int) + l), (harm h j l).conj) else none))

/-- A translation's effect (R329): `a` the words of e(a), as read before any write. -/
def shiftExp (op : Op) (a : Tab Word) (e : Exp) : Exp :=
  let isShift := match op.instr with | .xshift _ => true | _ => false
  let isM2l := match op.instr with | .xm2l _ => true | _ => false
  let t := if isShift then vecSub (op.centre 1) (op.centre 0) else vecSub (op.centre 0) (op.centre 1)
  let h := if isM2l then irrTable t op.xo else regTable t op.xo
  { e with
    w := (List.range ((op.xo + 1) ^ 2)).foldl (fun (out : Tab Word) k =>
      let x := wordIndex k
      out.wr 0 k (BitVec.ofNat 32 ((shiftTerms op.instr op.xo a h x.1 x.2.1).foldl (fun acc c => addE acc (c.1.mulPart c.2 x.2.2)) (e.w.rd 0 k).toNat))) e.w
    rad := if isShift then BitVec.ofNat 32 (fp32.minmax true e.rad.toNat (rootPlusUp (normSq t) (op.radius 1))) else e.rad
    ord := max e.ord op.xo }

/-- Half of a sum or difference of two harmonics, times i^r: parts, with the operands in the order given (R330). -/
def halfTerm (a x y : Cx) (minus : Bool) (rot : Nat) : Ex :=
  let y' := if minus then y.neg else y
  let half : FNum := .fin false ⟨1, -1⟩
  let u := sumNums 0 [x.r, y'.r]
  let v := sumNums 0 [x.i, y'.i]
  exact (a.codes ++ x.codes ++ y.codes) (match u, v with
    | .error c, _ => .error c
    | _, .error c => .error c
    | .ok u, .ok v =>
      match rot with
      | 0 => prods [[a.r, u, half], [a.i.negate, v, half]]
      | 1 => prods [[a.r, v.negate, half], [a.i.negate, u, half]]
      | _ => prods [[a.r, v, half], [a.i, u, half]])

/-- XEVAL's four sums in a lane (R330), from their initial values. -/
def evalExp (e : Exp) (kind p : Nat) (u : List Nat) (init : List Nat) : List Nat :=
  let mp := kind == 1
  let h := if mp then irrTable u (p + 1) else regTable u p
  let nm := (List.range (p + 1)).flatMap (fun n => (List.range (2 * n + 1)).map (fun (x : Nat) => (n, (x : Int) - (n : Int))))
  nm.foldl (fun acc x =>
    let n := x.1
    let m := x.2
    let a := coeff e.w n m
    let terms : List Ex :=
      if mp then
        let lo := harm h (n + 1 : Nat) (m - 1)
        let hi := harm h (n + 1 : Nat) (m + 1)
        [a.mulPart (harm h n m) false, halfTerm a lo hi true 0, halfTerm a hi lo false 1, a.neg.mulPart (harm h (n + 1 : Nat) m) false]
      else
        let lo := (harm h ((n : Int) - 1) (m - 1)).conj
        let hi := (harm h ((n : Int) - 1) (m + 1)).conj
        a.mulPart (harm h n m).conj false :: (if n = 0 then [] else
          [halfTerm a lo hi true 0, halfTerm a lo hi false 2, a.mulPart (harm h ((n : Int) - 1) m).conj false])
    (List.range 4).map (fun k => match terms[k]? with | some t => addE (acc.getD k 0) t | none => acc.getD k 0)) init

/-- XADM's test in a lane (R331), exact. -/
def admissible (rad theta : Nat) (c g : List Nat) : Bool :=
  let codes := rad :: theta :: c ++ g
  let fin (x : Nat) : Bool := decide (x % 2 ^ 31 < 0x7F800000)
  if !codes.all fin then false else
  let th := val32 theta
  let lhs := (val32 rad).add (val32 (g.getD 3 0))
  let sq (d : Dy) : Dy := d.mul d
  let d2 := (List.range 3).foldl (fun (acc : Dy) i => acc.add (sq ((val32 (c.getD i 0)).sub (val32 (g.getD i 0))))) ⟨0, 0⟩
  if th.m ≤ 0 then false
  else if lhs.m < 0 then true
  else (sq lhs).lt ((sq th).mul d2)

/-! ## XLD and XST -/

/-- XLD reads part of its record (R91, R219). -/
def State.recordRead (s : State) (o : Nat) (op : Op) (core : Nat) (spad : Bool) (lo n : Nat) : Got (Tab Byte) :=
  if spad then s.gather o op (dieOf core) [.sp lo n] else
  op.elems.foldl (fun (g : Got (Tab Byte)) e => g.bind (fun t =>
    let a := max e.va lo
    let b := min (e.va + e.w) (lo + n)
    if b ≤ a then .ok t else s.readPiece o op a (e.pa + (a - e.va)) (b - a) t)) (.ok op.buf)

/-- A record's header breaks R332. -/
def badRecord (h xo : Nat) : Bool :=
  bitsOf h 12 116 != 0 || bitsOf h 2 6 != 0 || bitsOf h 0 2 == 0 || bitsOf h 0 2 == 3 || decide (xo < bitsOf h 8 4)

/-- A slot as a record loads it. -/
def recordExp (t : Nat → Nat → List Byte) : Exp :=
  let h := leNat (t 0 16)
  let word (k : Nat) : Word := BitVec.ofNat 32 (leNat (t (4 * k) 4))
  { w := (List.range ((bitsOf h 8 4 + 1) ^ 2)).foldl (fun (w : Tab Word) k => w.wr 0 k (word (8 + k))) []
    kind := bitsOf h 0 2, ord := bitsOf h 8 4, cx := word 4, cy := word 5, cz := word 6, rad := word 7, bound := true, after := [] }

/-- XLD completes (R332): the header, then the words of degree up to its ORD. -/
def State.loadRecord (s : State) (o : Nat) (op : Op) (cr : Crew) (spad : Bool) : State :=
  let fail (g : Got (Tab Byte)) : State := match g with
    | .ask p pa va n => s.askRemote o op p pa va n
    | .fault c a => s.trapOp op c a
    | _ => s
  match s.recordRead o op cr.core spad op.av 32 with
  | .ok t =>
    let h := leNat (tabBytes t (!spad) op.av 16)
    if badRecord h op.xo then s.trapOp op Cause.engineFault op.av else
    (match s.recordRead o { op with buf := t } cr.core spad op.av (32 + 4 * (bitsOf h 8 4 + 1) ^ 2) with
      | .ok t => (s.modExp cr.core op.phys (fun e =>
        let r : Exp := { recordExp (fun i n => tabBytes t (!spad) (op.av + i) n) with bound := e.bound, after := e.after }
        if s.overwritten o op op.phys then { e with w := r.w } else r)).endOp o 3
      | g => fail g)
  | g => fail g

/-- The bytes XST stores (R332). -/
def Op.record (op : Op) (e : Exp) : List Byte :=
  leBytes 16 (op.cv + op.count * 2 ^ 8) ++ (op.blk.take 4).flatMap (fun w => leBytes 4 w.toNat) ++
    (List.range ((op.count + 1) ^ 2)).flatMap (fun k => leBytes 4 (e.w.rd 0 k).toNat)

/-- XST writes its next piece and releases a line that no later piece touches (R90). -/
def State.xstUnit (s : State) (o : Nat) (op : Op) (f : Fields) : State :=
  match s.crew? op.crew with
  | none => s
  | some cr =>
    if !(op.st == .active) then s else
    match op.elems.findIdx? (fun e => e.st == .pending) with
    | none => s
    | some n =>
      match op.elems[n]? with
      | none => s
      | some e =>
        let bs := ((op.record (s.exp cr.core op.phys)).drop (e.va - op.av)).take e.w
        let done (s : State) : State := s.modElem o n (fun x => { x with st := .complete })
        if f.m 5 then done (s.spadWrite op.crew e.va bs)
        else
          let lines := match homeOf e.pa with | .hbm => linesOf e.pa e.w | _ => []
          if !(lines.all (fun l => s.turnOf o l)) then s
          else
            let later := (op.elems.drop (n + 1)).flatMap (fun x => linesOf x.pa x.w)
            (lines.filter (fun l => !later.contains l)).foldl (fun (s : State) l => s.release o l) (done (s.engineWrite o op 5 (op.origin o).vas [(e.pa, bs)]))

/-! ## Completion -/

/-- The completion of an E operation that has performed. -/
def State.completeExpansion (s : State) (o : Nat) (op : Op) : State :=
  match s.crew? op.crew with
  | none => s
  | some cr =>
    if !(op.st == .active) then s else
    let change (f : Exp → Exp) : State := s.modExp cr.core op.phys (fun e =>
      if s.overwritten o op op.phys then { e with w := (f e).w } else f e)
    match op.instr with
    | .xord _ | .xordImm _ => s.endOp o 3
    | .xclr f =>
      if f.mb 0 2 = 2 then s.endOp o 3
      else ((s.modExp cr.core op.phys (fun e =>
        let e1 := { e with w := [] }
        if s.overwritten o op op.phys then e1 else clearedExp e1 (f.mb 0 2 + 1) op.blk)).endOp o 3)
    | .xform _ => (change (formExp op)).endOp o 3
    | .xshift _ | .xm2l _ | .xlsh _ => (change (shiftExp op (s.exp cr.core op.phys2).w)).endOp o 3
    | .xeval f =>
      let e := s.exp cr.core op.phys
      let ws := (lanesOf op.lanes).flatMap (fun l =>
        let u := vecSub ((List.range 3).map (fun k => op.lane k l)) (op.centre 0)
        let r := evalExp e op.cv op.xo u ((List.range 4).map (fun k => op.lane (4 + k) l))
        (List.range 4).map (fun k => (vKey (f.d.toNat + k) l, BitVec.ofNat 32 (r.getD k 0))))
      (s.opWrite o ws).endOp o 3
    | .xadm f =>
      let bits := maskOf (fun l => op.lanes.getLsbD l &&
        admissible (op.radius 0) op.av (op.centre 0) ((List.range 4).map (fun k => op.lane k l)))
      let own := maskOf (fun l => op.dsts.contains (pKey f.d.toNat l))
      (if cr.attempt = op.attempt then s.modWave op.crew op.wave (fun w =>
        w.setP f.d.toNat ((w.p f.d.toNat &&& ~~~own) ||| (bits &&& own))) else s).endOp o 3
    | .xld f => s.loadRecord o op cr (f.m 5)
    | .xst f =>
      if op.elems.any (fun e => e.st == .pending) || !op.lines.isEmpty || s.unacked o then s else
      (s.noteAcquire op (if f.m 5 then 1 else op.elems.foldl (fun m e => max m (destScope e.pa)) 5)).endOp o 3
    | _ => s

/-- XLD reads 256 bytes of its record early (R91). -/
def State.expansionSourceRead (s : State) (o : Nat) (op : Op) (unit : Nat) : State :=
  match s.crew? op.crew, op.instr with
  | some cr, .xld f =>
    if !(op.st == .active) || decide (32 + 4 * (op.xo + 1) ^ 2 ≤ 256 * unit) then s else
    match s.recordRead o op cr.core (f.m 5) (op.av + 256 * unit) (min 256 (32 + 4 * (op.xo + 1) ^ 2 - 256 * unit)) with
    | .ok t => s.modOp o (fun op => { op with buf := t })
    | .ask p pa va n => s.askRemote o op p pa va n
    | _ => s
  | _, _ => s

end Sys2Proof.Machine
end

