-- ==== Sys2Proof/Machine/Carillon.lean ====
section
/-!
DEFINITION. The Carillon (R297 to R317): chunks and state maps, version segments, CENUM and CPRED, CMERGE, CEXIT, CSEAL,
CCOMP, CRES, CABORT and ACOMP.
-/

namespace Sys2Proof.Machine

open Sys2Proof Host

/-! ## Entries (R299) -/

/-- A state map entry from its fields. -/
def mapEntry (v x a : Bool) (lane seg exit entry : Nat) : Dword :=
  BitVec.ofNat 64 (v.toNat * 2 ^ 63 + x.toNat * 2 ^ 62 + a.toNat * 2 ^ 61 + lane % 2 ^ 13 * 2 ^ 48 + seg % 2 ^ 16 * 2 ^ 32 +
    exit % 2 ^ 16 * 2 ^ 16 + entry % 2 ^ 16)

/-- V. -/
def entV (e : Nat) : Bool := bitOf e 63
/-- X. -/
def entX (e : Nat) : Bool := bitOf e 62
/-- A. -/
def entA (e : Nat) : Bool := bitOf e 61
/-- LANE. -/
def entLane (e : Nat) : Nat := bitsOf e 48 13
/-- SEG. -/
def entSeg (e : Nat) : Nat := bitsOf e 32 16
/-- EXIT. -/
def entExit (e : Nat) : Nat := bitsOf e 16 16
/-- ENTRY. -/
def entEntry (e : Nat) : Nat := bitsOf e 0 16

/-- The lowest entry of a map with V, X and an entry state. -/
def lookupState (m : List Nat) (st : Nat) : Option Nat := m.find? (fun e => entV e && entX e && entEntry e == st)

/-! ## Segments (R301 to R304) -/

/-- The `n` lowest free segment numbers; none where the table has too few. -/
def Crew.freeSegs (cr : Crew) (n : Nat) : Option (List Nat) :=
  let l := ((List.range Config.crewSegments).filter (fun k => (cr.segs.find? k).isNone)).take n
  if l.length = n then some l else none

/-- Open segments of a chunk. -/
def Crew.openSegs (cr : Crew) (chunk : Nat) (l : List Nat) : Crew :=
  { cr with segs := l.foldl (fun (t : Tab Segment) n => t.put n ⟨false, [], [], none, chunk⟩) cr.segs }

/-- Seal a segment, with a link where there is one. -/
def Crew.sealSeg (cr : Crew) (n : Nat) (link : Option Nat) : Crew :=
  { cr with segs := cr.segs.modify n (fun g => { g with sealed := true, link := link }) }

/-- The segments on a chain from `n`, while they exist. -/
def Crew.chainFrom (cr : Crew) : Nat → Nat → List Nat
  | 0, _ => []
  | fuel + 1, n =>
    match cr.segs.find? n with
    | none => []
    | some g => n :: (match g.link with | some k => cr.chainFrom fuel k | none => [])

/-- A chain from `n`. -/
def Crew.chain (cr : Crew) (n : Nat) : List Nat := cr.chainFrom Config.crewSegments n

/-- Every segment of a chain exists and is sealed, to its end. -/
def Crew.chainWhole (cr : Crew) (n : Nat) : Bool :=
  let l := cr.chain n
  !l.isEmpty && l.all (fun k => match cr.segs.find? k with
    | some g => g.sealed && (match g.link with | some j => (cr.segs.find? j).isSome | none => true)
    | none => false)

/-- The segments reachable from a map's entries. -/
def Crew.reachable (cr : Crew) (m : List Nat) : List Nat :=
  distinct ((m.filter entV).flatMap (fun e => cr.chain (entSeg e)))

/-- L1 lines marked with lanes of a crew are dropped (R302). -/
def State.dropLanes (s : State) (c : Nat) (lanes : List (Nat × Nat)) : State :=
  match s.crew? c with
  | none => s
  | some cr => s.modCore cr.core (fun k => { k with
      l1 := k.l1.filter (fun l => match l.lane with | some x => !(lanes.map (fun y => (cr.slot y.1, y.2))).contains x | none => true) })

/-- The live lanes of a crew whose lineage holds one of the segments, as (wave, lane). -/
def Crew.lanesOn (cr : Crew) (l : List Nat) : List (Nat × Nat) :=
  cr.waves.flatMap (fun w => w.2.sm.vals.flatMap (fun ch => if ch.st == .opened
    then ((lanesOf ch.live).filter (fun x => (ch.lineage.rd [] x).any l.contains)).map (fun x => (w.1, x)) else []))

/-- Segments are committed elsewhere or discarded, and with them the L1 lines marked with the lanes they are of (R302). -/
def State.dropSegs (s : State) (c : Nat) (l : List Nat) : State :=
  (s.dropLanes c (((s.crew? c).map (fun cr => cr.lanesOn l)).getD [])).modCrew c (fun cr => { cr with
    segs := cr.segs.filter (fun e => !l.contains e.1) })

/-- A chain is committed, in one step (R304). -/
def State.commitChain (s : State) (c : Nat) (l : List Nat) : State :=
  match s.crew? c with
  | none => s
  | some cr =>
    let gs := l.filterMap (fun n => cr.segs.find? n)
    let bytes := gs.foldl (fun (t : Tab Byte) g => g.bytes.foldl (fun (t : Tab Byte) e => t.put e.1 e.2) t) []
    let reds := gs.flatMap (·.reds)
    let s1 := s.dropSegs c l
    if cr.task == .irrevocable then
      let s2 := (runs bytes).foldl (fun (s : State) r => s.commitFor (s.originCrew c cr.core) none none r.1 r.2) s1
      { s2 with reds := s2.reds ++ reds }
    else
      let s2 := s1.modCrew c (fun cr => { cr with
        ver := bytes.foldl (fun (t : Tab Byte) e => t.put e.1 e.2) cr.ver, held := cr.held ++ reds })
      (linesIn bytes).foldl (fun (s : State) x => s.modCore cr.core (fun k => { k with
        l1 := k.l1.filter (fun l => !(l.line == x && l.crew == some c)) })) s2

/-! ## Participants -/

/-- The collective an instruction is, in crew mode (R308): CENUM.crew, CMERGE, CEXIT, CABORT.map. -/
def collKind : Instr → Option Nat
  | .cenum f => if f.m 3 then some 0 else none
  | .cmerge _ => some 1
  | .cexit _ => some 2
  | .cabort f => if f.m 0 then none else some 3
  | _ => none

/-- The chunk an operation acts on: the sm register it names, or the open one for CMERGE. -/
def Op.smOf (op : Op) (w : Wave) : Option Nat :=
  match op.instr with
  | .cmerge _ => (w.sm.filter (fun e => e.2.st == .opened || e.2.st == .overflowed)).head?.map (·.1)
  | .cexit f | .cabort f | .cseal f => if (w.sm.find? f.d.toNat).isSome then some f.d.toNat else none
  | _ => none

/-- The operation is a crew-mode collective. -/
def State.isCollective (s : State) (op : Op) : Bool :=
  match op.instr with
  | .cenum f => f.m 3
  | _ => (match s.wave? op.crew op.wave with
    | some w => ((op.smOf w).bind (fun r => w.sm.find? r)).any (·.crewMode) && (collKind op.instr).isSome
    | none => false)

/-- The operations that act together with `o`, in wave order; none while a live wave of the crew has not come. -/
def State.partners (s : State) (o : Nat) (op : Op) : Option (List (Nat × Op)) :=
  if !s.isCollective op then some [(o, op)] else
  match s.crew? op.crew with
  | none => none
  | some cr =>
    let of (w : Nat) : Option (Nat × Op) := (s.ops.filter (fun e => e.2.crew == op.crew && e.2.wave == w &&
      collKind e.2.instr == collKind op.instr && s.isCollective e.2 && e.2.st == .active)).head?
    let l := cr.liveWaves.map of
    if l.all (·.isSome) then some (l.filterMap id) else none

/-- A collective whose waves have all issued it: it waits for no wave any more (R305). -/
def State.allCome (s : State) (op : Op) : Bool :=
  match s.crew? op.crew with
  | none => false
  | some cr => cr.liveWaves.all (fun w => s.ops.any (fun e => e.2.crew == op.crew && e.2.wave == w &&
      collKind e.2.instr == collKind op.instr && s.isCollective e.2))

/-- Every operation of a list ends. -/
def State.endAll (s : State) (l : List (Nat × Op)) : State := l.foldl (fun (s : State) p => s.endOp p.1 3) s

/-- The waves' lanes of a chunk with writes not yet in their segments (R303, R311): elements in flight and write-queue
entries bound for the open segments. -/
def State.chunkQuiet (s : State) (c : Nat) (cr : Crew) (segs : List Nat) : Bool :=
  !s.ops.any (fun e => e.2.crew == c && e.2.elems.any (fun x => (match x.seg with | some g => segs.contains g | none => false) && !x.done)) &&
  !(s.core cr.core).wq.any (fun e => e.crew == c && (match e.seg with | some g => segs.contains g | none => false))

/-- The open segments of waves' chunks. -/
def Crew.openOf (cr : Crew) (ws : List (Nat × Nat)) : List Nat :=
  ws.flatMap (fun x => match (cr.waves.find? x.1).bind (fun w => w.sm.find? x.2) with
    | some ch => (lanesOf ch.live).filterMap (fun l => (ch.lineage.rd [] l).head?)
    | none => [])

/-- Change a chunk. -/
def State.modChunk (s : State) (c w r : Nat) (f : Chunk → Chunk) : State := s.modWave c w (fun x => { x with sm := x.sm.modify r f })

/-! ## Issue (R306, R307) -/

/-- A K instruction that needs the whole strand mask issues. -/
def State.wholeWave (s : State) (i : Instr) (body : Cursor → Crew → Wave → State) : Outcome State Fault Refusal :=
  s.waved i [] (fun q cr w => if (w.strand q.strand).mask ≠ allLanes then s.trapHdr Cause.illegalConvergence else body q cr w)

/-- E and S0 break R308. -/
def badEntry (e s0 : Nat) : Bool := e == 0 || decide (65535 < s0 + e - 1)

/-- The register elements of the carry sets of the first `e` lanes. -/
def carryKeys (a n e : Nat) : List Nat := (List.range (min e 128)).flatMap (fun l => groupKeys false a l n)

/-- The elements of the v registers a wave holds. -/
def Wave.heldKeys (w : Wave) : List Nat := ((List.range 256).filter (fun r => w.holds r 1)).flatMap (fun r => (List.range 128).map (vKey r))

/-- CENUM (R308): with CR the lowest-slot wave's operands count, so they are checked when the waves have come, and which registers the
lanes write is known only then: until then it takes none from what is in flight, and a later writer stands in any (R178). A chunk that
overflows writes none. -/
def execCenum (f : Fields) (s : State) : Outcome State Fault Refusal :=
  s.wholeWave (.cenum f) (fun q cr w =>
    let n := f.mb 0 3 + 1
    let e := (w.s f.b.toNat).toNat
    let s0 := (w.s (f.b.toNat + 1)).toNat
    if (w.sm.find? f.d.toNat).isSome || w.inChunk || (!f.m 3 && !w.holds f.a.toNat n) then s.trapHdr Cause.protection
    else if !f.m 3 && badEntry e s0 then s.trapHdr Cause.arithmeticCheck
    else
      let op : Op := { newOp s q cr w (.cenum f) allLanes with bv := e, av := s0, cv := f.a.toNat, count := n }
      if f.m 3 then (s.launch op).modOp s.next (fun op => { op with dsts := w.heldKeys })
      else s.launch { op with dsts := if 128 < e then [] else carryKeys f.a.toNat n e })

/-- CPRED (R309): predicted states are read at issue. -/
def execCpred (f : Fields) (s : State) : Outcome State Fault Refusal :=
  s.wholeWave (.cpred f) (fun q cr w =>
    let n := f.mb 0 3 + 1
    let e := (w.s f.b.toNat).toNat
    if (w.sm.find? f.d.toNat).isSome || w.inChunk || !w.holds f.a.toNat n then s.trapHdr Cause.protection
    else if e == 0 || 128 < e then s.trapHdr Cause.arithmeticCheck
    else s.launch { newOp s q cr w (.cpred f) allLanes with
      bv := e, cv := f.a.toNat, count := n, vcap := captureV w allLanes f.a.toNat 1 0, dsts := carryKeys f.a.toNat n e })

/-- CMERGE (R310). -/
def execCmerge (f : Fields) (s : State) : Outcome State Fault Refusal :=
  s.wholeWave (.cmerge f) (fun q cr w =>
    if !w.inChunk then s.trapHdr Cause.protection
    else s.launch { newOp s q cr w (.cmerge f) allLanes with dsts := groupKeys true f.d.toNat 0 1 })

/-- CEXIT (R311): of an overflowed chunk in crew mode the trap comes once every live wave has come (R308). -/
def execCexit (f : Fields) (s : State) : Outcome State Fault Refusal :=
  s.wholeWave (.cexit f) (fun q cr w =>
    match w.sm.find? f.d.toNat with
    | some ch =>
      if ch.st == .opened || (ch.st == .overflowed && ch.crewMode) then s.launch (newOp s q cr w (.cexit f) allLanes)
      else if ch.st == .overflowed then s.trapHdr Cause.carillonOverflow
      else s.trapHdr Cause.protection
    | none => s.trapHdr Cause.protection)

/-- R307's checks of a table instruction: size and order, ranges, alignment. -/
def tableCheck (spad base c0 c1 size : Nat) (dest : Option Nat) : Option (Nat × Option Nat) :=
  if size % 128 ≠ 0 || decide (size < 128) || decide (8192 < size) || decide (c1 < c0) then some (Cause.arithmeticCheck, none)
  else if spad < base + 8 * size * (c1 + 1) then some (Cause.protection, some base)
  else match dest.filter (fun d => decide (spad < d + 8 * size)) with
    | some d => some (Cause.protection, some d)
    | none =>
      if base % 8 ≠ 0 then some (Cause.misaligned, some base)
      else (dest.filter (fun d => d % 8 != 0)).map (fun d => (Cause.misaligned, some d))

/-- CSEAL (R312). -/
def execCseal (f : Fields) (s : State) : Outcome State Fault Refusal :=
  s.waved (.cseal f) [] (fun q cr w =>
    let base := sVal w f.a.toNat 1
    let c := sVal w f.b.toNat 1
    match w.sm.find? f.d.toNat with
    | some ch =>
      let at_ := base + 1024 * (if ch.crewMode then ch.m * c + ch.q else c)
      if ch.st != .exited then s.trapHdr Cause.protection
      else if 65535 < c then s.trapHdr Cause.arithmeticCheck
      else if cr.spadBytes < at_ + 1024 then s.trapAt Cause.protection at_
      else if base % 8 ≠ 0 then s.trapAt Cause.misaligned base
      else s.launch { newOp s q cr w (.cseal f) (w.strand q.strand).mask with av := at_ }
    | none => s.trapHdr Cause.protection)

/-- CCOMP (R313). -/
def execCcomp (f : Fields) (s : State) : Outcome State Fault Refusal :=
  s.waved (.ccomp f) [] (fun q cr w =>
    let n (k : Nat) : Nat := (w.s (f.b.toNat + k)).toNat
    let base := sVal w f.a.toNat 1
    let dest := sVal w f.d.toNat 1
    match tableCheck cr.spadBytes base (n 0) (n 1) (n 2) (some dest) with
    | some e => s.checkTrap e
    | none => s.launch { newOp s q cr w (.ccomp f) (w.strand q.strand).mask with av := base, dv := dest, off := n 0, len := n 1, count := n 2 })

/-- CRES (R314). -/
def execCres (f : Fields) (s : State) : Outcome State Fault Refusal :=
  s.waved (.cres f) [] (fun q cr w =>
    let n (k : Nat) : Nat := (w.s (f.b.toNat + k)).toNat
    let base := sVal w f.a.toNat 1
    match tableCheck cr.spadBytes base (n 1) (n 2) (n 3) none with
    | some e => s.checkTrap e
    | none => s.launch { newOp s q cr w (.cres f) (w.strand q.strand).mask with
        av := base, cv := n 0 % 2 ^ 16, off := n 1, len := n 2, count := n 3, dsts := groupKeys true f.d.toNat 0 2 })

/-- CABORT (R315). -/
def execCabort (f : Fields) (s : State) : Outcome State Fault Refusal :=
  if f.m 0 then
    s.waved (.cabort f) [] (fun q cr w =>
      let n (k : Nat) : Nat := (w.s (f.b.toNat + k)).toNat
      let base := sVal w f.a.toNat 1
      match tableCheck cr.spadBytes base (n 0) (n 1) (n 2) none with
      | some e => s.checkTrap e
      | none => s.launch { newOp s q cr w (.cabort f) (w.strand q.strand).mask with av := base, off := n 0, len := n 1, count := n 2 })
  else
    s.wholeWave (.cabort f) (fun q cr w =>
      if (w.sm.find? f.d.toNat).isNone then s.trapHdr Cause.protection
      else s.launch (newOp s q cr w (.cabort f) allLanes))

/-- ACOMP (R316, R317): the diagonal form's registers are read at issue; the dense form makes R285's checks. -/
def execAcomp (f : Fields) (s : State) : Outcome State Fault Refusal :=
  if f.m 0 then
    s.matrixIssue (.acomp f) f.d.toNat true (fun q cr w p =>
      let a (k : Nat) : Nat := (w.s (f.a.toNat + k)).toNat
      let rs := [(a 0, 32768, 32), (a 1, 32768, 32), (a 2, 256, 32), (a 3, 512, 4)]
      if (s.tile cr.core p).int then s.trapHdr Cause.arithmeticCheck
      else match rs.find? (fun r => decide (cr.spadBytes < r.1 + r.2.1)) with
        | some r => s.trapAt Cause.protection r.1
        | none => match rs.find? (fun r => r.1 % r.2.2 != 0) with
          | some r => s.trapAt Cause.misaligned r.1
          | none => s.launch { newOp s q cr w (.acomp f) allLanes with phys := p, blk := (List.range 4).map (fun k => w.s (f.a.toNat + k)) })
  else
    s.waved (.acomp f) [(f.a.toNat, 4), (f.b.toNat, 4), (f.d.toNat, 4)] (fun q cr w =>
      if (w.strand q.strand).mask ≠ allLanes then s.trapHdr Cause.illegalConvergence
      else s.launch { newOp s q cr w (.acomp f) allLanes with
        vcap := captureV w allLanes f.a.toNat 4 0 ++ captureV w allLanes f.b.toNat 4 4
        dsts := (List.range 128).flatMap (fun l => groupKeys false f.d.toNat l 4) })

/-! ## Opening a chunk (R308, R309) -/

/-- One wave's part of chunk `num` that opens: `q` its place, lanes below E with their entry states and segments. -/
def openPart (num : Nat) (crewMode : Bool) (base n e m q wi : Nat) (states : Nat → Nat) (segs : List Nat) (ovf : Bool) : Chunk :=
  let on (l : Nat) : Bool := !ovf && decide (128 * q + l < e)
  { st := if ovf then .overflowed else .opened, crewMode := crewMode, base := base, n := n, e := e, live := maskOf on
    lineage := ((List.range 128).filter on).map (fun l => (l, [segs.getD (128 * q + l) 0]))
    map := (List.range 128).map (fun l =>
      (l, if on l then mapEntry true false false (128 * wi + l) (segs.getD (128 * q + l) 0) 0 (states (128 * q + l))
        else mapEntry false false false (128 * wi + l) 0 0 0))
    q := q, m := m, num := num }

/-- CENUM and CPRED act for the waves that have come, in wave order. -/
def State.openChunk (s : State) (c : Nat) (cr : Crew) (parts : List (Nat × Op)) (crewMode : Bool) : State :=
  match parts with
  | [] => s
  | (num, low) :: _ =>
    let pred := match low.instr with | .cpred _ => true | _ => false
    let e := low.bv
    let base := low.cv
    let n := low.count
    let m := parts.length
    let trapAll (s : State) (l : List (Nat × Op)) (cause : Nat) : State := l.foldl (fun (s : State) p => s.trapOp p.2 cause p.2.hdr) s
    let holdsIt (p : Nat × Op) : Bool := match cr.waves.find? p.2.wave with | some w => w.holds base n | none => false
    let busy (p : Nat × Op) : Bool := match cr.waves.find? p.2.wave with | some w => w.inChunk | none => true
    if !pred && badEntry e low.av then trapAll s parts Cause.arithmeticCheck
    else if !parts.all holdsIt then trapAll s (parts.filter (fun p => !holdsIt p)) Cause.protection
    else if parts.any busy then trapAll s (parts.filter busy) Cause.protection
    else
      let ovf := decide (128 * m < e)
      match cr.freeSegs (if ovf then 0 else e) with
      | none => trapAll s (parts.take 1) Cause.carillonOverflow
      | some segs =>
        let state (g : Nat) : Nat := if pred then low.lane 0 g % 65536 else low.av + g
        let s1 := s.modCrew c (fun cr => cr.openSegs num segs)
        let s2 := (List.range m).foldl (fun (s : State) q =>
          match parts[q]? with
          | none => s
          | some p =>
            let r := match p.2.instr with | .cenum f | .cpred f => f.d.toNat | _ => 0
            let s1 := s.modWave c p.2.wave (fun w => { w with sm := w.sm.put r (openPart num crewMode base n e m q p.2.wave state segs ovf) })
            let ws := ((List.range 128).filter (fun l => !ovf && decide (128 * q + l < e))).flatMap (fun l =>
              wrGroup false base l n (state (128 * q + l)))
            (if crewMode then s1.killDst c p.2.wave p.1 (ws.map (·.1)) else s1).opWrite p.1 ws) s1
        s2.endAll parts

/-! ## CMERGE, CEXIT, CABORT.map -/

/-- The lanes of a chunk, ascending, each with the lower live lane whose carry set is equal, or itself (R303). -/
def Crew.survivors (cr : Crew) (ws : List (Nat × Nat)) : List ((Nat × Nat) × (Nat × Nat)) :=
  let lanes := ws.flatMap (fun x => match (cr.waves.find? x.1).bind (fun w => w.sm.find? x.2) with
    | some ch => (lanesOf ch.live).map (fun l => (x.1, l))
    | none => [])
  let carry (x : Nat × Nat) : List Word := match cr.waves.find? x.1 with
    | some w => (match ws.find? (fun y => y.1 == x.1) with
      | some y => (match w.sm.find? y.2 with | some ch => (List.range ch.n).map (fun k => w.v (ch.base + k) x.2) | none => [])
      | none => [])
    | none => []
  lanes.foldl (fun acc x =>
    let y := ((acc.filter (fun z => z.1 == z.2 && carry z.1 == carry x)).head?.map (·.1)).getD x
    acc ++ [(x, y)]) []

/-- Absorption in one step (R303): the changed state and how many lanes were absorbed; none without a free segment. -/
def State.absorb (s : State) (c : Nat) (cr : Crew) (ws : List (Nat × Nat)) : Option (State × Nat) :=
  let sv := cr.survivors ws
  let gone := sv.filter (fun x => x.1 != x.2)
  let keepers := distinct (gone.map (·.2))
  match cr.freeSegs keepers.length with
  | none => none
  | some segs =>
    let openSeg (x : Nat × Nat) : Option Nat := match ws.find? (fun y => y.1 == x.1) with
      | some y => ((cr.waves.find? y.1).bind (fun w => w.sm.find? y.2)).bind (fun ch => (ch.lineage.rd [] x.2).head?)
      | none => none
    let num := ((ws.filterMap (fun y => (cr.waves.find? y.1).bind (fun w => w.sm.find? y.2))).head?.map (·.num)).getD 0
    let newOf (k : Nat × Nat) : Nat := segs.getD ((keepers.findIdx? (· == k)).getD 0) 0
    let seals := (keepers.map (fun k => (k, k))) ++ gone
    let cr1 := seals.foldl (fun (cr : Crew) x => match openSeg x.1 with | some n => cr.sealSeg n (some (newOf x.2)) | none => cr) (cr.openSegs num segs)
    let s1 := s.modCrew c (fun cr => { cr with segs := cr1.segs })
    let s2 := ws.foldl (fun (s : State) y => s.modChunk c y.1 y.2 (fun ch => { ch with
      live := ch.live &&& maskOf (fun l => !gone.any (fun x => x.1 == (y.1, l)))
      lineage := (ch.lineage.filter (fun e => !gone.any (fun x => x.1 == (y.1, e.1)))).map (fun e =>
        if keepers.contains (y.1, e.1) then (e.1, newOf (y.1, e.1) :: e.2) else e)
      map := ch.map.mapV (fun _ d =>
        let n := d.toNat
        match gone.find? (fun x => 128 * x.1.1 + x.1.2 == entLane n) with
        | some x => mapEntry (entV n) (entX n) true (128 * x.2.1 + x.2.2) (entSeg n) (entExit n) (entEntry n)
        | none => d) })) s1
    some (s2.dropLanes c (gone.map (·.1)), gone.length)

/-- CMERGE acts (R310). -/
def State.mergeLanes (s : State) (c : Nat) (cr : Crew) (parts : List (Nat × Op)) : State :=
  let ws := parts.filterMap (fun p => ((cr.waves.find? p.2.wave).bind (fun w => p.2.smOf w)).map (fun r => (p.2.wave, r)))
  let ovf := ws.any (fun x => ((cr.waves.find? x.1).bind (fun w => w.sm.find? x.2)).any (fun ch => ch.st == .overflowed))
  if !s.chunkQuiet c cr (cr.openOf ws) then s else
  match (if ovf then some (s, 0) else s.absorb c cr ws) with
  | none => (match parts with | p :: _ => s.trapOp p.2 Cause.carillonOverflow p.2.hdr | [] => s)
  | some r =>
    let live := ((r.1.crew? c).map (fun cr => (ws.map (fun x => ((cr.waves.find? x.1).bind (fun w => w.sm.find? x.2)).elim 0 (fun ch => (lanesOf ch.live).length))).sum)).getD 0
    let v := ovf.toNat * 2 ^ 31 + r.2 % 2 ^ 15 * 2 ^ 16 + live % 2 ^ 14
    (parts.foldl (fun (s : State) p => s.opWrite p.1 (p.2.dsts.map (fun k => (k, BitVec.ofNat 32 v)))) r.1).endAll parts

/-- CEXIT acts (R311), with one trap for an overflowed chunk. -/
def State.exitChunk (s : State) (c : Nat) (cr : Crew) (parts : List (Nat × Op)) : State :=
  let ws := parts.filterMap (fun p => ((cr.waves.find? p.2.wave).bind (fun w => p.2.smOf w)).map (fun r => (p.2.wave, r)))
  let segs := cr.openOf ws
  let ovf := ws.any (fun x => ((cr.waves.find? x.1).bind (fun w => w.sm.find? x.2)).any (fun ch => ch.st == .overflowed))
  if ovf then (match parts with | p :: _ => s.trapOp p.2 Cause.carillonOverflow p.2.hdr | [] => s)
  else if !s.chunkQuiet c cr segs then s else
  let carry (lane base : Nat) : Nat := match cr.waves.find? (lane / 128) with | some w => (w.v base (lane % 128)).toNat % 65536 | none => 0
  let lanes := ws.flatMap (fun x => match (cr.waves.find? x.1).bind (fun w => w.sm.find? x.2) with
    | some ch => (lanesOf ch.live).map (fun l => (x.1, l))
    | none => [])
  let s1 := s.modCrew c (fun cr => segs.foldl (fun (cr : Crew) n => cr.sealSeg n none) cr)
  let s2 := ws.foldl (fun (s : State) x => s.modChunk c x.1 x.2 (fun ch => { ch with
    st := .exited, live := 0, lineage := []
    map := ch.map.mapV (fun _ d =>
      let n := d.toNat
      if entV n then mapEntry true true (entA n) (entLane n) (entSeg n) (carry (entLane n) ch.base) (entEntry n) else d) })) s1
  (s2.dropLanes c lanes).endAll parts

/-- CABORT.map acts (R315): every segment opened for the chunk goes, those of waves that have ended too. -/
def State.abortChunk (s : State) (c : Nat) (cr : Crew) (parts : List (Nat × Op)) : State :=
  let ws := parts.filterMap (fun p => ((cr.waves.find? p.2.wave).bind (fun w => p.2.smOf w)).map (fun r => (p.2.wave, r)))
  if !s.chunkQuiet c cr (cr.openOf ws) then s else
  let nums := ws.filterMap (fun x => ((cr.waves.find? x.1).bind (fun w => w.sm.find? x.2)).map (·.num))
  let gone := (cr.segs.filter (fun e => nums.contains e.2.chunk)).map (·.1)
  let lanes := ws.flatMap (fun x => match (cr.waves.find? x.1).bind (fun w => w.sm.find? x.2) with
    | some ch => (lanesOf ch.live).map (fun l => (x.1, l))
    | none => [])
  let s1 := (s.dropSegs c gone).dropLanes c lanes
  (ws.foldl (fun (s : State) x => s.modWave c x.1 (fun w => { w with sm := w.sm.del x.2 })) s1).endAll parts

/-! ## Table instructions -/

/-- An entry of a map in the scratchpad, as the Carillon logic reads it (R307). -/
def State.tableEntry (s : State) (op : Op) (a : Nat) : Nat := leNat ((List.range 8).map (fun i => s.spadByte op (a + i)))

/-- Chunk `c`'s map. -/
def State.tableMap (s : State) (op : Op) (c : Nat) : List Nat :=
  (List.range op.count).map (fun e => s.tableEntry op (op.av + 8 * op.count * c + 8 * e))

/-- CCOMP's walk of one slot through chunks `c`, `c + 1`, … (R313): `n` chunks are left. -/
def composeFrom (maps : Nat → List Nat) (entry : Nat) : Nat → Nat → Nat → Dword
  | 0, _, st => mapEntry true true false 0 0 st entry
  | n + 1, c, st =>
    match lookupState (maps c) st with
    | none => mapEntry true false false 0 c st entry
    | some f => composeFrom maps entry n (c + 1) (entExit f)

/-- CCOMP's result for a slot of the first chunk. -/
def composeSlot (maps : Nat → List Nat) (c0 c1 e : Nat) : Dword :=
  if !entV e then 0
  else if !entX e then BitVec.ofNat 64 e
  else composeFrom maps (entEntry e) (c1 - c0) (c0 + 1) (entExit e)

/-- CRES commits the chunk its walk stands at (R314): one step; a miss leaves the operation for its completion. -/
def State.resolveStep (s : State) (o : Nat) (op : Op) (cr : Crew) : State :=
  if !(op.st == .active) || decide (op.len < op.off) then s else
  match lookupState (s.tableMap op op.off) op.cv with
  | none => s
  | some f =>
    if !cr.chainWhole (entSeg f) then s.trapOp op Cause.protection op.hdr
    else
      let chain := cr.chain (entSeg f)
      let others := (cr.reachable (s.tableMap op op.off)).filter (fun n => !chain.contains n)
      ((s.commitChain op.crew chain).dropSegs op.crew others).modOp o (fun op => { op with off := op.off + 1, cv := entExit f })

/-! ## ACOMP -/

/-- ACOMP.diag's registers (R316). -/
def acompDiag (op : Op) (d : Nat) : List (Nat × Word) :=
  (List.range 256).flatMap (fun i =>
    let r (x k : Nat) : Nat := op.lane (x + k + i / 128) (i % 128)
    [(vKey (d + i / 128) (i % 128), BitVec.ofNat 32 (fp32.mul 4 0 (r 4 0) (r 0 0))),
     (vKey (d + 2 + i / 128) (i % 128), BitVec.ofNat 32 (fp32.fma 4 0 (r 4 0) (r 0 2) (r 4 2)))])

/-- ACOMP.dense (R317): the tile and b2. -/
def State.acompDense (s : State) (op : Op) : Except Nat (Tab Word × List (Nat × List Byte)) :=
  let byte := s.spadByte op
  let a (k : Nat) : Nat := (op.blk.getD k 0).toNat
  match (Operand.mk 5 (a 0) 128 0 none none).rows byte, (Operand.mk 5 (a 1) 128 0 none none).rows byte,
    (Operand.mk 5 (a 2) 128 0 none none).row byte 0 with
  | .ok m2, .ok m1, .ok b1 =>
    .ok (tileOfFn (fun i j => accRows false (fun _ => true) 0 (m2.getD i []) (m1.getD j [])),
      (List.range 128).map (fun i => (a 3 + 4 * i, leBytes 4 (accRows false (fun _ => true) (s.spadWord op (a 3 + 4 * i)) (m2.getD i []) b1))))
  | .error e, _, _ => .error e
  | _, .error e, _ => .error e
  | _, _, .error e => .error e

/-! ## Performing and completion -/

/-- A K operation performs; ACOMP.dense in its tile's order (R282). -/
def State.performCarillon (s : State) (o : Nat) (op : Op) : State :=
  if !(op.st == .queued) || !s.engineClear o op then s else
  match op.instr with
  | .acomp f => if f.m 0 && !s.tileTurn o op then s else s.modOp o (fun op => { op with st := .active })
  | _ => s.modOp o (fun op => { op with st := .active })

/-- The completion of a K operation that has performed: a collective with every wave of its crew. -/
def State.completeCarillon (s : State) (o : Nat) (op : Op) : State :=
  match s.crew? op.crew with
  | none => s
  | some cr =>
    if !(op.st == .active) then s else
    let coll (act : List (Nat × Op) → State) : State := match s.partners o op with | some l => act l | none => s
    match op.instr with
    | .cenum f => coll (fun l => s.openChunk op.crew cr l (f.m 3))
    | .cpred _ => coll (fun l => s.openChunk op.crew cr l false)
    | .cmerge _ => coll (s.mergeLanes op.crew cr)
    | .cexit _ => coll (s.exitChunk op.crew cr)
    | .cabort f =>
      if f.m 0 then
        let ents := (List.range (op.len - op.off + 1)).flatMap (fun k => s.tableMap op (op.off + k))
        let l := (cr.reachable ents).filter (fun n => match cr.segs.find? n with | some g => g.sealed | none => false)
        (s.dropSegs op.crew l).endOp o 3
      else coll (s.abortChunk op.crew cr)
    | .cseal f =>
      (match (cr.waves.find? op.wave).bind (fun w => w.sm.find? f.d.toNat) with
      | none => s.endOp o 3
      | some ch =>
        if !s.spadFree op.crew op.av 1024 then s
        else ((s.spadWrite op.crew op.av ((List.range 128).flatMap (fun l => leBytes 8 (ch.map.rd 0 l).toNat))).modWave op.crew op.wave
          (fun w => { w with sm := w.sm.del f.d.toNat })).endOp o 3)
    | .ccomp _ =>
      if !s.spadFree op.crew op.dv (8 * op.count) then s
      else
        let out := (s.tableMap op op.off).flatMap (fun e => leBytes 8 (composeSlot (s.tableMap op) op.off op.len e).toNat)
        (s.spadWrite op.crew op.dv out).endOp o 3
    | .cres _ =>
      if decide (op.off ≤ op.len) && (lookupState (s.tableMap op op.off) op.cv).isSome then s
      else (s.opWrite o (op.dsts.zip [BitVec.ofNat 32 op.cv, BitVec.ofNat 32 op.off])).endOp o 3
    | .acomp f =>
      if f.m 0 then
        (match s.acompDense op with
        | .ok r => (r.2.foldl (fun (s : State) e => s.spadWrite op.crew e.1 e.2)
            ((s.modTile cr.core op.phys (fun t => { t with el := r.1 })).noteAcquire op 1)).endOp o 3
        | .error _ => s)
      else (s.opWrite o (acompDiag op f.d.toNat)).endOp o 3
    | _ => s

/-- The Carillon logic, or ACOMP.dense, reads 256 bytes of the scratchpad early (R307, R282). -/
def State.carillonSourceRead (s : State) (o : Nat) (op : Op) (unit : Nat) : State :=
  match s.crew? op.crew with
  | none => s
  | some cr =>
    if !(op.st == .active) then s else
    match s.gather o op (dieOf cr.core) [.sp (256 * unit) 256] with
    | .ok t => s.modOp o (fun op => { op with buf := t })
    | _ => s

end Sys2Proof.Machine
end

