-- ==== Sys2Proof/Machine/Token.lean ====
section
/-!
DEFINITION. Token merging (R334 to R344): the merge map and its checks, TKMATCH, TKMERGE, TKUNMERGE and TKSIZE.
-/

namespace Sys2Proof.Machine

open Sys2Proof Host

/-! ## The map (R334, R335) -/

/-- A merge map. -/
structure MergeMap where
  /-- GEN. -/
  gen : Nat
  /-- LFIRST. -/
  lfirst : Nat
  /-- LCOUNT. -/
  lcount : Nat
  /-- NIN. -/
  nin : Nat
  /-- NOUT. -/
  nout : Nat
  /-- R. -/
  r : Nat
  /-- DEST, by input token. -/
  dest : List Nat
  /-- SIZE, by merged token. -/
  size : List Nat
  deriving DecidableEq, Repr

/-- A header's fields; the arrays are empty. -/
def MergeMap.header (h : Nat) : MergeMap :=
  ⟨bitsOf h 32 32, bitsOf h 0 16, bitsOf h 16 16, bitsOf h 64 32, bitsOf h 96 32, bitsOf h 128 32, [], []⟩

/-- The header breaks R335: a reserved bit, a count outside its range, or R. -/
def badMapHeader (h : Nat) : Bool :=
  let m := MergeMap.header h
  bitsOf h 160 352 != 0 || m.lcount == 0 || decide (m.nin < 2) || decide (8192 < m.nin) || m.nout == 0 ||
    decide (8192 < m.nout) || decide (m.nin < m.nout) || m.r != m.nin - m.nout

/-- How many input tokens each of `n` merged tokens stands for. -/
def countsOf (dest : List Nat) (n : Nat) : List Nat := (List.range n).map (fun o => (dest.filter (· == o)).length)

/-- The arrays break R335. A merged index that no DEST word names breaks it too, since every one of a map that is not malformed is
named (DEDUCED, log 80). -/
def MergeMap.badArrays (m : MergeMap) : Bool :=
  m.dest.any (fun d => decide (m.nout ≤ d)) || m.size != countsOf m.dest m.nout || m.size.contains 0

/-- The map's bytes (R334). -/
def MergeMap.bytes (m : MergeMap) : List Byte :=
  leBytes 64 (m.lfirst + m.lcount * 2 ^ 16 + m.gen * 2 ^ 32 + m.nin * 2 ^ 64 + m.nout * 2 ^ 96 + m.r * 2 ^ 128) ++
    m.dest.flatMap (leBytes 4) ++ m.size.flatMap (leBytes 4)

/-- A map from DEST. -/
def MergeMap.make (gen lfirst lcount nout : Nat) (dest : List Nat) (size : List Nat) : MergeMap :=
  ⟨gen, lfirst, lcount, dest.length, nout, dest.length - nout, dest, size⟩

/-- Read and check a map for an operation (R335); where a generation is expected it is compared first (R342, R343). -/
def State.readMap (s : State) (o : Nat) (op : Op) (die a : Nat) (gen : Option Nat) : Got (Tab Byte × MergeMap) :=
  (s.gather o op die [.dev a 64]).bind (fun t =>
    let h := leNat (tabBytes t true a 64)
    let m := MergeMap.header h
    if gen.any (fun g => g != m.gen) then .fault Cause.staleMergeMap a
    else if badMapHeader h then .fault Cause.engineFault a
    else (s.gather o { op with buf := t } die [.dev (a + 64) (4 * (m.nin + m.nout))]).bind (fun t =>
      let word (k : Nat) : Nat := leNat (tabBytes t true (a + 64 + 4 * k) 4)
      let m := { m with dest := (List.range m.nin).map word, size := (List.range m.nout).map (fun o => word (m.nin + o)) }
      if m.badArrays then .fault Cause.engineFault a else .ok (t, m)))

/-! ## Parameters (R339) -/

/-- Word `k` of an operation's parameter block. -/
def Op.par (op : Op) (k : Nat) : Nat := (op.blk.getD k 0).toNat

/-- A 64-bit parameter at word `k`. -/
def Op.par64 (op : Op) (k : Nat) : Nat := op.par k + 2 ^ 32 * op.par (k + 1)

/-- What a G instruction's checks find (R339): counts, then protection, then alignment. -/
def tokenCheck (countsOk : Bool) (addrs : List (Nat × Nat)) : Option (Nat × Option Nat) :=
  if !countsOk then some (Cause.arithmeticCheck, none)
  else match addrs.find? (fun a => decide (2 ^ 56 ≤ a.1)) with
    | some a => some (Cause.protection, some a.1)
    | none => (addrs.find? (fun a => a.1 % a.2 != 0)).map (fun a => (Cause.misaligned, some a.1))

/-- A PITCH within its limits for rows of `n` bytes. -/
def pitchOk (p n : Nat) : Bool := p % 16 == 0 && decide (n ≤ p) && decide (p ≤ 2 ^ 24)

/-- A G operation issues with its operands captured (R336): `nd` words of D. -/
def State.issueToken (s : State) (i : Instr) (f : Fields) (q : Cursor) (cr : Crew) (w : Wave) (nd nb scope : Nat) : State :=
  s.launchH { newOp s q cr w i (w.strand q.strand).mask with
    av := sVal w f.a.toNat 2, dv := sVal w f.d.toNat nd, bv := sVal w f.b.toNat 2
    blk := (List.range nb).map (fun k => w.s (f.b.toNat + k))
    entry := s.freeEntry (fun op => isToken op.instr && (match s.crew? op.crew with | some c => podOf c.core == podOf cr.core | none => false)) } scope

/-- TKMATCH (R339, R340). -/
def execTkmatch (f : Fields) (s : State) : Outcome State Fault Refusal :=
  s.waved (.tkmatch f) [] (fun q cr w =>
    let p (k : Nat) : Nat := (w.s (f.b.toNat + k)).toNat
    let dim := p 2 % 512
    let ok := decide (2 ≤ p 0) && decide (p 0 ≤ 8192) && decide (p 1 ≤ p 0 / 2) && decide (1 ≤ dim) && decide (dim ≤ 256) &&
      p 2 / 512 % 128 == 0 && decide (p 2 < 2 ^ 17) && pitchOk (p 3) (2 * dim) && decide (p 5 < 2 ^ 16)
    match tokenCheck ok [(sVal w f.d.toNat 2, 64), (sVal w f.a.toNat 2, 16)] with
    | some e => s.checkTrap e
    | none => s.issueToken (.tkmatch f) f q cr w 2 8 5)

/-- TKMERGE (R339, R341). -/
def execTkmerge (f : Fields) (s : State) : Outcome State Fault Refusal :=
  s.waved (.tkmerge f) [] (fun q cr w =>
    let p (k : Nat) : Nat := (w.s (f.b.toNat + k)).toNat
    let m := sVal w f.b.toNat 2
    let pm := sVal w (f.b.toNat + 4) 2
    let qm := sVal w (f.b.toNat + 6) 2
    let ok := decide (1 ≤ p 2) && decide (p 2 ≤ 4096) && pitchOk (p 3) (4 * p 2) && ((pm == 0) == (qm == 0))
    match tokenCheck ok [(sVal w f.d.toNat 2, 16), (sVal w f.a.toNat 2, 16), (m, 64), (pm, 64), (qm, 64)] with
    | some e => s.checkTrap e
    | none => s.issueToken (.tkmerge f) f q cr w 2 8 5)

/-- TKUNMERGE (R339, R342). -/
def execTkunmerge (f : Fields) (s : State) : Outcome State Fault Refusal :=
  s.waved (.tkunmerge f) [] (fun q cr w =>
    let p (k : Nat) : Nat := (w.s (f.b.toNat + k)).toNat
    let ok := decide (1 ≤ p 2) && decide (p 2 ≤ 4096) && pitchOk (p 3) (4 * p 2) && pitchOk (p 4) (4 * p 2)
    match tokenCheck ok [(sVal w f.d.toNat 2, 16), (sVal w f.a.toNat 2, 16), (sVal w f.b.toNat 2, 64)] with
    | some e => s.checkTrap e
    | none => s.issueToken (.tkunmerge f) f q cr w 2 8 5)

/-- TKSIZE (R339, R343): the 512-byte range must lie in the crew's scratchpad. -/
def execTksize (f : Fields) (s : State) : Outcome State Fault Refusal :=
  s.waved (.tksize f) [] (fun q cr w =>
    let d := sVal w f.d.toNat 1
    if cr.spadBytes < d + 512 then s.trapAt Cause.protection d
    else match tokenCheck true [(sVal w f.a.toNat 2, 64), (d, 4)] with
    | some e => s.checkTrap e
    | none => s.issueToken (.tksize f) f q cr w 1 4 1)

/-! ## Performing (R336, R338) -/

/-- The fields of a G instruction's operation that say what it reads beyond its maps and what it writes: source ranges and
destination ranges in device memory. -/
def Op.tokenRanges (op : Op) (m p : MergeMap) : List (Nat × Nat) × List (Nat × Nat) :=
  let rows (base pitch n bytes : Nat) : List (Nat × Nat) := (List.range n).map (fun k => (base + k * pitch, bytes))
  match op.instr with
  | .tkmatch _ =>
    let n := op.par 0
    (rows op.av (op.par 3) n (2 * (op.par 2 % 512)), [(op.dv, 64 + 4 * n + 4 * (n - op.par 1))])
  | .tkmerge _ =>
    (rows op.av (op.par 3) m.nin (4 * op.par 2),
      rows op.dv (op.par 3) m.nout (4 * op.par 2) ++ (if op.par64 4 = 0 then [] else [(op.par64 6, 64 + 4 * p.nin + 4 * m.nout)]))
  | .tkunmerge _ => (rows op.av (op.par 3) m.nout (4 * op.par 2), rows op.dv (op.par 4) m.nin (4 * op.par 2))
  | _ => ([], [])

/-- The map that an operation without one reads. -/
def MergeMap.none : MergeMap := ⟨0, 0, 0, 0, 0, 0, [], []⟩

/-- Read the maps of an operation: M (or the one map) and TKMERGE's P, with R341's comparison. -/
def State.tokenMaps (s : State) (o : Nat) (op : Op) (die : Nat) : Got (Tab Byte × MergeMap × MergeMap) :=
  match op.instr with
  | .tkmerge _ =>
    (s.readMap o op die (op.par64 0) .none).bind (fun x =>
      if op.par64 4 = 0 then .ok (x.1, x.2, MergeMap.none)
      else (s.readMap o { op with buf := x.1 } die (op.par64 4) .none).bind (fun y =>
        if y.2.nout ≠ x.2.nin then .fault Cause.engineFault (op.par64 4) else .ok (y.1, x.2, y.2)))
  | .tkunmerge _ => (s.readMap o op die (op.par64 0) (some (op.par 5))).bind (fun x => .ok (x.1, x.2, MergeMap.none))
  | .tksize _ => (s.readMap o op die op.av (some (op.par 1))).bind (fun x => .ok (x.1, x.2, MergeMap.none))
  | _ => .ok (op.buf, MergeMap.none, MergeMap.none)

/-- The physical runs of device ranges an operation writes, or the first failing address. -/
def State.destPieces (s : State) (op : Op) (die : Nat) (l : List (Nat × Nat)) : Except (Nat × Nat) (List (Nat × Nat)) :=
  l.foldl (fun acc r =>
    match acc with
    | .error e => .error e
    | .ok ps =>
      if 2 ^ 56 < r.1 + r.2 then .error (Cause.protection, max r.1 (2 ^ 56))
      else match s.pieces die op.ctx Need.write r.1 r.2 with
      | .ok q => .ok (ps ++ q)
      | .error e => .error e) (.ok [])

/-- The lines of this package that physical pieces touch. -/
def pieceLines (l : List (Nat × Nat)) : List Nat :=
  distinct (l.flatMap (fun p => match homeOf p.1 with | .hbm => linesOf p.1 p.2 | _ => []))

/-- The place in a unit's order that an operation performed now takes (R336): one more than any of the unit's active
operations, which `mine` picks. -/
def State.servicePlace (s : State) (mine : Op → Bool) : Nat :=
  (s.ops.filter (fun e => e.2.st == .active && mine e.2)).foldl (fun n e => max n (e.2.phys + 1)) 1

/-- The operation is one of a pod's token-merging unit. -/
def State.onPod (s : State) (pod : Nat) (op : Op) : Bool :=
  isToken op.instr && (match s.crew? op.crew with | some c => podOf c.core == pod | none => false)

/-- A G operation performs (R336): after the wave's earlier ones, its maps are read and checked at home and its
destination lines owned, in one step; a fault stops the task (R338). -/
def State.performToken (s : State) (o : Nat) (op : Op) : State :=
  match s.crew? op.crew with
  | none => s
  | some cr =>
    if !(op.st == .queued) || !s.engineClear o op ||
        s.ops.any (fun e => decide (e.1 < o) && e.2.crew == op.crew && e.2.wave == op.wave && isToken e.2.instr && e.2.st == .queued) then s else
    let die := dieOf cr.core
    let now := { op with waits := s.ownersNow }
    match s.tokenMaps o now die with
    | .wait => s
    | .ask p pa va n => s.askRemote o op p pa va n
    | .fault c a => (s.dropFaulted die op.ctx c a).trapOp op c a
    | .ok (t, m, p) =>
      match s.destPieces op die (op.tokenRanges m p).2 with
      | .error e => (s.dropFaulted die op.ctx e.1 e.2).trapOp op e.1 e.2
      | .ok ps =>
        let place := s.servicePlace (s.onPod (podOf cr.core))
        (s.modOp o (fun _ => { now with st := .active, buf := t, phys := place })).own o cr.core (pieceLines ps)

/-! ## TKMATCH (R340) -/

/-- Round the square root of a positive rational `n / d * 2 ^ e`, to nearest even. -/
def roundRatioSqrt (n d : Nat) (e : Int) : Nat :=
  let odd := decide (e % 2 ≠ 0)
  let n1 := if odd then 2 * n else n
  let e1 := if odd then e - 1 else e
  let k := 60 + bitLen d
  let x := n1 * 2 ^ (2 * k)
  let q := isqrt (x / d)
  fp32.roundMag 0 .ieee false q (e1 / 2 - k) (q * q * d != x)

/-- The similarity of two keys of numbers (R340), as an FP32 code. -/
def similarity (a b : List FNum) : Nat :=
  let value (x : FNum) : Option Dy := match x with | .fin _ v => some v | _ => none
  if !(a ++ b).all (fun x => (value x).isSome) then 0xFF800000 else
  let va := a.filterMap value
  let vb := b.filterMap value
  let dot (x y : List Dy) : Dy := (x.zip y).foldl (fun (acc : Dy) p => acc.add (p.1.mul p.2)) ⟨0, 0⟩
  let d := dot va vb
  let na := dot va va
  let nb := dot vb vb
  if na.m = 0 ∨ nb.m = 0 then 0
  else if d.m = 0 then 0
  else
    let r := roundRatioSqrt (d.m.natAbs * d.m.natAbs) (na.m.natAbs * nb.m.natAbs) (2 * d.e - na.e - nb.e)
    if d.m < 0 then 2 ^ 31 + r else r

/-- Order of similarity codes by value. -/
def simLt (x y : Nat) : Bool := (fp32.decode x).lt (fp32.decode y)

/-- The first of a list of greatest similarity. -/
def bestPartner (sim : Nat → Nat) : List Nat → Option Nat
  | [] => none
  | b :: bs => some (bs.foldl (fun best x => if simLt (sim best) (sim x) then x else best) b)

/-- The map TKMATCH computes for `n` keys (R340). -/
def matchMap (keys : Nat → List FNum) (n r gen layer : Nat) : MergeMap :=
  let evens := (List.range n).filter (fun t => t % 2 == 0)
  let odds := (List.range n).filter (fun t => t % 2 == 1)
  let edges : List (Nat × Nat × Nat) := evens.map (fun a =>
    let sim (b : Nat) : Nat := similarity (keys a) (keys b)
    let p := (bestPartner sim odds).getD 1
    (a, p, sim p))
  let before (x y : Nat × Nat × Nat) : Bool := simLt y.2.2 x.2.2 || (!simLt x.2.2 y.2.2 && decide (x.1 < y.1))
  let merged := edges.filter (fun x => decide ((edges.filter (fun y => before y x)).length < r))
  let isMerged (t : Nat) : Bool := merged.any (fun x => x.1 == t)
  let kept := (List.range n).filter (fun t => !isMerged t)
  let pos (t : Nat) : Nat := (kept.findIdx? (· == t)).getD 0
  let dest := (List.range n).map (fun t => match merged.find? (fun x => x.1 == t) with | some x => pos x.2.1 | none => pos t)
  MergeMap.make gen layer 1 (n - r) dest (countsOf dest (n - r))

/-! ## TKMERGE, TKUNMERGE (R341, R342) -/

/-- The weighted mean of codes with weights (R341). -/
def weightedMean (l : List (Nat × Nat)) : Nat :=
  match fp32.firstNan (l.map (·.2)) with
  | some c => c
  | none =>
    let ns := l.map (fun e => (e.1, fp32.decode e.2))
    let pinf := ns.any (fun e => e.2 == .inf false)
    let ninf := ns.any (fun e => e.2 == .inf true)
    if pinf && ninf then qnan32 0x02 6
    else if pinf then 0x7F800000
    else if ninf then 0xFF800000
    else match sumNums 0 (ns.map (fun e => match e.2 with | .fin neg v => .fin neg (v.mul (.ofInt e.1)) | x => x)) with
      | .ok (.fin neg v) => fp32.roundQuot 0 .ieee neg v.m.natAbs (l.map (·.1)).sum v.e
      | _ => 0

/-- TKMERGE's output rows: row by row, code of element `k` of merged token `o`. -/
def mergeRows (m : MergeMap) (weight : Nat → Nat) (x : Nat → Nat → Nat) (w : Nat) : List (List Nat) :=
  (List.range m.nout).map (fun o =>
    let ts := (List.range m.nin).filter (fun t => m.dest.getD t 0 == o)
    (List.range w).map (fun k => weightedMean (ts.map (fun t => (weight t, x t k)))))

/-- TKMERGE's composed map Q (R341). -/
def composeMap (p m : MergeMap) : MergeMap :=
  let dest := p.dest.map (fun d => m.dest.getD d 0)
  let size := (List.range m.nout).map (fun o =>
    (((List.range m.nin).filter (fun t => m.dest.getD t 0 == o)).map (fun t => p.size.getD t 0)).sum)
  MergeMap.make ((p.gen + 1) % 2 ^ 32) p.lfirst (min 65535 (p.lcount + m.lcount)) m.nout dest size

/-! ## TKSIZE (R343) -/

/-- ln of a natural number, with 256 fraction bits: ln 2 per doubling and 2 atanh of the rest. -/
def fxLnNat (n : Nat) : Int :=
  let k := bitLen n - 1
  let z : Int := ((n : Int) - pow2 k) * fxOne / ((n : Int) + pow2 k)
  let z2 := fxMul z z
  let terms := (List.range 90).foldl (fun (acc : Int × Int) i => (acc.1 + acc.2 / ((2 * i + 1 : Nat) : Int), fxMul acc.2 z2)) (0, z)
  (k : Int) * fxLn2 + 2 * terms.1

/-- The bias of a merged token of a size (R343). -/
def sizeBias (n : Nat) : Nat := if n ≤ 1 then 0 else fp32.roundMag 0 .ieee false (fxLnNat n).toNat (-256) true

/-! ## Completion (R337, R344) -/

/-- The device bytes an operation writes, from what it read. -/
def Op.tokenOut (op : Op) (t : Tab Byte) (m p : MergeMap) : Tab Byte :=
  let word (a : Nat) : Nat := leNat (tabBytes t true a 4)
  match op.instr with
  | .tkmatch _ =>
    let f := if op.par 2 / 2 ^ 16 % 2 = 1 then bf16 else fp16
    let keys (k : Nat) : List FNum := (List.range (op.par 2 % 512)).map (fun i =>
      f.decode (leNat (tabBytes t true (op.av + k * op.par 3 + 2 * i) 2)))
    putBytes [] op.dv (matchMap keys (op.par 0) (op.par 1) (op.par 4) (op.par 5)).bytes
  | .tkmerge _ =>
    let weight (k : Nat) : Nat := if op.par64 4 = 0 then 1 else p.size.getD k 0
    let rows := mergeRows m weight (fun k i => word (op.av + k * op.par 3 + 4 * i)) (op.par 2)
    let w1 := (List.range rows.length).foldl (fun (w : Tab Byte) r =>
      putBytes w (op.dv + r * op.par 3) ((rows.getD r []).flatMap (leBytes 4))) []
    if op.par64 4 = 0 then w1 else putBytes w1 (op.par64 6) (composeMap p m).bytes
  | .tkunmerge _ =>
    (List.range m.nin).foldl (fun (w : Tab Byte) k =>
      putBytes w (op.dv + k * op.par 4) (tabBytes t true (op.av + m.dest.getD k 0 * op.par 3) (4 * op.par 2))) []
  | _ => []

/-- TKSIZE's array. -/
def Op.biasArray (op : Op) (m : MergeMap) : List Byte :=
  (List.range 128).flatMap (fun j =>
    let i := op.par 0 + j
    leBytes 4 (if i < m.nout then sizeBias (m.size.getD i 1) else 0xFF800000))

/-- The scope of an operation's completion (R99, R337): gang where a piece lies in another package. -/
def piecesScope (l : List (Nat × Nat)) : Nat := l.foldl (fun n p => max n (destScope p.1)) 5

/-- The outputs of an operation are written: it completes at once, or when other packages have acknowledged them (R337). -/
def State.outputsDone (s : State) (o : Nat) (op : Op) (scope : Nat) : State :=
  if s.unacked o then (s.releaseLines o op.lines).modOp o (fun op => { op with lines := [], off := 1, count := scope })
  else ((s.noteAcquire op scope).noteFuture op o scope).endOp o 3

/-- G_OPERATION_COMPLETION (R336, R337): the unit serves operations in the order performed; the outputs are committed in
one step, and what of them lies in another package is waited for. -/
def execGOperationCompletion (o : Nat) (s : State) : Outcome State Fault Refusal :=
  match s.op? o with
  | none => hold s
  | some op =>
    match s.crew? op.crew with
    | none => hold s
    | some cr =>
      if !isToken op.instr || !(op.st == .active) ||
          s.ops.any (fun e => s.onPod (podOf cr.core) e.2 && e.2.st == .active && decide (e.2.phys < op.phys)) then hold s
      else if op.off = 1 then (if s.unacked o then hold s else .next (s.outputsDone o op op.count))
      else
        let die := dieOf cr.core
        match (s.tokenMaps o op die).bind (fun x =>
          (s.gather o { op with buf := x.1 } die ((op.tokenRanges x.2.1 x.2.2).1.map (fun r => Src.dev r.1 r.2))).bind (fun t => .ok (t, x.2))) with
        | .wait => hold s
        | .ask p pa va n => .next (s.askRemote o op p pa va n)
        | .fault c a => .next ((s.dropFaulted die op.ctx c a).trapOp op c a)
        | .ok (t, m, p) =>
          match op.instr with
          | .tksize _ => .next (((s.spadWrite op.crew op.dv (op.biasArray m)).noteAcquire op 1).endOp o 3)
          | _ =>
            let out := op.tokenOut t m p
            if s.runsHeld die op.ctx out then hold s else
            match s.writeRuns op die out, s.destPieces op die (op.tokenRanges m p).2 with
            | .error e, _ => .next ((s.dropFaulted die op.ctx e.1 e.2).trapOp op e.1 e.2)
            | _, .error e => .next ((s.dropFaulted die op.ctx e.1 e.2).trapOp op e.1 e.2)
            | .ok l, .ok ps =>
              let need := runLines l
              if !(need.all (fun x => op.lines.contains x)) then .next (s.ownMore o cr.core op need)
              else if !(need.all (fun x => s.turnOf o x)) then hold s
              else
                let s1 := ((s.dropSources die op.ctx ((op.tokenRanges m p).1.map (fun r => Src.dev r.1 r.2))).dropRuns die op.ctx out).engineWrite
                  o op 6 (outPages out l) l
                .next (match s1.op? o with | none => s1 | some op => s1.outputsDone o op (piecesScope ps))

/-- The unit reads a source row early (R91). -/
def State.tokenSourceRead (s : State) (o : Nat) (op : Op) (unit : Nat) : State :=
  match s.crew? op.crew with
  | none => s
  | some cr =>
    let die := dieOf cr.core
    if !(op.st == .active) then s else
    match s.tokenMaps o op die with
    | .ok (t, m, p) =>
      (match (op.tokenRanges m p).1[unit]? with
      | none => s
      | some r =>
        match s.gather o { op with buf := t } die [.dev r.1 r.2] with
        | .ok t => s.modOp o (fun op => { op with buf := t })
        | .ask p pa va n => s.askRemote o op p pa va n
        | .wait => s
        | .fault c a => (s.dropFaulted die op.ctx c a).trapOp op c a)
    | _ => s

end Sys2Proof.Machine
end

