-- ==== Sys2Proof/Machine/Beam.lean ====
section
/-!
DEFINITION. The beam engine (R345 to R353): BEAM, PROOT and the pool pages that PROOT releases; retired epochs (R100, R101).
-/

namespace Sys2Proof.Machine

open Sys2Proof Host

/-! ## Epochs (R100, R101) -/

/-- Operations that are no item in flight (R100): fences and the waits and drops of class S. -/
def isFenceLike : Instr → Bool
  | .fence _ | .fencew _ | .rcfence _ | .tlbinv _ | .quiesce _ | .icinv _ => true
  | _ => false

/-- The stamps of a context's items in flight: operations, write-queue entries, messages, queued reductions, walks. -/
def State.stamps (s : State) (x : Nat) : List Nat :=
  ((s.ops.filter (fun e => e.2.ctx == x && !isFenceLike e.2.instr)).map (fun e => e.2.epoch)) ++
  s.cores.flatMap (fun k => (k.2.wq.filter (fun e => e.ctx == x)).map (·.epoch)) ++
  (s.pend.filter (fun e => e.2.ctx == x)).map (fun e => e.2.epoch) ++
  (s.reds.filter (fun r => r.ctx == x)).map (·.epoch) ++
  (s.walks.filter (fun w => w.ctx == x && w.fault.isNone)).map (·.epoch) ++
  (s.ctx x).rings.flatMap (fun r => r.2.ended.map (fun e => e.2.2.2.2.2))

/-- The retired epoch is `e` or higher: no item of the context stamped `e` or lower is in flight (R100). -/
def State.retired (s : State) (x e : Nat) : Bool := (s.stamps x).all (fun t => decide (e < t))

/-- Entries of a context's quarantine queue (R359). -/
def State.quarantined (s : State) (x : Nat) : Nat :=
  (s.ctx x).quarantine.length + (s.poolQ.filter (fun e => e.2.2.1 == x)).length

/-- Frames a context's quarantine queue holds (R359). -/
def quarantineSize : Nat := 65536

/-- Waiting releases of pool pages enter the quarantine queue, with the current epoch, as far as it has room (R346, R359). -/
def State.settlePool (s : State) (x : Nat) : State :=
  let mine := (s.poolWait.filter (fun e => e.2.2 == x)).take (quarantineSize - s.quarantined x)
  { s with
    poolQ := s.poolQ ++ mine.map (fun e => (e.1, e.2.1, x, (s.ctx x).epoch))
    poolWait := s.poolWait.filter (fun e => e.2.2 != x) ++ (s.poolWait.filter (fun e => e.2.2 == x)).drop mine.length }

/-- Waiting releases enter the quarantine queue, with the current epoch, as far as it has room (R359). -/
def State.settleQuarantine (s0 : State) (x : Nat) : State :=
  let s := s0.settlePool x
  let n := quarantineSize - s.quarantined x
  s.modCtx x (fun cx => { cx with
    quarantine := cx.quarantine ++ (cx.releases.take n).map (fun f => (f, cx.epoch)), releases := cx.releases.drop n })

/-! ## Issue (R349) -/

/-- The operation is one of a die's beam engine. -/
def State.onBeamDie (s : State) (die : Nat) (op : Op) : Bool :=
  isBeam op.instr && (match s.crew? op.crew with | some c => dieOf c.core == die | none => false)

/-- A beam-engine operation issues with its operands captured (R336, R349). -/
def State.issueBeam (s : State) (i : Instr) (f : Fields) (q : Cursor) (cr : Crew) (w : Wave) (nb : Nat) : State :=
  s.launchH { newOp s q cr w i (w.strand q.strand).mask with
    av := sVal w f.a.toNat 2, dv := sVal w f.d.toNat 2, bv := sVal w f.b.toNat 2
    blk := (List.range nb).map (fun k => w.s (f.b.toNat + k))
    entry := s.freeEntry (s.onBeamDie (dieOf cr.core)) } 5

/-- BEAM (R350). -/
def execBeam (f : Fields) (s : State) : Outcome State Fault Refusal :=
  s.waved (.beam f) [] (fun q cr w =>
    let p (k : Nat) : Nat := (w.s (f.b.toNat + k)).toNat
    let ok := decide (1 ≤ p 0) && decide (p 0 ≤ 64) && decide (1 ≤ p 1) && decide (p 1 ≤ 2 ^ 20) && decide (1 ≤ p 2) &&
      decide (p 2 ≤ 64) && decide (p 2 ≤ p 0 * p 1) && pitchOk (p 3) (4 * p 1)
    match tokenCheck ok [(sVal w f.d.toNat 2, 8), (sVal w f.a.toNat 2, 16)] with
    | some e => s.checkTrap e
    | none => s.issueBeam (.beam f) f q cr w 4)

/-- PROOT (R349, R351, R352): a versioned task becomes irrevocable first. The check list's address has no alignment. -/
def execProot (f : Fields) (s : State) : Outcome State Fault Refusal :=
  s.waved (.proot f) [] (fun q _ w =>
    let p (k : Nat) : Nat := (w.s (f.b.toNat + k)).toNat
    let d := sVal w f.d.toNat 2
    let a := sVal w f.a.toNat 2
    let cmt := f.m 0
    let ok := if cmt then decide (p 2 ≤ 65536)
      else decide (1 ≤ p 0) && decide (p 0 ≤ 64) && decide (1 ≤ p 1) && decide (p 1 ≤ 65536)
    let addrs := if cmt then [(d, 64), (a, 16), (sVal w f.b.toNat 2, 1)] else [(d, 16), (a, 16), (sVal w (f.b.toNat + 2) 2, 32)]
    match tokenCheck ok addrs with
    | some e => s.checkTrap e
    | none => s.irrevocably (fun s => match s.crew? q.crew with
      | some cr => s.issueBeam (.proot f) f q cr w 8
      | none => s))

/-! ## BEAM (R350) -/

/-- A candidate: beam, token, score code. -/
abbrev Candidate := Nat × Nat × Nat

/-- Candidate `x` ranks before `y`: the higher score, NaN below −∞, then the lower beam, then the lower token. -/
def ranksBefore (x y : Candidate) : Bool :=
  let nx := fp32.isNan x.2.2
  let ny := fp32.isNan y.2.2
  let gt (a b : Candidate) : Bool := (!fp32.isNan a.2.2 && fp32.isNan b.2.2) ||
    (!fp32.isNan a.2.2 && !fp32.isNan b.2.2 && (fp32.decode b.2.2).lt (fp32.decode a.2.2))
  gt x y || (!gt y x && nx == ny && (decide (x.1 < y.1) || (x.1 == y.1 && decide (x.2.1 < y.2.1))))

/-- Insert a candidate into a ranked list. -/
def rankInsert (x : Candidate) : List Candidate → List Candidate
  | [] => [x]
  | y :: ys => if ranksBefore x y then x :: y :: ys else y :: rankInsert x ys

/-- The best `k` of a list, ranked. -/
def bestK (k : Nat) (l : List Candidate) : List Candidate := l.foldl (fun acc x => (rankInsert x acc).take k) []

/-- One output entry. -/
def candidateBits (c : Candidate) : Nat := c.2.1 % 2 ^ 20 * 2 ^ 32 + c.1 % 2 ^ 6 * 2 ^ 52 + c.2.2 % 2 ^ 32

/-! ## PROOT (R346, R351, R352) -/

/-- What a PROOT does in its step: bytes written, pages released into quarantine, and every range it touches. -/
structure RootStep where
  /-- Bytes written, by virtual address. -/
  out : Tab Byte
  /-- Pages whose count reached 0, in order. -/
  freed : List Nat
  /-- Pool descriptor. -/
  pool : Nat
  /-- Ranges read or written. -/
  touched : List (Nat × Nat)

/-- Counts with increments for `up`, then releases of `down`; none where a count would fall below 0 (R346, R351). The
second component is the pages whose count reached 0. -/
def moveCounts (counts : Tab Nat) (up down : List Nat) : Option (Tab Nat × List Nat) :=
  let c1 := up.foldl (fun (t : Tab Nat) x => t.put x ((t.rd 0 x + 1) % 2 ^ 32)) counts
  down.foldl (fun (acc : Option (Tab Nat × List Nat)) x =>
    match acc with
    | none => none
    | some (t, freed) =>
      let n := t.rd 0 x
      if n = 0 then none else some (t.put x (n - 1), if n = 1 then freed ++ [x] else freed)) (some (c1, []))

/-- Read a pool descriptor and check it (R346): REFS. -/
def checkPool (bs : Nat) : Option Nat :=
  let fsize := bitsOf bs 128 32
  if bitsOf bs 192 64 ≠ 0 ∨ fsize < 16 ∨ 2 ^ 24 < fsize ∨ 2 ^ (bitLen fsize - 1) ≠ fsize then none else some (bitsOf bs 0 64)

/-- The words of an array. -/
def tabWords (t : Tab Byte) (a n : Nat) : List Nat := (List.range n).map (fun k => leNat (tabBytes t true (a + 4 * k) 4))

/-- Read pages' counts and move them; the written counts as bytes. -/
def State.countStep (s : State) (o : Nat) (op : Op) (die refs addr : Nat) (t : Tab Byte) (up down : List Nat) :
    Got (Tab Byte × List Nat × List (Nat × Nat)) :=
  let pages := distinct (up ++ down)
  let ranges := pages.map (fun x => (refs + 4 * x, 4))
  (s.gather o { op with buf := t } die (ranges.map (fun r => Src.dev r.1 r.2))).bind (fun t =>
    let counts : Tab Nat := pages.foldl (fun (c : Tab Nat) x => c.put x (leNat (tabBytes t true (refs + 4 * x) 4))) []
    match moveCounts counts up down with
    | none => .fault Cause.engineFault addr
    | some r => .ok (r.1.foldl (fun (w : Tab Byte) e => putBytes w (refs + 4 * e.1) (leBytes 4 e.2)) [], r.2, ranges))

/-- PROOT.perm's step (R351). -/
def State.permStep (s : State) (o : Nat) (op : Op) (die : Nat) : Got RootStep :=
  let n := op.par 0
  let pool := op.par64 2
  let heads := [(op.dv, 16 * n), (op.av, 4 * n), (pool, 32)]
  (s.gather o op die (heads.map (fun r => Src.dev r.1 r.2))).bind (fun t =>
    match checkPool (leNat (tabBytes t true pool 32)) with
    | none => .fault Cause.engineFault pool
    | some refs =>
      let perm := tabWords t op.av n
      let root (i : Nat) : Nat := leNat (tabBytes t true (op.dv + 16 * i) 16)
      let list (i : Nat) : Nat := bitsOf (root i) 0 64
      let npage (i : Nat) : Nat := bitsOf (root i) 96 32
      let idx := List.range n
      if perm.any (fun k => decide (n ≤ k)) then .fault Cause.engineFault op.av
      else if idx.any (fun i => decide (op.par 1 < npage i)) then .fault Cause.engineFault op.dv
      else
        let lists := idx.map (fun i => (list i, 4 * npage i))
        (s.gather o { op with buf := t } die (lists.map (fun r => Src.dev r.1 r.2))).bind (fun t =>
          let pages (i : Nat) : List Nat := tabWords t (list i) (npage i)
          let new := perm.flatMap pages
          let old := idx.flatMap pages
          (s.countStep o op die refs refs t new old).bind (fun c =>
            let out := idx.foldl (fun (w : Tab Byte) i =>
              let k := perm.getD i 0
              putBytes (putBytes w (list i) ((pages k).flatMap (leBytes 4))) (op.dv + 16 * i + 8) (leBytes 8 (bitsOf (root k) 64 64))) []
            .ok ⟨c.1.foldl (fun (w : Tab Byte) e => w.put e.1 e.2) out, c.2.1, pool,
              heads ++ lists ++ c.2.2 ++ idx.map (fun i => (list i, 4 * npage (perm.getD i 0)))⟩)))

/-- A sequence record breaks R345. -/
def badSequence (r : Nat) : Bool := bitsOf r 8 56 != 0 || bitsOf r 4 3 != 0 || bitsOf r 0 4 == 0 || decide (5 < bitsOf r 0 4)

/-- PROOT.cmt's step (R352). -/
def State.commitStep (s : State) (o : Nat) (op : Op) (die : Nat) : Got RootStep :=
  let d := op.dv
  (s.gather o op die [.dev d 64]).bind (fun t =>
    let r := leNat (tabBytes t true d 64)
    if badSequence r || bitsOf r 0 4 != 3 then .fault Cause.engineFault d
    else
      let pool := bitsOf r 64 64
      let checks := (op.par64 0, 4 * op.par 2)
      (s.gather o { op with buf := t } die [.dev pool 32, .dev checks.1 checks.2]).bind (fun t =>
        match checkPool (leNat (tabBytes t true pool 32)) with
        | none => .fault Cause.engineFault pool
        | some refs =>
          let held := tabWords t checks.1 (op.par 2)
          if bitOf r 7 then
            (s.countStep o op die refs d t [] held).bind (fun c =>
              let donep := bitsOf r 448 64
              let done := 2 + 2 ^ 32 * bitsOf r 384 32 + 2 ^ 64 * s.tabor.toNat
              .ok ⟨putBytes (putBytes c.1 d [0x85]) donep (leBytes 16 done), c.2.1, pool,
                [(d, 64), (pool, 32), checks, (donep, 16)] ++ c.2.2⟩)
          else
            (s.gather o { op with buf := t } die [.dev op.av 16]).bind (fun t =>
              let cand := leNat (tabBytes t true op.av 16)
              let root := bitsOf r 320 128
              let new := (bitsOf cand 0 64, 4 * bitsOf cand 96 32)
              let old := (bitsOf root 0 64, 4 * bitsOf root 96 32)
              (s.gather o { op with buf := t } die [.dev new.1 new.2, .dev old.1 old.2]).bind (fun t =>
                let up := tabWords t new.1 (bitsOf cand 96 32)
                let down := tabWords t old.1 (bitsOf root 96 32) ++ held
                (s.countStep o op die refs d t up down).bind (fun c =>
                  let words := leBytes 4 (op.par 3) ++ leBytes 4 (op.par 4) ++ leBytes 4 ((op.par 4 + 1) % 2 ^ 32) ++ leBytes 16 cand
                  .ok ⟨putBytes (putBytes c.1 d [0x02]) (d + 28) words, c.2.1, pool,
                    [(d, 64), (pool, 32), checks, (op.av, 16), new, old] ++ c.2.2⟩)))))

/-- The step of a PROOT. -/
def State.rootStep (s : State) (o : Nat) (op : Op) (die : Nat) : Got RootStep :=
  match op.instr with
  | .proot f => if f.m 0 then s.commitStep o op die else s.permStep o op die
  | _ => .wait

/-! ## Performing and completion -/

/-- The lines of ranges as far as they are mapped. -/
def State.mappedLines (s : State) (op : Op) (die : Nat) (l : List (Nat × Nat)) : List Nat :=
  distinct (l.flatMap (fun r => match s.pieces die op.ctx Need.read r.1 r.2 with | .ok ps => pieceLines ps | .error _ => []))

/-- BEAM and PROOT perform (R336, R349): BEAM owns its output's lines; PROOT every line its step would touch now, and
the others as it completes. -/
def State.performBeam (s : State) (o : Nat) (op : Op) : State :=
  match s.crew? op.crew with
  | none => s
  | some cr =>
    if !(op.st == .queued) || !s.engineClear o op then s else
    let die := dieOf cr.core
    match op.instr with
    | .beam _ =>
      (match s.destPieces op die [(op.dv, 8 * op.par 2)] with
      | .error e => (s.dropFaulted die op.ctx e.1 e.2).trapOp op e.1 e.2
      | .ok ps => (s.modOp o (fun op => { op with st := .active, waits := s.ownersNow })).own o cr.core (pieceLines ps))
    | .proot _ =>
      let lines := match s.rootStep o { op with waits := [] } die with | .ok r => s.mappedLines op die r.touched | _ => []
      (s.modOp o (fun op => { op with st := .active, waits := s.ownersNow })).own o cr.core lines
    | _ => s

/-- BEAM completes (R350): its output is committed in one step. -/
def State.completeBeam (s : State) (o : Nat) (op : Op) : State :=
  match s.crew? op.crew with
  | none => s
  | some cr =>
    if !(op.st == .active) then s
    else if op.off = 1 then (if s.unacked o then s else s.outputsDone o op op.count) else
    let die := dieOf cr.core
    let row (u : Nat) : Nat := op.av + u * op.par 3
    match s.gather o op die ((List.range (op.par 0)).map (fun u => Src.dev (row u) (4 * op.par 1))) with
    | .wait => s
    | .ask p pa va n => s.askRemote o op p pa va n
    | .fault c a => (s.dropFaulted die op.ctx c a).trapOp op c a
    | .ok t =>
      let cands : List Candidate := (List.range (op.par 0)).flatMap (fun u =>
        (List.range (op.par 1)).map (fun k => (u, k, leNat (tabBytes t true (row u + 4 * k) 4))))
      let out := (bestK (op.par 2) cands).flatMap (fun c => leBytes 8 (candidateBits c))
      if s.runsHeld die op.ctx (putBytes [] op.dv out) then s else
      match s.writeRuns op die (putBytes [] op.dv out), s.destPieces op die [(op.dv, 8 * op.par 2)] with
      | .error e, _ => (s.dropFaulted die op.ctx e.1 e.2).trapOp op e.1 e.2
      | _, .error e => (s.dropFaulted die op.ctx e.1 e.2).trapOp op e.1 e.2
      | .ok l, .ok ps =>
        let need := runLines l
        if !(need.all (fun x => op.lines.contains x)) then s.ownMore o cr.core op need
        else if !(need.all (fun x => s.turnOf o x)) then s
        else
          let s1 := ((s.dropPages die op.ctx Need.read op.av (op.par 0 * op.par 3)).dropRuns die op.ctx (putBytes [] op.dv out)).engineWrite o op 8
            (outPages (putBytes [] op.dv out) l) l
          (match s1.op? o with | none => s1 | some op => s1.outputsDone o op (piecesScope ps))

/-- The beam engine reads a row of scores early (R91). -/
def State.beamSourceRead (s : State) (o : Nat) (op : Op) (unit : Nat) : State :=
  match s.crew? op.crew, op.instr with
  | some cr, .beam _ =>
    if !(op.st == .active) || decide (op.par 0 ≤ unit) then s else
    (match s.gather o op (dieOf cr.core) [.dev (op.av + unit * op.par 3) (4 * op.par 1)] with
    | .ok t => s.modOp o (fun op => { op with buf := t })
    | .ask p pa va n => s.askRemote o op p pa va n
    | .wait => s
    | .fault c a => (s.dropFaulted (dieOf cr.core) op.ctx c a).trapOp op c a)
  | _, _ => s

/-- PROOT_COMPLETION (R349, R351, R352): one step over lines it all owns; what of it lies in another package is waited for (R99), and a
release waits while the context's quarantine queue is full (R359). -/
def execProotCompletion (o : Nat) (s : State) : Outcome State Fault Refusal :=
  match s.op? o with
  | none => hold s
  | some op =>
    match s.crew? op.crew with
    | none => hold s
    | some cr =>
      if !(op.st == .active) || !isBeam op.instr then hold s
      else if op.off = 1 then (if s.unacked o then hold s else .next (s.outputsDone o op op.count)) else
      let die := dieOf cr.core
      match s.rootStep o op die with
      | .wait => hold s
      | .ask p pa va n => .next (s.askRemote o op p pa va n)
      | .fault c a => .next ((s.dropFaulted die op.ctx c a).trapOp op c a)
      | .ok r =>
        let need := s.mappedLines op die r.touched
        if !(need.all (fun x => op.lines.contains x)) then .next (s.ownMore o cr.core op need)
        else if !(need.all (fun x => s.turnOf o x)) then hold s
        else if s.runsHeld die op.ctx r.out then hold s
        else
          match s.writeRuns op die r.out with
          | .error e => .next ((s.dropFaulted die op.ctx e.1 e.2).trapOp op e.1 e.2)
          | .ok l =>
            let s1 := l.foldl (fun (s : State) e => s.commitFor { op.origin o with vas := outPages r.out l } none none e.1 e.2)
              (s.dropRuns die op.ctx r.out)
            let s2 := { s1 with poolWait := s1.poolWait ++ r.freed.map (fun x => (r.pool, x, op.ctx)) }.settlePool op.ctx
            .next (match s2.op? o with | none => s2 | some op => s2.outputsDone o op (runsScope l))

/-- POOL_PAGE_FREE (R346, R101): a quarantined page whose entry epoch has retired is stored in its pool's free ring, and
FWIDX counts up; where the pool's words are not mapped, or an engine owns their lines, the page waits. -/
def execPoolPageFree (idx : Nat) (s : State) : Outcome State Fault Refusal :=
  match s.poolQ[idx]? with
  | none => hold s
  | some (pool, x, ctx, e) =>
    if !s.retired ctx e || s.walkHeld 0 ctx pool Need.read || s.walkHeld 0 ctx (pool + 20) Need.atomic then hold s else
    match s.translate 0 ctx pool Need.read, s.translate 0 ctx (pool + 20) Need.atomic with
    | .ok pa, .ok wa =>
      let d := leNat (s.bytesAt pa 20)
      let w := leNat (s.bytesAt wa 4)
      let slot := bitsOf d 64 64 + 4 * (w % bitsOf d 128 32)
      if 2 ^ 56 ≤ slot ∨ s.walkHeld 0 ctx slot Need.write then hold s else
      match s.translate 0 ctx slot Need.write with
      | .ok sa =>
        if !s.unowned pa 24 || !s.unowned sa 4 then hold s
        else
          let s1 := { s with poolQ := s.poolQ.eraseIdx idx }
          let now := (s.ctx ctx).epoch
          .next (((s1.ctxWrite ctx now sa (leBytes 4 x)).ctxWrite ctx now wa (leBytes 4 ((w + 1) % 2 ^ 32))).settleQuarantine ctx)
      | .error _ => hold s
    | _, _ => hold s

end Sys2Proof.Machine
end

