-- ==== Sys2Proof/Machine/System.lean ====
section
/-!
DEFINITION. Class S: TLBINV, QUIESCE and ICINV (R361 to R364), the engine queue window (R114 to R117), SNAP (R375), GPW
(R139).
-/

namespace Sys2Proof.Machine

open Sys2Proof Host

/-! ## TLBINV, QUIESCE, ICINV -/

/-- An address range of .va forms passes its checks (R361), or a trap's cause and ADDR. -/
def rangeCheck (va countOk : Bool) (a align : Nat) : Option (Nat × Option Nat) :=
  if !va then none else tokenCheck countOk [(a, align)]

/-- TLBINV (R361, R362): a versioned task becomes irrevocable first; the release half at package is captured as it
issues. -/
def execTlbinv (f : Fields) (s : State) : Outcome State Fault Refusal :=
  s.waved (.tlbinv f) [] (fun q _ w =>
    let n := (w.s f.b.toNat).toNat
    match rangeCheck (f.m 0) (decide (1 ≤ n) && decide (n ≤ 2 ^ 20)) (sVal w f.a.toNat 2) 4096 with
    | some e => s.checkTrap e
    | none => s.irrevocably (fun s => match s.crew? q.crew with
      | some cr => s.launch { newOp s q cr w (.tlbinv f) allLanes with
          av := sVal w f.a.toNat 2, bv := n, waits := s.releaseList q.crew q.wave allLanes 5 }
      | none => s))

/-- QUIESCE (R363): the epoch advances and s(d) takes the old one, in one step at issue. -/
def execQuiesce (f : Fields) (s : State) : Outcome State Fault Refusal :=
  s.waved (.quiesce f) [] (fun q _ w =>
    s.irrevocably (fun s => match s.crew? q.crew with
      | some cr =>
        let e := (s.ctx cr.ctx).epoch
        let s1 := s.launch { newOp s q cr w (.quiesce f) allLanes with av := e }
        (s1.modCtx cr.ctx (fun cx => { cx with epoch := cx.epoch + 1 })).writeRegs q.crew q.wave (wrGroup true f.d.toNat 0 2 e)
      | none => s))

/-- ICINV (R361, R364). -/
def execIcinv (f : Fields) (s : State) : Outcome State Fault Refusal :=
  s.waved (.icinv f) [] (fun q _ w =>
    let n := (w.s f.b.toNat).toNat
    match rangeCheck (f.m 0) (decide (8 ≤ n) && decide (n ≤ 2 ^ 30) && n % 8 == 0) (sVal w f.a.toNat 2) 8 with
    | some e => s.checkTrap e
    | none => s.irrevocably (fun s => match s.crew? q.crew with
      | some cr => s.launch { newOp s q cr w (.icinv f) allLanes with
          av := sVal w f.a.toNat 2, bv := n, waits := s.releaseList q.crew q.wave allLanes 5 }
      | none => s))

/-- One die drops the translations a TLBINV names, and its cores the context's shape records (R362); held back while a
walk of the context is in flight there. -/
def State.dropDie (s : State) (o : Nat) (op : Op) (va : Bool) (die : Nat) : State :=
  if s.walks.any (fun w => w.die == die && w.ctx == op.ctx && w.fault.isNone) then s else
  let hit (t : Tlb) : Bool := t.die == die && t.ctx == op.ctx &&
    (!va || (decide (t.va < op.av + 4096 * op.bv) && decide (op.av < t.va + t.size)))
  { s with
    tlb := s.tlb.filter (fun t => !hit t)
    cores := s.cores.mapV (fun c k => if dieOf c = die then { k with shapes := k.shapes.filter (fun e => e.1 != op.ctx) } else k) }.modOp o
      (fun op => { op with rows := die :: op.rows })

/-- One core drops the clauses an ICINV names (R364). -/
def State.dropCode (s : State) (o : Nat) (op : Op) (va : Bool) (core : Nat) : State :=
  let hit (e : Nat × Nat × List Dword) : Bool := e.1 == op.ctx &&
    (!va || (decide (e.2.1 < op.av + op.bv) && decide (op.av < e.2.1 + 8 * e.2.2.length)))
  (s.modCore core (fun k => { k with code := k.code.filter (fun e => !hit e) })).modOp o (fun op => { op with rows := core :: op.rows })

/-- The dies a TLBINV names. -/
def State.invDies (s : State) (op : Op) (f : Fields) : List Nat :=
  if f.scope = 5 then List.range 4 else match s.crew? op.crew with | some cr => [dieOf cr.core] | none => []

/-- A die or core of a TLBINV or ICINV acts, once the release half has come about. -/
def State.performInv (s : State) (o : Nat) (op : Op) (at_ : Nat) : State :=
  if !(op.waits.all (s.released op.lanes)) || op.rows.contains at_ then s else
  match op.instr with
  | .tlbinv f => if (s.invDies op f).contains at_ then s.dropDie o op (f.m 0) at_ else s
  | .icinv f => if at_ < Config.cores then s.dropCode o op (f.m 0) at_ else s
  | _ => s

/-- Completion of TLBINV, QUIESCE and ICINV: the dies or cores that have not acted act in this step. -/
def State.completeInv (s : State) (o : Nat) (op : Op) : State :=
  let all (l : List Nat) : State :=
    if !(op.waits.all (s.released op.lanes)) then s else
    let s1 := l.foldl (fun (s : State) d => match s.op? o with | some op => s.performInv o op d | none => s) s
    if (s1.op? o).any (fun op => l.all op.rows.contains) then s1.endOp o 3 else s1
  match op.instr with
  | .tlbinv f => all (s.invDies op f)
  | .icinv _ => all (List.range Config.cores)
  | .quiesce _ => if s.retired op.ctx op.av then s.endOp o 3 else s
  | _ => s

/-! ## The engine queue window (R114 to R117) -/

/-- What ENGQ selects. -/
structure EngSel where
  /-- ENG. -/
  eng : Nat
  /-- CORE. -/
  core : Nat
  /-- WAVE: the wave slot. -/
  slot : Nat
  /-- ENTRY. -/
  entry : Nat
  /-- ENGQ without its reserved bits. -/
  key : Nat

/-- Read ENGQ (R114). -/
def EngSel.ofWord (w : Word) : EngSel :=
  let n := w.toNat
  ⟨bitsOf n 29 3, bitsOf n 21 8, bitsOf n 15 6, bitsOf n 6 9, n / 64⟩

/-- The wave a selector names, where the context holds it and the engine has the entry: crew, wave index. -/
def State.engWave (s : State) (x : Nat) (e : EngSel) : Option (Nat × Crew × Nat) :=
  if 3 ≤ e.eng ∨ (e.eng ≠ 0 ∧ Config.unitOps ≤ e.entry) then none else
  ((s.crews.filter (fun c => c.2.ctx == x && c.2.core == e.core && decide (c.2.base ≤ e.slot) && decide (e.slot < c.2.base + c.2.nw) &&
    (match c.2.waves.find? (e.slot - c.2.base) with | some w => w.live | none => false))).head?).map (fun c => (c.1, c.2, e.slot - c.2.base))

/-- An instruction served by an engine of the window. -/
def engServes (eng : Nat) (i : Instr) : Bool :=
  match eng with
  | 0 => isCopy i
  | 1 => isToken i
  | 2 => isBeam i
  | _ => false

/-- The instances of an engine by core: one for each core, pod or die (R253, R336, R349). -/
def EngSel.unit (e : EngSel) (core : Nat) : Nat :=
  match e.eng with
  | 0 => core
  | 1 => podOf core
  | _ => dieOf core

/-- A core is one of those that share the selected engine. -/
def EngSel.near (e : EngSel) (core : Nat) : Bool := e.unit core == e.unit e.core

/-- The operation in an entry of the selected engine, whose entries all its waves share. -/
def State.engEntry (s : State) (e : EngSel) : Option (Nat × Op) :=
  (s.ops.filter (fun p => p.2.entry == e.entry && engServes e.eng p.2.instr &&
    (match s.crew? p.2.crew with | some cr => e.near cr.core | none => false))).head?

/-- The operation in a selected entry: one that another wave issued is not the named wave's (DEDUCED, log 85). -/
def State.engOp (s : State) (x : Nat) (e : EngSel) : Option (Nat × Op) :=
  match s.engWave x e, s.engEntry e with
  | some (c, _, w), some (o, op) => if op.crew = c ∧ op.wave = w then some (o, op) else none
  | _, _ => none

/-- The selected entry is empty: no operation holds it (R115). -/
def State.engEmpty (s : State) (e : EngSel) : Bool := (s.engEntry e).isNone

/-- The selected engine has room for one more operation beyond what started clauses will take (R253, R336, R349). -/
def State.engRoom (s : State) (e : EngSel) : Bool :=
  decide (s.countOps (engServes e.eng) e.near + s.reserved e.near (fun _ js => (js.filter (engServes e.eng)).length) <
    (if e.eng = 0 then Config.copies else Config.unitOps))

/-- STATE of an operation (R114). -/
def OpState.code : OpState → Nat
  | .queued => 1
  | .active => 2
  | .frozen => 3
  | .faulted => 4

/-- Bits 63:32 of word 3, less STATE (R114), of an operation in a wave slot: its handle is the one bound to it at issue or rebuild. -/
def Op.engStatus (op : Op) (slot : Nat) : Nat :=
  slot % 64 * 2 ^ 50 + op.strand % 4 * 2 ^ 48 + op.flag % 16 * 2 ^ 44 +
    (if op.phys2 = 0 then 0 else (op.phys2 - 1) % 16 * 2 ^ 40 + 2 ^ 39)

/-- Word `n` of an operation's entry (R114). -/
def Op.engWord (op : Op) (slot n : Nat) : Nat :=
  match n with
  | 0 => ((encode op.instr).map (fun x => x.2.toNat)).getD 0
  | 1 => op.av
  | 2 => op.par64 0
  | 3 => op.st.code * 2 ^ 60 + op.engStatus slot + (if isCopy op.instr then op.off / 256 * 256 % 2 ^ 32 else 0)
  | 4 => op.dv
  | 5 => op.cv
  | 6 => op.par64 2
  | 7 => op.par64 4
  | 8 => op.par64 6
  | _ => 0

/-- The key of a word written to an entry in use. -/
def engOpKey (o n : Nat) : Nat := 2 ^ 40 * (o + 1) + n

/-- Word `n` of the selected entry: what ENGWR wrote where it wrote it, else what the operation holds. An entry in use by another wave
reads as zeros. -/
def State.engWord (s : State) (x : Nat) (e : EngSel) (n : Nat) : Nat :=
  match s.engWave x e with
  | none => 0
  | some _ =>
    let cx := s.ctx x
    match s.engOp x e with
    | some (o, op) =>
      (match (if n = 3 then none else cx.engWords.find? (engOpKey o n)) with
      | some d => d.toNat
      | none => op.engWord e.slot n)
    | none => if s.engEmpty e ∧ n ≤ 8 ∧ (n = 3 → e.eng = 0) then (cx.engWords.rd 0 (16 * e.key + n)).toNat else 0

/-- ENGRD (R116). -/
def execEngrd (f : Fields) (s : State) : Outcome State Fault Refusal :=
  s.waved (.engrd f) [] (fun q cr _ =>
    if !s.isHandler q cr then s.trapHdr Cause.protection
    else s.writeRegs q.crew q.wave (wrGroup true f.d.toNat 0 2 (s.engWord cr.ctx (EngSel.ofWord (s.ctx cr.ctx).engq) (f.mb 0 4))))

/-- Resume (R115): a copy goes on at its offset, one that was never performed is performed; an abandoned token-merging or
beam operation starts again. A faulted future is pending again (R246). -/
def State.engResume (s : State) (o : Nat) (op : Op) : State :=
  if isCopy op.instr then
    match op.st with
    | .faulted => (s.future o 1).modOp o (fun op => if op.len = 0 then { op with st := .queued, off := 0 } else { op with st := .active })
    | .frozen => s.modOp o (fun op => { op with st := if op.len = 0 then .queued else .active })
    | _ => s
  else match op.st with
    | .frozen => s.modOp o (fun op => { op with st := .queued })
    | _ => s

/-- Cancel (R115): a queued, frozen or faulted copy; a token-merging operation or a BEAM, which R336 names beside HCAN, in any state but
that of one whose outputs are committed (DEDUCED, log 97); a PROOT that is not performed (R349). -/
def State.engCancel (s : State) (o : Nat) (op : Op) : State :=
  match op.instr with
  | .cpy _ | .cpyt _ | .cpyg _ | .proot _ =>
    (match op.st with
    | .active => s
    | _ => if isCopy op.instr then s.cancelCopy o op else s.endOp o 4)
  | _ => if op.committed then s else s.endOp o 4

/-- Registers of an instruction's B group (R114). -/
def groupLen : Instr → Nat
  | .cpy _ => 1
  | .cpyt _ => 5
  | .cpyg _ => 2
  | .tksize _ => 4
  | .beam _ => 4
  | _ => 8

/-- The class of an engine's instructions. -/
def engClass (eng : Nat) : Nat := match eng with | 0 => 3 | 1 => 6 | _ => 8

/-- The instruction word 0 of an empty entry names, where the entry's engine serves it. -/
def State.rebuildInstr (s : State) (x : Nat) (e : EngSel) : Option Instr :=
  match decodeWord (engClass e.eng) ((s.ctx x).engWords.rd 0 (16 * e.key)) with
  | .ok i => if engServes e.eng i then some i else none
  | .error _ => none

/-- Rebuild (R115): a frozen copy or abandoned operation in an empty entry, from the words written there and the word `v`
written to word 3; `hdr` is the clause that writes. An engine all of whose entries are in use or kept for started clauses has none that
is empty (DEDUCED, log 85). -/
def State.engRebuild (s : State) (x : Nat) (e : EngSel) (v hdr : Nat) : State :=
  match s.engWave x e, s.rebuildInstr x e with
  | some (c, cr, wi), some i =>
    match cr.waves.find? wi with
    | none => s
    | some w =>
      let flag := bitsOf v 44 4
      if 11 < flag ∨ 63 ≤ w.flag flag ∨ !s.engEmpty e ∨ !s.engRoom e then s else
      let words := (s.ctx x).engWords
      let word (n : Nat) : Nat := (words.rd 0 (16 * e.key + n)).toNat
      let strand := bitsOf v 48 2
      let q : Cursor := ⟨c, wi, strand, false⟩
      let blk := ([word 2, word 6, word 7, word 8].flatMap (fun d => split64 d)).take (groupLen i)
      let op : Op := { newOp s q cr w i (w.strand strand).mask with
        hdr := hdr, flag := flag, st := .frozen, av := word 1, bv := word 2, cv := word 5, dv := word 4, blk := blk
        off := if isCopy i then word 3 % 2 ^ 32 else 0, entry := e.entry
        phys2 := if bitOf v 39 then bitsOf v 40 4 + 1 else 0 }
      let o := s.next
      let s1 := s.launch op
      let s2 := if bitOf v 39 then s1.bindHandle c wi (bitsOf v 40 4) o (if isCopy i then (if op.dir = 0 then 1 else 5) else 5) else s1
      s2.modCtx x (fun cx => { cx with engWords := cx.engWords.delRange (16 * e.key) 16 })
  | _, _ => s

/-- A CMD on the selected entry (R115); one that does not apply is ignored. -/
def State.engCommand (s : State) (x : Nat) (e : EngSel) (v hdr : Nat) : State :=
  match bitsOf v 56 4, s.engOp x e with
  | 1, some (o, op) => s.engResume o op
  | 2, some (o, op) => s.engCancel o op
  | 3, none => s.engRebuild x e v hdr
  | _, _ => s

/-- OFFSET takes effect while the entry is frozen, faulted or empty, for copies only (R114). -/
def State.engOffset (s : State) (x : Nat) (e : EngSel) (v : Nat) : State :=
  let off := bitsOf v 8 24 * 256
  match s.engOp x e with
  | some (o, op) =>
    (match op.st with
    | .frozen | .faulted => if isCopy op.instr then s.modOp o (fun op => { op with off := off }) else s
    | _ => s)
  | none =>
    if s.engEmpty e && e.eng == 0 then s.modCtx x (fun cx => { cx with engWords := cx.engWords.put (16 * e.key + 3) (BitVec.ofNat 64 off) })
    else s

/-- ENGWR's effect on the selected entry (R117). -/
def State.engWrite (s : State) (x : Nat) (e : EngSel) (n v hdr : Nat) : State :=
  match s.engWave x e with
  | none => s
  | some _ =>
    if n = 3 then (s.engOffset x e v).engCommand x e v hdr
    else if 8 < n then s
    else
      let s1 := s.modCtx x (fun cx => { cx with engWords := cx.engWords.put (16 * e.key + n) (BitVec.ofNat 64 v) })
      match s.engOp x e with
      | some (o, _) => s1.modCtx x (fun cx => { cx with engWords := cx.engWords.put (engOpKey o n) (BitVec.ofNat 64 v) })
      | none => if s.engEmpty e then s1 else s

/-- ENGWR (R117). -/
def execEngwr (f : Fields) (s : State) : Outcome State Fault Refusal :=
  s.waved (.engwr f) [] (fun q cr w =>
    if !s.isHandler q cr then s.trapHdr Cause.protection
    else s.engWrite cr.ctx (EngSel.ofWord (s.ctx cr.ctx).engq) (f.mb 0 4) (sVal w f.a.toNat 2) w.clauseAddr)

/-- ENGQ_RESUME (R115): the command 1 of a word-3 write on an entry. -/
def execEngqResume (x : Nat) (sel : Word) (w3 : Dword) (s : State) : Outcome State Fault Refusal :=
  let e := EngSel.ofWord sel
  let s1 := s.engOffset x e w3.toNat
  match s.engWave x e, s1.engOp x e with
  | some _, some (o, op) => .next (s1.engResume o op)
  | _, _ => hold s

/-- ENGQ_CANCEL (R115): the command 2. -/
def execEngqCancel (x : Nat) (sel : Word) (s : State) : Outcome State Fault Refusal :=
  match s.engOp x (EngSel.ofWord sel) with
  | some (o, op) => .next (s.engCancel o op)
  | none => hold s

/-- ENGQ_REBUILD (R115): the command 3. -/
def execEngqRebuild (x : Nat) (sel : Word) (w3 : Dword) (s : State) : Outcome State Fault Refusal :=
  let e := EngSel.ofWord sel
  match s.engWave x e, s.engOp x e with
  | some _, none => .next ((s.engOffset x e w3.toNat).engRebuild x e w3.toNat 0)
  | _, _ => hold s

/-! ## The Clave (R374, R375) -/

/-- The Clave fires with a source (R374): every context's LAST names it, and LATE says of a gang firing whether it came after its tick.
While BUSY it merges into the latch in progress; otherwise SEQ counts it. Of a host firing and a Tabor match in one cycle LAST names the
host. -/
def State.fireClave (s : State) (by_ : Nat) (late : Option Bool) : State :=
  let src := if by_ = 5 ∧ s.claveHost = some s.cycle then 1 else by_
  let s1 := { s with
    claveHost := if src = 1 then some s.cycle else s.claveHost
    ctxs := s.ctxs.mapV (fun _ cx => { cx with clave :=
      (match late with | some b => b.toNat | none => cx.clave / 2 ^ 30 % 2) * 2 ^ 30 + src * 2 ^ 16 +
        (cx.clave + (if s.claveBusy then 0 else 1)) % 2 ^ 16 }) }
  if s.claveBusy then s1 else { s1 with claveBusy := true, claveSince := s.cycle, snaps := s.tabor.toNat :: s.snaps }

/-- SNAP (R375): .loc fires now; .gang tells every other package of the gang and fires here at the tick, or at once and late
where the counter has passed it. -/
def execSnap (f : Fields) (s : State) : Outcome State Fault Refusal :=
  s.waved (.snap f) [] (fun _ _ w =>
    if !f.m 0 then s.fireClave 3 none
    else
      let tick := sVal w f.a.toNat 2
      let s1 := (s.gang.filter (· ≠ Config.package)).foldl (fun (s : State) p => s.tell 9 p 0 (splitWords 4 tick)) s
      if tick ≤ s.tabor.toNat then s1.fireClave 3 (some (decide (tick < s.tabor.toNat)))
      else { s1 with claveTicks := s1.claveTicks ++ [(tick, true)] })

/-! ## GPW (R139) -/

/-- GPW: the release half at system, then an 8-byte store at scope system; in a versioned task it joins the version. -/
def execGpw (f : Fields) (s : State) : Outcome State Fault Refusal :=
  s.waved (.gpw f) [] (fun q cr w =>
    let g := match s.kernel? cr.kernel with | some k => k.graph | none => 0
    if g = 0 then s.trapHdr Cause.protection
    else s.afterRelease 7 (fun s =>
      let die := dieOf cr.core
      if s.walkHeld die cr.ctx (g + 8) Need.read then s.retry
      else match s.translate die cr.ctx (g + 8) Need.read with
      | .error c => (s.dropLacking die cr.ctx (g + 8) Need.read).trapAt c (g + 8)
      | .ok ga =>
        let s := s.dropLacking die cr.ctx (g + 8) Need.read
        let a := leNat (s.homeBytes (View.ofCrew q.crew) ga 8) + 8 * f.mb 0 8
        if 2 ^ 56 ≤ a then s.trapAt Cause.protection a
        else if s.walkHeld die cr.ctx a Need.write then s.retry
        else match s.translate die cr.ctx a Need.write with
        | .error c => (s.dropLacking die cr.ctx a Need.write).trapAt c a
        | .ok pa =>
          let s := s.dropLacking die cr.ctx a Need.write
          let e : Elem := ⟨0, 0, a, pa, 8, 0, 0, [], none, .pending⟩
          s.storeLocal 0 0 (newOp s q cr w (.gpw f) 0) cr e 7 (sVal w f.a.toNat 2) false))

end Sys2Proof.Machine
end

