-- ==== Sys2Proof/Machine/Clave.lean ====
section
/-!
DEFINITION. Firings of the Clave other than by SNAP itself (R374, R375, R379).
-/

namespace Sys2Proof.Machine

open Sys2Proof Host

/-- The host reaches the package: the PCIe link is up, and the package is not in recovery (R381, R384). -/
def State.hostReaches (s : State) : Bool := s.hostUp && !s.recovering

/-- CLAVE_FIRE_HOST (R379, R374): a write of any value. -/
def execClaveFireHost (_ : Word) (s : State) : Outcome State Fault Refusal :=
  if s.hostReaches then .next (s.fireClave 1 none) else hold s

/-- CLAVE_FIRE_MANAGEMENT (R374). -/
def execClaveFireManagement (s : State) : Outcome State Fault Refusal := .next (s.fireClave 2 none)

/-- CLAVE_TABOR_MATCH (R374, R379): the counter has reached CLAVETICK, which fires once; 0 means none. -/
def execClaveTaborMatch (s : State) : Outcome State Fault Refusal :=
  if s.claveArmed && s.claveTick != 0 && decide (s.claveTick ≤ s.tabor.toNat) then
    .next ({ s with claveArmed := false }.fireClave 5 none)
  else hold s

/-- SNAP_TICK_FIRE (R375): a gang firing's tick has come; LAST is 3 in the package whose SNAP sent it, else 4. -/
def execSnapTickFire (idx : Nat) (s : State) : Outcome State Fault Refusal :=
  match s.claveTicks[idx]? with
  | none => hold s
  | some t =>
    if t.1 ≤ s.tabor.toNat then .next ({ s with claveTicks := s.claveTicks.eraseIdx idx }.fireClave (if t.2 then 3 else 4) (some false))
    else hold s

/-- CLAVE_LATCH_DONE (R374): every block has latched. Firings of one cycle merge, so a latch lasts the cycle of its firing (DEDUCED,
log 87). -/
def execClaveLatchDone (s : State) : Outcome State Fault Refusal :=
  if s.cycle = s.claveSince then hold s else .next { s with claveBusy := false }

end Sys2Proof.Machine
end

