-- ==== Sys2Proof/Machine/Page.lean ====
section
/-!
DEFINITION. Frames and translations (R100, R101, R356 to R359): releases into quarantine and back to the free ring,
quiescence requests, page walks step by step, and the translation caches.
-/

namespace Sys2Proof.Machine

open Sys2Proof Host

/-! ## Frames -/

/-- A frame is released (R101, R359). -/
def State.releaseFrame (s : State) (x frame : Nat) : State :=
  (s.modCtx x (fun cx => { cx with releases := cx.releases ++ [frame] })).settleQuarantine x

/-- The context number is in use. -/
def State.hasCtx (s : State) (x : Nat) : Bool := (s.ctx x).st != .absent

/-- FRAME_RELEASE (R359): a write of FRELEASE names a frame in bits 51:12. -/
def execFrameRelease (x : Nat) (val : Dword) (s : State) : Outcome State Fault Refusal :=
  if s.hasCtx x && !s.recovering then .next (s.releaseFrame x (bitsOf val.toNat 12 40)) else hold s

/-- FRAME_FREE (R358, R359): the oldest quarantined frame whose epoch has retired reaches the free ring. -/
def execFrameFree (x : Nat) (s : State) : Outcome State Fault Refusal :=
  match (s.ctx x).quarantine with
  | (f, e) :: rest =>
    if s.retired x e then
      .next ((s.modCtx x (fun cx => { cx with quarantine := rest, freeRing := cx.freeRing ++ [f] })).settleQuarantine x)
    else hold s
  | [] => hold s

/-- QUIESCENCE_REQUEST (R100): the context's epoch advances. -/
def execQuiescenceRequest (x : Nat) (s : State) : Outcome State Fault Refusal :=
  if s.hasCtx x && !s.recovering then .next (s.modCtx x (fun cx => { cx with epoch := cx.epoch + 1 })) else hold s

/-! ## Walks and translation caches -/

/-- The translation a leaf gives an address on a die. -/
def leafTlb (die x va size frame : Nat) (r w x_ : Bool) : Tlb := ⟨die, x, va / size * size, size, frame, r, w, x_⟩

/-- One step of a walk: the entry of its level is read at home and checked (R354 to R356). A walk that meets an entry it
cannot use ends; one for an instruction about to issue, or a clause about to be fetched, gives it the fault. -/
def State.walkStep (s : State) (w : Walk) : Option Walk :=
  let bad (c : Nat) : Option Walk := if w.own then some { w with fault := some c } else none
  match s.pte w.level w.table w.va with
  | .table t => if w.level = 0 then bad Cause.protection else some { w with level := w.level - 1, table := t }
  | .leaf 1 size frame r wr x => some { w with leaf := some (leafTlb w.die w.ctx w.va size frame r wr x) }
  | p => bad p.cause

/-- A wave of the context on the die is about to access the address: with the next instruction of its clause, or with the fetch of its
strand's next clause. -/
def State.walkWanted (s : State) (die x va : Nat) : Bool :=
  s.crews.any (fun e => e.2.ctx == x && dieOf e.2.core == die && e.2.waves.any (fun u =>
    match u.2.clause with
    | some cl => (match cl.rest with
      | d :: _ => (match decodeWord cl.hdr.cls d with
        | .ok i => (s.issueAddrs e.2 u.2 cl.strand i).any (fun a => a.1 == va)
        | .error _ => false)
      | [] => false)
    | none => match u.2.running with
      | some k =>
        let pc := (u.2.strand k).pc
        va == pc || (match s.fetchWord e.2 pc (s.cachedClause e.2 pc).head? with
          | .ok hw => decide (pc ≤ va) && decide (va < pc + 8 * ((readHeader hw).cnt + 2)) && va % 8 == 0
          | .error _ => false)
      | none => false))

/-- PAGE_WALK (R356): a walk of an address on a die begins, or reads its next entry; it waits while an engine owns the
entry's line (R90), and while the dies are stopped (R383). One that ends in a fault goes no further (log 37). -/
def execPageWalk (die x va : Nat) (s : State) : Outcome State Fault Refusal :=
  if !s.hasCtx x || decide (4 ≤ die) || decide (2 ^ 56 ≤ va) || s.stopped then hold s else
  let same (w : Walk) : Bool := w.die == die && w.ctx == x && w.va == va
  let cx := s.ctx x
  let w := (s.walks.find? same).getD ⟨die, x, va, 4, cx.root, cx.epoch, none, s.walkWanted die x va, none⟩
  if w.leaf.isSome || w.fault.isSome then hold s
  else if !s.unowned (w.table + 8 * levelIndex w.level va) 8 then hold s
  else
    let others := s.walks.filter (fun w => !same w)
    .next { s with walks := match s.walkStep w with | some w1 => others ++ [w1] | none => others }

/-- Install a translation; a full cache replaces the entry named (R357). -/
def State.fillTlb (s : State) (t : Tlb) (victim : Nat) : State :=
  let mine := s.tlb.filter (fun u => u.die == t.die)
  let others := s.tlb.filter (fun u => u.die != t.die)
  let kept := if mine.length < Config.tlbEntries then mine else mine.eraseIdx (victim % Config.tlbEntries)
  { s with tlb := others ++ (kept ++ [t]) }

/-- TRANSLATION_FILL (R357): a finished walk's leaf enters its die's translation cache; not while the dies are stopped (R383). -/
def execTranslationFill (idx victim : Nat) (s : State) : Outcome State Fault Refusal :=
  if s.stopped then hold s else
  match s.walks[idx]? with
  | some w =>
    match w.leaf with
    | some t => .next ({ s with walks := s.walks.eraseIdx idx }.fillTlb t victim)
    | none => hold s
  | none => hold s

/-- TRANSLATION_DROP (R357): the machine drops any entry of a die's cache. -/
def execTranslationDrop (die idx : Nat) (s : State) : Outcome State Fault Refusal :=
  let mine := s.tlb.filter (fun u => u.die == die)
  .next { s with tlb := s.tlb.filter (fun u => u.die != die) ++ mine.eraseIdx idx }

end Sys2Proof.Machine
end

