-- ==== Sys2Proof/Machine/Task.lean ====
section
/-!
DEFINITION. Tasks: TEND, TABRT, TIRREV and the commit (R166 to R181); trap records on their way to a handler or to the
host (R176, R177), and ERET (R118).
-/

namespace Sys2Proof.Machine

open Sys2Proof Host

/-! ## TEND, TABRT, TIRREV -/

/-- TEND (R179). -/
def execTend (f : Fields) (s : State) : Outcome State Fault Refusal :=
  s.waved (.tend f) [] (fun q _ w => s.tendWait q.crew q.wave q.strand w.clauseAddr 8)

/-- TABRT (R180): an irrevocable task traps; otherwise its task restarts, with no record. -/
def execTabrt (f : Fields) (s : State) : Outcome State Fault Refusal :=
  s.waved (.tabrt f) [] (fun q cr _ =>
    if cr.task == .irrevocable then s.trapHdr Cause.protection
    else if cr.task == .stopped then s
    else s.restartTask q.crew)

/-- TIRREV (R181). -/
def execTirrev (f : Fields) (s : State) : Outcome State Fault Refusal :=
  s.waved (.tirrev f) [] (fun _ cr _ =>
    if s.noirrev cr then s.trapHdr Cause.versionOverflow else s.irrevocably id)

/-! ## Commit (R179, R133) -/

/-- A running kernel whose last crew has ended retires (R134): none resident and none still to place; with a walker,
none once its tiles are out (R133). -/
def State.settleKernel (s : State) (k : Nat) : State :=
  match s.kernel? k with
  | none => s
  | some kn =>
    let left := kn.unplaced.any (fun e => !e.2.isEmpty) || kn.requeued.any (fun e => !e.2.isEmpty)
    let more := if kn.walk then left && !kn.tiles.isEmpty else left
    let saved := s.ctxs.any (fun x => x.2.saves.any (fun i => i.crew.kernel == k))
    if kn.st == .running && !more && !saved && !s.crews.any (fun e => e.2.kernel == k)
    then s.modKernel k (fun kn => { kn with st := .retiring, time := s.tabor.toNat, endCycle := s.cycle }) else s

/-- A crew ends normally: it gives up its resources and counts in DONE (R135, R144). -/
def State.endCrew (s : State) (c : Nat) : State :=
  match s.crew? c with
  | none => s
  | some cr => ((s.removeCrew c).modKernel cr.kernel (fun kn => { kn with doneCrews := kn.doneCrews + 1 })).settleKernel cr.kernel

/-- A wave waits at TEND, in the strand named. -/
def Wave.tendStrand (w : Wave) : Option Nat :=
  (List.range 4).find? (fun k => match (w.strand k).st with | .waiting .tend => !(w.strand k).woken | _ => false)

/-- The conditions of the commit step (R179): every live wave at TEND, every operation of the crew complete, its entries
drained. -/
def State.canCommit (s : State) (c : Nat) (cr : Crew) : Bool :=
  s.crewRuns cr && cr.liveWaves.all (fun w => ((cr.waves.find? w).bind Wave.tendStrand).isSome) &&
  !s.ops.any (fun e => e.2.crew == c) && !(s.core cr.core).wq.any (fun e => e.crew == c) && cr.atBoundary

/-- Segments that are not committed are discarded with the L1 lines marked with their lanes (R302, R305). -/
def State.dropSegments (s : State) (c : Nat) : State :=
  match s.crew? c with
  | none => s
  | some cr =>
    (s.modCrew c (fun cr => { cr with segs := [] })).modCore cr.core (fun k => { k with
      l1 := k.l1.filter (fun l => match l.lane with | some (w, _) => !(decide (cr.base ≤ w) && decide (w < cr.base + cr.nw)) | none => true) })

/-- The next task of a crew begins (R166): its live waves record the clause after their TEND and go on. -/
def State.nextTask (s : State) (c idx : Nat) : State :=
  s.modCrew c (fun cr => { cr with
    task := .versioned, taskIdx := idx,
    waves := cr.waves.mapV (fun _ w =>
      match w.tendStrand with
      | some k => { w.modStrand k (fun st => { st with woken := true }) with entry := (w.strand k).pc, inTask := true }
      | none => { w with inTask := false }) })

/-- TASK_COMMIT (R179): the version commits in one step; the next task begins, with the walker's next tile `tile` where
the kernel has one, or the crew ends where its waves have ended or the walker has none left. -/
def execTaskCommit (c tile : Nat) (s : State) : Outcome State Fault Refusal :=
  match s.crew? c with
  | none => hold s
  | some cr =>
    match s.kernel? cr.kernel with
    | none => hold s
    | some kn =>
      if !s.canCommit c cr then hold s
      else
        let s1 := ((if cr.task == .versioned then s.commitVersion c else s).dropSegments c)
        if cr.liveWaves.isEmpty then .next (s1.endCrew c)
        else if !kn.walk then .next (s1.nextTask c (cr.taskIdx + 1))
        else if kn.tiles.isEmpty then .next (s1.endCrew c)
        else if kn.tiles.contains tile then
          .next ((s1.modKernel cr.kernel (fun kn => { kn with tiles := kn.tiles.filter (· ≠ tile) })).nextTask c tile)
        else hold s

/-! ## Trap records on their way (R176, R177) -/

/-- The 32 bytes of a trap record (R174). -/
def TrapRec.toNat (r : TrapRec) : Nat :=
  r.waves * 2 ^ 192 + (r.addr % 2 ^ 64) * 2 ^ 128 + (r.crew % 2 ^ 32) * 2 ^ 96 + (r.task % 2 ^ 32) * 2 ^ 64 +
    (r.count % 2 ^ 16) * 2 ^ 48 + (r.core % 256) * 2 ^ 40 + r.stop.toNat * 2 ^ 39 + r.ev.toNat * 2 ^ 38 +
    r.irr.toNat * 2 ^ 37 + (r.cls % 16) * 2 ^ 28 + (r.entry % 512) * 2 ^ 19 + (r.cause % 256) * 2 ^ 8

/-- The handler takes the next record of its ring, where it waits for one and none is in hand (R118, R176). -/
def State.deliverNext (s : State) (x : Nat) : State :=
  let cx := s.ctx x
  match cx.handler, cx.trapRecs with
  | some (c, w), (a, _, false) :: _ =>
    if cx.inHand then s else
    match s.wave? c w with
    | none => s
    | some wv =>
      match (List.range 4).find? (fun k => match (wv.strand k).st with | .waiting .record => true | _ => false) with
      | none => s
      | some k => (s.modStrand c w k (fun st => { st with woken := true })).modCtx x (fun cx => { cx with
          traprec := BitVec.ofNat 64 a, inHand := true })
  | _, _ => s

/-- Traps held by a full coalescer take up the room that has come free, in arrival order; a record that one of them opens is opened
now, as number `n` or after (R175, R176). -/
def Core.refill (k : Core) (n : Nat) : Core :=
  let k1 := k.heldTraps.foldl Core.addTrap { k with heldTraps := [] }
  let old := k.recs.length
  { k1 with recs := k1.recs.take old ++ (k1.recs.drop old).mapIdx (fun i r => { r with opened := n + i }) }

/-- The ring slot that takes the next record of a context. -/
def Context.trapSlot (cx : Context) : Nat := cx.trapRing + 32 * (cx.trapW % Config.trapSlots)

/-- Where an open record of a core can go (R176): its context's ring has a free slot, the slot's page is mapped, its line owned by no
engine operation, and no record of the context opened earlier is open on any core. -/
def State.recordSlot (s : State) (core : Nat) (r : TrapRec) : Option Nat :=
  let cx := s.ctx r.ctx
  if Config.trapSlots ≤ cx.trapW - cx.trapR then none
  else if s.cores.any (fun k => k.2.recs.any (fun q => q.ctx == r.ctx && decide (q.opened < r.opened))) then none
  else if s.walkHeld (dieOf core) r.ctx cx.trapSlot ⟨true, true, false⟩ then none
  else match s.translate (dieOf core) r.ctx cx.trapSlot ⟨true, true, false⟩ with
    | .error _ => none
    | .ok pa => if s.unowned pa 32 then some pa else none

/-- A record is written to its slot: the handler is woken or the host told (R176). -/
def State.deliver (s : State) (core : Nat) (r : TrapRec) (pa : Nat) : State :=
  let cx := s.ctx r.ctx
  let die := dieOf core
  let need : Need := ⟨true, true, false⟩
  let s1 := ({ (s.dropLacking die r.ctx cx.trapSlot need).ctxWrite r.ctx cx.epoch pa (leBytes 32 r.toNat) with next := s.next + (s.core core).heldTraps.length }).modCore core
    (fun k => Core.refill { k with recs := k.recs.filter (fun q => q ≠ r) } s.next)
  let host := cx.handler.isNone || r.own
  let s2 := s1.modCtx r.ctx (fun y => { y with trapW := y.trapW + 1, trapRecs := y.trapRecs ++ [(cx.trapSlot, r, host)] })
  if host then s2.event 4 0x43 r.ctx cx.trapSlot else s2.deliverNext r.ctx

/-- TRAP_RECORD_DELIVERY (R176): the first open record of a core that has a slot to go to is written there. -/
def execTrapRecordDelivery (core : Nat) (s : State) : Outcome State Fault Refusal :=
  match (s.core core).recs.find? (fun r => (s.recordSlot core r).isSome) with
  | none => hold s
  | some r =>
    match s.recordSlot core r with
    | none => hold s
    | some pa => .next (s.deliver core r pa)

/-- HOST_TRAP_FINISH (R176): the host finishes a record it was told of, at the head of the ring. -/
def execHostTrapFinish (x : Nat) (kill : Bool) (s : State) : Outcome State Fault Refusal :=
  match (s.ctx x).trapRecs with
  | (_, _, true) :: _ => if s.recovering then hold s else .next ((s.finishRecord x kill).deliverNext x)
  | _ => hold s

/-- A wave becomes its context's trap handler (R177) and is descheduled until a record arrives (R118, R176). -/
def State.designate (s : State) (x c w k hdr : Nat) : State :=
  ((s.modCtx x (fun cx => { cx with handler := some (c, w), handlerName := none, inHand := false })).enterWait c w k .record hdr).deliverNext x

/-- TRAP_HANDLER_DESIGNATION (R177): between two clauses of a wave that waits for nothing, it becomes its context's handler
and is descheduled until a record arrives (R118, R176). DEDUCED (log entry 21). -/
def execTrapHandlerDesignation (x c w : Nat) (s : State) : Outcome State Fault Refusal :=
  match s.crew? c, s.wave? c w with
  | some cr, some wv =>
    let idle := wv.strands.all (fun e => match e.2.st with | .waiting _ => false | .stopped => false | _ => true)
    match wv.running with
    | some k =>
      if !s.recovering && (s.ctx x).handler.isNone && cr.ctx == x && wv.live && wv.lanes != 0 && wv.clause.isNone && idle then
        .next (s.designate x c w k (wv.strand k).pc)
      else hold s
    | none => hold s
  | _, _ => hold s

/-- ERET (R118): the record in hand is finished by restart or kill, and the wave waits for the next; the chapter's
protection trap where the wave is not the handler. -/
def execEret (f : Fields) (s : State) : Outcome State Fault Refusal :=
  s.waved (.eret f) [] (fun q cr w =>
    if !s.isHandler q cr then s.trapHdr Cause.protection
    else
      let s1 := if (s.ctx cr.ctx).inHand then s.finishRecord cr.ctx (f.mb 0 2 == 1) else s
      (s1.enterWait q.crew q.wave q.strand .record w.clauseAddr).deliverNext cr.ctx)

end Sys2Proof.Machine
end

