-- ==== Sys2Proof/Machine/Queue.lean ====
section
/-!
DEFINITION. Hardware queues and command packets (R119 to R121), kernel images and launch records (R123 to R128, R131), and
command graphs (R137, R138).
-/

namespace Sys2Proof.Machine

open Sys2Proof Host

/-! ## Packets (R119) -/

/-- A command packet's fields. -/
structure Packet where
  /-- KIND. -/
  kind : Nat
  /-- SERIAL. -/
  serial : Bool
  /-- ADDR. -/
  addr : Nat
  /-- VALUE. -/
  value : Nat
  /-- CMP. -/
  cmp : Nat
  /-- A reserved field is nonzero, or KIND or CMP is not one the packet may have (R120). -/
  bad : Bool
  deriving DecidableEq, Repr

/-- Read a packet. R120's list of what makes a packet malformed does not name the alignment of ADDR: a wait or signal whose ADDR is no
multiple of 8 acts on the eight bytes at ADDR (DESIGN CHOICE, log 72). -/
def Packet.ofNat (n : Nat) : Packet where
  kind := bitsOf n 0 8
  serial := bitOf n 8
  addr := bitsOf n 64 64
  value := bitsOf n 128 64
  cmp := bitsOf n 192 3
  bad := bitsOf n 9 55 != 0 || bitsOf n 195 317 != 0 || decide (4 < bitsOf n 0 8) ||
    (if bitsOf n 0 8 = 2 then decide (2 < bitsOf n 192 3) else bitsOf n 192 3 != 0)

/-- A queue of a context. -/
def Context.queue (cx : Context) (q : Nat) : Queue := cx.queues.rd Queue.off q

/-- Change a queue. -/
def State.modQueue (s : State) (x q : Nat) (f : Queue → Queue) : State :=
  s.modCtx x (fun cx => { cx with queues := cx.queues.put q (f (cx.queue q)) })

/-- A replay is done: its nodes have started and their commands are done; `fuel` bounds graphs within graphs. -/
def State.cmdDoneN (s : State) : Nat → CmdRef → Bool
  | _, .none => true
  | _, .kernel k => (match s.kernel? k with | some kn => kn.recorded | none => true)
  | 0, .replay _ => false
  | fuel + 1, .replay r =>
    match s.replays.find? r with
    | none => true
    | some p => decide (p.nodes ≤ p.next) && p.started.all (s.cmdDoneN fuel)
  | _, .signal n => (s.pend.find? n).isNone

/-- A command has completed (R121). -/
def State.cmdDone (s : State) (c : CmdRef) : Bool := s.cmdDoneN (s.replays.length + 1) c

/-- Commands of a context start only once firmware has admitted it (R103). -/
def State.admitted (s : State) (x : Nat) : Bool := match (s.ctx x).st with | .runnable | .running => true | _ => false

/-! ## Image and launch record (R123 to R128) -/

/-- Field of a launch record or image header by byte offset and size. -/
def fld (n off size : Nat) : Nat := bitsOf n (8 * off) (8 * size)

/-- A level word's declared part. -/
def lvDeclared (w : Nat) : Bool := bitOf w 8

/-- A record field that is zero takes the image's value. -/
def orImage (r i : Nat) : Nat := if r = 0 then i else r

/-- A record field that is nonzero and differs from the image's. -/
def differs (r i : Nat) : Bool := r != 0 && r != i

/-- The level words a launch gets (R126): bits 31:0 from the image where the record has 0, GSIZE from the record. -/
def levelWords (rec img : Nat) : List Nat :=
  (List.range 5).map (fun k =>
    let r := fld rec (0x48 + 8 * k) 8
    r / 2 ^ 32 * 2 ^ 32 + orImage (r % 2 ^ 32) (fld img (0x18 + 8 * k) 8 % 2 ^ 32))

/-- DOM, a domain of R127. -/
def lvDom (w : Nat) : Nat := bitsOf w 4 4
/-- SCOPE. -/
def lvScope (w : Nat) : Nat := bitsOf w 0 3
/-- GSIZE. -/
def lvSize (w : Nat) : Nat := bitsOf w 32 32

/-- Level `k + 3` breaks R127, given the words of all levels. -/
def badLevel (ws : List Nat) (k : Nat) : Bool :=
  let w := ws.getD k 0
  let prev := ws.getD (k - 1) 0
  bitsOf w 9 23 != 0 || bitOf w 3 ||
  (lvDeclared w && (decide (3 < lvDom w) || decide (lvScope w < lvDom w + 3) || lvSize w == 0 || decide (2 ^ 31 < lvSize w) ||
    (k != 0 && (!lvDeclared prev || decide (lvDom w < lvDom prev)))))

/-- Crews in a group of the declared level `k + 3`. -/
def groupSize (ws : List Nat) (k : Nat) : Nat := ((ws.take (k + 1)).map lvSize).foldl (· * ·) 1

/-- Cores of a domain (R3, R127). -/
def domCores (d : Nat) : Nat := match d with | 0 => 8 | 1 => 64 | _ => 256

/-- Crews of a shape that fit on an empty core (R140). -/
def crewsPerCore (waves regs scratch split : Nat) : Nat :=
  let a := 2 ^ (bitLen (waves - 1))
  min (64 / a) (min (128 / (waves * regs)) (if scratch = 0 then 64 else 16 * split / scratch))

/-- The domain within which a level's groups are placed here: a gang's share lies in the package. -/
def lvPlace (ws : List Nat) (k : Nat) : Nat := min 2 (lvDom (ws.getD k 0))

/-- A group of level `k + 3` with `n` crews takes room in the first instance of its domain where it fits, each of its groups of the level
below in one instance of that level's (R128): `free` has the crews that each instance of the lowest level's domain still holds. -/
def fitGroup (ws : List Nat) : Nat → Nat → List Nat → Option (List Nat)
  | 0, n, free => (free.findIdx? (fun x => decide (n ≤ x))).map (fun i => free.set i (free.getD i 0 - n))
  | k + 1, n, free =>
    if free.sum < n then none else
    let w := domCores (lvPlace ws (k + 1)) / domCores (lvPlace ws 0)
    let g := groupSize ws k
    let parts := List.replicate (n / g) g ++ (if n % g = 0 then [] else [n % g])
    (List.range (free.length / w)).findSome? (fun i =>
      (parts.foldl (fun (acc : Option (List Nat)) m => acc.bind (fitGroup ws k m)) (some ((free.drop (w * i)).take w))).map (fun l =>
        free.take (w * i) ++ l ++ free.drop (w * (i + 1))))

/-- A group of level `k + 3` can never be resident whole, counted against an empty instance of its domain (R128). In a launch of several
packages the group of a pod-, die- or package-domain level is counted whole, although R130 gives each package only its own crews
(DESIGN CHOICE, log 103). -/
def groupTooBig (ws : List Nat) (k crews gangn per : Nat) : Bool :=
  let w := ws.getD k 0
  let n := if lvDom w = 3 then (crews + gangn - 1) / gangn else min (groupSize ws k) crews
  lvDeclared w && (decide (domCores (lvPlace ws k) * per < n) ||
    (fitGroup ws k n (List.replicate (domCores (lvPlace ws k) / domCores (lvPlace ws 0)) (domCores (lvPlace ws 0) * per))).isNone)

/-- A pinned launch's tables as read: per role, its crew list and its binding entry (R131). -/
structure Pinned where
  /-- Role lists. -/
  lists : List (List Nat)
  /-- Binding entries. -/
  bind : List Nat
  /-- A reserved byte of the work-list table is nonzero, or it or a list cannot be read. -/
  bad : Bool
  /-- The group binding table cannot be read. -/
  unbound : Bool

/-- Read the two tables (R131). -/
def State.readPinned (s : State) (x wlist roles : Nat) : Pinned :=
  let wl := s.readV x wlist 4096
  let rl := s.readV x roles 1024
  let ent (r : Nat) : Nat := leNat (((wl.getD []).drop (16 * r)).take 16)
  let got := (List.range 256).map (fun r =>
    let n := bitsOf (ent r) 64 32
    if n = 0 then some [] else
    (s.readV x (bitsOf (ent r) 0 64) (4 * n)).map (fun bs => (List.range n).map (fun i => leNat ((bs.drop (4 * i)).take 4))))
  ⟨got.map (fun l => l.getD []), (List.range 256).map (fun r => leNat (((rl.getD []).drop (4 * r)).take 4)),
    wl.isNone || got.any (·.isNone) || (List.range 256).any (fun r => bitsOf (ent r) 96 32 != 0), rl.isNone⟩

/-- A binding entry is valid (R131). -/
def bindValid (e : Nat) : Bool := bitOf e 31 && bitsOf e 8 23 == 0

/-- The lists cover every crew exactly once. -/
def Pinned.covers (p : Pinned) (crews : Nat) : Bool :=
  let l := p.lists.flatten
  l.length == crews && (List.range crews).all (fun c => l.contains c)

/-- The instance of a domain that holds a core. -/
def domOf (d core : Nat) : Nat := match d with | 0 => core / 8 | 1 => core / 64 | _ => 0

/-- The crews of the roles that have a valid binding, each with the core its role is bound to. -/
def Pinned.boundCrews (p : Pinned) : List (Nat × Nat) :=
  ((List.range p.lists.length).filter (fun r => bindValid (p.bind.getD r 0))).flatMap (fun r =>
    (p.lists.getD r []).map (fun c => (c, p.bind.getD r 0 % 256)))

/-- The crews of some pod- or die-domain group lie on roles bound outside one instance (R131). -/
def Pinned.splitsGroup (p : Pinned) (ws : List Nat) : Bool :=
  (List.range 5).any (fun k =>
    let w := ws.getD k 0
    lvDeclared w && decide (lvDom w < 2) &&
    (let at_ := p.boundCrews.map (fun c => (c.1 / groupSize ws k, domOf (lvDom w) c.2))
     at_.any (fun a => at_.any (fun b => a.1 == b.1 && a.2 != b.2))))

/-- More crews of some group of level `k + 3` are bound to one core than it ever holds: the group can never be resident whole (R128). -/
def Pinned.overfills (p : Pinned) (ws : List Nat) (k per : Nat) : Bool :=
  let w := ws.getD k 0
  lvDeclared w &&
  (let at_ := p.boundCrews.map (fun c => (if lvDom w = 3 then 0 else c.1 / groupSize ws k, c.2))
   at_.any (fun a => decide (per < (at_.filter (· == a)).length)))

/-- The offsets of the image header's own fields that break R123 or R126, with 0x100 added: a level word's GSIZE and reserved bits, and
a value that the launch takes from the image and that lies outside its range, count there. -/
def imageFaults (rec img : Nat) : List (Nat × Bool) :=
  let ctrl := fld rec 0x18 8
  let ictl := fld img 0x10 8
  let mine (lo n : Nat) : Bool := bitsOf ctrl lo n == 0
  let waves := bitsOf ictl 0 7
  let regs := bitsOf ictl 7 5
  let bad := bitsOf ictl 20 8 != 0 || bitsOf ictl 36 28 != 0 || (mine 0 7 && (waves == 0 || decide (64 < waves))) ||
    (mine 7 5 && (regs == 0 || decide (16 < regs))) || (mine 12 8 && decide (80 < bitsOf ictl 12 8)) ||
    (mine 0 7 && mine 7 5 && decide (128 < waves * regs))
  [(0x100, fld img 0 4 != 0x45574B31), (0x104, fld img 4 4 % 8 != 0), (0x108, fld img 8 4 % 4096 != 0), (0x110, bad)] ++
  (List.range 5).map (fun k =>
    let w := fld img (0x18 + 8 * k) 8
    (0x118 + 8 * k, bitsOf w 9 23 != 0 || bitOf w 3 || lvSize w != 0 ||
      (lvDeclared w && fld rec (0x48 + 8 * k) 4 == 0 && (decide (3 < lvDom w) || decide (lvScope w < lvDom w + 3))))) ++
  [(0x140, decide (256 < fld img 0x40 4)), (0x144, fld img 0x44 188 != 0)]

/-- The offsets of the fields that a launch breaks (R126), in ascending order; a field of the image header has 0x100
added. An image that cannot be read is reported as its MAGIC, and no field is compared with it; an argument block that cannot be read as
ARGS, a table of pinned mode as its own field (DESIGN CHOICE, log 75). -/
def launchFaults (rec img : Nat) (imgOk argsOk graphNode : Bool) (p : Pinned) : List Nat :=
  let ctrl := fld rec 0x18 8
  let ictl := fld img 0x10 8
  let waves := orImage (bitsOf ctrl 0 7) (bitsOf ictl 0 7)
  let regs := orImage (bitsOf ctrl 7 5) (bitsOf ictl 7 5)
  let scratch := orImage (bitsOf ctrl 12 8) (bitsOf ictl 12 8)
  let split := bitsOf ctrl 20 3
  let pinned := bitOf ctrl 23
  let walk := bitOf ctrl 28 || bitOf ictl 28
  let ws := levelWords rec img
  let argsz := fld rec 0x10 4
  let crews := fld rec 0x14 4
  let start := fld rec 0x38 8
  let gangn := fld rec 0x40 2
  let vcap := fld rec 0x44 4
  let tiles := fld rec 0x78 4
  let differ (lo n : Nat) : Bool := imgOk && differs (bitsOf ctrl lo n) (bitsOf ictl lo n)
  let ctrlBad := bitsOf ctrl 36 28 != 0 || differ 0 7 || differ 7 5 || differ 12 8 || differ 28 1 || differ 29 7 ||
    decide (64 < bitsOf ctrl 0 7) || decide (16 < bitsOf ctrl 7 5) || decide (80 < bitsOf ctrl 12 8) || split == 0 || decide (5 < split) ||
    decide (16 * split < scratch) || ((bitsOf ctrl 0 7 != 0 || bitsOf ctrl 7 5 != 0) && decide (128 < waves * regs))
  let hdr := if imgOk then imageFaults rec img else [(0x100, true)]
  let shapeBad := ctrlBad || hdr.any (fun e => e.1 == 0x110 && e.2) || !imgOk
  let per := crewsPerCore waves regs scratch split
  let checks : List (Nat × Bool) := [
    (0x00, fld rec 0 8 % 256 != 0), (0x08, fld rec 8 8 % 4 != 0 || !argsOk),
    (0x10, decide (256 < argsz) || argsz % 4 != 0 || (fld img 0x08 4 != 0 && decide (248 < argsz))),
    (0x14, crews == 0 || decide (2 ^ 31 < crews)), (0x18, ctrlBad),
    (0x20, if pinned then p.bad || !p.covers crews else fld rec 0x20 8 != 0),
    (0x28, if pinned then p.unbound || p.bind.any (fun e => bitsOf e 8 23 != 0) ||
        ((List.range (min 256 (fld img 0x40 4))).any (fun r => !bindValid (p.bind.getD r 0))) || p.splitsGroup ws
      else fld rec 0x28 8 != 0),
    (0x30, fld rec 0x30 8 % 32 != 0),
    (0x40, gangn == 0 || decide (4096 < gangn) || (start == 0 && gangn != 1)), (0x42, decide (gangn ≤ fld rec 0x42 2)),
    (0x44, vcap != 0 && (decide (vcap < 4) || decide (32768 < vcap) || vcap % 4 != 0))] ++
    (List.range 5).map (fun k =>
      let r := fld rec (0x48 + 8 * k) 8 % 2 ^ 32
      (0x48 + 8 * k, (imgOk && differs r (fld img (0x18 + 8 * k) 8 % 2 ^ 32)) ||
        (badLevel ws k && !hdr.any (fun e => e.1 == 0x118 + 8 * k && e.2 && r == 0)) || (!shapeBad && (groupTooBig ws k crews (max 1 gangn) per || (pinned && p.overfills ws k per))))) ++
    [(0x70, !graphNode && fld rec 0x70 8 != 0),
     (0x78, if walk then tiles == 0 || decide (2 ^ 31 < tiles) else tiles != 0), (0x7C, fld rec 0x7C 4 != 0)] ++ hdr
  (checks.filter (·.2)).map (·.1)

/-- Words of a byte list. -/
def byteWords (bs : List Byte) : List Word := (List.range (bs.length / 4)).map (fun i => BitVec.ofNat 32 (leNat ((bs.drop (4 * i)).take 4)))

/-- The kernel of a launch record that passes its checks (R125, R126), before placement begins. A pinned launch of several packages has
the same lists in each, and each places every crew of them (DESIGN CHOICE, log 102). -/
def kernelOf (x queue rec img : Nat) (args : List Byte) (p : Pinned) : Kernel :=
  let ctrl := fld rec 0x18 8
  let ictl := fld img 0x10 8
  let crews := fld rec 0x14 4
  let gangn := max 1 (fld rec 0x40 2)
  let rank := fld rec 0x42 2
  let pinned := bitOf ctrl 23
  let walk := bitOf ctrl 28 || bitOf ictl 28
  let mine := (List.range crews).filter (fun c => c % gangn == rank)
  let image := fld rec 0 8
  { ctx := x, queue := queue, image := image, args := fld rec 8 8, argsz := fld rec 0x10 4, argw := byteWords args, crews := crews
    waves := orImage (bitsOf ctrl 0 7) (bitsOf ictl 0 7), regs := orImage (bitsOf ctrl 7 5) (bitsOf ictl 7 5)
    scratch := orImage (bitsOf ctrl 12 8) (bitsOf ictl 12 8), split := bitsOf ctrl 20 3, pinned := pinned, save := bitOf ctrl 24
    noirrev := bitOf ctrl 25, eclass := bitsOf ctrl 26 2, walk := walk, walkred := orImage (bitsOf ctrl 29 7) (bitsOf ictl 29 7)
    done := fld rec 0x30 8, start := fld rec 0x38 8, gangn := gangn, rank := rank, vcap := fld rec 0x44 4, levels := levelWords rec img
    graph := fld rec 0x70 8, data := if fld img 0x08 4 = 0 then 0 else image + fld img 0x08 4, rolesAt := fld rec 0x28 8
    st := .waiting
    unplaced := if pinned then (List.range 256).map (fun r => (r, p.lists.getD r []))
      else (List.range 4).map (fun d => (d, mine.filter (fun c => c / gangn % 4 == d)))
    requeued := [], bind := if pinned then ((List.range 256).filter (fun r => bindValid (p.bind.getD r 0))).map (fun r => (r, p.bind.getD r 0 % 256)) else []
    tiles := if walk then List.range (fld rec 0x78 4) else [], placed := [], owner := [], restarts := [], ids := [], doneCrews := 0, status := 0, cause := 0
    detail := 0, time := 0, recorded := false, roles := if pinned then p.bind else [], groups := [], endCycle := 0, recording := none, energy := 0 }

/-- A gang message's words (R373): the START tick, 1 for an abort, and the gang, which its time master names (log 11). -/
def gangWords (tick : Nat) (abort : Bool) (gang : Nat) : List Word := splitWords 2 tick ++ [BitVec.ofNat 32 abort.toNat, BitVec.ofNat 32 gang]

/-- A gang abort is sent to every other package of the gang (R136). -/
def State.sendAbort (s : State) (tick : Nat) : State :=
  (s.gang.filter (· ≠ Config.package)).foldl (fun (s : State) g => s.tell 8 g 0 (gangWords tick true s.master)) s

/-- A kernel that has passed its checks starts placing (R134): one with no crew here retires at once. -/
def State.startKernel (s : State) (k : Nat) : State := (s.modKernel k (fun kn => { kn with st := .running })).settleKernel k

/-- The launch with a record's value (R125, R126, R134, R136): the kernel's number and the state. A launch whose START the counter has
passed, or for which an abort is held, is late (R373). A record that cannot be read, or does not lie at a multiple of 128, is refused
with DETAIL 0 and taken as zeros (DESIGN CHOICE, log 74). -/
def State.launchRecord (s : State) (x queue rec : Nat) (readable graphNode : Bool) : Nat × State :=
  let k := s.next
  let img := leNat ((s.readV x (fld rec 0 8) 256).getD [])
  let args := s.readV x (fld rec 8 8) (fld rec 0x10 4 % 257)
  let p := if bitOf (fld rec 0x18 8) 23 then s.readPinned x (fld rec 0x20 8) (fld rec 0x28 8) else ⟨[], [], false, false⟩
  let kn := kernelOf x queue rec img (args.getD []) p
  let put (kn : Kernel) : State := { s with kernels := s.kernels.put k kn, next := s.next + 1 }
  let fail (status detail : Nat) : Kernel := { kn with
    st := .failed, status := status, detail := detail, time := s.tabor.toNat, unplaced := [], tiles := [] }
  match (if readable then launchFaults rec img (s.readV x (fld rec 0 8) 256).isSome args.isSome graphNode p else [0]) with
  | d :: _ => (k, put (fail 1 d))
  | [] =>
    if kn.start = 0 then (k, (put kn).startKernel k)
    else if kn.start < s.tabor.toNat || s.aborts.contains kn.start then (k, (put (fail 4 0)).sendAbort kn.start)
    else (k, put kn)

/-! ## Graphs (R137, R138) -/

/-- Patch entries of a node. -/
def nodePatches (node : Nat) : List Nat := (List.range 8).map (fun k => bitsOf node (512 + 64 * k) 64)

/-- A node breaks R137: its packet, or a patch entry. -/
def badNode (node : Nat) : Bool :=
  let p := Packet.ofNat (node % 2 ^ 512)
  p.bad || (nodePatches node).any (fun e => decide (2 ^ 14 ≤ e) || (bitOf e 12 && p.kind != 1))

/-- A launch record with a node's patches applied, in ascending order, and GRAPH set (R138). -/
def patchRecord (rec graph : Nat) (snap : List Nat) (patches : List Nat) : Nat :=
  let ws := patches.foldl (fun (ws : List Nat) e =>
    if !bitOf e 12 then ws else
    let k := bitsOf e 8 4
    let g := snap.getD (e % 256) 0
    ws.set k (if bitOf e 13 then (ws.getD k 0 + g) % 2 ^ 64 else g)) ((List.range 16).map (fun k => fld rec (8 * k) 8))
  leNat ((ws.set 14 graph).flatMap (leBytes 8))

/-! ## Starting commands -/

/-- What starting a command gives: what stands for it afterwards, or that it must wait. -/
abbrev Started := Option (CmdRef × State)

/-- A signal's write (R121): as STW at scope system; an address that is not mapped takes nothing. One to another package is complete
when its acknowledgement is back. -/
def State.signalWrite (s : State) (x addr value : Nat) : CmdRef × State :=
  match s.translate 0 x addr Need.write with
  | .error _ => (.none, s)
  | .ok pa =>
    (match homeOf pa with | .remote _ => .signal s.msgNo | _ => .none,
      (s.dropLacking 0 x addr Need.write).agentWake x (s.ctx x).epoch pa addr (leBytes 8 value))

/-- An engine operation owns the line that a signal writes, or one that its walk reads (R90, R356). -/
def State.signalHeld (s : State) (x addr : Nat) : Bool :=
  s.walkHeld 0 x addr Need.write || match s.translate 0 x addr Need.write with
  | .error _ => false
  | .ok pa => !s.unowned pa 8

/-- Start a replay (R138): no earlier replay of the same graph is in progress; the graph is read and checked and its
parameters are snapped in one step. `none` within the pair is a malformed graph, as is one that cannot be read (DESIGN CHOICE,
log 76). -/
def State.startReplay (s : State) (x queue graph : Nat) : Option (Option (CmdRef × State)) :=
  if s.replays.any (fun r => r.2.ctx == x && r.2.graph == graph && !s.cmdDone (.replay r.1)) then none else
  match s.readV x graph 64 with
  | none => some none
  | some hb =>
    let h := leNat hb
    let nodes := bitsOf h 0 32
    let base := bitsOf h 64 64
    if nodes = 0 ∨ 4096 < nodes ∨ bitsOf h 32 32 ≠ 0 ∨ bitsOf h 128 384 ≠ 0 ∨ base % 2048 ≠ 0 then some none else
    match s.readV x (graph + 64) (128 * nodes), s.readV x base 2048 with
    | some nb, some gp =>
      if (List.range nodes).any (fun k => badNode (leNat ((nb.drop (128 * k)).take 128))) then some none
      else
        let r : Replay := ⟨x, queue, graph, nodes, some ((List.range 256).map (fun k => leNat ((gp.drop (8 * k)).take 8))), 0, .none, []⟩
        some (some (.replay s.next, { s with replays := s.replays.put s.next r, next := s.next + 1 }))
    | _, _ => some none

/-- What starting a command reads waits for a walk (R90, R356): the words of its address, and what a launch record or a graph names. -/
def State.commandHeld (s : State) (x : Nat) (p : Packet) : Bool :=
  let held (a n : Nat) : Bool := s.rangeHeld 0 x Need.read a n
  !s.owners.isEmpty && match p.kind with
  | 1 => held p.addr 128 || (match s.readV x p.addr 128 with
    | none => false
    | some bs =>
      let r := leNat bs
      held (fld r 0 8) 256 || held (fld r 8 8) (fld r 0x10 4 % 257) ||
        (bitOf (fld r 0x18 8) 23 && (held (fld r 0x20 8) 4096 || held (fld r 0x28 8) 1024 ||
          (List.range 256).any (fun i =>
            let e := leNat ((((s.readV x (fld r 0x20 8) 4096).getD []).drop (16 * i)).take 16)
            held (bitsOf e 0 64) (4 * bitsOf e 64 32)))))
  | 2 => held p.addr 8
  | 4 => held p.addr 64 || (match s.readV x p.addr 64 with
    | none => false
    | some bs => held (p.addr + 64) (128 * min 4096 (bitsOf (leNat bs) 0 32)) || held (bitsOf (leNat bs) 64 64) 2048)
  | _ => false

/-- Start a packet's command (R121): `patch` turns a launch record into the one used. -/
def State.startCommand (s : State) (x queue : Nat) (p : Packet) (patch : Nat → Nat) (graphNode : Bool) : Option Started :=
  match p.kind with
  | 0 => some (some (.none, s))
  | 1 =>
    let rec? := s.readV x p.addr 128
    let r := s.launchRecord x queue (patch (leNat (rec?.getD []))) (rec?.isSome && p.addr % 128 == 0) graphNode
    some (some (.kernel r.1, r.2))
  | 2 => if cmpHolds p.cmp (leNat ((s.readV x p.addr 8).getD [])) p.value && (s.readV x p.addr 8).isSome then some (some (.none, s)) else some none
  | 3 => if s.signalHeld x p.addr then some none else some (some (s.signalWrite x p.addr p.value))
  | _ => match s.startReplay x queue p.addr with
    | none => some none
    | some none => none
    | some (some r) => some (some r)

/-- The SERIAL condition of a command after `prev` (R119, R121). -/
def State.mayStart (s : State) (p : Packet) (prev : CmdRef) : Bool := !(p.serial || p.kind == 3) || s.cmdDone prev

/-- The queue halts at its head (R120): host event 0x0051 with the packet's address. -/
def State.haltQueue (s : State) (x q : Nat) : State :=
  let qu := (s.ctx x).queue q
  (s.modQueue x q (fun qu => { qu with st := .halted })).event 5 0x51 x (qu.slotAddr qu.ridx)

/-- The head has started: the read index advances (R120). -/
def State.advanceQueue (s : State) (x q : Nat) (c : CmdRef) : State :=
  s.modQueue x q (fun qu =>
    let r := (qu.ridx + 1) % 2 ^ 32
    { qu with ridx := r, st := if r = qu.widx then .idle else .ready, prev := c })

/-- WIDX runs ahead of RIDX by more than SIZE (R378). -/
def Queue.overrun (qu : Queue) : Bool := decide (qu.size < (qu.widx + 2 ^ 32 - qu.ridx) % 2 ^ 32)

/-- The head of a ready queue: halted where it is malformed; started where it is of KIND `kind` and may start; a wait whose
condition is false blocks the queue (R120). A packet slot that cannot be read halts the queue as a malformed packet does (DESIGN CHOICE,
log 73). -/
def State.queueHead (s : State) (x q kind : Nat) : State :=
  let qu := (s.ctx x).queue q
  if !(qu.st == .ready) || !s.admitted x || s.stopped then s
  else if qu.ridx = qu.widx then s.modQueue x q (fun qu => { qu with st := .idle })
  else if qu.overrun then s.haltQueue x q
  else if s.rangeHeld 0 x Need.read (qu.slotAddr qu.ridx) 64 then s
  else match s.readV x (qu.slotAddr qu.ridx) 64 with
  | none => s.haltQueue x q
  | some bs =>
    let p := Packet.ofNat (leNat bs)
    if p.bad then s.haltQueue x q
    else if p.kind ≠ kind || !s.mayStart p qu.prev || s.commandHeld x p then s
    else match s.startCommand x q p id false with
    | none => s.haltQueue x q
    | some none => if kind = 2 then s.modQueue x q (fun qu => { qu with st := .blocked }) else s
    | some (some (c, s1)) => s1.advanceQueue x q c

/-- A replay in progress starts its next node where it may (R138); each node is read as it starts (DESIGN CHOICE, log 77). A malformed graph
that a node names halts the queue, with the packet address of the slot at RIDX, and the node is tried again when the queue resumes
(DESIGN CHOICE, log 100). -/
def State.replayNode (s : State) (r : Nat) : State :=
  match s.replays.find? r with
  | none => s
  | some p =>
    if p.nodes ≤ p.next || !s.admitted p.ctx || s.stopped || s.rangeHeld 0 p.ctx Need.read (p.graph + 64 + 128 * p.next) 128 then s else
    match s.readV p.ctx (p.graph + 64 + 128 * p.next) 128 with
    | none => s
    | some nb =>
      let node := leNat nb
      let k := Packet.ofNat (node % 2 ^ 512)
      if k.bad || !s.mayStart k p.prev || s.commandHeld p.ctx k then s else
      match s.startCommand p.ctx p.queue k (fun rec => patchRecord rec p.graph (p.snap.getD []) (nodePatches node)) true with
      | some (some (c, s1)) =>
        { s1 with replays := s1.replays.modify r (fun p => { p with next := p.next + 1, prev := c, started := p.started ++ [c] }) }
      | some none => s
      | none => if ((s.ctx p.ctx).queue p.queue).st == .halted then s else s.haltQueue p.ctx p.queue

/-! ## Events -/

/-- A queue is enabled (R120, R378). -/
def State.enableQueue (s : State) (x q : Nat) : State :=
  let qu := (s.ctx x).queue q
  if s.hasCtx x && decide (q < 64) && qu.st == .disabled then
    s.modQueue x q (fun qu => { qu with st := if qu.ridx = qu.widx then .idle else .ready })
  else s

/-- A queue is disabled (R120, R378): commands already started run on. -/
def State.disableQueue (s : State) (x q : Nat) : State :=
  if s.hasCtx x && decide (q < 64) then s.modQueue x q (fun qu => { qu with st := .disabled }) else s

/-- A halted queue resumes (R120, R378). -/
def State.resumeQueue (s : State) (x q : Nat) : State :=
  if s.hasCtx x && decide (q < 64) && ((s.ctx x).queue q).st == .halted then s.modQueue x q (fun qu => { qu with st := .ready }) else s

/-- A queue's doorbell is rung (R120, R378): an idle queue whose ring holds packets is ready. -/
def State.ringDoorbell (s : State) (x q : Nat) : State :=
  let qu := (s.ctx x).queue q
  if s.hasCtx x && decide (q < 64) && qu.st == .idle && qu.ridx != qu.widx then s.modQueue x q (fun qu => { qu with st := .ready })
  else s

/-- QUEUE_ENABLE (R120); like every event of a master, not served in recovery (R384). -/
def execQueueEnable (x q : Nat) (s : State) : Outcome State Fault Refusal :=
  if s.recovering then hold s else .next (s.enableQueue x q)

/-- QUEUE_DISABLE (R120). -/
def execQueueDisable (x q : Nat) (s : State) : Outcome State Fault Refusal :=
  if s.recovering then hold s else .next (s.disableQueue x q)

/-- QUEUE_RESUME (R120). -/
def execQueueResume (x q : Nat) (s : State) : Outcome State Fault Refusal :=
  if s.recovering then hold s else .next (s.resumeQueue x q)

/-- DOORBELL (R120, R378): a write of any value. -/
def execDoorbell (x q : Nat) (_ : Word) (s : State) : Outcome State Fault Refusal :=
  if s.recovering then hold s else .next (s.ringDoorbell x q)

/-- NOOP_COMMAND (R121). -/
def execNoopCommand (x q : Nat) (s : State) : Outcome State Fault Refusal := .next (s.queueHead x q 0)

/-- LAUNCH_COMMAND (R126). -/
def execLaunchCommand (x q : Nat) (s : State) : Outcome State Fault Refusal := .next (s.queueHead x q 1)

/-- WAIT_COMMAND (R121). -/
def execWaitCommand (x q : Nat) (s : State) : Outcome State Fault Refusal := .next (s.queueHead x q 2)

/-- SIGNAL_COMMAND (R121). -/
def execSignalCommand (x q : Nat) (s : State) : Outcome State Fault Refusal := .next (s.queueHead x q 3)

/-- REPLAY_COMMAND (R138): the next node of a replay of this queue that is in progress, or the replay at the queue's head
where no such replay can go on. -/
def execReplayCommand (x q : Nat) (s : State) : Outcome State Fault Refusal :=
  let mine := (s.replays.filter (fun r => r.2.ctx == x && r.2.queue == q && decide (r.2.next < r.2.nodes))).map (·.1)
  match mine.find? (fun r => decide (s.replayNode r ≠ s)) with
  | some r => .next (s.replayNode r)
  | none => .next (s.queueHead x q 4)

end Sys2Proof.Machine
end

