-- ==== Sys2Proof/Machine/Place.lean ====
section
/-!
DEFINITION. Placing crews (R122, R128 to R133, R140 to R142), steals, role rebindings, and the life of a kernel (R134, R135).
-/

namespace Sys2Proof.Machine

open Sys2Proof Host

/-! ## Room on a core (R129, R140) -/

/-- The smallest power of two that is at least `n`. -/
def pow2Above (n : Nat) : Nat := 2 ^ bitLen (n - 1)

/-- Wave slots of a core that its resident crews hold (R168). -/
def State.slotsUsed (s : State) (core : Nat) : List Nat :=
  (s.crewsOn core).flatMap (fun e => (List.range e.2.nw).map (fun i => e.2.base + i))

/-- The lowest first slot for `n` waves on a core (R140). -/
def State.slotFor (s : State) (core n : Nat) : Option Nat :=
  let used := s.slotsUsed core
  let a := pow2Above n
  ((List.range (64 / a)).map (fun i => a * i)).find? (fun b => decide (b + n ≤ 64) && (List.range n).all (fun i => !used.contains (b + i)))

/-- `n` waves may start at slot `base` of a core (R140). -/
def State.slotFits (s : State) (core n base : Nat) : Bool :=
  let used := s.slotsUsed core
  base % pow2Above n == 0 && decide (base + n ≤ 64) && (List.range n).all (fun i => !used.contains (base + i))

/-- Free scratchpad blocks of a core whose scratchpad has `split` steps of 256 KiB, ascending. -/
def State.blocksFree (s : State) (core split : Nat) : List Nat :=
  let used := (s.crewsOn core).flatMap (fun e => e.2.blocks.vals)
  (List.range (16 * split)).filter (fun b => !used.contains b)

/-- The core has the kernel's split, or no crew, so that its split may change (R129). -/
def State.splitFits (s : State) (core split : Nat) : Bool := (s.core core).split == split || (s.crewsOn core).isEmpty

/-- A core has room for a crew of `n` waves and `segs` register segments (R140). -/
def State.hasRoom (s : State) (core n segs scratch split : Nat) : Bool :=
  (s.slotFor core n).isSome && decide (segs ≤ (s.segsFree core).length) && s.splitFits core split &&
    decide (scratch ≤ (s.blocksFree core split).length)

/-- Room for a crew of a kernel. -/
def State.roomFor (s : State) (kn : Kernel) (core : Nat) : Bool := s.hasRoom core kn.waves (kn.waves * kn.regs) kn.scratch kn.split

/-! ## Whose turn (R122, R130, R131) -/

/-- The next crew of an owner (die or role): requeued ones first. -/
def Kernel.nextCrew (kn : Kernel) (owner : Nat) : Option Nat := ((kn.requeued.rd [] owner) ++ (kn.unplaced.rd [] owner)).head?

/-- A level is declared, so that crews are placed by whole groups (R128). -/
def Kernel.leveled (kn : Kernel) : Bool := kn.levels.any lvDeclared

/-- A pod- or die-domain level is declared, whose groups lie in one die (R128). -/
def Kernel.oneDie (kn : Kernel) : Bool := kn.levels.any (fun w => lvDeclared w && decide (lvDom w < 2))

/-- The owners whose crews may be placed on a core: its die's distributor, or the roles bound to it. R128 has the
distributors together place a group of a pod- or die-domain level within one instance, whichever dies own its crews by R130. DEDUCED
(log entry 20). -/
def Kernel.owners (kn : Kernel) (core : Nat) : List Nat :=
  if kn.pinned then (kn.bind.filter (fun e => e.2 == core)).map (·.1) else if kn.oneDie then [0, 1, 2, 3] else [dieOf core]

/-- A kernel may place crews (R133, R134, R105). -/
def State.placing (s : State) (kn : Kernel) : Bool :=
  kn.st == .running && s.admitted kn.ctx && !(s.ctx kn.ctx).destroyHeld && !s.stopped && (!kn.walk || !kn.tiles.isEmpty)

/-- A core of an instance of a domain. -/
def instCores (dom inst : Nat) : List Nat := (List.range (domCores dom)).map (fun i => domCores dom * inst + i)

/-- The group of level `lvl + 3` that a crew belongs to (R127, R128): a gang-domain level holds the whole launch. -/
def Kernel.groupOf (kn : Kernel) (lvl c : Nat) : Nat := if lvDom (kn.levels.getD lvl 0) = 3 then 0 else c / groupSize kn.levels lvl

/-- The key of a group among a kernel's groups. -/
def groupKey (lvl g : Nat) : Nat := 2 ^ 40 * lvl + g

/-- The keys of the groups of a crew, with their domains (R128). -/
def Kernel.groupKeys (kn : Kernel) (c : Nat) : List (Nat × Nat) :=
  ((List.range 5).filter (fun lvl => lvDeclared (kn.levels.getD lvl 0))).map (fun lvl =>
    (groupKey lvl (kn.groupOf lvl c), min 2 (lvDom (kn.levels.getD lvl 0))))

/-- A core lies in the instances that hold the groups of crew `c` of which some crew has been placed (R128). -/
def Kernel.groupsAllow (kn : Kernel) (c core : Nat) : Bool :=
  (kn.groupKeys c).all (fun e => match kn.groups.find? e.1 with | some i => i == domOf e.2 core | none => true)

/-- Crews of a group of level `lvl + 3` that are still to be placed. -/
def Kernel.groupLeft (kn : Kernel) (lvl g : Nat) : List Nat :=
  (kn.unplaced ++ kn.requeued).flatMap (fun l => l.2.filter (fun c => kn.groupOf lvl c == g))

/-! ## CREW_PLACE -/

/-- A crew as it is placed (R142, R166, R167): its waves start at the kernel's entry clause, or where the crew was requeued
those live in its task start at their task entries. -/
def placedCrew (k : Nat) (kn : Kernel) (c core base : Nat) (blocks segs : List Nat) (task : Nat) (re : Option (Tab Nat)) : Crew :=
  let entry (w : Nat) : Option Nat := match re with | some t => t.find? w | none => some (kn.image + 256)
  let live := (List.range kn.waves).filter (fun w => (entry w).isSome)
  let wave (w : Nat) : Wave :=
    match entry w with
    | some e => kn.startWave (takeSegs (segs.drop (kn.regs * (live.findIdx (· == w)))) kn.regs) e
    | none => { kn.startWave [] 0 with live := false, lanes := 0, strands := [], inTask := false }
  { ctx := kn.ctx, kernel := k, idx := c, core := core, base := base, nw := kn.waves
    blocks := (List.range kn.scratch).map (fun i => (i, blocks.getD i 0)), sp := [], barPhase := 0, barPending := live.length
    arrived := [], task := .versioned, taskIdx := task, attempt := 0, ver := [], held := [], mended := [], segs := []
    waves := (List.range kn.waves).map (fun w => (w, wave w)), savedTask := .versioned, restarting := false, freezing := false, vacated := 0 }

/-- A core takes the kernel's split; a change invalidates its L1 (R129). -/
def Core.takeSplit (k : Core) (split : Nat) : Core := if k.split = split then k else { k with split := split, l1 := [] }

/-- Take the head of an owner's lists. -/
def Kernel.takeNext (kn : Kernel) (owner : Nat) : Kernel :=
  match kn.requeued.rd [] owner with
  | _ :: t => { kn with requeued := kn.requeued.put owner t }
  | [] => { kn with unplaced := kn.unplaced.put owner (kn.unplaced.rd [] owner).tail }

/-- A crew of a kernel takes its room on a core. -/
def State.seat (s : State) (k : Nat) (kn : Kernel) (core base c task : Nat) (re : Option (Tab Nat)) : State :=
  let cr := placedCrew k kn c core base (s.blocksFree core kn.split) (s.segsFree core) task re
  let s1 := s.modCore core (fun q => q.takeSplit kn.split)
  { s1 with next := s.next + 1, crews := s1.crews.put s.next cr }

/-- The handler that was registered with the images is designated as its crew, number `n` of the table, is placed (R104; log 21). -/
def State.designateNamed (s : State) (n : Nat) (kn : Kernel) (c : Nat) : State :=
  match (s.ctx kn.ctx).handlerName with
  | some (img, i, w) =>
    if img = kn.image ∧ i = c ∧ (s.ctx kn.ctx).handler = none ∧ (s.wave? n w).any (fun wv => wv.live)
    then s.designate kn.ctx n w 0 (kn.image + 256) else s
  | none => s

/-- An owner's next crew `c` is placed on a core from slot `base`, with a first task (R122, R128, R133, R166). -/
def State.putCrew (s : State) (k : Nat) (kn : Kernel) (owner core base c tile : Nat) : State :=
  let re := kn.restarts.find? c
  let task := if kn.walk then tile else (re.map (·.1)).getD 0
  let s1 := s.seat k kn core base c task (re.map (·.2))
  let s2 := { s1 with rotor := s1.rotor.put (dieOf core) (kn.ctx * 64 + kn.queue + 1) }
  let s3 := s2.modKernel k (fun kn => { kn.takeNext owner with
    tiles := if kn.walk then kn.tiles.filter (· ≠ tile) else kn.tiles
    placed := if kn.placed.contains c then kn.placed else c :: kn.placed
    groups := (kn.groupKeys c).foldl (fun t e => t.put e.1 (domOf e.2 core)) kn.groups
    owner := kn.owner.put c owner, restarts := kn.restarts.del c, ids := s.next :: kn.ids })
  (s3.modCtx kn.ctx (fun cx => { cx with st := .running })).designateNamed s.next kn c

/-- Crews still to come take room on a core, as many as fit up to `n`; the number left, and the core so filled. -/
def State.fillCore (s : State) (k : Nat) (kn : Kernel) (core : Nat) : Nat → Nat × State
  | 0 => (0, s)
  | n + 1 =>
    match (if s.roomFor kn core then s.slotFor core kn.waves else none) with
    | none => (n + 1, s)
    | some b => (s.seat k kn core b 0 0 none).fillCore k kn core n

/-- The core that the role of a pinned kernel's unplaced crew is bound to. -/
def Kernel.boundCore (kn : Kernel) (c : Nat) : Option Nat :=
  ((kn.unplaced ++ kn.requeued).filter (fun l => l.2.contains c)).head?.bind (fun l => kn.bind.find? l.1)

/-- Crews of a pinned kernel take room on the cores that their roles are bound to; one whose role is bound to none of them waits for a
rebinding (R132). -/
def State.fillBound (s : State) (k : Nat) (kn : Kernel) (cores : List Nat) : List Nat → Option State
  | [] => some s
  | c :: t =>
    match (kn.boundCore c).filter cores.contains with
    | none => s.fillBound k kn cores t
    | some core =>
      match (if s.roomFor kn core then s.slotFor core kn.waves else none) with
      | none => none
      | some b => (s.seat k kn core b 0 0 none).fillBound k kn cores t

/-- The rest of a group of level `lvl + 3` takes room on some cores, each of its groups of the level below that is not yet begun within
one instance of that level's domain; none where it finds no room. -/
def State.fillGroup (s : State) (k : Nat) (kn : Kernel) (cores : List Nat) : Nat → Nat → Option State
  | 0, g =>
    if kn.pinned then s.fillBound k kn cores (kn.groupLeft 0 g) else
    let r := cores.foldl (fun (x : Nat × State) core => x.2.fillCore k kn core x.1) ((kn.groupLeft 0 g).length, s)
    if r.1 = 0 then some r.2 else none
  | lvl + 1, g =>
    if kn.pinned then s.fillBound k kn cores (kn.groupLeft (lvl + 1) g) else
    let dom := min 2 (lvDom (kn.levels.getD lvl 0))
    let subs := (distinct ((kn.groupLeft (lvl + 1) g).map (kn.groupOf lvl))).filter (fun h => (kn.groups.find? (groupKey lvl h)).isNone)
    subs.foldl (fun (acc : Option State) h => acc.bind (fun (s : State) =>
      (List.range 32).findSome? (fun i => s.fillGroup k kn ((instCores dom i).filter cores.contains) lvl h))) (some s)

/-- Every crew left of the groups that a pinned kernel would begin with crew `c` has a bound role (R128, R132). -/
def Kernel.groupsBound (kn : Kernel) (c : Nat) : Bool :=
  !kn.pinned || (kn.groupKeys c).all (fun e => (kn.groups.find? e.1).isSome ||
    (kn.groupLeft (e.1 / 2 ^ 40) (e.1 % 2 ^ 40)).all (fun x => (kn.boundCore x).isSome))

/-- The groups begun of running kernels: kernel, level less 3, group, instance. -/
def State.groupsBegun (s : State) : List (Nat × Kernel × Nat × Nat × Nat) :=
  s.kernels.flatMap (fun e => if e.2.st == .running then e.2.groups.map (fun g => (e.1, e.2, g.1 / 2 ^ 40, g.1 % 2 ^ 40, g.2)) else [])

/-- Each group of which some crew has been placed finds room for the rest of it where it lies, all groups at once (R128). -/
def State.groupsKeep (s : State) : Bool :=
  (s.groupsBegun.foldl (fun (acc : Option State) g => acc.bind (fun s =>
    s.fillGroup g.1 g.2.1 (instCores (min 2 (lvDom (g.2.1.levels.getD g.2.2.1 0))) g.2.2.2.2) g.2.2.1 g.2.2.2.1)) (some s)).isSome

/-! ## Whose turn it is -/

/-- A kernel could place its next crew of some owner on a core, as the next crew of all (R122, R128). -/
def State.couldPlace (s : State) (k : Nat) (kn : Kernel) (core : Nat) : Bool :=
  s.placing kn && s.roomFor kn core && (kn.owners core).any (fun o =>
    match kn.nextCrew o with
    | none => false
    | some c => kn.groupsAllow c core && kn.groupsBound c &&
      ((!kn.leveled && s.kernels.all (fun e => e.2.groups.isEmpty)) || (List.range 64).any (fun b =>
        s.slotFits core kn.waves b && (s.putCrew k kn o core b c (kn.tiles.headD 0)).groupsKeep)))

/-- The number by which distributors rotate (R122). -/
def Kernel.turn (kn : Kernel) : Nat := kn.ctx * 64 + kn.queue

/-- The kernel is one that the core's distributor may take from next (R122): no launch of a higher-priority queue could
place here, and among queues of its priority it is the next in rotation. -/
def State.placeTurn (s : State) (kn : Kernel) (core : Nat) : Bool :=
  let prio (kn : Kernel) : Nat := ((s.ctx kn.ctx).queue kn.queue).prio
  let dist (kn : Kernel) : Nat := (kn.turn + 65536 - s.rotor.rd 0 (dieOf core)) % 65536
  s.kernels.all (fun e => decide (prio e.2 < prio kn) || (prio e.2 == prio kn && decide (dist kn ≤ dist e.2)) || !s.couldPlace e.1 e.2 core)

/-- Place an owner's next crew on a core from slot `base` with a first task; none where R122, R128, R129 or R140 forbids it. -/
def State.placeCrew (s : State) (k owner core base c tile : Nat) : Option State :=
  match s.kernel? k with
  | none => none
  | some kn =>
      if !s.placing kn || !s.roomFor kn core || !s.slotFits core kn.waves base || decide (Config.cores ≤ core) || !(kn.owners core).contains owner ||
          kn.nextCrew owner != some c || !kn.groupsAllow c core || !kn.groupsBound c || !s.placeTurn kn core || (kn.walk && !kn.tiles.contains tile) then none
      else some (s.putCrew k kn owner core base c tile)

/-- CREW_PLACE (R122, R140): `die` is the distributor's die, or in pinned mode the role. A placement that would take the
room that a partly placed group still needs is not made (R128). -/
def execCrewPlace (k die core base c tile : Nat) (s : State) : Outcome State Fault Refusal :=
  match s.placeCrew k die core base c tile with
  | some s1 => if s1.groupsKeep then .next s1 else hold s
  | none => hold s

/-! ## Steals and rebindings -/

/-- STEAL_MESSAGE (R130): a die with room and no unplaced crew of the kernel is handed the top half of another's, or its
one. -/
def execStealMessage (k thief victim : Nat) (s : State) : Outcome State Fault Refusal :=
  match s.kernel? k with
  | none => hold s
  | some kn =>
    let mine := kn.unplaced.rd [] victim
    let u := mine.length
    let h := if u = 1 then 1 else u / 2
    let idle := (kn.unplaced.rd [] thief).isEmpty && (kn.requeued.rd [] thief).isEmpty
    let room := ((List.range 64).map (fun i => 64 * thief + i)).any (fun c => s.roomFor kn c)
    if kn.pinned || !(kn.st == .running) || thief == victim || decide (4 ≤ thief) || decide (4 ≤ victim) || !idle || !room || u == 0 then hold s
    else .next (s.modKernel k (fun kn => { kn with
      unplaced := (kn.unplaced.put victim (mine.take (u - h))).put thief (mine.drop (u - h)) }))

/-- The pieces of a range that lie in one 256-byte block each: first address and bytes. -/
def blocksOf (a n : Nat) : List (Nat × Nat) :=
  (List.range ((a % 256 + n + 255) / 256)).map (fun i =>
    let lo := max a ((a / 256 + i) * 256)
    (lo, min (a + n) ((a / 256 + i + 1) * 256) - lo))

/-- The physical pieces of the group binding table in memory that are mapped, with the bytes that the copy gives them (R132). -/
def State.rolesPieces (s : State) (kn : Kernel) (roles : List Nat) : List (Nat × List Byte) :=
  let bs := roles.flatMap (leBytes 4)
  (blocksOf kn.rolesAt bs.length).filterMap (fun p =>
    match s.translate 0 kn.ctx p.1 Need.write with
    | .error _ => none
    | .ok pa => some (pa, (bs.drop (p.1 - kn.rolesAt)).take p.2))

/-- ROLE_REBINDING (R132): a role's new core enters the distributor's copy of the table, and the copy is written back to ROLES as far as
it is mapped. -/
def execRoleRebinding (k role core : Nat) (s : State) : Outcome State Fault Refusal :=
  match s.kernel? k with
  | none => hold s
  | some kn =>
    if s.recovering || !kn.pinned || !(kn.st == .running) || decide (256 ≤ role) || decide (Config.cores ≤ core) then hold s
    else
      let roles := kn.roles.set role (2 ^ 31 + core)
      let ps := s.rolesPieces kn roles
      if s.rangeHeld 0 kn.ctx Need.write kn.rolesAt (4 * roles.length) then hold s
      else if !ps.all (fun p => s.unowned p.1 p.2.length) then hold s
      else .next (ps.foldl (fun (u : State) p => u.ctxWrite kn.ctx (s.ctx kn.ctx).epoch p.1 p.2)
        (s.modKernel k (fun kn => { kn with bind := kn.bind.put role core, roles := roles })))

/-- In pinned mode crews return in their original order, which is the order of placement (R131, R132). -/
def Kernel.inRoleOrder (kn : Kernel) (l : List Nat) : List Nat := kn.placed.reverse.filter (fun c => l.contains c)

/-- A crew of a group other than `c` has been placed and not requeued since: it is resident, saved or has ended (R128). -/
def Kernel.groupBegun (kn : Kernel) (c key : Nat) : Bool :=
  kn.placed.any (fun x => x != c && groupKey (key / 2 ^ 40) (kn.groupOf (key / 2 ^ 40) x) == key && !kn.requeued.any (fun l => l.2.contains x))

/-- A crew that is vacated in discard-and-requeue mode (R106, R130, R132, R133): it leaves its core; its task, from its task
entries, returns to the front of its owner's list, its tile to the walker. The owner of a crew that was stolen is the die that took it (DESIGN CHOICE,
log 104). -/
def State.requeueCrew (s : State) (c : Nat) : State :=
  match s.crew? c with
  | none => s
  | some cr =>
    let s1 := s.removeCrew c
    match s.kernel? cr.kernel with
    | none => s1
    | some kn =>
      let o := kn.owner.rd 0 cr.idx
      let entries := (cr.waves.filter (fun w => w.2.inTask)).map (fun w => (w.1, w.2.entry))
      let l := kn.requeued.rd [] o
      let ins := (l.filter (fun x => decide (x < cr.idx))) ++ cr.idx :: l.filter (fun x => decide (cr.idx < x))
      s1.modKernel cr.kernel (fun kn => { kn with
        requeued := kn.requeued.put o (if kn.pinned then kn.inRoleOrder ins else ins)
        restarts := kn.restarts.put cr.idx (cr.taskIdx, entries)
        groups := kn.groups.filter (fun e => !(kn.groupKeys cr.idx).any (fun g => g.1 == e.1) || kn.groupBegun cr.idx e.1)
        tiles := if kn.walk then cr.taskIdx :: kn.tiles else kn.tiles })

/-! ## Kernels (R134, R135) -/

/-- KERNEL_START_TICK (R134, R136): the Tabor counter has reached START. -/
def execKernelStartTick (k : Nat) (s : State) : Outcome State Fault Refusal :=
  match s.kernel? k with
  | none => hold s
  | some kn => if kn.st == .waiting && decide (kn.start ≤ s.tabor.toNat) && !s.stopped then .next (s.startKernel k) else hold s

/-- A completion record (R135). -/
def doneRecord (kn : Kernel) (energy : Nat) : Nat :=
  let failed := kn.st == .failed
  (if failed then kn.status else 0) + (if failed then kn.cause % 2 ^ 16 else 0) * 2 ^ 16 +
    (if failed then kn.detail % 2 ^ 32 else 0) * 2 ^ 64 + kn.doneCrews % 2 ^ 32 * 2 ^ 96 + energy % 2 ^ 64 * 2 ^ 128 + kn.time % 2 ^ 64 * 2 ^ 192

/-- Every write of a kernel has been performed (R134): no entry, reduction or message of its crews is left, and no
store on its way to a register window. -/
def State.kernelQuiet (s : State) (kn : Kernel) : Bool :=
  !s.cores.any (fun k => k.2.wq.any (fun e => kn.ids.contains e.crew)) && !s.reds.any (fun r => kn.ids.contains r.crew) &&
  !s.pend.any (fun e => e.2.ctx == kn.ctx && !(e.2.who.isNone && e.2.core == noCore) && (e.2.msg.kind == 3 || e.2.msg.kind == 4 || e.2.msg.kind == 6)) && s.winWrites.isEmpty

/-- KERNEL_DRAINED (R134, R135): the completion record of a retiring kernel whose writes have been performed, in a cycle after that of
its last crew's end, or of a failed one; one that goes to another package is written when it is acknowledged. Its ENERGY is the kernel's
account, to which a turn's second operand adds nothing. A record whose address is not mapped is not written; where DONE is no multiple of
32, the refused field itself, the record takes the 32 bytes from there (DESIGN CHOICE, log 101). -/
def execKernelDrained (k _ : Nat) (s : State) : Outcome State Fault Refusal :=
  match s.kernel? k with
  | none => hold s
  | some kn =>
    let ready := (kn.st == .retiring && decide (kn.endCycle < s.cycle) && s.kernelQuiet kn) || (kn.st == .failed && !kn.recorded && !s.stopped)
    if !ready then hold s else
    let fin (s : State) : State := s.modKernel k (fun kn => { kn with recorded := true, st := if kn.st == .retiring then .complete else kn.st })
    match kn.recording with
    | some n => if (s.pend.find? n).isSome then hold s else .next (fin s)
    | none =>
    if s.walkHeld 0 kn.ctx kn.done Need.write then hold s else
    match s.translate 0 kn.ctx kn.done Need.write with
    | .error _ => .next (fin s)
    | .ok pa =>
      if !s.unowned pa 32 then hold s else
      let written := (s.dropLacking 0 kn.ctx kn.done Need.write).ctxWrite kn.ctx (s.ctx kn.ctx).epoch pa (leBytes 32 (doneRecord kn kn.energy))
      match homeOf pa with
      | .remote _ => .next (written.modKernel k (fun kn => { kn with recording := some s.msgNo }))
      | _ => .next (fin written)

/-- KERNEL_CANCEL (R134): from started, waiting and running, or in the cycle of the last crew's end. -/
def execKernelCancel (k : Nat) (s : State) : Outcome State Fault Refusal :=
  match s.kernel? k with
  | none => hold s
  | some kn =>
    if !s.recovering && (kn.st == .started || kn.st == .waiting || s.stillRunning kn) then .next (s.failKernel k 3 0 0) else hold s

end Sys2Proof.Machine
end

