-- ==== Sys2Proof/Machine/Sha.lean ====
section
/-!
DEFINITION. SHA-384 and HMAC-SHA-384, which R109, R384 and R385 name. The spec gives neither a definition of its own; they are those
of FIPS 180-4 and FIPS 198-1 (PRESUMED, log 12). The constants are computed from the primes, as FIPS 180-4 says they arise.
-/

namespace Sys2Proof.Machine

open Sys2Proof

/-- No number from 2 up to the `k`-th after it divides `n`. -/
def noDivisor (n : Nat) : Nat → Bool
  | 0 => true
  | k + 1 => n % (k + 2) != 0 && noDivisor n k

/-- The primes below 410, of which there are 80. -/
def smallPrimes : List Nat := (List.range 408).filterMap (fun i => if noDivisor (i + 2) i then some (i + 2) else none)

/-- The integer cube root of `n`, one bit at a time from bit `k - 1` down. -/
def icbrtFrom (n : Nat) : Nat → Nat → Nat
  | 0, r => r
  | k + 1, r =>
    let x := r + 2 ^ k
    icbrtFrom n k (if x * x * x ≤ n then x else r)

/-- The first 64 bits of the fractional part of a prime's cube root. -/
def cubeFrac (p : Nat) : Nat := icbrtFrom (p * 2 ^ 192) 68 0 % 2 ^ 64

/-- The first 64 bits of the fractional part of a prime's square root. -/
def squareFrac (p : Nat) : Nat := isqrt (p * 2 ^ 128) % 2 ^ 64

/-- A round constant for each of the 80 rounds. -/
def roundConstants : List (BitVec 64) := smallPrimes.map (fun p => BitVec.ofNat 64 (cubeFrac p))

/-- The chaining value of the hash: eight words. -/
structure Digest where
  /-- Word 0. -/
  a : BitVec 64
  /-- Word 1. -/
  b : BitVec 64
  /-- Word 2. -/
  c : BitVec 64
  /-- Word 3. -/
  d : BitVec 64
  /-- Word 4. -/
  e : BitVec 64
  /-- Word 5. -/
  f : BitVec 64
  /-- Word 6. -/
  g : BitVec 64
  /-- Word 7. -/
  h : BitVec 64
  deriving DecidableEq, Repr

/-- The value a hash begins from: from the ninth to the sixteenth prime. -/
def Digest.start : Digest :=
  let w (i : Nat) : BitVec 64 := BitVec.ofNat 64 (squareFrac (smallPrimes.getD (8 + i) 0))
  ⟨w 0, w 1, w 2, w 3, w 4, w 5, w 6, w 7⟩

/-- The exclusive or of three rotations of a word. -/
def mixRot (i j k : Nat) (x : BitVec 64) : BitVec 64 := x.rotateRight i ^^^ x.rotateRight j ^^^ x.rotateRight k

/-- The exclusive or of two rotations and a shift of a word. -/
def mixShift (i j k : Nat) (x : BitVec 64) : BitVec 64 := x.rotateRight i ^^^ x.rotateRight j ^^^ (x >>> k)

/-- The message words of the rounds that are left: sixteen are held, the next is made as the first is used. -/
def expand (n : Nat) (window : List (BitVec 64)) : List (BitVec 64) :=
  match n, window with
  | k + 1, w :: rest =>
    let new := mixShift 19 61 6 (rest.getD 13 0) + rest.getD 8 0 + mixShift 1 8 7 (rest.getD 0 0) + w
    w :: expand k (rest ++ [new])
  | _, _ => []

/-- A round with the sum of its constant and its message word. -/
def Digest.round (v : Digest) (kw : BitVec 64) : Digest :=
  let pick := (v.e &&& v.f) ||| (~~~v.e &&& v.g)
  let most := (v.a &&& v.b) ||| (v.c &&& (v.a ||| v.b))
  let t := v.h + mixRot 14 18 41 v.e + pick + kw
  ⟨t + mixRot 28 34 39 v.a + most, v.a, v.b, v.c, v.d + t, v.e, v.f, v.g⟩

/-- Word by word sum. -/
def Digest.add (x y : Digest) : Digest :=
  ⟨x.a + y.a, x.b + y.b, x.c + y.c, x.d + y.d, x.e + y.e, x.f + y.f, x.g + y.g, x.h + y.h⟩

/-- The number that bytes stand for, the first the most significant. -/
def beNat (bs : List Byte) : Nat := leNat bs.reverse

/-- `n` bytes of a number, the most significant first. -/
def beBytes (n v : Nat) : List Byte := (leBytes n v).reverse

/-- The chaining value after a 128-byte block. -/
def Digest.block (v : Digest) (bs : List Byte) : Digest :=
  let ws := expand 80 ((List.range 16).map (fun i => BitVec.ofNat 64 (beNat ((bs.drop (8 * i)).take 8))))
  v.add ((roundConstants.zipWith (· + ·) ws).foldl Digest.round v)

/-- The chaining value after the first `n` blocks of bytes. -/
def Digest.absorb (v : Digest) (bs : List Byte) : Nat → Digest
  | 0 => v
  | n + 1 => (v.block (bs.take 128)).absorb (bs.drop 128) n

/-- A message with its end mark and its length in bits, in whole blocks. -/
def shaPad (m : List Byte) : List Byte :=
  m ++ 0x80 :: List.replicate ((239 - m.length % 128) % 128) 0 ++ beBytes 16 (8 * m.length)

/-- SHA-384: 48 bytes. -/
def sha384 (m : List Byte) : List Byte :=
  let p := shaPad m
  let v := Digest.start.absorb p (p.length / 128)
  [v.a, v.b, v.c, v.d, v.e, v.f].flatMap (fun x => beBytes 8 x.toNat)

/-- HMAC-SHA-384 under a key of at most a block. -/
def hmac384 (key m : List Byte) : List Byte :=
  let pad (x : Byte) : List Byte := (key ++ List.replicate (128 - key.length) 0).map (fun b => b ^^^ x)
  sha384 (pad 0x5C ++ sha384 (pad 0x36 ++ m))

end Sys2Proof.Machine
end

