-- ==== Sys2Proof/Machine/Image.lean ====
section
/-!
DEFINITION. The bytes of a save image (R109, R153): header, wave records, sections and trailer as a save writes them, and what a restore
reads back from them (R111). R109 gives the sections and their sizes; the places within a header and a wave record are the model's
(DESIGN CHOICE, log 10).
-/

namespace Sys2Proof.Machine

open Sys2Proof Host

/-! ## Bytes -/

/-- Pad a section to whole units. -/
def padUnit (bs : List Byte) : List Byte := bs ++ List.replicate ((256 - bs.length % 256) % 256) 0

/-- A section of a record of `n` bytes. -/
def fixLen (n : Nat) (bs : List Byte) : List Byte := bs.take n ++ List.replicate (n - bs.length) 0

/-- `n` bytes from an offset, as a number. -/
def numAt (bs : List Byte) (off n : Nat) : Nat := leNat ((bs.drop off).take n)

/-- The words of a table, in order. -/
def tabBytesOf (n : Nat) (t : Tab Word) : List Byte := (List.range n).flatMap (fun i => leBytes 4 (t.rd 0 i).toNat)

/-- The doublewords of a table, in order. -/
def tabDwordBytes (n : Nat) (t : Tab Dword) : List Byte := (List.range n).flatMap (fun i => leBytes 8 (t.rd 0 i).toNat)

/-- The words of bytes, in order. -/
def wordsOf : List Byte → List Word
  | a :: b :: c :: d :: t => BitVec.ofNat 32 (leNat [a, b, c, d]) :: wordsOf t
  | _ => []

/-- The doublewords of words, in order. -/
def pairsOf : List Word → List Dword
  | a :: b :: t => (b ++ a) :: pairsOf t
  | _ => []

/-- A table of the values of a list that are not the default, from a first key. -/
def tabFrom {α : Type} [BEq α] (z : α) (base : Nat) (l : List α) : Tab α := (l.mapIdx (fun i x => (base + i, x))).filter (fun e => e.2 != z)

/-- A list cut into pieces of given lengths. -/
def cutBy : List Nat → List Byte → List (List Byte)
  | [], _ => []
  | n :: ns, bs => bs.take n :: cutBy ns (bs.drop n)

/-- A set of names as bits. -/
def nameBits {α : Type} (t : Tab α) : Nat := t.foldl (fun n e => n + 2 ^ e.1) 0

/-- The names whose bits are set, of the first `n`. -/
def namesIn (n bits : Nat) : List Nat := (List.range n).filter (fun k => bitOf bits k)

/-- A number that may be absent, in 8 bytes. -/
def optBytes (o : Option Nat) : List Byte := leBytes 8 ((o.map (· + 1)).getD 0)

/-- Such a number from its value. -/
def optOf (n : Nat) : Option Nat := if n = 0 then none else some (n - 1)

/-! ## Strands (R153) -/

/-- The code of what a strand waits on. -/
def Wait.code : Wait → Nat
  | .barrier _ _ _ => 1
  | .preArrival _ _ _ _ => 2
  | .wake _ _ _ _ _ _ _ _ => 3
  | .future _ _ => 4
  | .rbacq _ _ => 5
  | .join _ _ _ => 6
  | .split _ _ => 7
  | .tend => 8
  | .record => 9

/-- What a suspended strand waits on, in bytes: the object, the captured parts and destinations of a split, the cycles left of a limit. -/
def Wait.bytes : Wait → List Byte
  | .barrier (.scratch _ a) sc p => leBytes 1 0 ++ leBytes 8 a ++ leBytes 1 sc ++ leBytes 4 p
  | .barrier (.crew _) sc p => leBytes 1 1 ++ leBytes 8 0 ++ leBytes 1 sc ++ leBytes 4 p
  | .barrier (.device pa) sc p => leBytes 1 2 ++ leBytes 8 pa ++ leBytes 1 sc ++ leBytes 4 p
  | .preArrival lvl a hdr i => leBytes 1 lvl ++ leBytes 8 a ++ leBytes 8 hdr ++ (match encode i with
      | some x => leBytes 1 x.1 ++ leBytes 8 x.2.toNat
      | none => leBytes 9 0)
  | .wake pa cmp v sc d dl trp hdr => leBytes 8 pa ++ leBytes 1 cmp ++ leBytes 8 v.toNat ++ leBytes 1 sc ++ leBytes 1 d ++ optBytes dl ++
      leBytes 1 trp.toNat ++ leBytes 8 hdr
  | .future h d => leBytes 1 h ++ leBytes 1 d
  | .rbacq r n => leBytes 1 r ++ leBytes 1 n
  | .join pc tag ms => leBytes 8 pc ++ leBytes 2 tag ++ leBytes 1 ms.length ++
      ms.flatMap (fun m => leBytes 1 ((m.d.map (· + 1)).getD 0) ++ optBytes m.deadline)
  | .split parts hdr => leBytes 8 hdr ++ leBytes 1 parts.length ++ parts.flatMap (fun x => leBytes 8 x.1 ++ leBytes 16 x.2.toNat)
  | .tend => []
  | .record => []

/-- What a strand of crew `c` waits on, from its code and bytes. -/
def Wait.read (c code : Nat) (bs : List Byte) : Option Wait :=
  let f := numAt bs
  match code with
  | 1 => some (.barrier (match f 0 1 with | 0 => .scratch c (f 1 8) | 1 => .crew c | _ => .device (f 1 8)) (f 9 1) (f 10 4))
  | 2 => match decodeWord (f 17 1) (BitVec.ofNat 64 (f 18 8)) with
    | .ok i => some (.preArrival (f 0 1) (f 1 8) (f 9 8) i)
    | .error _ => none
  | 3 => some (.wake (f 0 8) (f 8 1) (BitVec.ofNat 64 (f 9 8)) (f 17 1) (f 18 1) (optOf (f 19 8)) (f 27 1 != 0) (f 28 8))
  | 4 => some (.future (f 0 1) (f 1 1))
  | 5 => some (.rbacq (f 0 1) (f 1 1))
  | 6 => some (.join (f 0 8) (f 8 2) ((List.range (f 10 1)).map (fun k => ⟨optOf (f (11 + 9 * k) 1), optOf (f (12 + 9 * k) 8)⟩)))
  | 7 => some (.split ((List.range (f 8 1)).map (fun k => (f (9 + 24 * k) 8, BitVec.ofNat 128 (f (17 + 24 * k) 16)))) (f 0 8))
  | 8 => some .tend
  | 9 => some .record
  | _ => none

/-- A strand as its wave record holds it (R153): no age, no reservation, the cycles left of a time limit. -/
def Strand.suspend (st : Strand) (now : Nat) : Strand :=
  { st with age := 0, resv := none, since := 0, st := match st.st with
    | .waiting (.join pc tag ms) => .waiting (.join pc tag (ms.map (fun m => { m with deadline := m.deadline.map (· - now) })))
    | .waiting (.wake pa cmp v sc d dl trp hdr) => .waiting (.wake pa cmp v sc d (dl.map (· - now)) trp hdr)
    | x => x }

/-- A strand that resumes: its time limits run on from now. -/
def Strand.revive (st : Strand) (now : Nat) : Strand :=
  { st with st := match st.st with
    | .waiting (.join pc tag ms) => .waiting (.join pc tag (ms.map (fun m => { m with deadline := m.deadline.map (· + now) })))
    | .waiting (.wake pa cmp v sc d dl trp hdr) => .waiting (.wake pa cmp v sc d (dl.map (· + now)) trp hdr)
    | x => x }

/-- What a strand waits on. -/
def Strand.wait? (st : Strand) : Option Wait := match st.st with | .waiting w => some w | _ => none

/-- The code of a strand's state. -/
def StrandState.code : StrandState → Nat
  | .unused => 0
  | .running => 1
  | .runnable => 2
  | .stalled => 3
  | .waiting _ => 4
  | .stopped => 5

/-- Bytes of the pool behind the fixed fields of a wave record. -/
def poolBytes : Nat := 398

/-- The bytes of what the four strands wait on, in strand order, with whether they fit in what is left of the pool (log 10). -/
def Wave.waitPool (w : Wave) (room : Nat) : List (Bool × List Byte) :=
  ((List.range 4).foldl (fun (acc : List (Bool × List Byte) × Nat) k =>
    let bs := ((w.strand k).wait?.map Wait.bytes).getD []
    if bs.length ≤ acc.2 then (acc.1 ++ [(true, bs)], acc.2 - bs.length) else (acc.1 ++ [(false, [])], acc.2)) ([], room)).1

/-- The fixed part of a strand in its wave record: mask, program counter, state, what it waits on, marks, the clause that waits. -/
def Strand.record (st : Strand) (held : Bool) : List Byte :=
  leBytes 16 st.mask.toNat ++ leBytes 8 st.pc ++ leBytes 1 st.st.code ++ leBytes 1 ((st.wait?.map Wait.code).getD 0) ++
    leBytes 1 (st.woken.toNat + 2 * st.tend.toNat + 4 * st.expired.toNat + 8 * held.toNat) ++ leBytes 8 st.waitHdr

/-- A strand from its fixed part and the pool's bytes from its own on; where the pool had no room, what it waits on stays. -/
def Strand.readRecord (st : Strand) (c : Nat) (bs pool : List Byte) : Strand :=
  let marks := numAt bs 26 1
  { st with
    mask := BitVec.ofNat 128 (numAt bs 0 16), pc := numAt bs 16 8, woken := bitOf marks 0, tend := bitOf marks 1, expired := bitOf marks 2
    waitHdr := numAt bs 27 8, age := 0, resv := none, since := 0
    st := match numAt bs 24 1 with
      | 0 => .unused
      | 1 => .running
      | 2 => .runnable
      | 3 => .stalled
      | 4 => if bitOf marks 3 then ((Wait.read c (numAt bs 25 1) pool).map StrandState.waiting).getD st.st else st.st
      | _ => .stopped }

/-! ## Wave records -/

/-- The code of a chunk's state. -/
def ChunkState.code : ChunkState → Nat
  | .opened => 1
  | .overflowed => 2
  | .exited => 3

/-- A chunk state from its code. -/
def ChunkState.ofCode (n : Nat) : ChunkState := match n with | 1 => .opened | 2 => .overflowed | _ => .exited

/-- The chunk of a wave that is open or overflowed, with its sm register (R305). -/
def Wave.chunkAt (w : Wave) : Option (Nat × Chunk) := (w.sm.filter (fun e => e.2.st == .opened || e.2.st == .overflowed)).head?

/-- An open chunk's part of the wave record: sm register, live set, carry base and count, E (R305). -/
def Wave.chunkBytes (w : Wave) : List Byte :=
  match w.chunkAt with
  | some e => leBytes 1 (e.1 + 1) ++ leBytes 16 e.2.live.toNat ++ leBytes 1 e.2.base ++ leBytes 1 e.2.n ++ leBytes 2 e.2.e
  | none => leBytes 21 0

/-- A state map's part of the wave record: state and mode, this wave's place among the chunk's waves, and their number. -/
def Chunk.record (ch : Chunk) : List Byte := leBytes 1 (ch.st.code + 4 * ch.crewMode.toNat) ++ leBytes 1 ch.q ++ leBytes 1 ch.m

/-- The descriptor of an expansion register in the wave record (R320). -/
def Exp.descriptor (x : Exp) : List Byte := leBytes 1 (x.kind + 4 * x.ord) ++ [x.cx, x.cy, x.cz, x.rad].flatMap (fun v => leBytes 4 v.toNat)

/-- A wave record (R109, R153, R235, R305, R320) of a suspended wave: uniform registers, predicates, flag counts and acquires, the order
register, handles, the names bound, marks, the task entry, the lanes, the crew barrier in wave 0's, the open chunk, the state maps, the
strands, and the pool with the descriptors of bound expansions and what the strands wait on. -/
def Wave.record (w : Wave) (wi : Nat) (cr : Crew) (k : Core) : List Byte :=
  let descs := w.exps.flatMap (fun e => (k.exps.rd Exp.empty e.2).descriptor)
  let pool := w.waitPool (poolBytes - descs.length)
  let ints := w.tiles.foldl (fun n e => n + (if (k.tiles.find? e.2).any (·.int) then 2 ^ e.1 else 0)) 0
  fixLen 1024 (tabBytesOf 64 w.sr ++ (List.range 7).flatMap (fun i => leBytes 16 (w.pr.rd 0 (i + 1)).toNat) ++
    (List.range 12).flatMap (fun i => leBytes 1 (w.fl.rd 0 i)) ++
    leBytes 6 (((List.range 12).map (fun i => w.facq.rd 0 i % 16 * 16 ^ i)).sum) ++ leBytes 1 w.xo ++
    (List.range 16).flatMap (fun i => leBytes 1 (((w.hd.find? i).map (fun h => h.code + 8 * h.scope)).getD 0)) ++
    leBytes 2 (nameBits w.seg) ++ leBytes 1 (nameBits w.tiles) ++ leBytes 1 (nameBits w.sm) ++ leBytes 2 (nameBits w.exps) ++
    leBytes 1 (w.live.toNat + 2 * w.inTask.toNat + 4 * (cr.arrived.contains wi).toNat) ++ leBytes 8 w.entry ++ leBytes 16 w.lanes.toNat ++
    (if wi = 0 then leBytes 4 cr.barPhase ++ leBytes 2 cr.barPending else leBytes 6 0) ++ w.chunkBytes ++
    (List.range 8).flatMap (fun i => ((w.sm.find? i).map Chunk.record).getD (leBytes 3 0)) ++ leBytes 1 ints ++
    ((List.range 4).zip pool).flatMap (fun x => (w.strand x.1).record x.2.1) ++ descs ++ pool.flatMap (·.2))

/-- Where the pool of a wave record begins. -/
def poolAt : Nat := 1024 - poolBytes

/-- The strands of a wave from its record, in order, each reading the pool from where the one before ended. -/
def Wave.readStrands (w : Wave) (c : Nat) (bs : List Byte) : Tab Strand :=
  ((List.range 4).foldl (fun (acc : Tab Strand × List Byte) k =>
    let fixed := (bs.drop (486 + 35 * k)).take 35
    let st := (w.strand k).readRecord c fixed acc.2
    let n := if bitOf (numAt fixed 26 1) 3 then ((st.wait?.map Wait.bytes).getD []).length else 0
    (if st.st == .unused then acc.1 else acc.1.put k st, acc.2.drop n))
    ([], bs.drop (poolAt + 17 * (namesIn 16 (numAt bs 407 2)).length))).1

/-- Chunk `n` of a wave from its record: its map comes from its own section, its segments stay in L2. -/
def Chunk.readRecord (ch : Chunk) (n : Nat) (bs : List Byte) : Chunk :=
  let b := numAt bs (461 + 3 * n) 1
  let ch := { ch with st := ChunkState.ofCode (b % 4), crewMode := bitOf b 2, q := numAt bs (462 + 3 * n) 1, m := numAt bs (463 + 3 * n) 1 }
  if numAt bs 440 1 = n + 1 then { ch with
    live := BitVec.ofNat 128 (numAt bs 441 16), base := numAt bs 457 1, n := numAt bs 458 1, e := numAt bs 459 2 } else ch

/-- A chunk that only an image's bytes know of. -/
def Chunk.blank : Chunk := ⟨.exited, false, 0, 0, 0, 0, [], [], 0, 1, 0⟩

/-- The names a record lists, each with what it had, or the default. -/
def readNames {α : Type} (n bits : Nat) (old : Tab α) (z : α) : Tab α := (namesIn n bits).map (fun k => (k, (old.find? k).getD z))

/-- A wave of crew `c` from its record; its handles take their operations afterwards. -/
def Wave.readRecord (w : Wave) (c : Nat) (bs : List Byte) : Wave :=
  let marks := numAt bs 409 1
  { w with
    sr := tabFrom 0 0 (wordsOf (bs.take 256))
    pr := tabFrom 0 1 ((cutBy (List.replicate 7 16) (bs.drop 256)).map (fun x => BitVec.ofNat 128 (leNat x)))
    fl := tabFrom 0 0 (((bs.drop 368).take 12).map (·.toNat))
    facq := tabFrom 0 0 ((List.range 12).map (fun i => numAt bs 380 6 / 16 ^ i % 16))
    xo := numAt bs 386 1
    hd := ((List.range 16).filter (fun i => numAt bs (387 + i) 1 != 0)).map (fun i =>
      (i, ⟨numAt bs (387 + i) 1 % 8, ((w.hd.find? i).map (·.op)).getD noOp, numAt bs (387 + i) 1 / 8⟩))
    seg := readNames 16 (numAt bs 403 2) w.seg 0
    tiles := readNames 8 (numAt bs 405 1) w.tiles noOp
    sm := (readNames 8 (numAt bs 406 1) w.sm Chunk.blank).mapV (fun n ch => ch.readRecord n bs)
    exps := readNames 16 (numAt bs 407 2) w.exps noOp
    live := bitOf marks 0, inTask := bitOf marks 1, entry := numAt bs 410 8, lanes := BitVec.ofNat 128 (numAt bs 418 16)
    strands := w.readStrands c bs }

/-- A wave that only an image's bytes know of. -/
def Wave.blank : Wave where
  live := false
  lanes := 0
  strands := []
  clause := none
  vr := []
  sr := []
  pr := []
  fl := []
  hd := []
  tiles := []
  exps := []
  xo := 0
  sm := []
  seg := []
  segRet := []
  marks := []
  entry := 0
  inTask := false
  facq := []
  yieldedStrand := none
  givenWay := none
  parked := false

/-! ## The image -/

/-- The per-boot key (R384; log 12). -/
def State.bootKey (s : State) : List Byte := (List.range 48).map (Config.bootKey s.boots)

/-- The operations of a crew that its engine section records: copies, then token-merging, then beam-engine operations. -/
def State.engineOps (s : State) (c : Nat) : List (Nat × Op) :=
  (List.range 3).flatMap (fun g => s.ops.filter (fun e => e.2.crew == c && engServes g e.2.instr))

/-- The crew as its image holds it. -/
def Crew.suspend (cr : Crew) (now : Nat) : Crew :=
  { cr with
    task := .saved, savedTask := cr.task, freezing := false
    waves := cr.waves.mapV (fun _ w => { w with marks := [], segRet := [], strands := w.strands.mapV (fun _ st => st.suspend now) }) }

/-- The sections of a crew's image after its header, in the order of R109: wave records, registers, scratchpad, accumulators,
expansions with state maps, engine entries. -/
def State.imageSections (s : State) (c : Nat) (cr : Crew) : List (List Byte) :=
  let k := s.core cr.core
  [(cr.suspend s.cycle).waves.flatMap (fun w => w.2.record w.1 cr k),
   cr.waves.flatMap (fun w => (w.2.seg.map (·.1)).flatMap (fun b => (List.range 2048).flatMap (fun i => leBytes 4 (w.2.vr.rd 0 (2048 * b + i)).toNat))),
   padUnit (cr.sp.bytes 0 cr.spadBytes),
   cr.waves.flatMap (fun w => w.2.tiles.flatMap (fun n =>
     let t := k.tiles.rd ⟨false, [], [], false, []⟩ n.2
     tabBytesOf 16384 t.el ++ tabDwordBytes 32 t.side)),
   cr.waves.flatMap (fun w => w.2.exps.flatMap (fun n => tabBytesOf 256 (k.exps.rd Exp.empty n.2).w)) ++
     cr.waves.flatMap (fun w => w.2.sm.flatMap (fun n => tabDwordBytes 128 n.2.map)),
   padUnit ((s.engineOps c).flatMap (fun e => (List.range 16).flatMap (fun n => leBytes 8 (e.2.engWord (cr.slot e.2.wave) n))))]

/-- The header of an image (R109): magic, context, crew, waves, section sizes, vacate time; and the first wave slot with the numbers of
copies, token-merging and beam-engine operations in the engine section. -/
def Crew.imageHeader (cr : Crew) (sections : List (List Byte)) (counts : List Nat) : List Byte :=
  fixLen 256 (leBytes 4 0x54414D31 ++ leBytes 4 cr.ctx ++ leBytes 4 cr.idx ++ leBytes 4 cr.nw ++ sections.flatMap (fun x => leBytes 4 x.length) ++
    leBytes 8 cr.vacated ++ leBytes 4 cr.base ++ counts.flatMap (leBytes 4))

/-- How many operations of each engine a crew's engine section records. -/
def State.engineCounts (s : State) (c : Nat) : List Nat :=
  (List.range 3).map (fun g => (s.ops.filter (fun e => e.2.crew == c && engServes g e.2.instr)).length)

/-- The bytes a save image's tag covers, in the order of R109. -/
def State.imageBody (s : State) (c : Nat) (cr : Crew) : List Byte :=
  let ss := s.imageSections c cr
  cr.imageHeader ss (s.engineCounts c) ++ ss.flatten

/-- A whole image: the body and its trailer. -/
def State.imageBytes (s : State) (c : Nat) (cr : Crew) : List Byte :=
  let body := s.imageBody c cr
  body ++ (hmac384 s.bootKey body).take 32 ++ List.replicate 224 0

/-! ## Reading (R111) -/

/-- The lengths of an image's sections after its header. -/
def headerLens (bs : List Byte) : List Nat := (List.range 6).map (fun k => numAt bs (16 + 4 * k) 4)

/-- The pieces of a section, one for each wave's named thing in order, keyed by wave and name. -/
def Crew.pieces {α : Type} (cr : Crew) (names : Wave → Tab α) (size : Nat) (bs : List Byte) : List ((Nat × Nat) × List Byte) :=
  let keys := cr.waves.flatMap (fun w => (names w.2).map (fun n => (w.1, n.1)))
  keys.zip (cutBy (keys.map (fun _ => size)) bs)

/-- The piece of a wave's named thing. -/
def pieceOf (l : List ((Nat × Nat) × List Byte)) (w n : Nat) : List Byte := ((l.find? (fun e => e.1 == (w, n))).map (·.2)).getD []

/-- A descriptor's bytes over the words of an expansion register (R320). -/
def readDescriptor (bs : List Byte) (w : Tab Word) : Exp :=
  let v (k : Nat) : Word := BitVec.ofNat 32 (numAt bs (1 + 4 * k) 4)
  ⟨w, numAt bs 0 1 % 4, numAt bs 0 1 / 4, v 0, v 1, v 2, v 3, true, []⟩

/-- An image whose bytes have been verified holds what they say (R111): which crew it is, its waves, registers, scratchpad, tiles,
expansions and state maps. The version and the segments are not in an image (R107). -/
def Image.readBytes (i : Image) (bs : List Byte) : Image :=
  let sec := cutBy (headerLens bs) (bs.drop 256)
  let at_ (n : Nat) : List Byte := sec.getD n []
  let rec_ (j : Nat) : List Byte := ((at_ 0).drop (1024 * j)).take 1024
  let nw := numAt bs 12 4
  let waves : Tab Wave := (List.range nw).map (fun j => (j, ((i.crew.waves.find? j).getD Wave.blank).readRecord i.id (rec_ j)))
  let cr := { i.crew with
    idx := numAt bs 8 4, nw := nw, waves := waves, vacated := numAt bs 40 8, base := numAt bs 48 4
    barPhase := numAt (rec_ 0) 434 4, barPending := numAt (rec_ 0) 438 2
    arrived := (List.range nw).filter (fun j => bitOf (numAt (rec_ j) 409 1) 2)
    sp := tabFrom 0 0 ((at_ 2).take i.crew.spadBytes) }
  let regs := cr.pieces (·.seg) 8192 (at_ 1)
  let tiles := cr.pieces (·.tiles) 65792 (at_ 3)
  let exps := cr.pieces (·.exps) 1024 (at_ 4)
  let maps := cr.pieces (·.sm) 1024 ((at_ 4).drop (1024 * exps.length))
  let desc (j n : Nat) : List Byte := (((rec_ j).drop (poolAt + 17 * ((namesIn 16 (numAt (rec_ j) 407 2)).findIdx (· == n))))).take 17
  { i with
    crew := { cr with waves := waves.mapV (fun j w => { w with
      vr := w.seg.flatMap (fun b => tabFrom 0 (2048 * b.1) (wordsOf (pieceOf regs j b.1)))
      sm := w.sm.mapV (fun n ch => { ch with map := tabFrom 0 0 (pairsOf (wordsOf (pieceOf maps j n))) }) }) }
    tiles := tiles.map (fun e => (8 * e.1.1 + e.1.2,
      ⟨bitOf (numAt (rec_ e.1.1) 485 1) e.1.2, tabFrom 0 0 (wordsOf (e.2.take 65536)), tabFrom 0 0 (pairsOf (wordsOf (e.2.drop 65536))), true, []⟩))
    exps := exps.map (fun e => (16 * e.1.1 + e.1.2, readDescriptor (desc e.1.1 e.1.2) (tabFrom 0 0 (wordsOf e.2)))) }

/-- An operation that only an image's entry knows of: it is performed from its entry (R111). -/
def Op.blank (crew ctx attempt epoch : Nat) : Op where
  crew := crew
  wave := 0
  strand := 0
  attempt := attempt
  ctx := ctx
  hdr := 0
  instr := .nop ⟨false, 0, 0, 0, 0, 0, false, false, false, false, 0⟩
  lanes := allLanes
  flag := 0
  st := .frozen
  epoch := epoch
  av := 0
  bv := 0
  cv := 0
  dv := 0
  blk := []
  vcap := []
  xo := 0
  elems := []
  dsts := []
  buf := []
  cap := []
  scale := 0
  rows := []
  off := 0
  len := 0
  lines := []
  entry := 0
  phys := 0
  phys2 := 0
  waits := []
  count := 0

/-- An operation from its entry (R109, R114): the instruction, its operands, the status word's state, wave, strand, flag, handle and
offset. `base` is the crew's first wave slot in the image. -/
def Op.readEntry (op : Op) (g base : Nat) (bs : List Byte) : Op :=
  let w (n : Nat) : Nat := numAt bs (8 * n) 8
  let i := match decodeWord (engClass g) (BitVec.ofNat 64 (w 0)) with | .ok i => if engServes g i then i else op.instr | .error _ => op.instr
  { op with
    instr := i, av := w 1, bv := w 2, dv := w 4, cv := w 5, blk := ([w 2, w 6, w 7, w 8].flatMap split64).take (groupLen i)
    st := if bitsOf (w 3) 60 4 = 4 then .faulted else .frozen, wave := bitsOf (w 3) 50 6 - base, strand := bitsOf (w 3) 48 2
    flag := bitsOf (w 3) 44 4, phys2 := if bitOf (w 3) 39 then bitsOf (w 3) 40 4 + 1 else 0
    off := if isCopy i then w 3 % 2 ^ 32 else 0 }

end Sys2Proof.Machine
end

