-- ==== Sys2Proof/Machine/ContextOps.lean ====
section
/-!
DEFINITION. Contexts (R102 to R113): their life, spatial pre-emption, saves and restore.
-/

namespace Sys2Proof.Machine

open Sys2Proof Host

/-- A request that the context's state does not accept: status 1, wrong state, and nothing changes (R104). -/
def State.wrongState (s : State) : Outcome State Fault Refusal := .next { s with status := 1 }

/-- A request that is accepted: status 0. -/
def State.granted (s : State) : Outcome State Fault Refusal := .next { s with status := 0 }

/-! ## Life of a context (R104, R105) -/

/-- CONTEXT_CREATE (R104): absent to created; the save area is in units of 256 bytes (R102), the number below 1,024, the function one of
those R376 gives; a create with any other operand is answered wrong state (DESIGN CHOICE, log 99). -/
def execContextCreate (x root saveBase saveSize trapRing fn : Nat) (s : State) : Outcome State Fault Refusal :=
  if s.recovering then hold s
  else if (s.ctx x).st != .absent || decide (1024 ≤ x) || saveBase % 256 != 0 || saveSize % 256 != 0 || decide (Config.virtualFunctions < fn)
  then s.wrongState
  else (s.modCtx x (fun _ => { Context.absent with
    st := .created, root := root, saveBase := saveBase, saveSize := saveSize, trapRing := trapRing, fn := fn })).granted

/-- CONTEXT_LOAD (R104): images are registered, and a trap handler, which its kernel's image, its crew's index and its wave name until
it is placed (log 21). -/
def execContextLoad (x : Nat) (load : ContextLoad) (s : State) : Outcome State Fault Refusal :=
  if s.recovering then hold s else
  match (s.ctx x).st with
  | .created | .loaded => (s.modCtx x (fun cx => { cx with
      st := .loaded, images := distinct (cx.images ++ load.images), handlerName := if load.handler.isSome then load.handler else cx.handlerName })).granted
  | _ => s.wrongState

/-- CONTEXT_ADMIT (R104, R105). -/
def execContextAdmit (x : Nat) (s : State) : Outcome State Fault Refusal :=
  if s.recovering then hold s else
  match (s.ctx x).st with
  | .loaded | .saved =>
    if (s.ctx x).destroyHeld then s.wrongState else (s.modCtx x (fun cx => { cx with st := .runnable })).granted
  | _ => s.wrongState

/-- The context's state is lost (R104): its crews stop, versions and images go, its kernels fail with status 5 (R135). -/
def State.loseContext (s : State) (x : Nat) : State :=
  let s1 := ((s.crews.filter (fun e => e.2.ctx == x)).map (·.1)).foldl State.removeCrew s
  let s2 := s1.dropImages x (fun _ => true)
  let s3 := ((s2.kernels.filter (fun e => e.2.ctx == x)).map (·.1)).foldl (fun (s : State) k => s.failKernel k 5 0 0) s2
  s3.modCtx x (fun cx => { cx with st := .lost })

/-- The states in which a context number is in use and its context not destroyed. -/
def CtxState.live : CtxState → Bool
  | .absent | .destroyed => false
  | _ => true

/-- DECLARE_LOST (R104). -/
def execDeclareLost (x : Nat) (s : State) : Outcome State Fault Refusal :=
  if s.recovering then hold s else if (s.ctx x).st.live then (s.loseContext x).granted else s.wrongState

/-- Destroy a context (R104, R101): versions are discarded, frames go to the quarantine queue; its images, kernels and
queues are no more. -/
def State.destroy (s : State) (x : Nat) (frames : List Nat) : State :=
  let s1 := s.dropImages x (fun _ => true)
  let s2 := { s1 with kernels := s1.kernels.filter (fun e => e.2.ctx != x), replays := s1.replays.filter (fun e => e.2.ctx != x) }
  let s3 := s2.modCtx x (fun cx => { cx with st := .destroyed, destroyHeld := false, frames := [], queues := [], handler := none, inHand := false })
  frames.foldl (fun (s : State) f => s.releaseFrame x f) s3

/-- CONTEXT_DESTROY (R104, R105): performed at once, or held while the context is running, frozen or restoring. -/
def execContextDestroy (x : Nat) (frames : List Nat) (s : State) : Outcome State Fault Refusal :=
  if s.recovering then hold s else
  match (s.ctx x).st with
  | .created | .loaded | .runnable | .saved | .lost => (s.destroy x frames).granted
  | .running | .frozen | .restoring => (s.modCtx x (fun cx => { cx with destroyHeld := true, frames := frames })).granted
  | .absent | .destroyed => s.wrongState

/-- DESTROY_PERFORM (R105): a held destroy, once the context is runnable, saved or lost. -/
def execDestroyPerform (x : Nat) (s : State) : Outcome State Fault Refusal :=
  let cx := s.ctx x
  match cx.st with
  | .runnable | .saved | .lost => if cx.destroyHeld then .next (s.destroy x cx.frames) else hold s
  | _ => hold s

/-- QUARANTINE_RETIRED (R104): nothing of a destroyed context is left in quarantine, and its number is free. -/
def execQuarantineRetired (x : Nat) (s : State) : Outcome State Fault Refusal :=
  let cx := s.ctx x
  if cx.st == .destroyed && cx.quarantine.isEmpty && cx.releases.isEmpty && !s.poolQ.any (fun e => e.2.2.1 == x) &&
      !s.poolWait.any (fun e => e.2.2 == x) then
    .next { s with ctxs := s.ctxs.del x }
  else hold s

/-! ## Vacate (R106) -/

/-- A crew's kernel saves on a vacate (R106). -/
def State.savesOnVacate (s : State) (cr : Crew) : Bool := match s.kernel? cr.kernel with | some kn => kn.save | none => false

/-- Crews of a context that a vacate has stopped. -/
def State.vacated (s : State) (x : Nat) : Tab Crew := s.crews.filter (fun e => e.2.ctx == x && e.2.freezing && !s.kernelFailed e.2)

/-- Crews in discard-and-requeue mode whose waves have all stopped leave their cores once their accesses have completed
(R106, R167). -/
def State.requeueVacated (s : State) (x : Nat) : State :=
  ((s.vacated x).filter (fun e => !s.savesOnVacate e.2 && e.2.atBoundary)).foldl (fun (s : State) e =>
    let s1 := s.stopOps e.1
    if s1.accessing e.1 then s1 else s1.requeueCrew e.1) s

/-- A role bound to a vacated core waits for a rebinding (R132). -/
def State.unbindRoles (s : State) (x : Nat) (cores : List Nat) : State :=
  { s with kernels := s.kernels.mapV (fun _ kn =>
      if kn.ctx = x ∧ kn.pinned then { kn with bind := kn.bind.filter (fun e => !cores.contains e.2) } else kn) }

/-- VACATE (R104, R106): every crew of the context on the named cores stops at its clause boundaries. Those in discard mode
leave once every wave has stopped: now, or as a later turn finds it. Waves at a boundary lose their reservations (R107). With every
resident crew being saved the context is frozen. -/
def execVacate (x : Nat) (cores : List Nat) (s : State) : Outcome State Fault Refusal :=
  if s.recovering then hold s else if (s.ctx x).st != .running then s.wrongState else
  let s1 := { s with crews := s.crews.mapV (fun _ cr =>
    if cr.ctx = x ∧ cores.contains cr.core ∧ !s.kernelFailed cr then { cr with
      freezing := true, vacated := if cr.freezing then cr.vacated else s.tabor.toNat
      waves := cr.waves.mapV (fun _ w => if w.clause.isNone then w.unreserve else w) } else cr) }
  let s2 := (s1.unbindRoles x cores).requeueVacated x
  let mine := s2.crews.filter (fun e => e.2.ctx == x && !s2.kernelFailed e.2)
  if !mine.isEmpty && mine.all (fun e => e.2.freezing && s2.savesOnVacate e.2) then (s2.modCtx x (fun cx => { cx with st := .frozen })).granted
  else s2.granted

/-! ## Freezing a crew (R107) -/

/-- Steps 2 to 4 of a freeze for one operation: copies are frozen with their offsets; token-merging and beam operations are
abandoned, a PROOT completes; an MMAS stops at its chunk boundary once the earlier operations on its tile have ended, and one whose wave
has ended, with its tile unbound, ends (R283; DEDUCED, log 107). -/
def State.freezeOp (s : State) (o : Nat) : State :=
  match s.op? o with
  | none => s
  | some op =>
    match op.instr with
    | .cpy _ | .cpyt _ | .cpyg _ =>
      if op.st == .queued || op.st == .active then (s.releaseLines o op.lines).modOp o (fun op => { op with st := .frozen, lines := [], buf := [] }) else s
    | .tkmatch _ | .tkmerge _ | .tkunmerge _ | .tksize _ | .beam _ =>
      if op.committed then s
      else (s.releaseLines o op.lines).modOp o (fun op => { op with st := .frozen, lines := [], buf := [], waits := [] })
    | .mmas _ =>
      (match s.crew? op.crew with
      | some cr =>
        if !(op.st == .active || (op.st == .queued && s.tileTurn o op)) then s
        else if ((cr.waves.find? op.wave).any (fun w => w.tiles.any (fun e => e.2 == op.phys))) then s.stopMmas cr.core o op
        else s.endOp o 3
      | none => s)
    | _ => s

/-- Freeze what a stopped crew has in its engines. -/
def State.freezeCrew (s : State) (c : Nat) : State :=
  ((s.ops.filter (fun e => e.2.crew == c)).map (·.1)).foldl State.freezeOp s

/-- An operation may be saved as it stands: frozen, faulted, or a wave's wait in a crew-mode collective for waves that have not come (R305). -/
def State.mayStay (s : State) (op : Op) : Bool := op.st == .frozen || op.st == .faulted || (s.isCollective op && !s.allCome op)

/-- Steps 4 and 5 are over: nothing else of the crew is in an engine or a queue. -/
def State.frozenCrew (s : State) (c : Nat) (cr : Crew) : Bool :=
  s.ops.all (fun e => e.2.crew != c || s.mayStay e.2) && !(s.core cr.core).wq.any (fun e => e.crew == c)

/-! ## The save area (R109) -/

/-- The physical addresses of units of a context's save area, where all of them are device memory it may access and no
engine owns. -/
def State.saveUnits (s : State) (x off n : Nat) (need : Need) : Option (List Nat) :=
  (List.range n).foldr (fun i acc =>
    match acc, s.translate 0 x ((s.ctx x).saveBase + off + 256 * i) need with
    | some l, .ok pa => (match homeOf pa with | .hbm => if s.unowned pa 256 then some (pa :: l) else none | _ => none)
    | _, _ => none) (some [])

/-- What of a table of names a crew's waves hold, by wave * n + name. -/
def Crew.named {α : Type} (cr : Crew) (n : Nat) (names : Wave → Tab Nat) (t : Tab α) : Tab α :=
  cr.waves.foldl (fun (acc : Tab α) w => (names w.2).foldl (fun (acc : Tab α) e =>
    match t.find? e.2 with | some v => acc.put (n * w.1 + e.1) v | none => acc) acc) []

/-- A frozen crew is written to the save area behind the images there and leaves its core; its version and segments stay
in L2 (R107, R109). None where the area has no room or is not mapped. Where an image lies in the area is the model's (DESIGN CHOICE,
log 105). -/
def State.saveCrew (s : State) (c : Nat) (cr : Crew) : Option State :=
  let x := cr.ctx
  let cx := s.ctx x
  let bs := s.imageBytes c cr
  let off := cx.saves.foldl (fun n i => max n (i.off + i.len)) 0
  let n := bs.length / 256
  if cx.saveSize < off + bs.length then none else
  match s.saveUnits x off n Need.write with
  | none => none
  | some pas =>
    let s1 := (List.range n).foldl (fun (s : State) i => s.ctxWrite x cx.epoch (pas.getD i 0) ((bs.drop (256 * i)).take 256))
      { s with poison := s.poison.filter (fun l => !pas.contains (256 * l)) }
    let k := s.core cr.core
    let img : Image := {
      crew := cr.suspend s.cycle, id := c, off := off, len := bs.length
      tiles := cr.named 8 (·.tiles) k.tiles, exps := cr.named 16 (·.exps) k.exps, news := [] }
    let tiles := cr.waves.flatMap (fun w => w.2.tiles.vals)
    let exps := cr.waves.flatMap (fun w => w.2.exps.vals)
    let s2 := s1.modCore cr.core (fun k => { k with
      tiles := tiles.foldl (fun (t : Tab Tile) p => t.del p) k.tiles
      exps := exps.foldl (fun (t : Tab Exp) p => t.del p) k.exps
      ranges := k.ranges.filter (fun r => r.crew != c)
      rbq := k.rbq.filter (fun e => e.1 != c)
      l1 := k.l1.filter (fun l => !(l.crew == some c || (match l.lane with | some (w, _) => decide (cr.base ≤ w) && decide (w < cr.base + cr.nw) | none => false))) })
    let s3 := { s2 with crews := s2.crews.del c }
    some (s3.modCtx x (fun cx => { cx with saves := cx.saves ++ [img] }))

/-- SAVE_COMPLETE (R107, R109): of the crews a vacate in save mode has stopped, those whose waves have all reached a boundary
are frozen, and those with nothing left in engines and queues are written; with the last the context is saved, also one that was still
running, after a vacate of only some of its cores (DESIGN CHOICE, log 98). -/
def execSaveComplete (x : Nat) (s : State) : Outcome State Fault Refusal :=
  let mine := (s.vacated x).filter (fun e => s.savesOnVacate e.2)
  if mine.isEmpty then hold s else
  let s1 := mine.foldl (fun (s : State) e =>
    match s.crew? e.1 with
    | none => s
    | some cr =>
      if !cr.atBoundary then s else
      let s1 := s.freezeCrew e.1
      if !s1.frozenCrew e.1 cr then s1 else
      match s1.crew? e.1 with
      | some cr => (s1.saveCrew e.1 cr).getD s1
      | none => s1) s
  if s1.crews.any (fun e => e.2.ctx == x) then .next s1
  else match (s1.ctx x).st with
    | .running | .frozen => .next (s1.modCtx x (fun cx => { cx with st := .saved }))
    | _ => .next s1

/-! ## Restore (R110 to R112) -/

/-- What the check of an image finds wrong: the code of the event and the offset of the unit (R110, R112). -/
def State.imageFault (s : State) (i : Image) (pas : List Nat) : Option (Nat × Nat) :=
  match (List.range pas.length).find? (fun n => s.poisoned (pas.getD n 0) 256) with
  | some n => some (0x41, i.off + 256 * n)
  | none =>
    let bs := pas.flatMap (fun pa => s.bytesAt pa 256)
    let body := bs.take (i.len - 256)
    if (hmac384 s.bootKey body).take 32 = (bs.drop (i.len - 256)).take 32 then none else some (0x42, i.off + i.len - 256)

/-! ### The bytes of an image are what is loaded (R111) -/

/-- A pending or faulted future of a restored crew is that of the operation whose entry names its handle (R114). -/
def State.readHandles (s : State) (i : Image) : Image :=
  let mine := s.engineOps i.id
  { i with crew := { i.crew with waves := i.crew.waves.mapV (fun j w => { w with hd := w.hd.mapV (fun n h =>
      { h with op := ((mine.filter (fun e => e.2.wave == j && e.2.phys2 == n + 1)).head?.map (·.1)).getD h.op }) }) } }

/-- The operations of an engine that an image's entries describe, in order: those the crew has take what their entries say, others come
about, and one with no entry is no more. -/
def State.readEntries (s : State) (x : Nat) (i : Image) (g base : Nat) (entries : List (List Byte)) : State :=
  let own := s.ops.filter (fun e => e.2.crew == i.id && engServes g e.2.instr)
  let s1 := (own.drop entries.length).foldl (fun (s : State) e => { s with ops := s.ops.del e.1 }) s
  (entries.mapIdx (fun n bs => (n, bs))).foldl (fun (s : State) e =>
    match own[e.1]? with
    | some o => s.modOp o.1 (fun op => op.readEntry g base e.2)
    | none => { s with
        ops := s.ops.put s.next ((Op.blank i.id x i.crew.attempt (s.ctx x).epoch).readEntry g base e.2), next := s.next + 1 }) s1

/-- A verified image and the operations of its crew hold what its bytes say. -/
def State.readImage (s : State) (x : Nat) (i : Image) (bs : List Byte) : State :=
  let count (g : Nat) : Nat := numAt bs (52 + 4 * g) 4
  let entries := bs.drop (256 + ((headerLens bs).take 5).sum)
  let of (g : Nat) : List (List Byte) :=
    cutBy (List.replicate (count g) 128) (entries.drop (128 * ((List.range g).map count).sum))
  let s1 := (List.range 3).foldl (fun (s : State) g => s.readEntries x i g (numAt bs 48 4) (of g)) s
  s1.modCtx x (fun cx => { cx with saves := cx.saves.map (fun j => if j.id = i.id then s1.readHandles (j.readBytes bs) else j) })

/-- CONTEXT_RESTORE (R104, R110, R112): every image is read and checked; a bad one loses the context and is told to the
host. An image that is not mapped is waited for. What the verified bytes say is what will be loaded (R111). -/
def execContextRestore (x : Nat) (s : State) : Outcome State Fault Refusal :=
  let cx := s.ctx x
  if s.recovering then hold s else if cx.st != .saved || cx.destroyHeld then s.wrongState else
  let units := cx.saves.map (fun i => (i, s.saveUnits x i.off (i.len / 256) Need.read))
  if units.any (fun u => u.2.isNone) then hold s else
  match (units.filterMap (fun u => s.imageFault u.1 (u.2.getD []))).head? with
  | some (code, off) => ((s.loseContext x).event 4 code x off).granted
  | none =>
    ((units.foldl (fun (s : State) u => s.readImage x u.1 ((u.2.getD []).flatMap (fun pa => s.bytesAt pa 256))) s).modCtx x
      (fun cx => { cx with st := .restoring })).granted

/-- The names of a table take free numbers of a core's: the core's table and the map from the old key (wave * n + name). -/
def takeNames {α : Type} (saved : Tab α) (t : Tab α) : Tab α × Tab Nat :=
  saved.foldl (fun (acc : Tab α × Tab Nat) e =>
    let p := acc.1.freeKey
    (acc.1.put p e.2, acc.2.put e.1 p)) (t, [])

/-- The engine instances that serve a core have room for the operations of a saved crew beyond what started clauses will take (R253,
R336, R349). -/
def State.enginesTake (s : State) (c core : Nat) : Bool :=
  (List.range 3).all (fun g =>
    let e : EngSel := ⟨g, core, 0, 0, 0⟩
    let mine := (s.ops.filter (fun p => p.2.crew == c && engServes g p.2.instr)).length
    mine == 0 || decide (s.countOps (engServes g) e.near + s.reserved e.near (fun _ js => (js.filter (engServes g)).length) + mine ≤
      (if g = 0 then Config.copies else Config.unitOps)))

/-- The operations of a restored crew take free entries of the engines that serve its core now. -/
def State.renumber (s : State) (c core : Nat) : State :=
  let mine := (s.ops.filter (fun p => p.2.crew == c && (isCopy p.2.instr || isToken p.2.instr || isBeam p.2.instr))).map (·.1)
  let away := { s with ops := s.ops.mapV (fun o op => if mine.contains o then { op with entry := 2 ^ 32 } else op) }
  mine.foldl (fun (s : State) o =>
    match s.op? o with
    | none => s
    | some op =>
      let e : EngSel := ⟨if isCopy op.instr then 0 else if isToken op.instr then 1 else 2, core, 0, 0, 0⟩
      s.modOp o (fun op => { op with entry := s.freeEntry (fun q => engServes e.eng q.instr &&
        (match s.crew? q.crew with | some cr => e.near cr.core | none => false)) })) away

/-- Operations of a restored crew (R108, R111): copies are performed again from their offsets with their ranges recorded,
abandoned operations from their start, and a stopped MMAS goes on in its tile's new place. -/
def State.reissueOps (s : State) (c : Nat) (old : Crew) (core : Nat) (tiles : Tab Nat) : State :=
  ((s.ops.filter (fun e => e.2.crew == c)).map (·.1)).foldl (fun (s : State) o =>
    match s.op? o with
    | none => s
    | some op =>
      if isCopy op.instr then
        let s1 := if op.st == .frozen then s.modOp o (fun op => { op with st := .queued }) else s
        if op.len = 0 || op.dir = 2 then s1
        else s1.modCore core (fun k => { k with ranges := k.ranges ++ [⟨c, op.spAt, op.len, o⟩] })
      else match op.instr with
        | .mmas _ =>
          let name := ((((old.waves.find? op.wave).map (·.tiles)).getD []).filter (fun e => e.2 == op.phys)).head?.map (·.1)
          let p := (name.bind (fun n => tiles.find? (8 * op.wave + n))).getD 0
          (s.modOp o (fun op => { op with st := .active, phys := p })).modTile core p (fun t =>
            { t with side := t.side.wr 0 0 (sideWord 1 op.off op.flag op.count) })
        | _ => if op.st == .frozen then s.modOp o (fun op => { op with st := .queued, phys := 0 }) else s) s

/-- What has come about for a strand that waited in a saved crew: its barrier was broken or initialised, which traps (R236), or its wake
word was written or its phase ended, which wakes it. -/
def State.applyNews (s : State) (c : Nat) (n : Nat × Nat × Bool) : State :=
  match s.wave? c n.1 with
  | none => s
  | some w =>
    let st := w.strand n.2.1
    match st.st with
    | .waiting _ => if n.2.2 then s.trap c n.1 n.2.1 Cause.barrierUnreachable st.waitHdr 7 else s.modStrand c n.1 n.2.1 (fun st => { st with woken := true })
    | _ => s

/-- What strands of a restored crew wait for may have come about: what was told of while it was saved, phases of device barriers, which
are looked at again, and a request for register blocks joins the new core's queue (R153). -/
def State.recheckWaits (s : State) (c : Nat) (news : List (Nat × Nat × Bool)) : State :=
  let s := news.foldl (fun (s : State) n => s.applyNews c n) s
  match s.crew? c with
  | none => s
  | some cr => cr.waves.foldl (fun (s : State) w => w.2.strands.foldl (fun (s : State) st =>
      let wake (s : State) : State := s.modStrand c w.1 st.1 (fun st => { st with woken := true })
      if st.2.woken then s else
      match st.2.st with
      | .waiting (.barrier (.device pa) _ p) =>
        let b := s.barRead c (.device pa)
        if b.state = 2 then s.trap c w.1 st.1 Cause.barrierUnreachable st.2.waitHdr 7 else if b.phase ≠ p then wake s else s
      | .waiting (.rbacq _ _) => s.modCore cr.core (fun k => { k with rbq := k.rbq ++ [(c, w.1, st.1)] })
      | _ => s) s) s

/-- Segments for the blocks of every wave, from the free ones in order. -/
def reseg (waves : Tab Wave) (free : List Nat) : Tab Wave :=
  (waves.foldl (fun (acc : Tab Wave × List Nat) w =>
    let n := w.2.seg.length
    (acc.1 ++ [(w.1, { w.2 with seg := (w.2.seg.map (·.1)).zip acc.2 })], acc.2.drop n)) ([], free)).1

/-- A saved crew is loaded on a core (R111), with lanes' marks as after a load served there now. None where the core has no
room, or R128 or R131 forbids it. -/
def State.loadCrew (s : State) (i : Image) (core : Nat) : Option State :=
  let old := i.crew
  match s.kernel? old.kernel with
  | none => none
  | some kn =>
    let segs := (old.waves.map (fun w => w.2.seg.length)).sum
    let k := s.core core
    match s.slotFor core old.nw with
    | none => none
    | some base =>
      if decide (Config.cores ≤ core) || !s.hasRoom core old.nw segs old.blocks.length kn.split ||
          decide (Config.tiles < k.tiles.length + s.reserved (fun x => x == core) Wave.newTiles + i.tiles.length) ||
          decide (Config.expSlots < k.exps.length + s.reserved (fun x => x == core) Wave.newExps + i.exps.length) ||
          (kn.pinned && !(kn.owners core).contains (kn.owner.rd 0 old.idx)) || !kn.groupsAllow old.idx core ||
          !s.enginesTake i.id core then none
      else
        let t := takeNames i.tiles k.tiles
        let e := takeNames i.exps k.exps
        let waves := (reseg old.waves (s.segsFree core)).mapV (fun w wv => { wv with
          tiles := wv.tiles.mapV (fun n _ => t.2.rd 0 (8 * w + n))
          exps := wv.exps.mapV (fun n _ => e.2.rd 0 (16 * w + n))
          marks := (List.range 128).foldl (fun (m : Tab Nat) l => m.wr 0 l (k.invNext - 1)) []
          strands := wv.strands.mapV (fun _ st => st.revive s.cycle) })
        let cr := { old with
          core := core, base := base, task := old.savedTask, waves := waves
          blocks := (old.blocks.map (·.1)).zip (s.blocksFree core kn.split) }
        let s1 := s.modCore core (fun k => { k.takeSplit kn.split with tiles := t.1, exps := e.1 })
        let s2 := { s1 with crews := s1.crews.put i.id cr }
        some (((s2.renumber i.id core).reissueOps i.id old core t.2).recheckWaits i.id i.news)

/-- RESTORE_LOAD (R104, R111): the verified crews are loaded, one core for each, and the context runs; one whose images have all been
given up meanwhile is runnable (R103; DEDUCED, log 60). -/
def execRestoreLoad (x : Nat) (cores : List Nat) (s : State) : Outcome State Fault Refusal :=
  let cx := s.ctx x
  if cx.st != .restoring || cores.length != cx.saves.length || s.stopped then hold s else
  match (cx.saves.zip cores).foldl (fun (acc : Option State) e => acc.bind (fun s => s.loadCrew e.1 e.2)) (some s) with
  | none => hold s
  | some s1 =>
    let s2 := s1.modCtx x (fun cx => { cx with st := if cx.saves.isEmpty then .runnable else .running, saves := [] })
    .next ((s2.settleRestarts).deliverNext x)

end Sys2Proof.Machine
end

