-- ==== Sys2Proof/Machine/Transform.lean ====
section
/-!
DEFINITION. Transform engines (R271 to R275): rings, kicks, requests and their completion records. A request is an
operation whose instruction is the event that starts it; `entry` is its ring, `phys` its free-running index, `cap` its block,
`cv` one more than the crew that kicked it (0 for a host kick), `count` 1 where it lies beyond the ring (R275).
-/

namespace Sys2Proof.Machine

open Sys2Proof Host

/-! ## Request blocks (R272) -/

/-- A field of a request block by byte offset and size. -/
def Op.req (op : Op) (off size : Nat) : Nat := bitsOf (leNat op.cap) (8 * off) (8 * size)

/-- OP. -/
def Op.rOp (op : Op) : Nat := op.req 0 2
/-- FLAGS. -/
def Op.rFlags (op : Op) : Nat := op.req 2 2
/-- LEN. -/
def Op.rLen (op : Op) : Nat := op.req 4 4
/-- SRC. -/
def Op.rSrc (op : Op) : Nat := op.req 8 8
/-- DST. -/
def Op.rDst (op : Op) : Nat := op.req 0x10 8
/-- TAGS. -/
def Op.rTags (op : Op) : Nat := op.req 0x18 8
/-- SF. -/
def Op.rSf (op : Op) : Nat := op.req 0x20 1
/-- DF. -/
def Op.rDf (op : Op) : Nat := op.req 0x21 1
/-- ROWN. -/
def Op.rRow (op : Op) : Nat := op.req 0x22 2
/-- GVER. -/
def Op.rVer (op : Op) : Nat := op.req 0x24 2
/-- Slot bytes of the slot code. -/
def Op.rSlot (op : Op) : Nat := 64 * (op.rFlags % 4)

/-- The offset of the first bad field of a block (R273); none where the block is well formed. -/
def Op.badField (op : Op) : Option Nat :=
  let k := op.rOp
  let plane := k == 3 || k == 4
  if k < 1 ∨ 8 < k then some 0
  else if 16 ≤ op.rFlags ∨ ((k = 1 ∨ k = 2) ∧ op.rFlags % 4 = 0) then some 2
  else if op.rLen < 256 ∨ 2 ^ 30 < op.rLen ∨ op.rLen % 256 ≠ 0 then some 4
  else if op.rSrc % 256 ≠ 0 then some 8
  else if k ≠ 7 ∧ op.rDst % 256 ≠ 0 then some 0x10
  else if (plane || k == 5) && tfBits op.rSf == 0 then some 0x20
  else if k = 5 ∧ (tfBits op.rDf = 0 ∨ (op.rSf ≠ op.rDf ∧ (tfRaw op.rSf || tfRaw op.rDf))) then some 0x21
  else if plane && (op.rRow == 0 || op.rRow % 64 != 0) then some 0x22
  else if op.req 0x26 2 ≠ 0 then some 0x26
  else if op.req 0x2C 4 ≠ 0 then some 0x2C
  else if op.req 0x30 8 % 8 ≠ 0 then some 0x30
  else none

/-- Uncompressed blocks of a request. -/
def Op.rBlocks (op : Op) : Nat := op.rLen / 256

/-- Bytes of the destination of block `m`: address and length (R272). -/
def Op.rDest (op : Op) (m : Nat) : Nat × Nat :=
  match op.rOp with
  | 1 => (op.rDst + op.rSlot * m, op.rSlot)
  | 5 => let n := 256 * tfBits op.rDf / tfBits op.rSf; (op.rDst + n * m, n)
  | 6 => (op.rTags + 12 * m, 12)
  | 7 => (op.rDst, 0)
  | _ => (op.rDst + 256 * m, 256)

/-- The source bytes, as offsets, that block `m` of a plane request takes from its rows (R259, R272). -/
def Op.rMixed (op : Op) (m : Nat) : List Nat :=
  let b := tfBits op.rSf
  match op.rOp with
  | 3 => distinct ((List.range 256).flatMap (fun x =>
      ((layoutBits true b op.rRow (256 * m + x)).filter (fun t => decide ((t.1 + 1) * b ≤ 8 * op.rLen))).map (fun t => (t.1 * b + t.2.1) / 8)))
  | 4 => distinct ((List.range 256).flatMap (fun x =>
      (((layoutBits false b op.rRow (256 * m + x)).flatMap (fun t => ((elemBits true b op.rRow t.1)[t.2.1]?).toList)).filter
        (fun t => decide (t.1 < op.rLen))).map (fun t => t.1)))
  | _ => []

/-- The source blocks whose tags are checked before block `m` is written, ascending: every one it takes bytes from (R265, R272). -/
def Op.rChecked (op : Op) (m : Nat) : List Nat :=
  if op.rOp != 7 && !bitOf op.rFlags 3 then []
  else
    let l := m :: (op.rMixed m).map (· / 256)
    let lo := l.foldl min m
    let hi := l.foldl max m
    ((List.range (hi - lo + 1)).map (lo + ·)).filter l.contains

/-- Source ranges of block `m` (R272): a slot where it expands, the bytes of the rows a plane block mixes, and where source tags are
checked the blocks they are of, with the tags. -/
def Op.rSources (op : Op) (m : Nat) : List Src :=
  (match op.rOp with
  | 2 => [.dev (op.rSrc + op.rSlot * m) op.rSlot]
  | 3 | 4 => (op.rMixed m).map (fun x => Src.dev (op.rSrc + x) 1) ++ (op.rChecked m).map (fun k => Src.dev (op.rSrc + 256 * k) 256)
  | _ => [.dev (op.rSrc + 256 * m) 256]) ++ (op.rChecked m).map (fun k => Src.dev (op.rTags + 12 * k) 12)

/-- The uncompressed source block `m` from what was read; none where its slot breaks R277. -/
def Op.rBlock (op : Op) (t : Tab Byte) (m : Nat) : Option (List Byte) :=
  if op.rOp = 2 then expandBlock op.rSlot (tabBytes t true (op.rSrc + op.rSlot * m) op.rSlot)
  else some (tabBytes t true (op.rSrc + 256 * m) 256)

/-- A source bit of a plane request; beyond LEN a free value (log 5). -/
def Op.rBit (op : Op) (t : Tab Byte) (free : Nat → Byte) (byte bit : Nat) : Bool :=
  if byte < op.rLen then (t.rd 0 (srcKey true (op.rSrc + byte))).getLsbD bit else (free byte).getLsbD bit

/-- What block `m` writes; none where a compress request does not fit its slot (R272). -/
def Op.rOut (op : Op) (t : Tab Byte) (m : Nat) (blk : List Byte) (free : Nat → Byte) : Option (List Byte) :=
  let b := tfBits op.rSf
  let pack (f : Nat → Nat → Bool) : List Byte := (List.range 256).map (fun x =>
    BitVec.ofNat 8 ((List.range 8).foldl (fun acc k => if f (256 * m + x) k then acc + 2 ^ k else acc) 0))
  match op.rOp with
  | 1 => let c := compressBlock blk; if op.rSlot < c.length then none else some (c ++ List.replicate (op.rSlot - c.length) 0)
  | 3 => some (pack (fun x k => match (layoutBits true b op.rRow x)[k]? with
      | some e => op.rBit t free ((e.1 * b + e.2.1) / 8) ((e.1 * b + e.2.1) % 8)
      | none => false))
  | 4 => some (pack (fun x k => match (layoutBits false b op.rRow x)[k]? with
      | some e => (match (elemBits true b op.rRow e.1)[e.2.1]? with | some y => op.rBit t free y.1 y.2 | none => false)
      | none => false))
  | 5 =>
    let n := 256 * 8 / b
    let code (e : Nat) : Nat := unpackElem false b 1 e (fun k => blk.getD k 0)
    let d := tfBits op.rDf
    some ((List.range (n * d / 8)).map (fun x => packByte false d 1 x (fun e => cvtScaled op.rSf op.rDf (bitOf op.rFlags 2) 9 (op.req 0x28 4) (code e))))
  | 6 => some (guardTag blk (op.rDst + 256 * m) op.rVer)
  | _ => some blk

/-- An address of a copy request that names the CXL tier (R356): physical, where its bit 51 is set (log 22). -/
def Op.inCxl (op : Op) (a : Nat) : Bool := op.rOp == 8 && bitOf a 51

/-- The device that holds a CXL address is lost (R380). -/
def State.cxlGone (s : State) (a : Nat) : Bool := s.cxlLost.contains (Config.cxlDevice a)

/-- Source ranges of a block that go through translation, and the bytes of one that lies in the CXL tier. -/
def State.splitSources (s : State) (op : Op) (m : Nat) : List Src × Tab Byte :=
  let a := op.rSrc + 256 * m
  if op.inCxl a then
    ((op.rSources m).filter (fun r => r != .dev a 256), (List.range 256).foldl (fun (t : Tab Byte) i => t.put (srcKey true (a + i)) (s.mem.rd 0 (a + i))) [])
  else (op.rSources m, [])

/-! ## Kicks (R271, R275) -/

/-- The ring of a request operation. -/
def isRequest (op : Op) : Bool := match op.instr with | .transformRequestStart _ _ => true | _ => false

/-- A request block as it stands in memory, through the ring's die (R357). -/
def State.blockNow (s : State) (x a : Nat) (r : Ring) : List Byte :=
  match s.pieces r.die x Need.read a 64 with
  | .ok l => l.flatMap (fun p => s.bytesAt p.1 p.2)
  | .error _ => []

/-- The operation of a request newly kicked: index `idx` of ring `q`, its block as it stands for the lines it owns (R90). It is performed
now: its reads wait for the operations that own lines now (R90, R91). -/
def State.requestOp (s : State) (x q idx : Nat) (r : Ring) (crew : Option Nat) (excess : Bool) : Op where
  crew := noOp
  wave := 0
  strand := 0
  attempt := ((crew.bind s.crew?).map (·.attempt)).getD 0
  ctx := x
  hdr := 0
  instr := .transformRequestStart x q
  lanes := 0
  flag := 0
  st := .queued
  epoch := (s.ctx x).epoch
  av := 0
  bv := 0
  cv := (crew.map (· + 1)).getD 0
  dv := 0
  blk := []
  vcap := []
  xo := 0
  elems := []
  dsts := []
  buf := []
  cap := s.blockNow x (r.req + 64 * (idx % 2 ^ r.k)) r
  scale := 0
  rows := []
  off := 0
  len := 0
  lines := []
  entry := q
  phys := idx
  phys2 := 0
  waits := s.ownersNow
  count := excess.toNat

/-- The device bytes a well-formed request writes, as one range: address and length. -/
def Op.rSpan (op : Op) : Nat × Nat :=
  let d0 := op.rDest 0
  let dl := op.rDest (op.rBlocks - 1)
  (d0.1, dl.1 + dl.2 - d0.1)

/-- The walk of a page of a newly kicked request's block or destination waits for an engine's line (R90, R356). -/
def State.requestHeld (s : State) (x q idx : Nat) (r : Ring) (crew : Option Nat) : Bool :=
  !s.owners.isEmpty && (s.rangeHeld r.die x Need.read (r.req + 64 * (idx % 2 ^ r.k)) 64 ||
    (let op := s.requestOp x q idx r crew false
     op.badField.isNone && !op.inCxl op.rDst && s.rangeHeld r.die x Need.write op.rSpan.1 op.rSpan.2))

/-- A request newly kicked enters the state, with the lines of its destination as far as they are mapped (R90). -/
def State.newRequest (s : State) (x q idx core : Nat) (r : Ring) (crew : Option Nat) (excess : Bool) : State :=
  let op := s.requestOp x q idx r crew excess
  let o := s.next
  let s1 := { s with ops := s.ops.put o op, next := o + 1 }
  let s2 := s1.modCtx x (fun cx => { cx with rings := cx.rings.modify q (fun r => { r with busy := r.busy.put idx o }) })
  if excess || op.badField.isSome || op.inCxl op.rDst then s2 else
  let d0 := op.rDest 0
  let dl := op.rDest (op.rBlocks - 1)
  let lines := (List.range ((dl.1 + dl.2 + 255) / 256 - d0.1 / 256)).filterMap (fun i =>
    match s.translate r.die x ((d0.1 / 256 + i) * 256) Need.write with
    | .ok pa => (match homeOf pa with | .hbm => some (pa / 256) | _ => none)
    | .error _ => none)
  s2.own o core (distinct lines)

/-- Requests that a kick adds to a ring. -/
def Ring.kicked (r : Ring) (val : Nat) : Nat := (val + 2 ^ 32 - r.widx % 2 ^ 32) % 2 ^ 32

/-- A kick waits for the walks of its requests (R90). -/
def State.kickHeld (s : State) (x q val : Nat) (crew : Option Nat) : Bool :=
  ((s.ctx x).rings.find? q).any (fun r => (List.range (min (r.kicked val) (r.ridx + 2 ^ r.k - r.widx))).any (fun i =>
    s.requestHeld x q (r.widx + i) r crew))

/-- A kick: the write index of a registered ring moves; requests beyond the ring are marked (R271, R275). -/
def State.kick (s : State) (x q : Nat) (val : Nat) (core : Nat) (crew : Option Nat) : State :=
  match (s.ctx x).rings.find? q with
  | none => s
  | some r =>
    let n := r.kicked val
    let lim := r.ridx + 2 ^ r.k
    let s1 := s.modCtx x (fun cx => { cx with rings := cx.rings.modify q (fun r => { r with widx := r.widx + n, core := core, crew := crew, limit := lim }) })
    (List.range n).foldl (fun (s : State) i => s.newRequest x q (r.widx + i) core r crew (decide (lim ≤ r.widx + i))) s1

/-- TRANSFORM_KICK (R271): a store at scope system to WIDX. -/
def execTransformKick (x q : Nat) (val : Word) (core : Nat) (s : State) : Outcome State Fault Refusal :=
  if s.recovering || s.kickHeld x q val.toNat none then hold s else .next (s.kick x q val.toNat core none)

/-- KICK completes when its store is performed (R275). -/
def State.completeKick (s : State) (o : Nat) (op : Op) (f : Fields) : State :=
  if !(op.waits.all (s.released op.lanes)) || s.kickHeld op.ctx (f.mb 0 4) op.av (some op.crew) then s else
  match s.crew? op.crew with
  | none => s
  | some cr => (s.kick op.ctx (f.mb 0 4) op.av cr.core (some op.crew)).endOp o 3

/-- TRANSFORM_RING_REGISTRATION (R271): at most 16 rings of 2^4 to 2^8 slots, the request ring 4 KiB-aligned, bound to one die. -/
def execTransformRingRegistration (x q die req comp k : Nat) (s : State) : Outcome State Fault Refusal :=
  if s.recovering || (s.ctx x).st == .absent || (s.ctx x).st == .destroyed || 16 ≤ q || 4 ≤ die || k < 4 || 8 < k || req % 4096 ≠ 0 ||
    ((s.ctx x).rings.find? q).any (fun r => !r.busy.isEmpty || !r.ended.isEmpty) then hold s
  else .next (s.modCtx x (fun cx => { cx with rings := cx.rings.put q {
    die := die, req := req, comp := comp, k := k, ridx := 0, widx := 0, cmd := 0, stat := 0, halted := [],
    busy := [], ended := [], core := 0, crew := none, limit := 2 ^ k } }))

/-! ## Service (R272, R273) -/

/-- A fault while serving a request halts its ring there (R273): STOP 0, EV 1, CLASS 3, ENTRY the ring, CORE the core that
last kicked it; STAT reads slot × 2^16 + 1. Where another request in service has halted the ring already, STAT and CMD are that one's
first (DEDUCED, log 86). -/
def State.haltRing (s : State) (o : Nat) (op : Op) (r : Ring) (cause addr : Nat) : State :=
  ((s.dropFaulted r.die op.ctx cause addr).evFault o op r.core cause addr).modCtx op.ctx (fun cx => { cx with
    rings := cx.rings.modify op.entry (fun r => r.haltedBy (r.halted ++ [(op.phys, o)])) })

/-- A request ends once other packages have acknowledged what it wrote (R91). -/
def State.closeRequest (s : State) (o : Nat) (op : Op) (status detail : Nat) : State :=
  if s.unacked o then s else s.endRequest o op status detail

/-- A request asks another package for source bytes; with no path left the request meets memory-poison there (R369, R273). -/
def State.askOrHalt (s : State) (o : Nat) (op : Op) (r : Ring) (pkg pa va n : Nat) : State :=
  if s.openPort.isNone then (s.event 6 0x61 0 0).haltRing o op r Cause.memoryPoison va else s.askRemote o op pkg pa va n

/-- At most the die's four engines serve at once. -/
def State.enginesBusy (s : State) (die : Nat) : Nat :=
  (s.ops.filter (fun e => isRequest e.2 && e.2.st == .active && (match (s.ctx e.2.ctx).rings.find? e.2.entry with | some r => r.die == die | none => false))).length

/-- TRANSFORM_REQUEST_START (R272): the next request of a ring, in slot order; its block is read at home. A malformed one
completes at once. -/
def execTransformRequestStart (x q : Nat) (s : State) : Outcome State Fault Refusal :=
  match (s.ctx x).rings.find? q with
  | none => hold s
  | some r =>
    if !r.halted.isEmpty || r.ridx == r.widx || 4 ≤ s.enginesBusy r.die || s.stopped || (s.ctx x).st == .frozen then hold s else
    let step (s : State) : State := s.modCtx x (fun cx => { cx with rings := cx.rings.modify q (fun r => { r with ridx := r.ridx + 1 }) })
    match r.busy.find? r.ridx with
    | none => .next (step s)
    | some o =>
      match s.op? o with
      | none => .next (step s)
      | some op =>
        if op.count = 1 then .next (step (s.endRequest o op 4 0)) else
        let a := r.req + 64 * (r.ridx % 2 ^ r.k)
        match s.gather o op r.die [.dev a 64] with
        | .wait => hold s
        | .ask p pa va n => .next (if s.openPort.isNone then (step s).askOrHalt o op r p pa va n else s.askRemote o op p pa va n)
        | .fault c e => .next ((step s).haltRing o op r c e)
        | .ok t =>
          let op1 := { op with cap := tabBytes t true a 64, buf := [], st := .active }
          let s1 := step { s.dropSources r.die x [.dev a 64] with ops := s.ops.put o op1 }
          match op1.badField with
          | some d => .next (s1.endRequest o op1 4 d)
          | none => .next (s1.modOp o (fun op => { op with len := op1.rLen }))

/-- One block of a request is read, checked and written (R272); after the last the request ends with status 0. -/
def State.requestUnit (s : State) (o : Nat) (op : Op) : State :=
  match (s.ctx op.ctx).rings.find? op.entry with
  | none => s
  | some r =>
    if !(op.st == .active) then s
    else if op.len ≤ op.off then s.closeRequest o op 0 0
    else
      let m := op.off / 256
      let poisonAt (s : State) (k : Nat) : State := match s.translate r.die op.ctx (op.rSrc + 256 * k) Need.read with
        | .ok pa => { s with poison := distinct (s.poison ++ [pa / 256]) }
        | .error _ => s
      let d := op.rDest m
      let lost := op.rOp == 8 && ((op.inCxl (op.rSrc + 256 * m) && s.cxlGone (op.rSrc + 256 * m)) || (op.inCxl d.1 && s.cxlGone d.1))
      let srcs := s.splitSources op m
      if lost then s.haltRing o op r Cause.memoryPoison (if op.inCxl (op.rSrc + 256 * m) && s.cxlGone (op.rSrc + 256 * m) then op.rSrc + 256 * m else d.1) else
      match s.gather o { op with buf := srcs.2 } r.die srcs.1 with
      | .wait => s
      | .ask p pa va n => s.askOrHalt o op r p pa va n
      | .fault c a => s.haltRing o op r c a
      | .ok t =>
        match op.rBlock t m with
        | none => s.closeRequest o op 4 8
        | some blk =>
          let s := s.dropSources r.die op.ctx srcs.1
          let block (k : Nat) : List Byte := if k = m then blk else tabBytes t true (op.rSrc + 256 * k) 256
          match (op.rChecked m).find? (fun k => tabBytes t true (op.rTags + 12 * k) 12 != guardTag (block k) (op.rSrc + 256 * k) op.rVer) with
          | some k => if op.rOp = 7 then (poisonAt s k).endRequest o op 2 m
              else (poisonAt s k).haltRing o op r Cause.guardMismatch (op.rSrc + 256 * k)
          | none =>
          if op.rOp = 7 then s.modOp o (fun op => { op with off := op.off + 256 })
          else match op.rOut t m blk (fun k => (Config.freeWord (s.fresh + k)).extractLsb' 0 8) with
          | none => s.closeRequest o op 1 m
          | some out =>
            if op.inCxl d.1 then
              { s with mem := s.mem.wrBytes d.1 out }.modOp o (fun op => { op with off := op.off + 256 })
            else if s.runsHeld r.die op.ctx (putBytes [] d.1 out) then s
            else match s.writeRuns op r.die (putBytes [] d.1 out) with
            | .error e => (s.dropRuns r.die op.ctx (putBytes [] d.1 out)).haltRing o op r e.1 e.2
            | .ok l =>
              let need := runLines l
              match ((runs (putBytes [] d.1 out)).zip l).find? (fun w => s.cutOff w.2.1) with
              | some w => (s.event 6 0x61 0 0).haltRing o op r Cause.memoryPoison w.1.1
              | none =>
              if !(need.all (fun y => op.lines.contains y)) then s.ownMore o r.core op need
              else if !(need.all (fun y => s.turnOf o y)) then s
              else
                let last := decide (op.len ≤ op.off + 256)
                let s1 := ({ s.dropRuns r.die op.ctx (putBytes [] d.1 out) with fresh := s.fresh + op.rLen }).engineWrite o op 3
                  (outPages (putBytes [] d.1 out) l) l
                let full := need.filter (fun y => last || l.any (fun w => w.1 / 256 == y && (w.1 + w.2.length) % 256 == 0))
                (full.foldl (fun (s : State) y => s.release o y) s1).modOp o (fun op => { op with off := op.off + 256 })

/-- The wake word of a completed request is written, as STW at scope system, and the request's slot has nothing more to record (R272). The
value stored is not stated: a free value (log 5). -/
def State.requestWake (s : State) (x q slot : Nat) (r : Ring) (wake epoch : Nat) : State :=
  let s1 := s.modCtx x (fun cx => { cx with rings := cx.rings.modify q (fun r => { r with ended := r.ended.del slot }) })
  if wake = 0 then s1
  else match s1.translate r.die x wake Need.write with
    | .error _ => s1
    | .ok wp =>
      let v := leBytes 4 (Config.freeWord s1.fresh).toNat ++ leBytes 4 (Config.freeWord (s1.fresh + 1)).toNat
      ({ s1 with fresh := s1.fresh + 2 }.dropLacking r.die x wake Need.write).agentWake x epoch wp wake v

/-- A wake word can be written now: no engine owns its line, or one that its walk reads (R90, R356). -/
def State.wakeFree (s : State) (x wake : Nat) (r : Ring) : Bool :=
  wake == 0 || !s.walkHeld r.die x wake Need.write && (match s.translate r.die x wake Need.write with | .ok wp => s.unowned wp 8 | .error _ => true)

/-- TRANSFORM_COMPLETE (R273): an ended request's completion record is written in one step, and then its wake word, as STW
at scope system: in the same step, or, where the record goes to another package, in a turn after its acknowledgement (R231). `slot` is
the request's free-running index. -/
def execTransformComplete (x q slot : Nat) (s : State) : Outcome State Fault Refusal :=
  match (s.ctx x).rings.find? q with
  | none => hold s
  | some r =>
    match r.ended.find? slot with
    | none => hold s
    | some e =>
      let a := r.comp + 16 * (slot % 2 ^ r.k)
      let word := e.2.2.1.toNat * 2 ^ 64 + e.2.1 % 2 ^ 32 * 2 ^ 32 + e.1 % 2 ^ 16 * 2 ^ 16 + 1
      if !s.wakeFree x e.2.2.2.1 r then hold s
      else if e.1 = 2 ^ 16 then (if (s.pend.find? e.2.1).isSome then hold s else .next (s.requestWake x q slot r e.2.2.2.1 e.2.2.2.2))
      else if s.walkHeld r.die x a Need.write then hold s
      else match s.translate r.die x a Need.write with
      | .error _ => hold s
      | .ok pa =>
        if !s.unowned pa 16 then hold s else
        let written := (s.dropLacking r.die x a Need.write).ctxWrite x e.2.2.2.2 pa (leBytes 16 word)
        match homeOf pa with
        | .remote _ => .next (written.modCtx x (fun cx => { cx with rings := cx.rings.modify q (fun r =>
            { r with ended := r.ended.put slot (2 ^ 16, s.msgNo, e.2.2.1, e.2.2.2) }) }))
        | _ => .next (written.requestWake x q slot r e.2.2.2.1 e.2.2.2.2)

/-- The halted request of a ring that CMD acts on, the oldest. -/
def State.haltedOp (s : State) (x q : Nat) : Option (Ring × Nat × Op) :=
  match (s.ctx x).rings.find? q with
  | none => none
  | some r =>
    match r.halted with
    | [] => none
    | h :: _ => (s.op? h.2).map (fun op => (r, h.2, op))

/-- CMD is written and the request it acts on halts the ring no longer. -/
def State.unhalt (s : State) (x q cmd : Nat) : State :=
  s.modCtx x (fun cx => { cx with rings := cx.rings.modify q (fun r => { r.haltedBy r.halted.tail with cmd := cmd }) })

/-- CMD 1 resumes the halted request from its offset (R273); one whose block was not read is read again. -/
def State.resumeRing (s : State) (x q : Nat) : State :=
  match s.haltedOp x q with
  | none => s
  | some (r, o, op) =>
    let s1 := s.unhalt x q 1
    if op.len = 0 then
      (s1.modOp o (fun op => { op with st := .queued })).modCtx x (fun cx => { cx with rings := cx.rings.modify q (fun r' => { r' with ridx := r.ridx - 1 }) })
    else s1.modOp o (fun op => { op with st := .active })

/-- CMD 2 cancels the halted request with status 3 and the resume offset; the ring runs on (R273). -/
def State.cancelRing (s : State) (x q : Nat) : State :=
  match s.haltedOp x q with
  | none => s
  | some (_, o, op) => (s.unhalt x q 2).endRequest o op 3 op.off

/-- TRANSFORM_RESUME (R273). -/
def execTransformResume (x q : Nat) (s : State) : Outcome State Fault Refusal :=
  if s.recovering then hold s else .next (s.resumeRing x q)

/-- TRANSFORM_CANCEL (R273). -/
def execTransformCancel (x q : Nat) (s : State) : Outcome State Fault Refusal :=
  if s.recovering then hold s else .next (s.cancelRing x q)

end Sys2Proof.Machine
end

