-- ==== Sys2Proof/Machine/Engine.lean ====
section
/-!
DEFINITION. The events that every class of long-latency operation shares (R56, R83, R90, R91): performance, source reads,
unit writes, completion. Each does what the operation's class and instruction have for it.
-/

namespace Sys2Proof.Machine

open Sys2Proof Host

/-- An operation performs: an element of an access, a die or core of an invalidation, or an engine's operation. -/
def State.performOp (s : State) (o n : Nat) (atHome : Bool) (op : Op) : State :=
  match op.instr with
  | .tlbinv _ | .icinv _ => s.performInv o op n
  | .beam _ | .proot _ => s.performBeam o op
  | _ =>
    match opcodeOf op.instr with
    | some (1, _) => s.performAccess o n atHome
    | some (2, _) => s.performMatrix o op
    | some (4, _) => s.performCarillon o op
    | some (5, _) => s.performExpansion o op
    | some (6, _) => s.performToken o op
    | _ => s

/-- ACCESS_PERFORM (R83, R336): `elem` is the element of an access, or the die or core of a TLBINV or ICINV; `atHome` asks for
service at home where L1 could serve. -/
def execAccessPerform (o elem : Nat) (atHome : Bool) (s : State) : Outcome State Fault Refusal :=
  match s.op? o with
  | none => hold s
  | some op => .next (s.performOp o elem atHome op)

/-- An operation completes where it may. -/
def State.completeOp (s : State) (o : Nat) (op : Op) : State :=
  match op.instr with
  | .rcfence f => s.completeRcfence o op f
  | .kick f => s.completeKick o op f
  | .beam _ => s.completeBeam o op
  | .tlbinv _ | .icinv _ | .quiesce _ => s.completeInv o op
  | _ =>
    match opcodeOf op.instr with
    | some (1, _) => s.completeAccess o op
    | some (2, _) => s.completeMatrix o op
    | some (4, _) => s.completeCarillon o op
    | some (5, _) => s.completeExpansion o op
    | _ => s

/-- LONG_LATENCY_COMPLETION (R56): its results are written, its flag counts down, its future completes. Copies, PROOT and G
operations complete by turns of their own. -/
def execLongLatencyCompletion (o : Nat) (s : State) : Outcome State Fault Refusal :=
  match s.op? o with
  | none => hold s
  | some op => .next (s.completeOp o op)

/-- An engine reads a unit of an operation's sources early. -/
def State.sourceRead (s : State) (o unit : Nat) (op : Op) : State :=
  match op.instr with
  | .cpy _ | .cpyt _ | .cpyg _ => s.copySourceRead o op unit
  | .beam _ => s.beamSourceRead o op unit
  | _ =>
    match opcodeOf op.instr with
    | some (2, _) => s.matrixSourceRead o op unit
    | some (4, _) => s.carillonSourceRead o op unit
    | some (5, _) => s.expansionSourceRead o op unit
    | some (6, _) => s.tokenSourceRead o op unit
    | _ => s

/-- ENGINE_SOURCE_READ (R91). -/
def execEngineSourceRead (o unit : Nat) (s : State) : Outcome State Fault Refusal :=
  match s.op? o with
  | none => hold s
  | some op => .next (s.sourceRead o unit op)

/-- An engine writes the next unit of an operation. -/
def State.unitWrite (s : State) (o : Nat) (op : Op) : State :=
  match op.instr with
  | .scat f => if f.aop = 0 then s.scatterUnit o op else s
  | .ast f => s.astUnit o op f
  | .xst f => s.xstUnit o op f
  | .cres _ => (match s.crew? op.crew with | some cr => s.resolveStep o op cr | none => s)
  | .transformRequestStart _ _ => s.requestUnit o op
  | _ => s

/-- ENGINE_UNIT_WRITE (R90): of SCAT, AST, XST, a transform request, and CRES's entries. -/
def execEngineUnitWrite (o : Nat) (s : State) : Outcome State Fault Refusal :=
  match s.op? o with
  | none => hold s
  | some op => .next (s.unitWrite o op)

end Sys2Proof.Machine
end

