-- ==== Sys2Proof/Machine/Link.lean ====
section
/-!
DEFINITION. The scale-up link (R365 to R373): ports, flits, replay, compression, and the messages of other packages.
-/

namespace Sys2Proof.Machine

open Sys2Proof Host

/-! ## Flits (R365, R371) -/

/-- A flit's header (R365). -/
structure FlitHeader where
  /-- SEQ. -/
  seq : Nat
  /-- ACK. -/
  ack : Nat
  /-- IDLE. -/
  idle : Bool
  /-- NAK. -/
  nak : Bool
  /-- CMP. -/
  cmp : Bool
  /-- USED. -/
  used : Nat
  deriving DecidableEq, Repr

/-- The header's doubleword. -/
def FlitHeader.toNat (h : FlitHeader) : Nat :=
  h.seq % 4096 * 2 ^ 52 + h.ack % 4096 * 2 ^ 40 + h.idle.toNat * 2 ^ 39 + h.nak.toNat * 2 ^ 38 + h.cmp.toNat * 2 ^ 37 + h.used % 256 * 2 ^ 24

/-- Read a header. -/
def FlitHeader.ofNat (n : Nat) : FlitHeader :=
  ⟨bitsOf n 52 12, bitsOf n 40 12, bitOf n 39, bitOf n 38, bitOf n 37, bitsOf n 24 8⟩

/-- A flit: header, payload padded to 244 bytes, CRC-32C of the first 252 bytes. -/
def makeFlit (h : FlitHeader) (payload : List Byte) : List Byte :=
  let body := leBytes 8 h.toNat ++ payload ++ List.replicate (244 - payload.length) 0
  body ++ leBytes 4 (crc32c body)

/-- The header of a flit as it stands. -/
def flitHeader (f : List Byte) : FlitHeader := FlitHeader.ofNat (leNat (f.take 8))

/-- A flit of 256 bytes with a correct CRC (R368). -/
def flitOk (f : List Byte) : Bool := f.length == 256 && leNat (f.drop 252) == crc32c (f.take 252)

/-- h(w) of R371. -/
def wordHash (w : Nat) : Nat := w * 0x9E3779B1 % 2 ^ 32 / 2 ^ 24

/-- Compression of words in order: hit or miss, payload bytes, and the table after them (R371). -/
def packWords (t : Tab Word) : List Word → List (Bool × List Byte) × Tab Word
  | [] => ([], t)
  | w :: ws =>
    let h := wordHash w.toNat
    let hit := t.rd 0 h == w
    let r := packWords (if hit then t else t.wr 0 h w) ws
    ((hit, if hit then [BitVec.ofNat 8 h] else leBytes 4 w.toNat) :: r.1, r.2)

/-- Bytes of a compressed form. -/
def packedLen (l : List (Bool × List Byte)) : Nat := 16 + (l.map (fun e => e.2.length)).sum

/-- The largest K, up to 120 and the words queued, whose form fits in 244 bytes. -/
def bestCount (t : Tab Word) (ws : List Word) : Nat :=
  (List.range (min 120 ws.length + 1)).foldl (fun best k => if packedLen (packWords t (ws.take k)).1 ≤ 244 then k else best) 0

/-- A compressed payload. -/
def packedPayload (l : List (Bool × List Byte)) : List Byte :=
  let bits := ((List.range l.length).filter (fun i => (l.getD i (false, [])).1)).foldl (fun n i => n + 2 ^ i) 0
  leBytes 1 l.length ++ leBytes 15 bits ++ l.flatMap (·.2)

/-- Words of a compressed payload's body, with the receiver's table updates (R371). -/
def unpackWords (t : Tab Word) (bits : Nat) (bs : List Byte) (i : Nat) : Nat → List Word × Tab Word
  | 0 => ([], t)
  | k + 1 =>
    if bitOf bits i then
      let w := t.rd 0 (bs.headD 0).toNat
      let r := unpackWords t bits (bs.drop 1) (i + 1) k
      (w :: r.1, r.2)
    else
      let w : Word := BitVec.ofNat 32 (leNat (bs.take 4))
      let r := unpackWords (t.wr 0 (wordHash w.toNat) w) bits (bs.drop 4) (i + 1) k
      (w :: r.1, r.2)

/-- The words an accepted flit carries. -/
def flitWords (t : Tab Word) (f : List Byte) : List Word × Tab Word :=
  let h := flitHeader f
  let p := (f.drop 8).take h.used
  if h.cmp then unpackWords t (leNat ((p.drop 1).take 15)) (p.drop 16) 0 (min 120 (leNat (p.take 1)))
  else (byteWords p, t)

/-- How many words a flit carries. -/
def flitCount (f : List Byte) : Nat :=
  let h := flitHeader f
  if h.cmp then min 120 (leNat ((f.drop 8).take 1)) else h.used / 4

/-! ## Ports (R368, R369) -/

/-- The port carries flits now. -/
def Port.works (p : Port) : Bool := match p.st with | .up | .degraded | .retrying => true | _ => false

/-- Messages whose words have all been acknowledged are the port's no longer (R369). -/
def Port.settleMsgs (p : Port) : Port :=
  let left := (p.buf.map (fun e => flitCount e.2)).sum + p.out.length
  let rec go (l : List Msg) : List Msg :=
    match l with
    | [] => []
    | m :: t => if left ≤ (t.map (fun x => x.words.length)).sum then go t else m :: t
  { p with msgs := go p.msgs }

/-- An ACK covers the flits of the replay buffer up to it; one that covers the flit resent first ends the retry (R368,
R369). -/
def Port.acked (p : Port) (ack : Nat) : Port :=
  match p.buf.findIdx? (fun e => e.1 == ack) with
  | none => p
  | some i =>
    let done := p.buf.take (i + 1)
    let buf := p.buf.drop (i + 1)
    let p1 := { p with buf := buf, resend := min p.resend buf.length, tries := 0 }
    (if p.st == .retrying && done.any (fun e => e.1 == p.resendFirst) then { p1 with st := p.prior } else p1).settleMsgs

/-- A NAK or a time-out starts a resend of the whole buffer (R368, R369). -/
def Port.startResend (p : Port) : Port :=
  match p.buf with
  | [] => p
  | (q, _) :: _ =>
    if !p.works || decide (8 ≤ p.tries) then p else
    { p with
      prior := if p.st == .retrying then p.prior else p.st, st := .retrying, resend := p.buf.length, resendFirst := q
      tries := p.tries + 1, replays := min 65535 (p.replays + 1) }

/-- A message in its place by number. -/
def insertMsg (m : Msg) : List Msg → List Msg
  | [] => [m]
  | x :: t => if m.no ≤ x.no then m :: x :: t else x :: insertMsg m t

/-- Messages in MSGNO order (R369). -/
def byNumber (l : List Msg) : List Msg := l.foldl (fun acc m => insertMsg m acc) []

/-- A port that another port's messages may go to now (R369; log 11). -/
def State.otherPort (s : State) (p : Nat) : Option Nat :=
  (s.ports.filter (fun e => e.1 != p && (e.2.st == .up || e.2.st == .degraded))).head?.map (·.1)

/-- An answer to an earlier message, which is itself not acknowledged. -/
def Msg.isAnswer (m : Msg) : Bool := m.kind == 2 || m.kind == 5

/-- An access of this package whose message has no path completes with the memory-poison trap for its task (R369); a transform request,
which has no task, meets the poison there (R273), and a copy is left faulted (R264). -/
def State.lostMessage (s : State) (m : Msg) : State :=
  if m.isAnswer then s else
  match s.pend.find? m.no with
  | none => s
  | some p =>
    let s1 := { s with pend := s.pend.del m.no }
    let g : Origin := ⟨p.who, p.attempt, p.ctx, p.epoch, p.core, p.op, p.elem, []⟩
    match s1.op? p.op with
    | none => s1.poisonTask g p.va
    | some op =>
      match (s1.ctx op.ctx).rings.find? op.entry with
      | some r =>
        if isRequest op && op.st == .active then s1.haltRing p.op op r Cause.memoryPoison p.va
        else (s1.modElem p.op p.elem (fun e => { e with st := .complete })).poisonTask g p.va
      | none => (s1.modElem p.op p.elem (fun e => { e with st := .complete })).poisonTask g p.va

/-- The unacknowledged messages of a port are requeued (R369): on another working port, or on this one after training;
where it will not train and no other path is left, their accesses are lost. -/
def State.requeueMsgs (s : State) (p : Nat) (trains : Bool) : State :=
  let ms := byNumber (s.port p).msgs
  let clear (s : State) : State := s.modPort p (fun q => { q with
    buf := [], out := [], msgs := [], resend := 0, tries := 0, inw := [], nakSent := false, nakDue := false })
  let add (s : State) (p : Nat) : State := s.modPort p (fun q => { q with out := q.out ++ ms.flatMap Msg.words, msgs := q.msgs ++ ms })
  let s1 := clear s
  match s1.otherPort p with
  | some q => add s1 q
  | none =>
    if trains then add s1 p
    else if ms.isEmpty then s1
    else match s1.openPort with
      | some q => add s1 q
      | none => (ms.foldl State.lostMessage s1).event 6 0x61 0 p

/-- A port enters training (R369, R370). -/
def State.train (s : State) (p : Nat) : State :=
  (s.modPort p (fun q => { q with st := .training, lanes := 0, retrains := min 255 (q.retrains + 1) })).requeueMsgs p true

/-- PORT_ENABLE (R369): from down. -/
def execPortEnable (p : Nat) (s : State) : Outcome State Fault Refusal :=
  if (s.port p).st == .down && decide (p < 128) then .next (s.train p) else hold s

/-- PORT_DISABLE (R369): from any state. -/
def execPortDisable (p : Nat) (s : State) : Outcome State Fault Refusal :=
  if 128 ≤ p then hold s else .next ((s.modPort p (fun q => { q with st := .down, lanes := 0 })).requeueMsgs p false)

/-- TRAINING_DONE (R369): sequence numbers and tables start afresh, CMP is fixed from PSTAT. -/
def execTrainingDone (p lanes : Nat) (s : State) : Outcome State Fault Refusal :=
  if (s.port p).st != .training || lanes == 0 || decide (3 < lanes) then hold s
  else .next (s.modPort p (fun q => { q with
    st := if lanes = 3 then .up else .degraded, lanes := lanes, seq := 0, rxSeq := 4095, tx := [], rx := [], cmpOn := q.cmp
    nakSent := false, nakDue := false, resend := 0, tries := 0, inw := [] }))

/-- TRAINING_FAILED (R369). -/
def execTrainingFailed (p : Nat) (s : State) : Outcome State Fault Refusal :=
  if (s.port p).st != .training then hold s
  else .next (((s.modPort p (fun q => { q with st := .failed })).requeueMsgs p false).event 6 0x61 0 p)

/-- LANE_LOSS (R369). -/
def execLaneLoss (p _lanes : Nat) (s : State) : Outcome State Fault Refusal :=
  if (s.port p).works then .next (s.train p) else hold s

/-- RETRY_LIMIT (R369): eight resends have made no progress. -/
def execRetryLimit (p : Nat) (s : State) : Outcome State Fault Refusal :=
  if (s.port p).works && decide (8 ≤ (s.port p).tries) then .next (s.train p) else hold s

/-! ## Sending (R368, R371) -/

/-- The queued Tabor synchronisations whose first doubleword has not left take the count there: the one of the beat in which they leave
stays (R372). The queue's words are the last of those of the port's messages. -/
def Port.stamp (p : Port) (count : Nat) : Port :=
  { p with out := (p.msgs.reverse.foldl (fun (acc : List Word × Nat) m =>
      let n := acc.2 + m.words.length
      let at_ := p.out.length + 4 - n
      (if m.kind = 7 ∧ n ≤ p.out.length + 4 then (acc.1.set at_ (BitVec.ofNat 32 count)).set (at_ + 1) (BitVec.ofNat 32 (count / 2 ^ 32)) else acc.1, n))
      (p.out, 0)).1 }

/-- Form the next flit of queued words: the flit and the port after it. -/
def Port.form (p : Port) : List Byte × Port :=
  let k := if p.cmpOn then bestCount p.tx p.out else min 61 p.out.length
  let packed := packWords p.tx (p.out.take k)
  let payload := if p.cmpOn then packedPayload packed.1 else (p.out.take k).flatMap (fun w => leBytes 4 w.toNat)
  let f := makeFlit ⟨p.seq, p.rxSeq, false, p.nakDue, p.cmpOn, payload.length⟩ payload
  (f, { p with
    buf := p.buf ++ [(p.seq, f)], out := p.out.drop k, seq := (p.seq + 1) % 4096, nakDue := false
    tx := if p.cmpOn then packed.2 else p.tx })

/-- FLIT_SEND (R368, R371): a resend goes first, as stored; while the port is retrying, the buffer is full or nothing is queued, nothing
new is formed and an idle flit carries ACK and NAK. A Tabor synchronisation that leaves takes the count of this beat (R372). -/
def execFlitSend (p : Nat) (s : State) : Outcome State Fault Refusal :=
  let q := s.port p
  if !q.works then hold s
  else if 0 < q.resend then
    match q.buf[q.buf.length - q.resend]? with
    | some e => .next ((s.modPort p (fun q => { q with resend := q.resend - 1 })).send (.flit p e.2))
    | none => hold s
  else if q.st == .retrying || q.out.isEmpty || decide (512 ≤ q.buf.length) then
    .next ((s.modPort p (fun q => { q with nakDue := false })).send (.flit p (makeFlit ⟨q.seq, q.rxSeq, true, q.nakDue, false, 0⟩ [])))
  else
    let r := (q.stamp s.tabor.toNat).form
    .next ((s.modPort p (fun _ => r.2)).send (.flit p r.1))

/-- ACK_TIMEOUT (R368, R369). -/
def execAckTimeout (p : Nat) (s : State) : Outcome State Fault Refusal := .next (s.modPort p Port.startResend)

/-! ## Receiving (R366 to R368) -/

/-- The length of a message fits its kind (R366). -/
def lenwOk (kind lenw : Nat) : Bool :=
  match kind with
  | 1 | 5 => lenw == 4
  | 2 | 3 => (decide (5 ≤ lenw) && decide (lenw ≤ 68)) || lenw == 71
  | 4 => lenw == 8 || lenw == 12
  | 6 | 7 | 8 | 9 => lenw == 8
  | _ => false

/-- The message in a list of whole words. -/
def msgOf (ws : List Word) : Msg :=
  let h := leNat ((ws.take 4).flatMap (fun w => leBytes 4 w.toNat))
  ⟨bitsOf h 0 8, bitsOf h 16 12, bitsOf h 28 12, bitsOf h 40 24, bitsOf h 64 64, ws.drop 4⟩

/-- Answer a message (log 11): the answer carries the number of the message it answers. -/
def State.answer (s : State) (kind : Nat) (m : Msg) (data : List Word) : State :=
  s.post ⟨kind, Config.package, m.src, m.no, m.addr, data⟩

/-- A message as it arrives: a Tabor synchronisation is stamped with the count of its arrival, in two words more (R372). -/
def State.stamped (s : State) (m : Msg) : Msg := if m.kind = 7 then { m with data := m.data ++ splitWords 2 s.tabor.toNat } else m

/-- A whole message has arrived on a port (R366, R367): a repeat is acknowledged again once what it names has been performed. -/
def State.takeMsg (s : State) (p : Nat) (m : Msg) : State :=
  if !lenwOk m.kind (4 + m.data.length) then s.event 6 0x62 0 p
  else if m.isAnswer then { s with inbox := s.inbox ++ [m] }
  else if (s.accepted.rd [] m.src).contains m.no then
    (if s.inbox.any (fun x => x.src == m.src && x.no == m.no && !x.isAnswer) then s else s.answer 5 m [])
  else { s with accepted := s.accepted.put m.src ((m.no :: s.accepted.rd [] m.src).take 4096), inbox := s.inbox ++ [s.stamped m] }

/-- Whole messages at the head of a port's received words are taken; `n` bounds how many. A length below a header's is taken
as a header. -/
def State.takeMsgs (s : State) (p : Nat) : Nat → State
  | 0 => s
  | n + 1 =>
    let ws := (s.port p).inw
    let len := max 4 (bitsOf (ws.headD 0).toNat 8 8)
    if ws.isEmpty || decide (ws.length < len) then s
    else
      let s1 := s.modPort p (fun q => { q with inw := q.inw.drop len })
      let bad := decide (bitsOf (ws.headD 0).toNat 8 8 < 4)
      State.takeMsgs (if bad then s1.event 6 0x62 0 p else s1.takeMsg p (msgOf (ws.take len))) p n

/-- The ACK and NAK of a flit whose CRC is right. -/
def Port.answers (p : Port) (h : FlitHeader) : Port :=
  let q := p.acked h.ack
  if h.nak then q.startResend else q

/-- A flit is discarded: NAK once, then silence until the expected flit (R368). -/
def Port.discard (p : Port) : Port := if p.nakSent then p else { p with nakSent := true, nakDue := true }

/-- FLIT_RECEIVE (R368, R371). -/
def execFlitReceive (p : Nat) (f : List Byte) (s : State) : Outcome State Fault Refusal :=
  let q := s.port p
  if !q.works then hold s
  else if !flitOk f then .next (s.modPort p Port.discard)
  else
    let h := flitHeader f
    if h.idle then .next (s.modPort p (fun q => q.answers h))
    else if h.seq ≠ (q.rxSeq + 1) % 4096 then .next (s.modPort p Port.discard)
    else
      let r := flitWords q.rx f
      let s1 := s.modPort p (fun q => Port.answers { q with
        rxSeq := h.seq, nakSent := false, nakDue := false, inw := q.inw ++ r.1, rx := r.2 } h)
      .next (s1.takeMsgs p (s1.port p).inw.length)

/-! ## Messages at their destination (R366, R367) -/

/-- A message of some kind at a place of the inbox. -/
def State.mail (s : State) (idx kind : Nat) : Option Msg := (s.inbox[idx]?).bind (fun m => if m.kind = kind then some m else none)

/-- The message has been acted on. -/
def State.readMail (s : State) (idx : Nat) : State := { s with inbox := s.inbox.eraseIdx idx }

/-- The bytes of words. -/
def wordBytes (ws : List Word) : List Byte := ws.flatMap (fun w => leBytes 4 w.toNat)

/-- Memory here that a message's access may touch now: homed here, no engine owning it (R90). -/
def State.mailReady (s : State) (m : Msg) (n : Nat) : Bool :=
  (match homeOf m.addr with | .hbm => true | _ => false) && s.unowned m.addr n

/-- The guard tag that travels with a block at an address: the one that came with the block, while its bytes are those that it came with;
otherwise which tag a read of a block asks for is not stated, and the tag is free (log 11). -/
def State.tagOf (s : State) (pa : Nat) : List Byte :=
  match s.tags.find? (pa / 256) with
  | some b => if b.take 256 = s.homeBytes View.plain pa 256 then b.drop 256 else (List.range 12).map (fun i => (Config.freeWord (s.fresh + i)).extractLsb' 0 8)
  | none => (List.range 12).map (fun i => (Config.freeWord (s.fresh + i)).extractLsb' 0 8)

/-- READ_REQUEST (R366): `len` bytes are read at home and sent back; 268 are a block and its guard tag. -/
def execReadRequest (idx len : Nat) (s : State) : Outcome State Fault Refusal :=
  match s.mail idx 1 with
  | none => hold s
  | some m =>
    if len == 0 || (decide (256 < len) && len != 268) || !s.mailReady m (min len 256) then hold s
    else if len = 268 then
      .next (({ s with fresh := s.fresh + 12 }.readMail idx).answer 2 m (bytesWords (s.homeBytes View.plain m.addr 256 ++ s.tagOf m.addr)))
    else .next ((s.readMail idx).answer 2 m (bytesWords (s.homeBytes View.plain m.addr len)))

/-- A value that came from another package as the lane sees it: under its version or lineage, and unless it is an engine that reads, which
never reads a write queue (R91), under what the core's write queue holds (R81, R97). -/
def State.remoteView (s : State) (op : Op) (e : Elem) (v : Nat) : Nat :=
  match s.crew? op.crew, s.wave? op.crew op.wave with
  | some cr, some w =>
    let view := (w.viewOf op.crew (cr.slot op.wave) e.lane).1
    let h := s.overView view e.pa e.w v
    if (match op.instr with | .gath _ => true | _ => false) then h else
    leNat ((List.range e.w).map (fun i =>
      ((s.core cr.core).forward op.crew view.lineage (e.pa + i)).getD (BitVec.ofNat 8 (h / 2 ^ (8 * i)))))
  | _, _ => v

/-- An element that waited for a value has it (R82): loads, LR, atomics; the store of an SC is its success. An atomic at core
scope or narrower performs at the core now (R93). -/
def State.remoteValue (s : State) (o n : Nat) (op : Op) (e : Elem) (v : Nat) : State :=
  let s1 := s.setMarks op.crew op.wave e.mask
  match op.instr with
  | .ld f | .gath f => s1.finishLoad o n op e f.sz (s.remoteView op e v)
  | .lr f => (s1.reserve op e f.scope).finishElem o n e (s.remoteView op e v)
  | .atom f =>
    if 2 < actScope f.scope then
      (if atomWrites f.aop v e.data e.data2 then s1.clearOthers (some (op.crew, op.wave, op.strand)) e.pa e.w else s1).finishElem o n e v
    else match s.crew? op.crew with
    | none => s1.finishElem o n e v
    | some cr =>
      let m := s.remoteView op e v
      (if atomWrites f.aop m e.data e.data2 then s1.storeLocal o n op cr e f.scope (atomNew f.aop f.aty m e.data e.data2 1) false else s1).finishElem o n e m
  | .sc _ => s1.finishElem o n e 0
  | _ => s1.finishElem o n e v

/-- Where the guard tag of a source block at a virtual address lies for a guarded copy or request (R265, R272). -/
def Op.tagPlace (op : Op) (va : Nat) : Option Nat :=
  if isCopy op.instr then
    (if isTensor op.instr && op.dir == 0 && op.shape.guarded then some (op.shape.gtp + 12 * ((va - op.shape.a0) / 256)) else none)
  else if isRequest op && (op.rOp == 7 || bitOf op.rFlags 3) then some (op.rTags + 12 * ((va - op.rSrc) / 256))
  else none

/-- Bytes enter what an operation has read, from a virtual address on. -/
def Op.takeBytes (op : Op) (va : Nat) (bs : List Byte) : Op :=
  { op with buf := (List.range bs.length).foldl (fun (t : Tab Byte) i => t.put (srcKey true (va + i)) (bs.getD i 0)) op.buf }

/-- READ_RESPONSE (R366): data for an element, or source bytes for an engine, under its crew's version (R255). The guard tag that follows a
block is the block's, for an engine that is to check it (R265; log 11). -/
def execReadResponse (idx : Nat) (s : State) : Outcome State Fault Refusal :=
  match s.mail idx 2 with
  | none => hold s
  | some m =>
    let s1 := s.readMail idx
    match s1.pend.find? m.no with
    | none => .next s1
    | some p =>
      let s2 := { s1 with pend := s1.pend.del m.no }
      let bs := (wordBytes m.data).take 256
      match s2.op? p.op with
      | none => .next s2
      | some op =>
        if noOp ≤ p.elem then
          let va := p.elem - noOp
          let got := (List.range (min p.n bs.length)).map (fun i => s2.verByte op.crew (p.msg.addr + i) (bs.getD i 0))
          let tag := match (if m.data.length = 67 ∧ p.n = 256 then op.tagPlace va else none) with
            | some a => (a, ((wordBytes m.data).drop 256).take 12)
            | none => (0, [])
          .next (s2.modOp p.op (fun op => (op.takeBytes va got).takeBytes tag.1 tag.2))
        else match op.elems[p.elem]? with
          | none => .next s2
          | some e => if bs.length < e.w then .next s1 else .next (s2.remoteValue p.op p.elem op e (leNat (bs.take e.w)))

/-- A block's guard tag is kept with it: 268 bytes (R366; log 11). -/
def State.keepTag (s : State) (pa : Nat) (bs : List Byte) : State := { s with tags := s.tags.put (pa / 256) bs }

/-- WRITE_MESSAGE (R366): `len` bytes are written at home, and acknowledged. Of 268 the last twelve are the block's guard tag, which goes on
with the block when another package reads it with a tag (log 11). -/
def execWriteMessage (idx len : Nat) (s : State) : Outcome State Fault Refusal :=
  match s.mail idx 3 with
  | none => hold s
  | some m =>
    if (len + 3) / 4 != m.data.length || (decide (256 < len) && len != 268) || !s.mailReady m (min len 256) then hold s
    else
      let s1 := s.agentWrite m.addr ((wordBytes m.data).take (min len 256))
      .next (((if len = 268 then s1.keepTag m.addr ((wordBytes m.data).take 268) else s1).readMail idx).answer 5 m [])

/-- ATOMIC_MESSAGE (R366, R93, R94): a read and a write in one step at home; an atomic answers with the old value, a
reduction with an acknowledgement. The operation is the event's (log 11). -/
def execAtomicMessage (idx aop aty : Nat) (red : Bool) (s : State) : Outcome State Fault Refusal :=
  match s.mail idx 4 with
  | none => hold s
  | some m =>
    let w := atBytes aty
    if !s.mailReady m w then hold s
    else
      let half := m.data.length / 2
      let c := leNat (wordBytes (m.data.take half)) % 2 ^ (8 * w)
      let c2 := leNat (wordBytes (m.data.drop half)) % 2 ^ (8 * w)
      let old := leNat (s.mem.bytes m.addr w)
      let s1 := if atomWrites aop old c c2 then s.agentWrite m.addr (leBytes w (atomNew aop aty old c c2 (if red then 0xA else 1))) else s
      let s2 := s1.readMail idx
      .next (if red then s2.answer 5 m [] else s2.answer 2 m (bytesWords (leBytes w old)))

/-- END_TO_END_ACK (R367): the write, wake write or reduction it names has been performed; reservations of other strands on its bytes are
cleared (R86, R94, R95). -/
def execEndToEndAck (idx : Nat) (s : State) : Outcome State Fault Refusal :=
  match s.mail idx 5 with
  | none => hold s
  | some m =>
    let s1 := s.readMail idx
    match s1.pend.find? m.no with
    | none => .next s1
    | some p =>
      let gone : State := { s1 with pend := s1.pend.del m.no }.clearOthers p.who p.msg.addr p.n
      if p.msg.kind = 1 then .next s1 else
      match s1.op? p.op with
      | none => .next gone
      | some op =>
        match op.instr, op.elems[p.elem]? with
        | .sc _, some e => .next (gone.remoteValue p.op p.elem op e 0)
        | .atom _, _ => .next s1
        | _, _ => .next (gone.modElem p.op p.elem (fun e => { e with st := .complete }))

/-- WAKE_WRITE (R373): performed here in one step, with this package's waiters evaluated. -/
def execWakeWrite (idx len : Nat) (s : State) : Outcome State Fault Refusal :=
  match s.mail idx 6 with
  | none => hold s
  | some m =>
    if (len != 4 && len != 8) || !s.mailReady m len then hold s
    else .next (((s.wakeStore none none m.addr ((wordBytes m.data).take len) State.evalWakes).readMail idx).answer 5 m [])

/-! ## Time and gang messages (R372, R373, R375) -/

/-- The counter is set right by half the difference of the two one-way differences, of the message to the master and of the one back
(R372): a package behind steps forward, one ahead runs at half rate. -/
def State.adjust (s : State) (there back : Dword) : State :=
  let d : Int := (there.toInt - back.toInt) / 2
  if 0 ≤ d then { s with tabor := s.tabor + BitVec.ofNat 64 d.toNat, ahead := 0, slowHalf := false }
  else { s with ahead := (-d).toNat, slowHalf := false }

/-- A doubleword of a message's data. -/
def Msg.dword (m : Msg) (k : Nat) : Dword := m.data.getD (2 * k + 1) 0 ++ m.data.getD (2 * k) 0

/-- TABOR_SYNCHRONISATION (R372): the message to the master carries the count t1 at which it left, and was stamped with t2 as it
arrived; the master sends back the difference t2 - t1 in a message that takes the count t3 at which it leaves. At the package that gets
it, stamped t4, the exchange ends (log 82). -/
def execTaborSynchronisation (idx t1 t2 t3 t4 : Nat) (s : State) : Outcome State Fault Refusal :=
  match s.mail idx 7 with
  | none => hold s
  | some m =>
    let s1 := (s.readMail idx).answer 5 m []
    if s.master = Config.package then
      (if m.dword 0 != BitVec.ofNat 64 t1 || m.dword 2 != BitVec.ofNat 64 t2 then hold s
       else .next (s1.tell 7 m.src 0 (splitWords 2 0 ++ splitWords 2 (m.dword 2 - m.dword 0).toNat)))
    else if m.dword 0 != BitVec.ofNat 64 t3 || m.dword 1 != BitVec.ofNat 64 t2 - BitVec.ofNat 64 t1 || m.dword 2 != BitVec.ofNat 64 t4 then hold s
    else .next (s1.adjust (m.dword 1) (m.dword 2 - m.dword 0))

/-- TABOR_SYNC_TIMER (R372): the exchange with the master begins; the message takes its count as it leaves. -/
def execTaborSyncTimer (s : State) : Outcome State Fault Refusal :=
  if s.gang.isEmpty || decide (s.master = Config.package) then hold s
  else .next (s.tell 7 s.master 0 (splitWords 4 0))

/-- GANG_START_OR_ABORT (R373, R134): an abort of this gang fails the waiting and running kernels of its START, and is held until the
counter passes START; one of another gang acts on nothing here (log 11). -/
def execGangStartOrAbort (idx : Nat) (abort : Bool) (tick : Nat) (s : State) : Outcome State Fault Refusal :=
  match s.mail idx 8 with
  | none => hold s
  | some m =>
    let gang := (m.data.getD 3 0).toNat
    if m.data != gangWords tick abort gang then hold s else
    let s1 := (s.readMail idx).answer 5 m []
    if !abort || gang != s.master then .next s1
    else
      let hit := s1.kernels.filter (fun e => e.2.start == tick && tick != 0 && (e.2.st == .waiting || s1.stillRunning e.2))
      let s2 := hit.foldl (fun (s : State) e => s.failKernel e.1 4 0 0) s1
      .next { s2 with aborts := distinct ((s2.aborts ++ [tick]).filter (fun t => decide (s.tabor.toNat ≤ t))) }

/-- CLAVE_FIRING (R375): a firing at its tick, or at once and late where the counter has passed it. -/
def execClaveFiring (idx tick : Nat) (s : State) : Outcome State Fault Refusal :=
  match s.mail idx 9 with
  | none => hold s
  | some m =>
    if m.data != splitWords 4 tick then hold s else
    let s1 := (s.readMail idx).answer 5 m []
    if tick < s.tabor.toNat then .next (s1.fireClave 4 (some true))
    else .next { s1 with claveTicks := s1.claveTicks ++ [(tick, false)] }

/-- The counter takes a count that is not below it; above that count the package runs at half rate until it agrees, since the counter
never decreases (R372). -/
def State.takeCount (s : State) (count : Dword) : State :=
  if s.tabor ≤ count then { s with tabor := count, ahead := 0, slowHalf := false }
  else { s with ahead := s.tabor.toNat - count.toNat, slowHalf := false }

/-- GANG_FORMATION (R372): the package takes its master's count. A gang has at most 4,096 packages (R3), of which one is the master. -/
def execGangFormation (master : Nat) (members : List Nat) (count : Dword) (s : State) : Outcome State Fault Refusal :=
  if s.recovering || decide (Config.gangPackages < members.length) || !members.contains master then hold s
  else .next { s.takeCount count with gang := distinct members, master := master }

/-! ## PSTAT (R370) -/

/-- STATE codes. -/
def PortState.code : PortState → Nat
  | .down => 0
  | .training => 1
  | .up => 2
  | .degraded => 3
  | .retrying => 4
  | .failed => 5

/-- PSTAT's value. -/
def Port.pstat (p : Port) : Nat :=
  p.replays % 2 ^ 16 * 2 ^ 48 + p.retrains % 2 ^ 8 * 2 ^ 40 + p.cmp.toNat * 2 ^ 8 + p.lanes % 4 * 2 ^ 6 + p.st.code

/-- PSTAT_REPLAYS_READ (R370): the value is returned and REPLAYS cleared. -/
def execPstatReplaysRead (p : Nat) (s : State) : Outcome State Fault Refusal :=
  if 128 ≤ p then hold s else .next ((s.modPort p (fun q => { q with replays := 0 })).send (.value (s.port p).pstat))

end Sys2Proof.Machine
end

