-- ==== Sys2Proof/Machine/HostOps.lean ====
section
/-!
DEFINITION. The two masters' registers (R376 to R381), the device-memory aperture, host events (R380) and energy accounts
(R113).
-/

namespace Sys2Proof.Machine

open Sys2Proof Host

/-- A refused write: no effect, and BOOTSTAT.ERR is set (R378, R379). -/
def State.refuseWrite (s : State) : State := { s with bootErr := true }

/-! ## Context windows (R377, R378) -/

/-- Contexts assigned to a function, in ascending number (log 23). -/
def State.assigned (s : State) (fn : Nat) : List Nat := (s.ctxs.filter (fun e => e.2.fn == fn && e.2.st != .absent)).map (·.1)

/-- The context whose window a function's BAR2 offset lies in, and the offset in it (R376). -/
def State.windowOf (s : State) (fn offset : Nat) : Option (Nat × Nat) :=
  ((s.assigned fn)[offset / 16384]?).map (fun x => (x, offset % 16384))

/-- A write of a queue's register (R378). RIDX is read-only (R377); the host alone may advance that of a halted queue, as far as WIDX (R120; DEDUCED,
log 88; `State.windowWrite` keeps a program's store from it). -/
def State.writeQueue (s : State) (x q reg val : Nat) : State :=
  let off := ((s.ctx x).queue q).st == .disabled
  let v := val % 2 ^ 32
  match reg with
  | 0 => if off && val % 4096 == 0 then s.modQueue x q (fun qu => { qu with base := val }) else s.refuseWrite
  | 8 =>
    if off && (List.range 17).any (fun k => v == 2 ^ (k + 4)) then s.modQueue x q (fun qu => { qu with size := v }) else s.refuseWrite
  | 12 => if off && decide (v ≤ 7) then s.modQueue x q (fun qu => { qu with prio := v }) else s.refuseWrite
  | 16 =>
    let qu := (s.ctx x).queue q
    if qu.st == .halted && decide ((v + 2 ^ 32 - qu.ridx) % 2 ^ 32 ≤ (qu.widx + 2 ^ 32 - qu.ridx) % 2 ^ 32)
    then s.modQueue x q (fun qu => { qu with ridx := v }) else s
  | 20 =>
    let s1 := s.modQueue x q (fun qu => { qu with widx := v })
    let qu := (s1.ctx x).queue q
    if qu.overrun && !off && qu.st != .halted then s1.haltQueue x q else s1
  | 24 => s.ringDoorbell x q
  | 28 =>
    let s1 := if bitOf v 0 then s.enableQueue x q else s.disableQueue x q
    if bitOf v 1 then s1.resumeQueue x q else s1
  | _ => s

/-- A write in a context's window (R377) by a master or by a program of a core; offsets not listed ignore it. A master's kick has no core:
core 0 (log 23). -/
def State.writeWindow (s : State) (x off : Nat) (val : Dword) (core : Nat) : State :=
  let v := val.toNat
  if off < 0x1000 then s.writeQueue x (off / 64) (off % 64) v
  else if off < 0x1100 then
    (match off % 16 with
    | 0 => s.kick x ((off - 0x1000) / 16) (v % 2 ^ 32) core none
    | 4 =>
      (match v % 2 ^ 32 with
      | 1 => s.resumeRing x ((off - 0x1000) / 16)
      | 2 => s.cancelRing x ((off - 0x1000) / 16)
      | _ => s)
    | _ => s)
  else match off with
  | 0x2000 => s.releaseFrame x (bitsOf v 12 40)
  | 0x2010 => s.modCtx x (fun cx => { cx with ebudget := v })
  | 0x2020 => if v % 4096 = 0 then s.modCtx x (fun cx => { cx with cevBase := v }) else s.refuseWrite
  | 0x202C => s.modCtx x (fun cx => { cx with cevR := v % 2 ^ 32 })
  | _ => s

/-- A read in a context's window (R377). -/
def State.readWindow (s : State) (x off : Nat) : Nat :=
  let cx := s.ctx x
  if off < 0x1000 then
    let q := cx.queue (off / 64)
    match off % 64 with
    | 0 => q.base
    | 8 => q.size
    | 12 => q.prio
    | 16 => q.ridx
    | 20 => q.widx
    | 28 => (q.st != .disabled).toNat
    | _ => 0
  else if off < 0x1100 then
    match cx.rings.find? ((off - 0x1000) / 16), off % 16 with
    | some r, 0 => r.widx % 2 ^ 32
    | some r, 4 => r.cmd
    | some r, 8 => r.stat
    | _, _ => 0
  else match off with
  | 0x2008 => cx.eacct
  | 0x2010 => cx.ebudget
  | 0x2020 => cx.cevBase
  | 0x2028 => cx.cevW
  | 0x202C => cx.cevR
  | _ => 0

/-! ## Global registers (R379, R381) -/

/-- BOOTSTAT (R381). -/
def State.bootstat (s : State) : Nat := s.fwVer % 2 ^ 32 * 2 ^ 32 + s.bootErr.toNat * 2 ^ 7 + s.hostUp.toNat * 2 ^ 6 + s.stage % 8

/-- The supply is within 650 mV ± 10 % (R382). -/
def supplyOk (millivolts : Nat) : Bool := decide (585 ≤ millivolts) && decide (millivolts ≤ 715)

/-- A value is written to RESTART with the hottest junction and the supply as they are (step 5 of R383): the compute dies restart, or the
write is refused. -/
def State.restartDies (s : State) (val celsius millivolts : Nat) : State :=
  if val = 1 ∧ s.stopped ∧ celsius < 95 ∧ supplyOk millivolts then { s with stopped := false } else s.refuseWrite

/-- A write of a global register (R379) by the host, or by the management controller. What RESTART reads of the junctions and the supply
is free (log 67). -/
def State.writeGlobal (s : State) (mgmt : Bool) (off : Nat) (val : Dword) : State :=
  let v := val.toNat
  if 0x100 ≤ off ∧ off < 0x1100 then
    (if (off - 0x100) % 32 = 0 then s.modPort ((off - 0x100) / 32) (fun p => { p with cmp := bitOf v 8 }) else s)
  else match off with
  | 0x00 => if bitOf v 7 then { s with bootErr := false } else s
  | 0x10 => let w := v % 2 ^ 32; if 1400 ≤ w ∧ w ≤ 2300 then { s with pwrLim := w } else s.refuseWrite
  | 0x20 => if v % 4096 = 0 then { s with evBase := v } else s.refuseWrite
  | 0x2C => { s with evR := v % 2 ^ 32 }
  | 0x30 => s.fireClave (if mgmt then 2 else 1) none
  | 0x38 => { s with claveTick := v, claveArmed := decide (s.tabor.toNat ≤ v) }
  | 0x40 => s.draw.2.restartDies (v % 2 ^ 32) (Config.celsius s.draw.1) (Config.millivolts s.draw.1)
  | _ => s

/-- A read of a global register (R379). -/
def State.readGlobal (s : State) (off : Nat) : Nat :=
  if 0x100 ≤ off ∧ off < 0x1100 then (if (off - 0x100) % 32 = 0 then (s.port ((off - 0x100) / 32)).pstat else 0)
  else match off with
  | 0x00 => s.bootstat
  | 0x10 => s.pwrLim
  | 0x14 => s.pwrNow
  | 0x18 => s.energy
  | 0x20 => s.evBase
  | 0x28 => s.evW
  | 0x2C => s.evR
  | 0x38 => s.claveTick
  | _ => 0

/-- A register of a function's BAR0 or BAR2, as the host reads it: 0 in BAR0 of a virtual function, and where the function has no context
at the offset (R376). -/
def State.readReg (s : State) (fn bar offset : Nat) : Nat :=
  match bar with
  | 0 => if fn = 0 then s.readGlobal offset else 0
  | 2 => match s.windowOf fn offset with | some w => s.readWindow w.1 w.2 | none => 0
  | _ => 0

/-- A read of PSTAT clears REPLAYS (R370). -/
def State.readClears (s : State) (bar off : Nat) : State :=
  if bar = 0 ∧ 0x100 ≤ off ∧ off < 0x1100 ∧ (off - 0x100) % 32 = 0 then s.modPort ((off - 0x100) / 32) (fun p => { p with replays := 0 }) else s

/-- The host reads a register through a function's BAR0 or BAR2 (R376). -/
def State.hostReadReg (s : State) (fn bar offset : Nat) : State :=
  if !s.hostReaches then s
  else (s.send (.value (s.readReg fn bar offset))).readClears (if fn = 0 then bar else 2) offset

/-- A register of a function's BAR0 or BAR2 is written by the host: a write through a function that has no such register is ignored
(R376). -/
def State.writeReg (s : State) (fn bar offset : Nat) (val : Dword) : State :=
  match bar with
  | 0 => if fn = 0 then s.writeGlobal false offset val else s
  | 2 => match s.windowOf fn offset with | some w => s.writeWindow w.1 w.2 val 0 | none => s
  | _ => s

/-- REGISTER_WRITE (R376 to R379): a write by the host through a function's BAR0 or BAR2, while the link is up and the package is not in
recovery (R381, R384). Its completion reports the value in force after it. -/
def execRegisterWrite (fn bar offset : Nat) (val : Dword) (s : State) : Outcome State Fault Refusal :=
  if !s.hostReaches then hold s
  else .next ((s.writeReg fn bar offset val).send (.value ((s.writeReg fn bar offset val).readReg fn bar offset)))

/-- A window's offset is that of a queue's RIDX (R377). -/
def isRidx (off : Nat) : Bool := decide (off < 0x1000) && off % 64 == 16

/-- The oldest store of a program to a register window reaches it (R378); the window of a context that is no more takes nothing, and RIDX,
which a program may only read, ignores it (R11, R377). -/
def State.windowWrite (s : State) : State :=
  match s.winWrites with
  | [] => s
  | e :: rest =>
    let s1 := { s with winWrites := rest }
    if s.hasCtx e.1 && !isRidx e.2.1 then s1.writeWindow e.1 e.2.1 (BitVec.ofNat 64 (leNat e.2.2.1)) e.2.2.2 else s1

/-- HOST_APERTURE_ACCESS (R376): an access through a function's BAR4 at scope system, in one step at the lines' homes. -/
def execHostApertureAccess (first : ApertureByte) (write : Option (List Byte)) (len : Nat) (s : State) : Outcome State Fault Refusal :=
  let n := match write with | some b => b.length | none => len
  let addr := Config.apertureBase first.fn + first.offset
  if !s.hostReaches || n == 0 || decide (Config.virtualFunctions < first.fn) || decide (Config.apertureBytes < first.offset + n) ||
    !s.unowned addr n then hold s
  else match write with
  | some b => .next (s.agentWrite addr b)
  | none => .next (s.send (.bytes (s.homeBytes View.plain addr n)))

/-! ## The side-band port (R381) -/

/-- A command's register write by the management controller; a context window is named by the context's number (log 23). -/
def State.mgmtWrite (s : State) (bar off : Nat) (val : Dword) : State :=
  match bar with
  | 0 => s.writeGlobal true off val
  | 2 => if s.hasCtx (off / 16384) then s.writeWindow (off / 16384) (off % 16384) val 0 else s
  | _ => s

/-- A command's register read. -/
def State.mgmtRead (s : State) (bar off : Nat) : Nat :=
  match bar with
  | 0 => s.readGlobal off
  | 2 => s.readWindow (off / 16384) (off % 16384)
  | _ => 0

/-- MCTP_COMMAND (R381): the management core takes one command in one step; its completion reports the value in force after it. The
snapshot read returns the Tabor count of the last latch and what the blocks latched (log 69); an image written replaces one copy in
flash (R384, log 84). -/
def execMctpCommand (cmd : MgmtCommand) (s : State) : Outcome State Fault Refusal :=
  match cmd with
  | .write bar off val =>
    let s1 := s.mgmtWrite bar off val
    .next (s1.send (.value (s1.mgmtRead bar off)))
  | .read bar off => .next ((s.send (.value (s.mgmtRead bar off))).readClears bar off)
  | .snapshot => .next ((s.send (.value (s.snaps.headD 0))).send (.bytes (Config.snapshot s.snaps.length)))
  | .writeImage fw copy bytes => if 2 ≤ copy then hold s else .next { s with flash := s.flash.put (2 * copy + fw.toNat) bytes }

/-! ## Host events (R112, R380) -/

/-- The 32 bytes of an event record (R112). -/
def Event.toNat (e : Event) : Nat :=
  e.time % 2 ^ 64 * 2 ^ 192 + e.offset % 2 ^ 64 * 2 ^ 128 + e.ctx % 1024 * 2 ^ 32 + e.code % 2 ^ 16 * 2 ^ 16 + e.kind % 2 ^ 16

/-- The ring an event goes to: its context's, or the global one (R380). -/
def State.ringOf (s : State) (e : Event) : Option Nat :=
  if (e.kind = 4 ∨ e.kind = 5) ∧ (s.ctx e.ctx).cevBase ≠ 0 then some e.ctx else none

/-- EVENT_DELIVERY (R380): the oldest event held for a ring goes to its next slot, where one is free, and raises MSI-X. The
global ring is not there before EVBASE is set. -/
def execEventDelivery (ctx : Option Nat) (s : State) : Outcome State Fault Refusal :=
  match s.events.find? (fun e => s.ringOf e == ctx) with
  | none => hold s
  | some e =>
    let rest := s.events.erase e
    let put (base widx slots fn : Nat) (f : State → State) : Outcome State Fault Refusal :=
      let a := base + 32 * (widx % slots)
      if base = 0 ∨ !s.unowned a 32 then hold s
      else .next ((f ({ s with events := rest }.agentWrite a (leBytes 32 e.toNat))).send (.msix fn))
    match ctx with
    | some x =>
      let cx := s.ctx x
      if 256 ≤ (cx.cevW + 2 ^ 32 - cx.cevR) % 2 ^ 32 then hold s
      else put cx.cevBase cx.cevW 256 cx.fn (fun s => s.modCtx x (fun cx => { cx with cevW := (cx.cevW + 1) % 2 ^ 32 }))
    | none =>
      if 4096 ≤ (s.evW + 2 ^ 32 - s.evR) % 2 ^ 32 then hold s
      else put s.evBase s.evW 4096 0 (fun s => { s with evW := (s.evW + 1) % 2 ^ 32 })

/-! ## Energy (R113, R379, R382) -/

/-- Energy of a die, counted for the die and for the package (R379, R382). -/
def State.spend (s : State) (die energy : Nat) : State :=
  { s with energy := (s.energy + energy) % 2 ^ 64, energyDie := s.energyDie.wr 0 die ((s.energyDie.rd 0 die + energy) % 2 ^ 64) }

/-- Energy attributed to a context (R113). -/
def State.attribute (s : State) (x energy : Nat) : State :=
  if (s.ctx x).st.live then s.modCtx x (fun cx => { cx with eacct := (cx.eacct + energy) % 2 ^ 64 }) else s

/-- Energy attributed to a kernel's crews and their engine operations (R135). -/
def State.attributeKernel (s : State) (k energy : Nat) : State :=
  s.modKernel k (fun kn => { kn with energy := (kn.energy + energy) % 2 ^ 64 })

/-- What `of` says of the crew of each wave resident on a core. -/
def State.residents (s : State) (of : Crew → Nat) (core : Nat) : List Nat :=
  s.crews.flatMap (fun e => if e.2.core = core then (e.2.waves.filter (fun w => w.2.live)).map (fun _ => of e.2) else [])

/-- A core's energy by context, or by kernel, in proportion to the number of resident waves, in whole microjoules (R113, log 81). -/
def State.energyShares (s : State) (of : Crew → Nat) (core energy : Nat) : List (Nat × Nat) :=
  let r := s.residents of core
  (distinct r).map (fun x => (x, energy * (r.filter (· == x)).length / r.length))

/-- EACCT_UPDATE (R113): a core's energy goes to the contexts of its resident waves, an engine operation's to the context that issued it,
and likewise to their kernels (R135); that of idle cores and of the link goes to none; each is counted for its die and the package
(R382). -/
def execEacctUpdate (src : EnergySource) (energy : Nat) (s : State) : Outcome State Fault Refusal :=
  match src with
  | .core c =>
    if Config.cores ≤ c then hold s
    else
      let s1 := (s.energyShares (·.ctx) c energy).foldl (fun (s : State) e => s.attribute e.1 e.2) (s.spend (dieOf c) energy)
      .next ((s.energyShares (·.kernel) c energy).foldl (fun (s : State) e => s.attributeKernel e.1 e.2) s1)
  | .operation o die =>
    match s.op? o with
    | none => hold s
    | some op => if 4 ≤ die then hold s
      else
        let s1 := (s.spend die energy).attribute op.ctx energy
        .next (match if isRequest op && op.cv == 0 then none else s.crew? (if isRequest op then op.cv - 1 else op.crew) with
          | some cr => s1.attributeKernel cr.kernel energy
          | none => s1)
  | .link die => if 2 ≤ die then hold s else .next (s.spend (4 + die) energy)

end Sys2Proof.Machine
end

