-- ==== Sys2Proof/Machine/Power.lean ====
section
/-!
DEFINITION. Power, temperature, the emergency stop, boot and attestation (R380 to R385).
-/

namespace Sys2Proof.Machine

open Sys2Proof Host

/-- One step of the arithmetic clock's lowering (R382). -/
def State.lowerClock (s : State) : State := { s with mhz := max 300 (s.mhz - 25) }

/-- The clock is lowered a step; where that begins a throttle, event 0x0071 is raised (R380, R382; DEDUCED, log 89). -/
def State.throttle (s : State) : State :=
  if s.throttled then s.lowerClock else ({ s.lowerClock with throttled := true }).event 7 0x71 0 0

/-- POWER_LIMIT_THROTTLE (R379, R382): the power averaged over 1 ms is read; above PWRLIM the clock is lowered. -/
def execPowerLimitThrottle (watts : Nat) (s : State) : Outcome State Fault Refusal :=
  let s1 := { s with pwrNow := watts }
  .next (if s.pwrLim < watts then s1.throttle else s1)

/-- THERMAL_THROTTLE (R382): at 105 °C, the same lowering. -/
def execThermalThrottle (celsius : Nat) (s : State) : Outcome State Fault Refusal :=
  if celsius < 105 then hold s else .next s.throttle

/-- THROTTLE_END (R380): the clock is 600 MHz again (R6). -/
def execThrottleEnd (s : State) : Outcome State Fault Refusal :=
  if s.throttled then .next ({ s with mhz := 600, throttled := false }.event 7 0x72 0 0) else hold s

/-- The compute dies stop and what they hold is lost (step 1 of R383). -/
def State.stopDies (s : State) : State :=
  { s with
    stopped := true, cur := none, crews := [], cores := [], ops := [], sharers := [], owners := [], reds := [], tlb := [], walks := []
    pend := [], rotor := [], waitDst := [] }

/-- A context of an emergency stop (step 2 of R383). -/
def State.stopContext (s : State) (x : Nat) : State :=
  if (s.ctx x).st.live then
    (s.modCtx x (fun cx => { cx with
      st := .lost, saves := [], handler := none, inHand := false
      rings := cx.rings.mapV (fun _ r => { r.haltedBy [] with busy := [], ended := [] }) })).event 4 0x44 x 0
  else s

/-- A kernel of an emergency stop (step 2 of R383): failed with status context-lost; its record waits for the restart. -/
def Kernel.stop (kn : Kernel) (time : Nat) : Kernel :=
  match kn.st with
  | .complete | .failed => kn
  | _ => { kn with
      st := .failed, status := 5, cause := 0, detail := 0, time := if kn.st == .retiring then kn.time else time, unplaced := [], requeued := [] }

/-- EMERGENCY_STOP (R382, R383). -/
def execEmergencyStop (celsius millivolts : Nat) (s : State) : Outcome State Fault Refusal :=
  if s.stopped || (decide (celsius < 115) && supplyOk millivolts) then hold s else
  let s1 := (s.ctxs.map (·.1)).foldl State.stopContext s.stopDies
  let s2 := { s1 with kernels := s1.kernels.mapV (fun _ kn => kn.stop s.tabor.toNat) }
  .next ((s2.event 7 0x74 0 0).send .stopNotice)

/-- COMPUTE_RESTART (R383): a write of RESTART. -/
def execComputeRestart (val : Word) (celsius millivolts : Nat) (s : State) : Outcome State Fault Refusal :=
  .next (s.restartDies val.toNat celsius millivolts)

/-- CXL_DEVICE_LOST (R380). -/
def execCxlDeviceLost (dev : Nat) (s : State) : Outcome State Fault Refusal :=
  if 4 ≤ dev ∨ s.cxlLost.contains dev then hold s else .next ({ s with cxlLost := s.cxlLost ++ [dev] }.event 7 0x73 0 0)

/-- What a copy in flash holds: the configuration record, or the firmware image. Which of the two copies the ROM takes is free (log 84). -/
def State.flashed (s : State) (fw : Bool) : List Byte :=
  s.flash.rd [] (2 * ((Config.freeWord (s.fresh + fw.toNat)).toNat % 2) + fw.toNat)

/-- BOOT (R384): the ROM's steps from power-on, or again from recovery; a failure of the configuration record or of the
firmware leaves STAGE 3. What the record's defect maps and trims take away is not stated (log 84). -/
def execBoot (cfgOk fwOk : Bool) (fwVer minVer : Nat) (s : State) : Outcome State Fault Refusal :=
  if s.stage = 1 ∨ s.stage = 2 then hold s
  else if !cfgOk then .next { s with stage := 3 }
  else
    let s1 := { s with boots := s.boots + 1, fresh := s.fresh + 2, booted := s.booted.put 0 (s.flashed false) }
    .next (if fwOk && decide (minVer ≤ fwVer)
      then { s1 with stage := 2, fwVer := fwVer % 2 ^ 32, booted := s1.booted.put 1 (s.flashed true) } else { s1 with stage := 3 })

/-- HOST_LINK_CHANGE (R381). -/
def execHostLinkChange (up : Bool) (s : State) : Outcome State Fault Refusal := .next { s with hostUp := up }

/-- The first 184 bytes of a report (R385): the nonce, the SHA-384 digests of the configuration record, of the firmware image and of the
record's certificate chain, and the Tabor count. -/
def State.reportBody (s : State) (nonce : List Byte) : List Byte :=
  nonce ++ sha384 (s.booted.rd [] 0) ++ sha384 (s.booted.rd [] 1) ++ sha384 (Config.certChain (s.booted.rd [] 0)) ++ leBytes 8 s.tabor.toNat

/-- ATTESTATION_REQUEST (R385), by the DOE object that function 0 alone has or over MCTP: nonce, digests, Tabor count and signature, and
the certificate chain that the configuration record carries (log 12). -/
def execAttestationRequest (nonce : List Byte) (s : State) : Outcome State Fault Refusal :=
  if nonce.length ≠ 32 then hold s else
  let body := s.reportBody nonce
  let d := s.draw
  .next ((d.2.send (.bytes (body ++ (List.range 96).map (Config.signByte d.1 body)))).send (.bytes (Config.certChain (s.booted.rd [] 0))))

end Sys2Proof.Machine
end

