-- ==== Sys2Proof/Machine/Wake.lean ====
section
/-!
DEFINITION. The ends of strands' waits (R152): a wake, and the limits of JOINW and WWAIT (R158, R245).
-/

namespace Sys2Proof.Machine

open Sys2Proof Host

/-- A strand takes up running again (R152): runnable, and chosen if the wave runs none, its siblings' states up to date (R143, R149). -/
def State.resume (s : State) (c w k : Nat) : State :=
  ((s.unstall c w).modWave c w (fun wv => (wv.modStrand k (fun st =>
    { st with st := .runnable, woken := false, expired := false, age := 0 })).unpark)).choose c w

/-- STRAND_WAKE (R152): a strand whose condition has come true becomes runnable, with the acquire half and the result its
wait gives (R99, R158, R242, R245, R248). A handle bound afresh in the meantime is waited on again (R248). -/
def execStrandWake (c w k : Nat) (s : State) : Outcome State Fault Refusal :=
  match s.crew? c with
  | none => hold s
  | some cr =>
    match cr.waves.find? w with
    | none => hold s
    | some wv =>
      let st := wv.strand k
      if !st.woken || !s.crewRuns cr then hold s else
      match st.st with
      | .waiting (.barrier _ sc _) => .next ((s.acquire c w sc).resume c w k)
      | .waiting (.wake _ _ _ sc d _ _ _) => .next (((s.waitWrite c w k [(sKey d, 0)]).acquire c w sc).resume c w k)
      | .waiting (.future h d) =>
        let hd := wv.handle h
        if hd.code = 1 ∨ hd.code = 2 then .next (s.modStrand c w k (fun st => { st with woken := false })) else
        let s1 := s.waitWrite c w k [(sKey d, BitVec.ofNat 32 hd.code)]
        .next ((if hd.code = 0 then s1 else s1.acquire c w hd.scope).resume c w k)
      | .waiting (.join _ _ ms) =>
        .next ((s.waitWrite c w k (ms.filterMap (fun m => m.d.map (fun d => (sKey d, 0))))).resume c w k)
      | .waiting .record => .next ((s.acquire c w 5).resume c w k)
      | .waiting _ => .next (s.resume c w k)
      | _ => hold s

/-- JOINW_EXPIRY (R158): the deadline has passed first; each member writes 1 and the strand resumes alone. -/
def execJoinwExpiry (c w k : Nat) (s : State) : Outcome State Fault Refusal :=
  match s.crew? c with
  | none => hold s
  | some cr =>
    match cr.waves.find? w with
    | none => hold s
    | some wv =>
      match (wv.strand k).st with
      | .waiting (.join _ _ ms) =>
        if !(wv.strand k).expired || !s.crewRuns cr then hold s
        else .next ((s.waitWrite c w k (ms.filterMap (fun m => m.d.map (fun d => (sKey d, 1))))).resume c w k)
      | _ => hold s

/-- WWAIT_DEADLINE (R245): the limit has passed before the condition came true: result 1, or the timeout trap. -/
def execWwaitDeadline (c w k : Nat) (s : State) : Outcome State Fault Refusal :=
  match s.crew? c with
  | none => hold s
  | some cr =>
    match cr.waves.find? w with
    | none => hold s
    | some wv =>
      match (wv.strand k).st with
      | .waiting (.wake _ _ _ _ d _ trp hdr) =>
        if !(wv.strand k).expired || !s.crewRuns cr then hold s
        else if trp then .next (s.trap c w k Cause.timeout hdr 7)
        else .next ((s.waitWrite c w k [(sKey d, 1)]).resume c w k)
      | _ => hold s

end Sys2Proof.Machine
end

