-- ==== Sys2Proof/Machine/Dispatch.lean ====
section
/-! DEFINITION. The one dispatch from an instruction or event to its meaning. -/

namespace Sys2Proof.Machine

open Sys2Proof Host

/-- Run an instruction, or perform an event (R44, R62). -/
def exec (i : Instr) (s : State) : Host.Outcome State Fault Refusal :=
  match i with
  | .iadd f => Sys2Proof.Machine.execIadd f s
  | .iaddImm f => Sys2Proof.Machine.execIaddImm f s
  | .isub f => Sys2Proof.Machine.execIsub f s
  | .isubImm f => Sys2Proof.Machine.execIsubImm f s
  | .iadds f => Sys2Proof.Machine.execIadds f s
  | .iaddsImm f => Sys2Proof.Machine.execIaddsImm f s
  | .imul f => Sys2Proof.Machine.execImul f s
  | .imulImm f => Sys2Proof.Machine.execImulImm f s
  | .imad f => Sys2Proof.Machine.execImad f s
  | .imin f => Sys2Proof.Machine.execImin f s
  | .iminImm f => Sys2Proof.Machine.execIminImm f s
  | .imax f => Sys2Proof.Machine.execImax f s
  | .imaxImm f => Sys2Proof.Machine.execImaxImm f s
  | .iand f => Sys2Proof.Machine.execIand f s
  | .iandImm f => Sys2Proof.Machine.execIandImm f s
  | .ior f => Sys2Proof.Machine.execIor f s
  | .iorImm f => Sys2Proof.Machine.execIorImm f s
  | .ixor f => Sys2Proof.Machine.execIxor f s
  | .ixorImm f => Sys2Proof.Machine.execIxorImm f s
  | .ishl f => Sys2Proof.Machine.execIshl f s
  | .ishlImm f => Sys2Proof.Machine.execIshlImm f s
  | .ishr f => Sys2Proof.Machine.execIshr f s
  | .ishrImm f => Sys2Proof.Machine.execIshrImm f s
  | .isra f => Sys2Proof.Machine.execIsra f s
  | .israImm f => Sys2Proof.Machine.execIsraImm f s
  | .irot f => Sys2Proof.Machine.execIrot f s
  | .irotImm f => Sys2Proof.Machine.execIrotImm f s
  | .iabs f => Sys2Proof.Machine.execIabs f s
  | .inot f => Sys2Proof.Machine.execInot f s
  | .ipopc f => Sys2Proof.Machine.execIpopc f s
  | .iclz f => Sys2Proof.Machine.execIclz f s
  | .ibrev f => Sys2Proof.Machine.execIbrev f s
  | .ibfe f => Sys2Proof.Machine.execIbfe f s
  | .ibfi f => Sys2Proof.Machine.execIbfi f s
  | .icmp f => Sys2Proof.Machine.execIcmp f s
  | .fadd f => Sys2Proof.Machine.execFadd f s
  | .faddImm f => Sys2Proof.Machine.execFaddImm f s
  | .fsub f => Sys2Proof.Machine.execFsub f s
  | .fsubImm f => Sys2Proof.Machine.execFsubImm f s
  | .fmul f => Sys2Proof.Machine.execFmul f s
  | .fmulImm f => Sys2Proof.Machine.execFmulImm f s
  | .ffma f => Sys2Proof.Machine.execFfma f s
  | .fmin f => Sys2Proof.Machine.execFmin f s
  | .fminImm f => Sys2Proof.Machine.execFminImm f s
  | .fmax f => Sys2Proof.Machine.execFmax f s
  | .fmaxImm f => Sys2Proof.Machine.execFmaxImm f s
  | .fabs f => Sys2Proof.Machine.execFabs f s
  | .fneg f => Sys2Proof.Machine.execFneg f s
  | .fcmp f => Sys2Proof.Machine.execFcmp f s
  | .fclass f => Sys2Proof.Machine.execFclass f s
  | .fscale f => Sys2Proof.Machine.execFscale f s
  | .fround f => Sys2Proof.Machine.execFround f s
  | .fsqrt f => Sys2Proof.Machine.execFsqrt f s
  | .frcp f => Sys2Proof.Machine.execFrcp f s
  | .frsq f => Sys2Proof.Machine.execFrsq f s
  | .fexp2 f => Sys2Proof.Machine.execFexp2 f s
  | .flog2 f => Sys2Proof.Machine.execFlog2 f s
  | .cvt f => Sys2Proof.Machine.execCvt f s
  | .cvtq f => Sys2Proof.Machine.execCvtq f s
  | .cvtx f => Sys2Proof.Machine.execCvtx f s
  | .mov f => Sys2Proof.Machine.execMov f s
  | .movImm f => Sys2Proof.Machine.execMovImm f s
  | .ldi f => Sys2Proof.Machine.execLdi f s
  | .sel f => Sys2Proof.Machine.execSel f s
  | .movs f => Sys2Proof.Machine.execMovs f s
  | .bcast f => Sys2Proof.Machine.execBcast f s
  | .shfl f => Sys2Proof.Machine.execShfl f s
  | .shflImm f => Sys2Proof.Machine.execShflImm f s
  | .vote f => Sys2Proof.Machine.execVote f s
  | .ballot f => Sys2Proof.Machine.execBallot f s
  | .redux f => Sys2Proof.Machine.execRedux f s
  | .scanw f => Sys2Proof.Machine.execScanw f s
  | .bfly f => Sys2Proof.Machine.execBfly f s
  | .bfly4 f => Sys2Proof.Machine.execBfly4 f s
  | .cmul f => Sys2Proof.Machine.execCmul f s
  | .twid f => Sys2Proof.Machine.execTwid f s
  | .rdtime f => Sys2Proof.Machine.execRdtime f s
  | .ld f => Sys2Proof.Machine.execLd f s
  | .lds f => Sys2Proof.Machine.execLds f s
  | .st f => Sys2Proof.Machine.execSt f s
  | .sts f => Sys2Proof.Machine.execSts f s
  | .atom f => Sys2Proof.Machine.execAtom f s
  | .atoms f => Sys2Proof.Machine.execAtoms f s
  | .lr f => Sys2Proof.Machine.execLr f s
  | .sc f => Sys2Proof.Machine.execSc f s
  | .red f => Sys2Proof.Machine.execRed f s
  | .gath f => Sys2Proof.Machine.execGath f s
  | .scat f => Sys2Proof.Machine.execScat f s
  | .confl f => Sys2Proof.Machine.execConfl f s
  | .fence f => Sys2Proof.Machine.execFence f s
  | .fencew f => Sys2Proof.Machine.execFencew f s
  | .pref f => Sys2Proof.Machine.execPref f s
  | .stw f => Sys2Proof.Machine.execStw f s
  | .mma f => Sys2Proof.Machine.execMma f s
  | .mmas f => Sys2Proof.Machine.execMmas f s
  | .mmsm f => Sys2Proof.Machine.execMmsm f s
  | .aresc f => Sys2Proof.Machine.execAresc f s
  | .mmask f => Sys2Proof.Machine.execMmask f s
  | .azero f => Sys2Proof.Machine.execAzero f s
  | .ald f => Sys2Proof.Machine.execAld f s
  | .ast f => Sys2Proof.Machine.execAst f s
  | .mside f => Sys2Proof.Machine.execMside f s
  | .cpy f => Sys2Proof.Machine.execCpy f s
  | .cpyt f => Sys2Proof.Machine.execCpyt f s
  | .cpyg f => Sys2Proof.Machine.execCpyg f s
  | .rcfence f => Sys2Proof.Machine.execRcfence f s
  | .kick f => Sys2Proof.Machine.execKick f s
  | .cenum f => Sys2Proof.Machine.execCenum f s
  | .cpred f => Sys2Proof.Machine.execCpred f s
  | .cmerge f => Sys2Proof.Machine.execCmerge f s
  | .cexit f => Sys2Proof.Machine.execCexit f s
  | .cseal f => Sys2Proof.Machine.execCseal f s
  | .ccomp f => Sys2Proof.Machine.execCcomp f s
  | .cres f => Sys2Proof.Machine.execCres f s
  | .cabort f => Sys2Proof.Machine.execCabort f s
  | .acomp f => Sys2Proof.Machine.execAcomp f s
  | .xord f => Sys2Proof.Machine.execXord f s
  | .xordImm f => Sys2Proof.Machine.execXordImm f s
  | .xclr f => Sys2Proof.Machine.execXclr f s
  | .xform f => Sys2Proof.Machine.execXform f s
  | .xshift f => Sys2Proof.Machine.execXshift f s
  | .xm2l f => Sys2Proof.Machine.execXm2l f s
  | .xlsh f => Sys2Proof.Machine.execXlsh f s
  | .xeval f => Sys2Proof.Machine.execXeval f s
  | .xadm f => Sys2Proof.Machine.execXadm f s
  | .xld f => Sys2Proof.Machine.execXld f s
  | .xst f => Sys2Proof.Machine.execXst f s
  | .tkmatch f => Sys2Proof.Machine.execTkmatch f s
  | .tkmerge f => Sys2Proof.Machine.execTkmerge f s
  | .tkunmerge f => Sys2Proof.Machine.execTkunmerge f s
  | .tksize f => Sys2Proof.Machine.execTksize f s
  | .nop f => Sys2Proof.Machine.execNop f s
  | .yield f => Sys2Proof.Machine.execYield f s
  | .bra f => Sys2Proof.Machine.execBra f s
  | .brx f => Sys2Proof.Machine.execBrx f s
  | .ret f => Sys2Proof.Machine.execRet f s
  | .call f => Sys2Proof.Machine.execCall f s
  | .join f => Sys2Proof.Machine.execJoin f s
  | .joinw f => Sys2Proof.Machine.execJoinw f s
  | .joinwImm f => Sys2Proof.Machine.execJoinwImm f s
  | .exit f => Sys2Proof.Machine.execExit f s
  | .trap f => Sys2Proof.Machine.execTrap f s
  | .rbacq f => Sys2Proof.Machine.execRbacq f s
  | .rbrel f => Sys2Proof.Machine.execRbrel f s
  | .rbqry f => Sys2Proof.Machine.execRbqry f s
  | .binit f => Sys2Proof.Machine.execBinit f s
  | .bar f => Sys2Proof.Machine.execBar f s
  | .bara f => Sys2Proof.Machine.execBara f s
  | .barw f => Sys2Proof.Machine.execBarw f s
  | .barx f => Sys2Proof.Machine.execBarx f s
  | .barxImm f => Sys2Proof.Machine.execBarxImm f s
  | .barq f => Sys2Proof.Machine.execBarq f s
  | .htest f => Sys2Proof.Machine.execHtest f s
  | .hwait f => Sys2Proof.Machine.execHwait f s
  | .hcan f => Sys2Proof.Machine.execHcan f s
  | .hmov f => Sys2Proof.Machine.execHmov f s
  | .wwait f => Sys2Proof.Machine.execWwait f s
  | .sysr f => Sys2Proof.Machine.execSysr f s
  | .sysw f => Sys2Proof.Machine.execSysw f s
  | .eret f => Sys2Proof.Machine.execEret f s
  | .tend f => Sys2Proof.Machine.execTend f s
  | .tabrt f => Sys2Proof.Machine.execTabrt f s
  | .tirrev f => Sys2Proof.Machine.execTirrev f s
  | .tlbinv f => Sys2Proof.Machine.execTlbinv f s
  | .quiesce f => Sys2Proof.Machine.execQuiesce f s
  | .icinv f => Sys2Proof.Machine.execIcinv f s
  | .engrd f => Sys2Proof.Machine.execEngrd f s
  | .engwr f => Sys2Proof.Machine.execEngwr f s
  | .snap f => Sys2Proof.Machine.execSnap f s
  | .gpw f => Sys2Proof.Machine.execGpw f s
  | .beam f => Sys2Proof.Machine.execBeam f s
  | .proot f => Sys2Proof.Machine.execProot f s
  | .clauseFetch a0 a1 => Sys2Proof.Machine.execClauseFetch a0 a1 s
  | .fairnessSwitch a0 a1 => Sys2Proof.Machine.execFairnessSwitch a0 a1 s
  | .reservationExpiry a0 a1 a2 => Sys2Proof.Machine.execReservationExpiry a0 a1 a2 s
  | .strandWake a0 a1 a2 => Sys2Proof.Machine.execStrandWake a0 a1 a2 s
  | .joinwExpiry a0 a1 a2 => Sys2Proof.Machine.execJoinwExpiry a0 a1 a2 s
  | .wwaitDeadline a0 a1 a2 => Sys2Proof.Machine.execWwaitDeadline a0 a1 a2 s
  | .rbacqGrant a0 => Sys2Proof.Machine.execRbacqGrant a0 s
  | .segmentReturn a0 a1 a2 => Sys2Proof.Machine.execSegmentReturn a0 a1 a2 s
  | .waveRetire a0 a1 => Sys2Proof.Machine.execWaveRetire a0 a1 s
  | .accessPerform a0 a1 a2 => Sys2Proof.Machine.execAccessPerform a0 a1 a2 s
  | .writeQueueDrain a0 a1 => Sys2Proof.Machine.execWriteQueueDrain a0 a1 s
  | .invalidationApply a0 a1 => Sys2Proof.Machine.execInvalidationApply a0 a1 s
  | .fenceCompletion a0 => Sys2Proof.Machine.execFenceCompletion a0 s
  | .reductionApply a0 => Sys2Proof.Machine.execReductionApply a0 s
  | .engineSourceRead a0 a1 => Sys2Proof.Machine.execEngineSourceRead a0 a1 s
  | .engineUnitWrite a0 => Sys2Proof.Machine.execEngineUnitWrite a0 s
  | .longLatencyCompletion a0 => Sys2Proof.Machine.execLongLatencyCompletion a0 s
  | .mmasStep a0 => Sys2Proof.Machine.execMmasStep a0 s
  | .copyPerform a0 a1 => Sys2Proof.Machine.execCopyPerform a0 a1 s
  | .copyUnitWrite a0 => Sys2Proof.Machine.execCopyUnitWrite a0 s
  | .shapeCacheDrop a0 a1 => Sys2Proof.Machine.execShapeCacheDrop a0 a1 s
  | .engqResume a0 a1 a2 => Sys2Proof.Machine.execEngqResume a0 a1 a2 s
  | .engqCancel a0 a1 => Sys2Proof.Machine.execEngqCancel a0 a1 s
  | .engqRebuild a0 a1 a2 => Sys2Proof.Machine.execEngqRebuild a0 a1 a2 s
  | .taskCommit a0 a1 => Sys2Proof.Machine.execTaskCommit a0 a1 s
  | .trapRecordDelivery a0 => Sys2Proof.Machine.execTrapRecordDelivery a0 s
  | .hostTrapFinish a0 a1 => Sys2Proof.Machine.execHostTrapFinish a0 a1 s
  | .contextCreate a0 a1 a2 a3 a4 a5 => Sys2Proof.Machine.execContextCreate a0 a1 a2 a3 a4 a5 s
  | .contextLoad a0 a1 => Sys2Proof.Machine.execContextLoad a0 a1 s
  | .contextAdmit a0 => Sys2Proof.Machine.execContextAdmit a0 s
  | .crewPlace a0 a1 a2 a3 a4 a5 => Sys2Proof.Machine.execCrewPlace a0 a1 a2 a3 a4 a5 s
  | .stealMessage a0 a1 a2 => Sys2Proof.Machine.execStealMessage a0 a1 a2 s
  | .vacate a0 a1 => Sys2Proof.Machine.execVacate a0 a1 s
  | .saveComplete a0 => Sys2Proof.Machine.execSaveComplete a0 s
  | .contextRestore a0 => Sys2Proof.Machine.execContextRestore a0 s
  | .restoreLoad a0 a1 => Sys2Proof.Machine.execRestoreLoad a0 a1 s
  | .declareLost a0 => Sys2Proof.Machine.execDeclareLost a0 s
  | .contextDestroy a0 a1 => Sys2Proof.Machine.execContextDestroy a0 a1 s
  | .destroyPerform a0 => Sys2Proof.Machine.execDestroyPerform a0 s
  | .quarantineRetired a0 => Sys2Proof.Machine.execQuarantineRetired a0 s
  | .queueEnable a0 a1 => Sys2Proof.Machine.execQueueEnable a0 a1 s
  | .queueDisable a0 a1 => Sys2Proof.Machine.execQueueDisable a0 a1 s
  | .queueResume a0 a1 => Sys2Proof.Machine.execQueueResume a0 a1 s
  | .doorbell a0 a1 a2 => Sys2Proof.Machine.execDoorbell a0 a1 a2 s
  | .noopCommand a0 a1 => Sys2Proof.Machine.execNoopCommand a0 a1 s
  | .launchCommand a0 a1 => Sys2Proof.Machine.execLaunchCommand a0 a1 s
  | .waitCommand a0 a1 => Sys2Proof.Machine.execWaitCommand a0 a1 s
  | .signalCommand a0 a1 => Sys2Proof.Machine.execSignalCommand a0 a1 s
  | .replayCommand a0 a1 => Sys2Proof.Machine.execReplayCommand a0 a1 s
  | .kernelStartTick a0 => Sys2Proof.Machine.execKernelStartTick a0 s
  | .kernelDrained a0 a1 => Sys2Proof.Machine.execKernelDrained a0 a1 s
  | .kernelCancel a0 => Sys2Proof.Machine.execKernelCancel a0 s
  | .registerWrite a0 a1 a2 a3 => Sys2Proof.Machine.execRegisterWrite a0 a1 a2 a3 s
  | .hostApertureAccess a0 a1 a2 => Sys2Proof.Machine.execHostApertureAccess a0 a1 a2 s
  | .frameRelease a0 a1 => Sys2Proof.Machine.execFrameRelease a0 a1 s
  | .frameFree a0 => Sys2Proof.Machine.execFrameFree a0 s
  | .quiescenceRequest a0 => Sys2Proof.Machine.execQuiescenceRequest a0 s
  | .pageWalk a0 a1 a2 => Sys2Proof.Machine.execPageWalk a0 a1 a2 s
  | .translationFill a0 a1 => Sys2Proof.Machine.execTranslationFill a0 a1 s
  | .translationDrop a0 a1 => Sys2Proof.Machine.execTranslationDrop a0 a1 s
  | .transformKick a0 a1 a2 a3 => Sys2Proof.Machine.execTransformKick a0 a1 a2 a3 s
  | .transformRequestStart a0 a1 => Sys2Proof.Machine.execTransformRequestStart a0 a1 s
  | .transformComplete a0 a1 a2 => Sys2Proof.Machine.execTransformComplete a0 a1 a2 s
  | .transformResume a0 a1 => Sys2Proof.Machine.execTransformResume a0 a1 s
  | .transformCancel a0 a1 => Sys2Proof.Machine.execTransformCancel a0 a1 s
  | .gOperationCompletion a0 => Sys2Proof.Machine.execGOperationCompletion a0 s
  | .prootCompletion a0 => Sys2Proof.Machine.execProotCompletion a0 s
  | .poolPageFree a0 => Sys2Proof.Machine.execPoolPageFree a0 s
  | .claveFireHost a0 => Sys2Proof.Machine.execClaveFireHost a0 s
  | .claveFireManagement => Sys2Proof.Machine.execClaveFireManagement s
  | .claveTaborMatch => Sys2Proof.Machine.execClaveTaborMatch s
  | .snapTickFire a0 => Sys2Proof.Machine.execSnapTickFire a0 s
  | .claveLatchDone => Sys2Proof.Machine.execClaveLatchDone s
  | .portEnable a0 => Sys2Proof.Machine.execPortEnable a0 s
  | .portDisable a0 => Sys2Proof.Machine.execPortDisable a0 s
  | .trainingDone a0 a1 => Sys2Proof.Machine.execTrainingDone a0 a1 s
  | .trainingFailed a0 => Sys2Proof.Machine.execTrainingFailed a0 s
  | .laneLoss a0 a1 => Sys2Proof.Machine.execLaneLoss a0 a1 s
  | .retryLimit a0 => Sys2Proof.Machine.execRetryLimit a0 s
  | .flitSend a0 => Sys2Proof.Machine.execFlitSend a0 s
  | .flitReceive a0 a1 => Sys2Proof.Machine.execFlitReceive a0 a1 s
  | .ackTimeout a0 => Sys2Proof.Machine.execAckTimeout a0 s
  | .readRequest a0 a1 => Sys2Proof.Machine.execReadRequest a0 a1 s
  | .readResponse a0 => Sys2Proof.Machine.execReadResponse a0 s
  | .writeMessage a0 a1 => Sys2Proof.Machine.execWriteMessage a0 a1 s
  | .atomicMessage a0 a1 a2 a3 => Sys2Proof.Machine.execAtomicMessage a0 a1 a2 a3 s
  | .endToEndAck a0 => Sys2Proof.Machine.execEndToEndAck a0 s
  | .wakeWrite a0 a1 => Sys2Proof.Machine.execWakeWrite a0 a1 s
  | .taborSynchronisation a0 a1 a2 a3 a4 => Sys2Proof.Machine.execTaborSynchronisation a0 a1 a2 a3 a4 s
  | .taborSyncTimer => Sys2Proof.Machine.execTaborSyncTimer s
  | .gangStartOrAbort a0 a1 a2 => Sys2Proof.Machine.execGangStartOrAbort a0 a1 a2 s
  | .claveFiring a0 a1 => Sys2Proof.Machine.execClaveFiring a0 a1 s
  | .pstatReplaysRead a0 => Sys2Proof.Machine.execPstatReplaysRead a0 s
  | .mctpCommand a0 => Sys2Proof.Machine.execMctpCommand a0 s
  | .attestationRequest a0 => Sys2Proof.Machine.execAttestationRequest a0 s
  | .boot a0 a1 a2 a3 => Sys2Proof.Machine.execBoot a0 a1 a2 a3 s
  | .hostLinkChange a0 => Sys2Proof.Machine.execHostLinkChange a0 s
  | .powerLimitThrottle a0 => Sys2Proof.Machine.execPowerLimitThrottle a0 s
  | .thermalThrottle a0 => Sys2Proof.Machine.execThermalThrottle a0 s
  | .throttleEnd => Sys2Proof.Machine.execThrottleEnd s
  | .emergencyStop a0 a1 => Sys2Proof.Machine.execEmergencyStop a0 a1 s
  | .computeRestart a0 a1 a2 => Sys2Proof.Machine.execComputeRestart a0 a1 a2 s
  | .cxlDeviceLost a0 => Sys2Proof.Machine.execCxlDeviceLost a0 s
  | .eventDelivery a0 => Sys2Proof.Machine.execEventDelivery a0 s
  | .eacctUpdate a0 a1 => Sys2Proof.Machine.execEacctUpdate a0 a1 s
  | .trapHandlerDesignation a0 a1 a2 => Sys2Proof.Machine.execTrapHandlerDesignation a0 a1 a2 s
  | .roleRebinding a0 a1 a2 => Sys2Proof.Machine.execRoleRebinding a0 a1 a2 s
  | .transformRingRegistration a0 a1 a2 a3 a4 a5 => Sys2Proof.Machine.execTransformRingRegistration a0 a1 a2 a3 a4 a5 s
  | .gangFormation a0 a1 a2 => Sys2Proof.Machine.execGangFormation a0 a1 a2 s

end Sys2Proof.Machine
end

