-- ==== Sys2Proof/Machine/Schedule.lean ====
section
/-!
DEFINITION. The turn that comes next where the agenda is empty (log 1), and a clause placed from outside (log 14).
-/

namespace Sys2Proof.Machine

open Sys2Proof Host

/-! ## The default order of turns -/

/-- Events of operations in flight. -/
def State.opTurns (s : State) : List Instr :=
  s.ops.flatMap (fun e =>
    ((List.range (max 1 e.2.elems.length)).map (fun n => Instr.accessPerform e.1 n false)) ++
    [.copyPerform e.1 0, .copyUnitWrite e.1, .mmasStep e.1, .engineUnitWrite e.1, .fenceCompletion e.1, .gOperationCompletion e.1,
     .prootCompletion e.1, .longLatencyCompletion e.1])

/-- Events of cores. -/
def State.coreTurns (s : State) : List Instr :=
  s.cores.flatMap (fun k => [Instr.writeQueueDrain k.1 0, .invalidationApply k.1 0, .rbacqGrant k.1, .trapRecordDelivery k.1]) ++
  [.reductionApply 0]

/-- Events of crews, waves and strands. -/
def State.crewTurns (s : State) : List Instr :=
  s.crews.flatMap (fun e =>
    (e.2.waves.flatMap (fun w =>
      ((List.range 4).flatMap (fun k => [Instr.reservationExpiry e.1 w.1 k, .strandWake e.1 w.1 k, .joinwExpiry e.1 w.1 k, .wwaitDeadline e.1 w.1 k])) ++
      (w.2.segRet.map (fun g => Instr.segmentReturn e.1 w.1 g.1)) ++ [.fairnessSwitch e.1 w.1, .waveRetire e.1 w.1])) ++
    [Instr.taskCommit e.1 (((s.kernel? e.2.kernel).bind (fun kn => kn.tiles.head?)).getD 0)])

/-- Events of contexts, their queues and rings. -/
def State.ctxTurns (s : State) : List Instr :=
  s.ctxs.flatMap (fun e =>
    (if (s.vacated e.1).isEmpty then [] else [Instr.vacate e.1 [], .saveComplete e.1]) ++
    [.destroyPerform e.1, .frameFree e.1, .quarantineRetired e.1] ++
    ((e.2.queues.filter (fun q => q.2.st == .ready)).flatMap (fun q =>
      [Instr.noopCommand e.1 q.1, .waitCommand e.1 q.1, .signalCommand e.1 q.1, .launchCommand e.1 q.1, .replayCommand e.1 q.1])) ++
    (e.2.rings.flatMap (fun r => Instr.transformRequestStart e.1 r.1 :: r.2.ended.map (fun x => Instr.transformComplete e.1 r.1 x.1))))

/-- Events of kernels: a crew goes to the lowest core, and there to the lowest slots, that take it. -/
def State.kernelTurns (s : State) : List Instr :=
  s.kernels.flatMap (fun e =>
    [Instr.kernelStartTick e.1, .kernelDrained e.1 0] ++
    (if e.2.st == .running then
      (List.range Config.cores).flatMap (fun c => (e.2.owners c).filterMap (fun o =>
        (e.2.nextCrew o).bind (fun x => (s.slotFor c e.2.waves).map (fun b => Instr.crewPlace e.1 o c b x (e.2.tiles.headD 0)))))
    else []))

/-- Clauses to start. -/
def State.fetchTurns (s : State) : List Instr := s.crews.flatMap (fun e => e.2.waves.map (fun w => Instr.clauseFetch e.1 w.1))

/-- The events the default order looks at, in its order. -/
def State.candidates (s : State) : List Instr :=
  s.opTurns ++ s.coreTurns ++ s.crewTurns ++ s.ctxTurns ++ s.kernelTurns ++ [.claveTaborMatch, .snapTickFire 0, .poolPageFree 0] ++
  s.fetchTurns

/-- An event does something in a state. -/
def State.moves (s : State) (i : Instr) : Bool := match exec i s with | .next t => t != s | _ => true

/-- The waves with a clause in progress. -/
def State.inClause (s : State) : List (Nat × Nat) :=
  s.crews.flatMap (fun e => (e.2.waves.filter (fun w => w.2.clause.isSome)).map (fun w => (e.1, w.1)))

/-- Issue in a started clause does something. -/
def State.issueMoves (s : State) (c w : Nat) : Bool :=
  match s.beginIssue c w with
  | none => false
  | some (s1, d, i) => match exec i s1 with | .next t => t.finishIssue d i != s | _ => true

/-- The default turn (log 1): an instruction of a started clause, else a program's store on its way to a register window, else the first
of the events that does something, else time passes. -/
def State.nextTurn (s : State) : Turn :=
  match s.inClause.find? (fun x => s.issueMoves x.1 x.2) with
  | some x => .issue x.1 x.2
  | none =>
    if !s.winWrites.isEmpty then .windowWrite else
    match s.candidates.find? s.moves with
    | some i => .event i
    | none => .tick 1 1

/-! ## Placing a clause -/

/-- A kernel of one crew of one wave with every register block and 64 KiB of scratchpad, placed from outside (log 14). -/
def Kernel.probe : Kernel where
  ctx := 0
  queue := 0
  image := 0
  args := 0
  argsz := 0
  argw := []
  crews := 1
  waves := 1
  regs := 16
  scratch := 4
  split := 1
  pinned := false
  save := false
  noirrev := false
  eclass := 0
  walk := false
  walkred := 0
  done := 0
  start := 0
  gangn := 0
  rank := 0
  vcap := 0
  levels := [0, 0, 0, 0, 0]
  graph := 0
  data := 0
  rolesAt := 0
  st := .running
  unplaced := []
  requeued := []
  bind := []
  tiles := []
  placed := [0]
  owner := []
  restarts := []
  ids := []
  doneCrews := 0
  status := 0
  cause := 0
  detail := 0
  time := 0
  recorded := false
  roles := []
  groups := []
  endCycle := 0
  recording := none
  energy := 0

/-- A crew of that kernel on core 0, its one wave having started the clause (log 14). -/
def Crew.probe (k : Nat) (h : Header) (d : Dword) : Crew where
  ctx := 0
  kernel := k
  idx := 0
  core := 0
  base := 0
  nw := 1
  blocks := [(0, 0), (1, 1), (2, 2), (3, 3)]
  sp := []
  barPhase := 0
  barPending := 1
  arrived := []
  task := .versioned
  taskIdx := 0
  attempt := 0
  ver := []
  held := []
  mended := []
  segs := []
  waves := [(0, { Kernel.probe.startWave (takeSegs (List.range 16) 16) 0x10000 with
    clause := some ⟨0x10000, h, [d], 0⟩
    strands := [(0, ⟨.running, allLanes, 0x10010, 0, none, 0, false, 0, none, false, false⟩)] })]
  savedTask := .versioned
  restarting := false
  freezing := false
  vacated := 0

/-- Place a started clause of one instruction and the turn that issues it (log 14). -/
def State.placeClause (s : State) (w : Nat) : State :=
  let k := s.next
  let h := { readHeader (BitVec.ofNat 64 w) with cnt := 0 }
  { s with
    agenda := .issue (k + 1) 0 :: s.agenda
    next := k + 2
    stopped := false
    kernels := s.kernels.put k Kernel.probe
    crews := s.crews.put (k + 1) (Crew.probe k h (BitVec.ofNat 64 (w >>> 64)))
    ctxs := s.ctxs.put 0 { s.ctx 0 with st := .running } }

end Sys2Proof.Machine
end

