-- ==== Sys2Proof/Machine/Step.lean ====
section
/-!
DEFINITION. One step: the turn at the head of the agenda, or the default turn where the agenda is empty (log 1).
-/

namespace Sys2Proof.Machine

open Sys2Proof Host

/-- The turn this step takes. -/
def State.turn (s : State) : Turn := match s.agenda with | t :: _ => t | [] => s.nextTurn

/-- The state with its turn taken from the agenda. -/
def State.taken (s : State) : State := { s with agenda := s.agenda.tail }

/-- One step of the machine. -/
def step (s : State) : Outcome State Fault Refusal :=
  match s.turn with
  | .event i => exec i s.taken
  | .tick cycles ns => .next (s.taken.tick cycles ns)
  | .forget core n => .next (s.taken.forgetClause core n)
  | .hostRead fn bar offset => .next (s.taken.hostReadReg fn bar offset)
  | .readError o n => .next (s.taken.readError o n)
  | .windowWrite => .next s.taken.windowWrite
  | .issue c w =>
    match s.taken.beginIssue c w with
    | none => .next s.taken
    | some (s1, d, i) =>
      match exec i s1 with
      | .next t => .next (t.finishIssue d i)
      | .fault r => .fault r
      | .refused r => .refused r

/-- A context, kernel, crew and wave are resident, the wave's clause of one instruction has started, and the next turn
issues it: the instruction word is bits 127:64 of `w`, its header bits 63:0 (log 14). -/
def State.withFetchWord (s : State) (nbits w : Nat) : State := s.placeClause (w % 2 ^ nbits)

end Sys2Proof.Machine
end

