-- ==== Sys2Proof/Safety.lean ====
section
/-!
DEFINITION. The terms in which claims about the machine are made: when a strand issues an instruction with nothing in its
way, what a register-writing, predicate-writing or operation-launching instruction leaves behind, and what stays as it
was.
-/

namespace Sys2Proof.Safety

open Sys2Proof Sys2Proof.Machine Host

/-! ## When an instruction issues -/

/-- Strand `q` of wave `w` of crew `cr` is the one issuing, and no open chunk forbids `i` (R298). -/
def Issues (s : State) (i : Instr) (q : Cursor) (cr : Crew) (w : Wave) : Prop :=
  s.curWave = some (q, cr, w) ∧ w.chunkForbids i = false

/-- Every v register group of a list lies in blocks the wave holds (R48). -/
def Holds (w : Wave) (vs : List (Nat × Nat)) : Prop := ∀ g ∈ vs, w.holds g.1 g.2 = true

/-- A wave instruction issues (R62). -/
def IssuesWave (s : State) (i : Instr) (vs : List (Nat × Nat)) (q : Cursor) (cr : Crew) (w : Wave) : Prop :=
  Issues s i q cr w ∧ Holds w vs

/-- A lane-guarded instruction issues for the lanes `act`, at least one (R62). -/
def IssuesLanes (s : State) (i : Instr) (pn : Bool) (pred : BitVec 3) (vs : List (Nat × Nat)) (q : Cursor) (cr : Crew)
    (w : Wave) (act : LaneMask) : Prop :=
  Issues s i q cr w ∧ act = w.active q.strand pn pred.toNat ∧ act ≠ 0 ∧ Holds w vs

/-- The v register groups that each lane-guarded instruction of the register form names: destination, sources and address (R48). -/
def laneNames : List ((Fields → Instr) × (Fields → List (Nat × Nat))) :=
  let a (n : Fields → Nat) (f : Fields) : List (Nat × Nat) := vNamed f.ka f.a (n f)
  let b (n : Fields → Nat) (f : Fields) : List (Nat × Nat) := vNamed f.kb f.b (n f)
  let c (n : Fields → Nat) (f : Fields) : List (Nat × Nat) := vNamed f.kc f.c (n f)
  let d (n : Fields → Nat) (f : Fields) : List (Nat × Nat) := vNamed f.kd f.d (n f)
  let k (n : Nat) (_ : Fields) : Nat := n
  let sz (f : Fields) : Nat := szGroup f.sz
  let mem (na : Nat) (n : Fields → Nat) (f : Fields) : List (Nat × Nat) := d n f ++ f.memNamed na
  [.iadd, .isub, .iadds, .imul, .imin, .imax, .iand, .ior, .ixor].map
      (fun (mk : Fields → Instr) => (mk, fun f => d Fields.words f ++ (a Fields.words f ++ b Fields.words f))) ++
  [.ishl, .ishr, .isra, .irot, .ibfe].map (fun (mk : Fields → Instr) => (mk, fun f => d Fields.words f ++ (a Fields.words f ++ b (k 1) f))) ++
  [.iabs, .inot, .ibrev, .mov].map (fun (mk : Fields → Instr) => (mk, fun f => d Fields.words f ++ a Fields.words f)) ++
  [.ipopc, .iclz].map (fun (mk : Fields → Instr) => (mk, fun f => d (k 1) f ++ a Fields.words f)) ++
  [.fadd, .fsub, .fmul, .fmin, .fmax].map
      (fun (mk : Fields → Instr) => (mk, fun f => d Fields.fwords f ++ (a Fields.fwords f ++ b Fields.fwords f))) ++
  [.fabs, .fneg, .fround, .fsqrt].map (fun (mk : Fields → Instr) => (mk, fun f => d Fields.fwords f ++ a Fields.fwords f)) ++
  [.frcp, .frsq, .fexp2, .flog2, .cvtq, .cvtx, .movs, .bcast, .redux, .scanw].map
      (fun (mk : Fields → Instr) => (mk, fun f => d (k 1) f ++ a (k 1) f)) ++
  [.sel, .shfl].map (fun (mk : Fields → Instr) => (mk, fun f => d (k 1) f ++ (a (k 1) f ++ b (k 1) f))) ++
  [(.imad, fun f => d Fields.words f ++ (a Fields.words f ++ b Fields.words f ++ c Fields.words f)),
   (.ibfi, fun f => d Fields.words f ++ (a Fields.words f ++ b Fields.words f ++ c (k 1) f)),
   (.ffma, fun f => d Fields.fwords f ++ (a Fields.fwords f ++ b Fields.fwords f ++ c Fields.fwords f)),
   (.icmp, fun f => a Fields.words f ++ b Fields.words f), (.fcmp, fun f => a Fields.fwords f ++ b Fields.fwords f),
   (.fclass, fun f => d (k 1) f ++ a Fields.fwords f), (.fscale, fun f => d Fields.fwords f ++ (a Fields.fwords f ++ b (k 1) f)),
   (.cvt, fun f => d (fun f => fmtAl f.dstFmt) f ++ a (fun f => fmtAl f.srcFmt) f),
   (.cmul, fun f => d (k 2) f ++ (a (k 2) f ++ b (k 2) f)), (.bfly, fun f => d (k 4) f ++ (a (k 2) f ++ b (k 2) f ++ c (k 2) f)),
   (.bfly4, fun f => d (k 8) f ++ a (k 8) f), (.twid, fun f => d (k 2) f ++ (a (k 1) f ++ b (k 1) f)), (.rdtime, d (k 2)),
   (.brx, a (k 2)), (.ret, a (k 2)), (.xadm, fun f => [(f.b.toNat, 4)]),
   (.ld, mem 2 sz), (.st, mem 2 sz), (.gath, mem 2 sz), (.stw, mem 2 sz), (.lds, mem 1 sz), (.sts, mem 1 sz),
   (.atom, fun f => mem 2 Fields.agrp f ++ c Fields.acgrp f), (.atoms, fun f => mem 1 Fields.agrp f ++ c Fields.acgrp f),
   (.red, mem 2 Fields.agrp), (.scat, mem 2 (fun f => if f.aop == 0 then szGroup f.sz else f.agrp)),
   (.confl, fun f => d (k 1) f ++ a sz f), (.pref, fun f => f.memNamed 2)]

/-- The v register groups of the lane-guarded immediate forms. -/
def laneNamesImm : List ((ImmFields → Instr) × (ImmFields → List (Nat × Nat))) :=
  [.iaddImm, .isubImm, .iaddsImm, .imulImm, .iminImm, .imaxImm, .iandImm, .iorImm, .ixorImm, .ishlImm, .ishrImm, .israImm, .irotImm,
    .faddImm, .fsubImm, .fmulImm, .fminImm, .fmaxImm, .shflImm].map
      (fun (mk : ImmFields → Instr) => (mk, fun f => vNamed f.kd f.d 1 ++ vNamed f.ka f.a 1)) ++
  [(.movImm, fun f => vNamed f.kd f.d 1), (.ldi, fun f => vNamed f.kd f.d 2), (.call, fun f => vNamed f.kd f.d 2)]

/-! ## What stays -/

/-- Every byte of memory reads as before. -/
def SameMemory (s t : State) : Prop := ∀ a, t.mem.rd 0 a = s.mem.rd 0 a

/-- Operations in flight are as before, but for destination registers that they have lost to a later writer (R178). -/
def OpsKeep (s t : State) : Prop :=
  ∀ o, (t.op? o).map (fun op => { op with dsts := [] }) = (s.op? o).map (fun op => { op with dsts := [] }) ∧
    ∀ op p, s.op? o = some op → t.op? o = some p → ∀ k ∈ p.dsts, k ∈ op.dsts

/-- Crews are as before in everything but their waves, and every wave other than `(c, w)` is as before. -/
def OtherWaves (s t : State) (c w : Nat) : Prop :=
  (∀ d, (t.crew? d).map (fun cr => { cr with waves := [] }) = (s.crew? d).map (fun cr => { cr with waves := [] })) ∧
    ∀ d x, ¬(d = c ∧ x = w) → t.wave? d x = s.wave? d x

/-- Nothing but wave `(c, w)` and lost destinations of operations in flight and of waits differs. -/
structure OnlyWave (s t : State) (c w : Nat) : Prop where
  /-- Every part of the state other than crews, operations in flight and what waits will write. -/
  rest : { t with crews := s.crews, ops := s.ops, waitDst := s.waitDst } = s
  /-- What waits will write. -/
  waits : ∀ e ∈ t.waitDst, e ∈ s.waitDst
  /-- Memory, byte by byte. -/
  memory : SameMemory s t
  /-- Operations in flight. -/
  ops : OpsKeep s t
  /-- Crews and other waves. -/
  waves : OtherWaves s t c w

/-- Only context `x` differs. -/
structure OnlyCtx (s t : State) (x : Nat) : Prop where
  /-- Every part of the state other than contexts. -/
  rest : { t with ctxs := s.ctxs } = s
  /-- Memory. -/
  memory : SameMemory s t
  /-- Other contexts. -/
  others : ∀ y, y ≠ x → t.ctx y = s.ctx y

/-- Only core `c` differs. -/
structure OnlyCore (s t : State) (c : Nat) : Prop where
  /-- Every part of the state other than cores. -/
  rest : { t with cores := s.cores } = s
  /-- Memory. -/
  memory : SameMemory s t
  /-- Other cores. -/
  others : ∀ d, d ≠ c → t.core d = s.core d

/-- Only port `p` differs. -/
structure OnlyPort (s t : State) (p : Nat) : Prop where
  /-- Every part of the state other than ports. -/
  rest : { t with ports := s.ports } = s
  /-- Memory. -/
  memory : SameMemory s t
  /-- Other ports. -/
  others : ∀ y, y ≠ p → t.port y = s.port y

/-! ## Register results -/

/-- The lowest lane of a mask. -/
def lowest (m : LaneMask) : Nat := ((lanesOf m).head?).getD 0

/-- Word `j` of a number. -/
def groupWord (v j : Nat) : Word := BitVec.ofNat 32 (v / 2 ^ (32 * j))

/-- What a wave's registers are after a lane-wise result of `n` registers at D (R182, R183): the active lanes' elements of
a v destination, or an s destination once from the lowest active lane; every other register, and everything else of the
wave, as it was. -/
structure RegsAfter (w x : Wave) (kd : Bool) (d n : Nat) (act : LaneMask) (val : Nat → Nat) : Prop where
  /-- v registers. -/
  vregs : ∀ r l, r < 256 → l < 128 →
    x.v r l = if kd = false ∧ d ≤ r ∧ r < d + n ∧ act.getLsbD l = true then groupWord (val l) (r - d) else w.v r l
  /-- s registers. -/
  sregs : ∀ r, x.s r = if kd = true ∧ d ≤ r ∧ r < d + n then groupWord (val (lowest act)) (r - d) else w.s r
  /-- The rest of the wave. -/
  rest : { x with vr := w.vr, sr := w.sr } = w

/-- A lane-wise instruction's result reaches its destination and nothing else changes. -/
def LaneResult (i : Instr) (pn : Bool) (pred : BitVec 3) (kd : Bool) (d : BitVec 8) (n : Nat) (vs : List (Nat × Nat))
    (val : State → Wave → LaneMask → Nat → Nat) : Prop :=
  ∀ s q cr w act, IssuesLanes s i pn pred (vNamed kd d n ++ vs) q cr w act → d.toNat + n ≤ 256 →
    ∃ t x, exec i s = .next t ∧ t.wave? q.crew q.wave = some x ∧ RegsAfter w x kd d.toNat n act (val s w act) ∧
      OnlyWave s t q.crew q.wave

/-- A two-operand instruction of class V whose operands and result are `n` registers (R182): `g` of A and B reaches D. -/
def BinResult (mk : Fields → Instr) (n : Fields → Nat) (g : Fields → Nat → Nat → Nat) : Prop :=
  ∀ f : Fields, LaneResult (mk f) f.pn f.pred f.kd f.d (n f) (vNamed f.ka f.a (n f) ++ vNamed f.kb f.b (n f))
    (fun _ w _ l => g f (f.ra w (n f) l) (f.rb w (n f) l))

/-- A two-operand instruction whose B is one 32-bit register: a count, a descriptor, a lane number or a scale. -/
def CountResult (mk : Fields → Instr) (n : Fields → Nat) (g : Fields → Nat → Nat → Nat) : Prop :=
  ∀ f : Fields, LaneResult (mk f) f.pn f.pred f.kd f.d (n f) (vNamed f.ka f.a (n f) ++ vNamed f.kb f.b 1)
    (fun _ w _ l => g f (f.ra w (n f) l) (f.rb w 1 l))

/-- A one-operand instruction of `n` source registers and `nd` result registers. -/
def UnResult (mk : Fields → Instr) (n nd : Fields → Nat) (g : Fields → Nat → Nat) : Prop :=
  ∀ f : Fields, LaneResult (mk f) f.pn f.pred f.kd f.d (nd f) (vNamed f.ka f.a (n f)) (fun _ w _ l => g f (f.ra w (n f) l))

/-- A three-operand instruction. -/
def TerResult (mk : Fields → Instr) (n nc : Fields → Nat) (g : Fields → Nat → Nat → Nat → Nat) : Prop :=
  ∀ f : Fields, LaneResult (mk f) f.pn f.pred f.kd f.d (n f)
    (vNamed f.ka f.a (n f) ++ vNamed f.kb f.b (n f) ++ vNamed f.kc f.c (nc f))
    (fun _ w _ l => g f (f.ra w (n f) l) (f.rb w (n f) l) (f.rc w (nc f) l))

/-- An immediate form (R65): 32 bits, the immediate in place of B. -/
def ImmResult (mk : ImmFields → Instr) (g : Nat → Nat → Nat) : Prop :=
  ∀ f : ImmFields, LaneResult (mk f) f.pn f.pred f.kd f.d 1 (vNamed f.ka f.a 1) (fun _ w _ l => g (f.ra w 1 l) f.imm.toNat)

/-- An integer's low `w` bits as a number. -/
def low (w : Nat) (z : Int) : Nat := (z % ((2 ^ w : Nat) : Int)).toNat

/-- What a wave is after a predicate result (R182): active lanes' bits of p(d) are written, inactive lanes' bits, the other
predicates and p0 keep their values. -/
structure PredAfter (w x : Wave) (d : Nat) (act : LaneMask) (val : Nat → Bool) : Prop where
  /-- Predicates. -/
  preds : ∀ n l, l < 128 → (x.p n).getLsbD l = if n = d ∧ n ≠ 0 ∧ act.getLsbD l = true then val l else (w.p n).getLsbD l
  /-- The rest of the wave. -/
  rest : { x with pr := w.pr } = w

/-- A predicate-writing instruction's result. -/
def PredResult (i : Instr) (pn : Bool) (pred : BitVec 3) (d : BitVec 8) (vs : List (Nat × Nat))
    (val : Wave → LaneMask → Nat → Bool) : Prop :=
  ∀ s q cr w act, IssuesLanes s i pn pred vs q cr w act →
    ∃ t x, exec i s = .next t ∧ t.wave? q.crew q.wave = some x ∧ PredAfter w x d.toNat act (val w act) ∧
      OnlyWave s t q.crew q.wave

/-- A wave instruction writes the s registers of a list and nothing else. -/
def WritesS (s t : State) (q : Cursor) (w : Wave) (l : List (Nat × Word)) : Prop :=
  ∃ x, t.wave? q.crew q.wave = some x ∧ (∀ r v, (r, v) ∈ l → x.s r = v) ∧
    (∀ r, r ∉ l.map (·.1) → x.s r = w.s r) ∧ { x with sr := w.sr } = w ∧ OnlyWave s t q.crew q.wave

/-! ## Operations -/

/-- A wave whose flag `n` counts one more (R56). -/
def flagUp (w : Wave) (n : Nat) : Wave := { w with fl := w.fl.wr 0 n (w.flag n + 1) }

/-- `t` is `s` after a long-latency instruction has issued operation `op` (R56): it is in flight under the next number, the
issuing wave has become `x`, and every other wave, every other operation and the rest of the machine are as before. -/
structure Launched (s t : State) (q : Cursor) (x : Wave) (op : Op) : Prop where
  /-- The operation. -/
  inFlight : t.op? s.next = some op
  /-- Its number is used up. -/
  next : t.next = s.next + 1
  /-- Other operations: those that the wave issued before lose the elements the new one will write (R178). -/
  others : ∀ o, o ≠ s.next → t.op? o = (s.op? o).map (fun p =>
    if p.crew = q.crew ∧ p.wave = q.wave ∧ o < s.next then { p with dsts := p.dsts.filter (fun k => !op.dsts.contains k) } else p)
  /-- What waits will write: the wave's waits lose those elements too. -/
  waits : t.waitDst = s.waitDst.filter (fun e => !(e.1 == q.crew && e.2.1 == q.wave && op.dsts.contains e.2.2.2))
  /-- The issuing wave. -/
  wave : t.wave? q.crew q.wave = some x
  /-- Crews and other waves. -/
  waves : OtherWaves s t q.crew q.wave
  /-- Memory. -/
  memory : SameMemory s t
  /-- The rest of the machine. -/
  rest : { t with crews := s.crews, ops := s.ops, next := s.next, waitDst := s.waitDst } = s

/-- On core `c` the tile (`tile`), or the slot, numbered `p` is unbound by the wave of `q`, and stays until the operations in `after` have
completed: the wave's operations in flight on the tile, or its E operations (R280, R320); other bound tiles and slots, the rest of the core
and other cores are as before. -/
structure Released (s t : State) (q : Cursor) (core : Nat) (tile : Bool) (p : Nat) : Prop where
  /-- Tiles. -/
  tiles : ∀ n y, (s.core core).tiles.find? n = some y → (y.bound = true ∨ (tile = true ∧ n = p)) →
    (t.core core).tiles.find? n = some (if tile = true ∧ n = p then { y with bound := false, after := t.tileOps q.crew q.wave p } else y)
  /-- Expansion slots. -/
  exps : ∀ n y, (s.core core).exps.find? n = some y → (y.bound = true ∨ (tile = false ∧ n = p)) →
    (t.core core).exps.find? n = some (if tile = false ∧ n = p then { y with bound := false, after := t.expOps q.crew q.wave } else y)
  /-- The rest of the core. -/
  same : { t.core core with tiles := [], exps := [] } = { s.core core with tiles := [], exps := [] }
  /-- Other cores. -/
  others : ∀ d, d ≠ core → t.core d = s.core d

/-- Instruction `i`, issued in `s`, launches operation `op` from state `s0`, which is `s` or differs from it as the claim
says; of the wave only the flag changes. -/
def Issued (i : Instr) (s s0 : State) (q : Cursor) (w : Wave) (op : Op) : Prop :=
  ∃ t, exec i s = .next t ∧ Launched s0 t q (flagUp w op.flag) op

/-- The wave after a launch with a future: where HV (bit 7) is set, handle HN (bits 6:3) is pending on the operation, its
acquire at `scope` (R246, R266). -/
def withFuture (f : Fields) (w : Wave) (o scope : Nat) : Wave :=
  if f.m 7 = true then { w with hd := w.hd.put (f.mb 3 4) ⟨1, o, scope⟩ } else w

/-- The operation as its queue entry keeps it, with the handle bound to it (R114). -/
def withHandle (f : Fields) (op : Op) : Op := if f.m 7 = true then { op with phys2 := f.mb 3 4 + 1 } else op

/-- Instruction `i` launches operation `op` with the future its HV and HN name. -/
def IssuedH (i : Instr) (f : Fields) (s : State) (q : Cursor) (w : Wave) (op : Op) (scope : Nat) : Prop :=
  ∃ t, exec i s = .next t ∧ Launched s t q (withFuture f (flagUp w op.flag) s.next scope) (withHandle f op)

/-! ## Accesses -/

/-- The elements of an access whose lanes' addresses, virtual and physical, are `addr` (R213): one for each share, in
ascending lane order; in the uniform form the first carries the destination. -/
def elemsAt (w : Wave) (m : Machine.Form) (act : LaneMask) (addr : Nat → Nat × Nat) (dst : Nat → List Nat) (data data2 : Nat → Nat) :
    List Elem :=
  (w.shares m.uniform act).zipIdx.map (fun x => ⟨x.1.1, x.1.2, (addr x.1.1).1, (addr x.1.1).2, m.w, data x.1.1, data2 x.1.1,
    if m.uniform = true ∧ x.2 ≠ 0 then [] else dst x.1.1, (w.lineageOf x.1.1).head?, .pending⟩)

/-- Every share of an access passes the checks of R218, with these addresses. -/
def ChecksPass (s : State) (cr : Crew) (w : Wave) (f : Fields) (m : Machine.Form) (act : LaneMask) (addr : Nat → Nat × Nat) : Prop :=
  ∀ x ∈ w.shares m.uniform act, s.checkLane cr w f m x.1 = .ok (addr x.1)

/-- The lowest share of an access that fails a check of R218 fails with cause and address `e`. -/
def CheckFails (s : State) (cr : Crew) (w : Wave) (f : Fields) (m : Machine.Form) (act : LaneMask) (e : Nat × Nat) : Prop :=
  ∃ pre x post, w.shares m.uniform act = pre ++ x :: post ∧ (∀ y ∈ pre, ∃ a, s.checkLane cr w f m y.1 = .ok a) ∧
    s.checkLane cr w f m x.1 = .error e

/-- An access instruction with nothing in its way, whose addresses pass the checks, issues one operation with an element
for each share (`post` splits or combines them), which waits for `waits`; a failing check raises its trap and nothing else happens (R218, R55).
Translations that lack the right the access needs leave the cache (R357). -/
def AccessIssues (mk : Fields → Instr) (vs : Fields → List (Nat × Nat)) (when : Fields → State → Crew → Prop)
    (form : Fields → State → Crew → Wave → Machine.Form) (dst : Fields → Nat → List Nat) (data data2 : Fields → Wave → Nat → Nat)
    (post : Fields → Wave → List Elem → List Elem) (waits : Fields → State → Cursor → LaneMask → List Nat) : Prop :=
  ∀ (f : Fields) s q cr w act, IssuesLanes s (mk f) f.pn f.pred (vs f) q cr w act →
    (∀ addr, ChecksPass s cr w f (form f s cr w) act addr → when f s cr →
      Issued (mk f) s (s.dropLackingAll cr (form f s cr w) (elemsAt w (form f s cr w) act addr (dst f) (data f w) (data2 f w)))
        q w { newOp s q cr w (mk f) act with
          elems := post f w (elemsAt w (form f s cr w) act addr (dst f) (data f w) (data2 f w))
          dsts := (post f w (elemsAt w (form f s cr w) act addr (dst f) (data f w) (data2 f w))).flatMap (·.dst)
          waits := waits f s q act }) ∧
    (∀ e, CheckFails s cr w f (form f s cr w) act e → exec (mk f) s =
      .next ((s.dropLackingLanes cr w f (form f s cr w) act).trapAt e.1 e.2))

/-- The machine once the version of crew `c` is committed and its task irrevocable (R98, R181). -/
def irrevoked (s : State) (c : Nat) : State := (s.commitVersion c).modCrew c (fun cr => { cr with task := .irrevocable })

/-- Instruction `i`, issued in `s`, has passed its checks and is to do `body` in `s0`, in a task that is irrevocable (R98, R181): a
versioned task commits its version first, once its write-queue entries have drained, and until then the instruction issues again;
under NOIRREV it takes the version-overflow trap and does nothing else. -/
def FirstIrrevocable (i : Instr) (s s0 : State) (q : Cursor) (cr : Crew) (body : State → State) : Prop :=
  (cr.task ≠ .versioned → exec i s = .next (body s0)) ∧
  (cr.task = .versioned → s0.noirrev cr = true → exec i s = .next (s0.trapHdr Cause.versionOverflow)) ∧
  (cr.task = .versioned → s0.noirrev cr = false → s0.taskEntries q.crew ≠ [] →
    exec i s = .next { s0 with cur := some { q with again := true } }) ∧
  (cr.task = .versioned → s0.noirrev cr = false → s0.taskEntries q.crew = [] → exec i s = .next (body (irrevoked s0 q.crew)))

/-- An operation of crew `c` issues, formed from the state and the crew that are there by then. -/
def launchIn (c : Nat) (op : State → Crew → Op) (s : State) : State := (s.crew? c).elim s (fun cr => s.launch (op s cr))

/-- An access that R98 makes irrevocable first, its addresses passing the checks of R218. -/
def AccessIrrevocably (mk : Fields → Instr) (vs : Fields → List (Nat × Nat)) (when : Fields → Prop)
    (form : Fields → Machine.Form) (dst : Fields → Nat → List Nat) (data data2 : Fields → Wave → Nat → Nat)
    (waits : Fields → State → Cursor → LaneMask → List Nat) : Prop :=
  ∀ (f : Fields) s q cr w act addr, IssuesLanes s (mk f) f.pn f.pred (vs f) q cr w act → when f →
    ChecksPass s cr w f (form f) act addr →
    let es := elemsAt w (form f) act addr (dst f) (data f w) (data2 f w)
    FirstIrrevocable (mk f) s (s.dropLackingAll cr (form f) es) q cr (launchIn q.crew (fun u x =>
      { newOp u q x w (mk f) act with elems := es, dsts := es.flatMap (·.dst), waits := waits f u q act }))

/-- `t` is `s` once the Clave has fired (R374): every context's LAST is `src` and its LATE as `late` says, where it says so. Outside a
latch in progress SEQ counts up and a snapshot at the present Tabor count is taken. -/
structure ClaveFires (s t : State) (src : Nat) (late : Option Bool) : Prop where
  /-- BUSY. -/
  busy : t.claveBusy = true
  /-- Snapshots. -/
  snaps : t.snaps = if s.claveBusy = true then s.snaps else s.tabor.toNat :: s.snaps
  /-- When the latch began. -/
  since : t.claveSince = if s.claveBusy = true then s.claveSince else s.cycle
  /-- A host firing of this cycle. -/
  host : t.claveHost = if src = 1 then some s.cycle else s.claveHost
  /-- CLAVE of every context. -/
  ctxs : ∀ c, t.ctxs.find? c = (s.ctxs.find? c).map (fun cx => { cx with
    clave := (late.elim (cx.clave / 2 ^ 30 % 2) Bool.toNat) * 2 ^ 30 + src * 2 ^ 16 +
      (cx.clave + if s.claveBusy = true then 0 else 1) % 2 ^ 16 })
  /-- The rest of the machine. -/
  rest : { t with claveBusy := s.claveBusy, snaps := s.snaps, claveSince := s.claveSince, claveHost := s.claveHost, ctxs := s.ctxs } = s

/-! ## Control -/

/-- Of a wave only strands differ. -/
def StrandsOnly (w x : Wave) : Prop :=
  { x with strands := w.strands, yieldedStrand := w.yieldedStrand, givenWay := w.givenWay } = w

/-- The state in which strand `q` acts on a barrier object: at one in device memory its lanes carry their marks (R93, R234). -/
def marked (s : State) (q : Cursor) (o : BarObj) : State :=
  match o with
  | .device _ => s.setMarks q.crew q.wave ((s.wave? q.crew q.wave).elim 0 (fun w => (w.strand q.strand).mask))
  | _ => s

/-- A branch for the lanes `act` with a target for each (R145, R154): a target that fails traps; otherwise `first` happens
and the strand's lanes part by destination, the lanes not active going on at the next clause. Where every lane of the strand
is active and all go one way, the strand goes on at the target and nothing else changes. -/
def Branches (i : Instr) (pn : Bool) (pred : BitVec 3) (vs : List (Nat × Nat)) (t : Wave → Nat → Nat)
    (first : Cursor → Wave → LaneMask → State → State) : Prop :=
  ∀ s q cr w act, IssuesLanes s i pn pred vs q cr w act →
    let st := w.strand q.strand
    (∀ e, firstTargetFault act (t w) = some e → exec i s = .next (s.trapAt e.1 e.2)) ∧
    (firstTargetFault act (t w) = none → exec i s = .next ((first q w act s).branch
      ((lanesOf (st.mask &&& w.lanes)).map (fun l => (if act.getLsbD l = true then t w l else st.pc, l))))) ∧
    (∀ a, act = st.mask &&& w.lanes → (∀ l, t w l = a) → targetFault a = none → ∃ u x y, exec i s = .next u ∧
      (first q w act s).wave? q.crew q.wave = some y ∧ u.wave? q.crew q.wave = some x ∧
      x = y.modStrand q.strand (fun st => { st with mask := act, pc := a }) ∧ OnlyWave s u q.crew q.wave)

/-! ## Traps -/

/-- Two stopping traps of one core that R175 merges. -/
def TrapsMerge (q r : TrapRec) : Prop :=
  q.stop = true ∧ q.ev = false ∧ q.own = false ∧ q.cause = r.cause ∧ q.kernel = r.kernel ∧
    if 4 ≤ r.cause ∧ r.cause ≤ 9 then q.addr / 4096 = r.addr / 4096 else q.addr = r.addr

/-! ## Invariants -/

/-- Memory is in its canonical form. -/
def MemoryCanonical (s : State) : Prop := Memory.wf s.mem = true

end Sys2Proof.Safety
end

