-- ==== Sys2Proof/Certificates/Slice0/Obligations.lean ====
section
/-!
DEFINITION. The statements made of the machine. Each is a proposition about `exec`, `step`, the decoder or an operation that
they share, over every state and operand unless a premise says otherwise.
-/

section ObligationStatements

open Sys2Proof Sys2Proof.Machine Sys2Proof.Safety Host

/-- Decoding an encoded instruction gives it back, for every well-formed instruction with every operand value its entry admits
(R60 to R65), and every instruction that is not an event has an encoding. -/
def Obligations.EncodeDecode : Prop :=
  ∀ i : Instr, i.wf = true → (opcodeOf i ≠ none → ∃ cls w, encode i = some (cls, w)) ∧
    ∀ cls w, encode i = some (cls, w) → decodeWord cls w = .ok i

/-- Encoding a decoded word gives the word back, so no two words of a class mean one instruction, and what the decoder accepts
is well formed (R52, R60 to R67). -/
def Obligations.DecodeEncode : Prop :=
  ∀ cls w i, decodeWord cls w = .ok i → encode i = some (cls, w) ∧ i.wf = true

/-- Words that the spec writes out decode to the instructions they stand for: IADDS.u32 v8,v8,v9; ISHL v3,v3,4; CENUM's,
AZERO a3; RET v20; QUIESCE s20; JOINW s5,1000; RBACQ v64,v127; TKSIZE s40,s20,s4. -/
def Obligations.SpecWordsDecode : Prop :=
  decodeWord 0 0x0200808090000008 = .ok (.iadds ⟨false, 0, 8, 8, 9, 0, false, false, false, false, 0x0008⟩) ∧
  decodeWord 0 0x8C00303000000004 = .ok (.ishlImm ⟨false, 0, 3, 3, false, false, 4⟩) ∧
  decodeWord 4 0x0000008040020000 = .ok (.cenum ⟨false, 0, 0, 8, 4, 0, false, false, true, false, 0⟩) ∧
  decodeWord 2 0x0900300000000000 = .ok (.azero ⟨false, 0, 3, 0, 0, 0, false, false, false, false, 0⟩) ∧
  decodeWord 7 0x0400014000000000 = .ok (.ret ⟨false, 0, 0, 20, 0, 0, false, false, false, false, 0⟩) ∧
  decodeWord 8 0x1101400000080000 = .ok (.quiesce ⟨false, 0, 20, 0, 0, 0, true, false, false, false, 0⟩) ∧
  decodeWord 7 0x86005000000803E8 = .ok (.joinwImm ⟨false, 0, 5, 0, true, false, 1000⟩) ∧
  decodeWord 7 0x1000000000000043 = .ok (.rbacq ⟨false, 0, 0, 0, 0, 0, false, false, false, false, 0x0043⟩) ∧
  decodeWord 6 0x03028140400E0000 = .ok (.tksize ⟨false, 0, 40, 20, 4, 0, true, true, true, false, 0⟩)

/-- R53: which instructions are terminal, and that a clause which decodes holds one as its last word or not at all. -/
def Obligations.TerminalsEndTheClause : Prop :=
  (∀ i, terminal i = true ↔
    (∃ f, i = .bra f) ∨ (∃ f, i = .brx f) ∨ (∃ f, i = .call f) ∨ (∃ f, i = .ret f) ∨ (∃ f, i = .join f) ∨
    (∃ f, i = .joinw f) ∨ (∃ f, i = .joinwImm f) ∨ (∃ f, i = .exit f) ∨ (∃ f, i = .yield f) ∨ (∃ f, i = .trap f) ∨
    (∃ f, i = .bar f) ∨ (∃ f, i = .barw f) ∨ (∃ f, i = .barx f) ∨ (∃ f, i = .barxImm f) ∨ (∃ f, i = .hwait f) ∨
    (∃ f, i = .wwait f) ∨ (∃ f, i = .rbacq f) ∨ (∃ f, i = .eret f) ∨ (∃ f, i = .tend f) ∨ (∃ f, i = .tabrt f)) ∧
  (∀ hw ws h is, decodeClause hw ws = .ok (h, is) → is.length = ws.length ∧
    ∀ n i, is[n]? = some i → terminal i = true → n + 1 = is.length)

/-- R58: FS of a long-latency instruction selects the flag its operation counts against, set A at 0 and set B at 1, and in a
short-latency instruction a word with that bit set is not well formed. -/
def Obligations.FlagSelect : Prop :=
  (∀ s q cr w i f lanes cl, longLatency i = true → fieldsOf i = some f → w.clause = some cl →
    (f.mod.getLsbD 15 = false → (newOp s q cr w i lanes).flag = cl.hdr.aflag) ∧
    (f.mod.getLsbD 15 = true → (newOp s q cr w i lanes).flag = cl.hdr.bflag)) ∧
  (∀ i f, opcodeOf i ≠ none → fieldsOf i = some f → longLatency i = false → f.mod.getLsbD 15 = true → i.wf = false)

/-- What one step does. A turn of the agenda's head, else the default turn: an instruction is the decoded word next in the
wave's started clause, run with the word taken from the clause, and after it the clause goes on or ends (only where a translation it
needs waits for an owned table line does it not issue yet, R356); an event runs as itself; time passes; a core's clause cache loses a
clause; the host reads a register (R376); an error of an access is reported; a program's store reaches a window (R378); a word that
withFetchWord places is the next to issue. Choices of the model: the agenda, whose head the next step takes and which names the turns
(log 1); where an instruction is placed from outside (log 14); the cache's loss (log 35); the turns of the host's read and of a window's
store (log 63) and of an access's error (log 64). -/
def Obligations.StepRunsDecoded : Prop :=
  (∀ s c w cr wv cl d ds i, s.turn = .issue c w → let s0 := s.taken.unstall c w
    s0.crew? c = some cr → s0.wave? c w = some wv → wv.clause = some cl → cl.rest = d :: ds →
    s0.stopped = false → ((wv.strand cl.strand).resv = none ∨ (wv.strand cl.strand).since < 64) → decodeWord cl.hdr.cls d = .ok i →
    s0.issueHeld cr wv cl.strand i = false →
    let s1 := { (s0.dropIssue c wv cl.strand i).modWave c w (fun x => { x with clause := some { cl with rest := ds } }) with
      cur := some ⟨c, w, cl.strand, false⟩ }
    (∀ t, exec i s1 = .next t → step s = .next (t.finishIssue d i)) ∧ (∀ r, exec i s1 = .fault r → step s = .fault r) ∧
      ∀ r, exec i s1 = .refused r → step s = .refused r) ∧
  (∀ s i, s.turn = .event i → step s = exec i s.taken) ∧
  (∀ s a b, s.turn = .tick a b → step s = .next (s.taken.tick a b)) ∧
  (∀ s c n, s.turn = .forget c n → step s = .next (s.taken.forgetClause c n)) ∧
  (∀ s fn bar off, s.turn = .hostRead fn bar off → step s = .next (s.taken.hostReadReg fn bar off)) ∧
  (∀ s o n, s.turn = .readError o n → step s = .next (s.taken.readError o n)) ∧
  (∀ s, s.turn = .windowWrite → step s = .next s.taken.windowWrite) ∧
  (∀ (s : State) t l, s.agenda = t :: l → s.turn = t ∧ s.taken = { s with agenda := l }) ∧
  (∀ (s : State) nbits w, (s.withFetchWord nbits w).turn = .issue (s.next + 1) 0)

/-- The machine after power-on reset: nothing is booted, no context, kernel, crew or operation exists, ports are disabled with their
counts at 0 (R370), PWRLIM is 2,000 W (R379) and memory is in its canonical form. That every byte of memory then reads 0 is the model's
choice (log 3). -/
def Obligations.ResetState : Prop :=
  MemoryCanonical State.reset ∧ State.reset.stage = 0 ∧ State.reset.hostUp = false ∧ State.reset.pwrLim = 2000 ∧
  (∀ x, (State.reset.ctx x).st = .absent) ∧ (∀ k, State.reset.kernel? k = none) ∧ (∀ c, State.reset.crew? c = none) ∧
  (∀ o, State.reset.op? o = none) ∧
  (∀ p, (State.reset.port p).st = .down ∧ (State.reset.port p).replays = 0 ∧ (State.reset.port p).retrains = 0) ∧
  (∀ a, State.reset.mem.rd 0 a = 0)

/-- Bytes an agent writes to this package's HBM read back as written, every other byte reads as before, and memory keeps its
canonical form (R8, R86). -/
def Obligations.MemoryReadsBack : Prop :=
  ∀ (s : State) pa bs, homeOf pa = .hbm → 
    (∀ a, (s.agentWrite pa bs).mem.rd 0 a = if pa ≤ a ∧ a < pa + bs.length then bs.getD (a - pa) 0 else s.mem.rd 0 a) ∧
    (MemoryCanonical s → MemoryCanonical (s.agentWrite pa bs))

/-- A step from a state whose memory is in its canonical form leaves it so: rising addresses, and no byte listed that equals what an
unlisted one reads as. -/
def Obligations.MemoryStaysCanonical : Prop :=
  ∀ s t : State, MemoryCanonical s → step s = .next t → MemoryCanonical t

/-- R173 and R174: a trap that stops a task stops its strand, discards the task's version, leaves the crew its blocks and segments,
and gives the core's coalescer a record of the wave's slot, the address, the cause and the class.
R175: a stopping trap that matches an open record of its core sets its wave's bit there and counts one more; one that matches
none opens a record while fewer than 16 are open, and otherwise waits in arrival order. A handler's own trap stands alone (log 45). -/
def Obligations.TrapEntry : Prop :=
  (∀ (s : State) c w k cause addr cls cr wv, s.crew? c = some cr → cr.waves.find? w = some wv → cr.task ≠ .stopped →
    (s.ctx cr.ctx).handler ≠ some (c, w) →
    let u := s.trap c w k cause addr cls
    (∃ x, u.crew? c = some x ∧ x.task = .stopped ∧ x.ver = [] ∧ x.held = [] ∧ x.segs = [] ∧ x.blocks = cr.blocks ∧ x.core = cr.core ∧
      x.base = cr.base ∧ x.nw = cr.nw) ∧
    (∃ x, u.wave? c w = some x ∧ (x.strand k).st = .stopped ∧ (x.strand k).resv = none ∧ x.seg = wv.seg ∧ x.sr = wv.sr ∧
      x.vr = wv.vr ∧ x.tiles = []) ∧
    SameMemory s u ∧
    ∃ r, (u.core cr.core).recs = ((s.core cr.core).addTrap r).recs ∧ (u.core cr.core).heldTraps = ((s.core cr.core).addTrap r).heldTraps ∧
      r.waves = 2 ^ (cr.base + w) ∧ r.addr = addr ∧ r.cause = cause ∧ r.cls = cls ∧ r.count = 1 ∧ r.stop = true ∧ r.ev = false ∧
      r.core = cr.core ∧ r.ctx = cr.ctx ∧ r.kernel = cr.kernel ∧ r.crew = cr.idx ∧ r.task = cr.taskIdx) ∧
  (∀ (k : Machine.Core) (r : TrapRec), r.stop = true → r.ev = false → r.own = false →
    (∀ (i : Nat) q, k.recs[i]? = some q → TrapsMerge q r → (∀ (j : Nat) x, j < i → k.recs[j]? = some x → ¬ TrapsMerge x r) →
      (k.addTrap r).heldTraps = k.heldTraps ∧ (k.addTrap r).recs.length = k.recs.length ∧
      (∀ j : Nat, j ≠ i → (k.addTrap r).recs[j]? = k.recs[j]?) ∧
      ∃ u : TrapRec, (k.addTrap r).recs[i]? = some u ∧ u.waves = q.waves ||| r.waves ∧ u.count = min 65535 (q.count + 1) ∧
        u.addr = q.addr ∧ u.cause = q.cause ∧ u.kernel = q.kernel) ∧
    ((∀ x ∈ k.recs, ¬ TrapsMerge x r) → k.recs.length < 16 → k.addTrap r = { k with recs := k.recs ++ [r] }) ∧
    ((∀ x ∈ k.recs, ¬ TrapsMerge x r) → 16 ≤ k.recs.length → k.addTrap r = { k with heldTraps := k.heldTraps ++ [r] }))

/-- R62: a lane-guarded instruction with an empty set of lanes has no effect.
R48: a lane-guarded instruction that names a v register in a block the wave does not hold takes the protection trap and has no
other effect: every one of class V, of M that names a v register, BRX, RET, CALL and XADM. XFORM and XEVAL do once R325's checks, which
their entries list first, are met. -/
def Obligations.GuardAndBlocks : Prop :=
  ((∀ mk ∈ [Instr.iadd, .isub, .iadds, .imul, .imad, .imin, .imax, .iand, .ior, .ixor, .ishl, .ishr, .isra, .irot, .iabs, .inot,
      .ipopc, .iclz, .ibrev, .ibfe, .ibfi, .icmp, .fadd, .fsub, .fmul, .ffma, .fmin, .fmax, .fabs, .fneg, .fcmp, .fclass, .fscale,
      .fround, .fsqrt, .frcp, .frsq, .fexp2, .flog2, .cvt, .cvtq, .cvtx, .mov, .sel, .movs, .bcast, .shfl, .vote, .ballot, .redux,
      .scanw, .bfly, .bfly4, .cmul, .twid, .rdtime] ++ [Instr.ld, .lds, .st, .sts, .atom, .atoms, .lr, .sc, .red, .gath, .scat,
      .confl, .pref, .stw, .xform, .xeval, .xadm, .brx, .ret, .exit],
    ∀ f s q cr w, Issues s (mk f) q cr w → w.active q.strand f.pn f.pred.toNat = 0 → exec (mk f) s = .next s) ∧
  (∀ mk ∈ [Instr.iaddImm, .isubImm, .iaddsImm, .imulImm, .iminImm, .imaxImm, .iandImm, .iorImm, .ixorImm, .ishlImm, .ishrImm,
      .israImm, .irotImm, .faddImm, .fsubImm, .fmulImm, .fminImm, .fmaxImm, .movImm, .ldi, .shflImm, .bra, .call, .trap],
    ∀ f s q cr w, Issues s (mk f) q cr w → w.active q.strand f.pn f.pred.toNat = 0 → exec (mk f) s = .next s)) ∧
  ((∀ x ∈ laneNames, ∀ f s q cr w g, Issues s (x.1 f) q cr w → w.active q.strand f.pn f.pred.toNat ≠ 0 → g ∈ x.2 f →
      w.holds g.1 g.2 = false → exec (x.1 f) s = .next (s.trap q.crew q.wave q.strand Cause.protection w.clauseAddr w.clauseCls)) ∧
  (∀ x ∈ laneNamesImm, ∀ f s q cr w g, Issues s (x.1 f) q cr w → w.active q.strand f.pn f.pred.toNat ≠ 0 → g ∈ x.2 f →
      w.holds g.1 g.2 = false → exec (x.1 f) s = .next (s.trap q.crew q.wave q.strand Cause.protection w.clauseAddr w.clauseCls)) ∧
  (∀ f s q cr w l, Issues s (.xform f) q cr w → w.active q.strand f.pn f.pred.toNat ≠ 0 → s.expCheck q cr w [⟨f.d.toNat, 1⟩] = .ok l →
      w.holds f.a.toNat 4 = false →
      exec (.xform f) s = .next (s.trap q.crew q.wave q.strand Cause.protection w.clauseAddr w.clauseCls)) ∧
  (∀ f s q cr w l, Issues s (.xeval f) q cr w → w.active q.strand f.pn f.pred.toNat ≠ 0 → s.expCheck q cr w [⟨f.a.toNat, 0⟩] = .ok l →
      (s.exp cr.core (l.getD 0 0)).kind ≠ 0 → w.holds f.d.toNat 4 = false ∨ w.holds f.b.toNat 4 = false →
      exec (.xeval f) s = .next (s.trap q.crew q.wave q.strand Cause.protection w.clauseAddr w.clauseCls)))

/-- R187: IADD, ISUB, IMUL and IMAD keep the low w bits of the exact result; IMUL.hi the high w bits of the exact product of
the operands as TY reads them; IADDS saturates. Register and immediate forms, v and s destinations; everything else stays. -/
def Obligations.IntegerArithmetic : Prop :=
  BinResult .iadd Fields.words (fun f x y => (x + y) % 2 ^ f.width) ∧
  BinResult .isub Fields.words (fun f x y => low f.width ((x : Int) - (y : Int))) ∧
  BinResult .imul Fields.words (fun f x y =>
    if f.m 5 then low f.width (readInt f.signed f.width x * readInt f.signed f.width y / ((2 ^ f.width : Nat) : Int))
    else (x * y) % 2 ^ f.width) ∧
  TerResult .imad Fields.words Fields.words (fun f x y z => (x * y + z) % 2 ^ f.width) ∧
  BinResult .iadds Fields.words (fun f x y =>
    low f.width (clampInt f.signed f.width (readInt f.signed f.width x + readInt f.signed f.width y))) ∧
  ImmResult .iaddImm (fun x y => (x + y) % 2 ^ 32) ∧
  ImmResult .isubImm (fun x y => low 32 ((x : Int) - (y : Int))) ∧
  ImmResult .imulImm (fun x y => (x * y) % 2 ^ 32) ∧
  ImmResult .iaddsImm (fun x y => low 32 (clampInt true 32 (readInt true 32 x + readInt true 32 y)))

/-- R187 and R188: minimum and maximum under TY's signedness, the bitwise operations, complement and absolute value. -/
def Obligations.IntegerMinMaxLogic : Prop :=
  BinResult .imin Fields.words (fun f x y => if readInt f.signed f.width y < readInt f.signed f.width x then y else x) ∧
  BinResult .imax Fields.words (fun f x y => if readInt f.signed f.width x < readInt f.signed f.width y then y else x) ∧
  BinResult .iand Fields.words (fun _ x y => x &&& y) ∧
  BinResult .ior Fields.words (fun _ x y => x ||| y) ∧
  BinResult .ixor Fields.words (fun _ x y => x ^^^ y) ∧
  ImmResult .iminImm (fun x y => if readInt true 32 y < readInt true 32 x then y else x) ∧
  ImmResult .imaxImm (fun x y => if readInt true 32 x < readInt true 32 y then y else x) ∧
  ImmResult .iandImm (fun x y => x &&& y) ∧
  ImmResult .iorImm (fun x y => x ||| y) ∧
  ImmResult .ixorImm (fun x y => x ^^^ y) ∧
  UnResult .iabs Fields.words Fields.words (fun f x => low f.width (((sextNat f.width x).natAbs : Nat) : Int)) ∧
  UnResult .inot Fields.words Fields.words (fun f x => 2 ^ f.width - 1 - x % 2 ^ f.width)

/-- R187: a shift by the width or more gives 0, or the sign for ISRA; IROT rotates left by the count modulo the width.
R188 and R189: population count, leading zeros, bit reversal, and the two bit-field instructions with their
descriptors. -/
def Obligations.IntegerShiftsAndBits : Prop :=
  (CountResult .ishl Fields.words (fun f x c => if f.width ≤ c then 0 else (x * 2 ^ c) % 2 ^ f.width) ∧
  CountResult .ishr Fields.words (fun f x c => if f.width ≤ c then 0 else x / 2 ^ c) ∧
  CountResult .isra Fields.words (fun f x c => low f.width (sextNat f.width x / ((2 ^ min c f.width : Nat) : Int))) ∧
  CountResult .irot Fields.words (fun f x c =>
    (x * 2 ^ (c % f.width)) % 2 ^ f.width + x / 2 ^ (f.width - c % f.width)) ∧
  ImmResult .ishlImm (fun x c => if 32 ≤ c then 0 else (x * 2 ^ c) % 2 ^ 32) ∧
  ImmResult .ishrImm (fun x c => if 32 ≤ c then 0 else x / 2 ^ c) ∧
  ImmResult .israImm (fun x c => low 32 (sextNat 32 x / ((2 ^ min c 32 : Nat) : Int))) ∧
  ImmResult .irotImm (fun x c => (x * 2 ^ (c % 32)) % 2 ^ 32 + x / 2 ^ (32 - c % 32))) ∧
  (UnResult .ipopc Fields.words (fun _ => 1) (fun f x => ((List.range f.width).filter (fun k => x.testBit k)).length) ∧
  UnResult .iclz Fields.words (fun _ => 1) (fun f x => f.width - bitLen (x % 2 ^ f.width)) ∧
  UnResult .ibrev Fields.words Fields.words (fun f x =>
    (List.range f.width).foldl (fun acc k => if x.testBit k then acc + 2 ^ (f.width - 1 - k) else acc) 0) ∧
  CountResult .ibfe Fields.words (fun f x c =>
    let len := min (c / 256 % 256) f.width
    let b := x / 2 ^ (c % 256) % 2 ^ len
    if f.signed = true ∧ len ≠ 0 then low f.width (sextNat len b) else b) ∧
  TerResult .ibfi Fields.words (fun _ => 1) (fun f x y c =>
    let n := if c % 256 < f.width then min (c / 256 % 256) (f.width - c % 256) else 0
    let m := (2 ^ n - 1) * 2 ^ (c % 256)
    (x &&& (2 ^ f.width - 1 - m)) ||| ((y * 2 ^ (c % 256)) &&& m)))

/-- R191 to R195: floating-point results, in the format of TY and the mode of RM, class code 0 in generated NaNs. -/
def Obligations.FloatArithmetic : Prop :=
  BinResult .fadd Fields.fwords (fun f x y => f.fmt.add 0 f.rm x y) ∧
  BinResult .fsub Fields.fwords (fun f x y => f.fmt.sub 0 f.rm x y) ∧
  BinResult .fmul Fields.fwords (fun f x y => f.fmt.mul 0 f.rm x y) ∧
  TerResult .ffma Fields.fwords Fields.fwords (fun f x y z => f.fmt.fma 0 f.rm x y z) ∧
  BinResult .fmin Fields.fwords (fun f x y => f.fmt.minmax false x y) ∧
  BinResult .fmax Fields.fwords (fun f x y => f.fmt.minmax true x y) ∧
  ImmResult .faddImm (fun x y => fp32.add 0 0 x y) ∧
  ImmResult .fsubImm (fun x y => fp32.sub 0 0 x y) ∧
  ImmResult .fmulImm (fun x y => fp32.mul 0 0 x y) ∧
  ImmResult .fminImm (fun x y => fp32.minmax false x y) ∧
  ImmResult .fmaxImm (fun x y => fp32.minmax true x y) ∧
  UnResult .fabs Fields.fwords Fields.fwords (fun f x => if f.fmt.isNan x then f.fmt.quiet x else f.fmt.mag x) ∧
  UnResult .fneg Fields.fwords Fields.fwords (fun f x => if f.fmt.isNan x then f.fmt.quiet x else x ^^^ f.fmt.sign) ∧
  UnResult .fclass Fields.fwords (fun _ => 1) (fun f x => vClass f.fmt x) ∧
  CountResult .fscale Fields.fwords (fun f x c => vScale f.fmt f.rm x c) ∧
  UnResult .fround Fields.fwords Fields.fwords (fun f x => vRound f.fmt f.rm x) ∧
  UnResult .fsqrt Fields.fwords Fields.fwords (fun f x => vSqrt f.fmt f.rm x)

/-- R196 to R200: the four approximations run on every operand, and conversions give the converted value. The value of an
approximation where R196 gives only a bound is the model's free value (log 6); this says where it goes, whatever it is.
R199: CVTQ quantises each block of 32 lanes: an active lane's element of D is its entry of the block's result, in which
an inactive lane counts as +0; inactive lanes' elements and all other registers stay. -/
def Obligations.ApproximationsAndConversions : Prop :=
  (UnResult .frcp (fun _ => 1) (fun _ => 1) (fun _ x => frcpBits x) ∧
  UnResult .frsq (fun _ => 1) (fun _ => 1) (fun _ x => frsqBits x) ∧
  UnResult .fexp2 (fun _ => 1) (fun _ => 1) (fun _ x => fexp2Bits x) ∧
  UnResult .flog2 (fun _ => 1) (fun _ => 1) (fun _ x => flog2Bits x) ∧
  UnResult .cvt (fun f => fmtAl f.srcFmt) (fun f => fmtAl f.dstFmt) (fun f x => cvtBits f.dstFmt f.srcFmt f.nsat f.rm x 0) ∧
  UnResult .cvtx (fun _ => 1) (fun _ => 1) (fun f x => cvtxBits (f.mb 5 2) f.rm x)) ∧
  (∀ (f : Fields) s q cr w act, IssuesLanes s (.cvtq f) f.pn f.pred (vNamed f.kd f.d 1 ++ vNamed f.ka f.a 1) q cr w act →
    ∃ t x, exec (.cvtq f) s = .next t ∧ t.wave? q.crew q.wave = some x ∧
      (∀ l, l < 128 → act.getLsbD l = true → ∃ v, (l, v) ∈ cvtqBlock (f.mb 5 2) f.rm f.nsat (f.rb w 1 0)
        ((List.range 32).map (fun n => (32 * (l / 32) + n,
          if act.getLsbD (32 * (l / 32) + n) = true then f.ra w 1 (32 * (l / 32) + n) else 0))) ∧
        x.v f.d.toNat l = BitVec.ofNat 32 v) ∧
      (∀ r l, r < 256 → l < 128 → (r ≠ f.d.toNat ∨ act.getLsbD l = false) → x.v r l = w.v r l) ∧
      { x with vr := w.vr } = w ∧ OnlyWave s t q.crew q.wave)

/-- R201 to R205: moves, immediates, select, the lane moves and the shuffles read their sources before any destination is
written, a source lane whether it is active or not. -/
def Obligations.MovesAndShuffles : Prop :=
  UnResult .mov Fields.words Fields.words (fun _ x => x) ∧
  (∀ f : ImmFields, LaneResult (.movImm f) f.pn f.pred f.kd f.d 1 [] (fun _ _ _ _ => f.imm.toNat)) ∧
  (∀ f : ImmFields, LaneResult (.ldi f) f.pn f.pred f.kd f.d 2 [] (fun _ _ _ _ => low 64 f.imm.toInt)) ∧
  (∀ f : Fields, LaneResult (.sel f) f.pn f.pred f.kd f.d 1 (vNamed f.ka f.a 1 ++ vNamed f.kb f.b 1)
    (fun _ w _ l => if (w.p f.c.toNat).getLsbD l = true then f.ra w 1 l else f.rb w 1 l)) ∧
  (∀ f : Fields, LaneResult (.movs f) f.pn f.pred f.kd f.d 1 (vNamed f.ka f.a 1)
    (fun _ w _ l => f.ra w 1 (if f.m 3 = true then f.rb w 1 0 % 128 else l))) ∧
  (∀ f : Fields, LaneResult (.bcast f) f.pn f.pred f.kd f.d 1 (vNamed f.ka f.a 1)
    (fun _ w _ _ => f.ra w 1 (f.rb w 1 0 % 128))) ∧
  (∀ f : Fields, LaneResult (.shfl f) f.pn f.pred f.kd f.d 1 (vNamed f.ka f.a 1 ++ vNamed f.kb f.b 1)
    (fun _ w _ l => f.ra w 1 (shflLane f.cc (f.mb 10 2) l (f.rb w 1 l)))) ∧
  (∀ f : ImmFields, LaneResult (.shflImm f) f.pn f.pred f.kd f.d 1 (vNamed f.ka f.a 1)
    (fun _ w _ _ => f.ra w 1 (f.imm.toNat % 128)))

/-- R207 to R212: the lane tree, the scan, the complex operations, the twiddle factor and the Tabor sample; BALLOT's mask
(R206) in four s registers. -/
def Obligations.CrossLaneAndComplex : Prop :=
  (∀ f : Fields, LaneResult (.redux f) f.pn f.pred f.kd f.d 1 (vNamed f.ka f.a 1)
    (fun _ w act _ => (laneTree (redStep f.cc f.ty) act (fun k => f.ra w 1 k)).getD 0)) ∧
  (∀ f : Fields, LaneResult (.scanw f) f.pn f.pred f.kd f.d 1 (vNamed f.ka f.a 1)
    (fun _ w act l => scanAt (redStep f.cc f.ty) (scanId f.cc f.ty) (f.mb 10 2 == 1) act (fun k => f.ra w 1 k) l)) ∧
  (∀ f : Fields, LaneResult (.cmul f) f.pn f.pred f.kd f.d 2 (vNamed f.ka f.a 2 ++ vNamed f.kb f.b 2) (fun _ w _ l =>
    groupNat (cmul (f.ra w 2 l % 2 ^ 32) (f.ra w 2 l / 2 ^ 32) (f.rb w 2 l % 2 ^ 32) (f.rb w 2 l / 2 ^ 32)))) ∧
  (∀ f : Fields, LaneResult (.bfly f) f.pn f.pred f.kd f.d 4 (vNamed f.ka f.a 2 ++ vNamed f.kb f.b 2 ++ vNamed f.kc f.c 2)
    (fun _ w _ l => groupNat (bfly (f.ra w 2 l % 2 ^ 32) (f.ra w 2 l / 2 ^ 32) (f.rb w 2 l % 2 ^ 32) (f.rb w 2 l / 2 ^ 32)
      (f.rc w 2 l % 2 ^ 32) (f.rc w 2 l / 2 ^ 32)))) ∧
  (∀ f : Fields, LaneResult (.bfly4 f) f.pn f.pred f.kd f.d 8 (vNamed f.ka f.a 8) (fun _ w _ l =>
    groupNat (bfly4 ((List.range 8).map (fun n => bitsOf (f.ra w 8 l) (32 * n) 32))))) ∧
  (∀ f : Fields, LaneResult (.twid f) f.pn f.pred f.kd f.d 2 (vNamed f.ka f.a 1 ++ vNamed f.kb f.b 1) (fun _ w _ l =>
    groupNat [(twidBits (f.ra w 1 l) (f.rb w 1 l)).1, (twidBits (f.ra w 1 l) (f.rb w 1 l)).2])) ∧
  (∀ f : Fields, LaneResult (.rdtime f) f.pn f.pred f.kd f.d 2 [] (fun s _ _ _ => s.tabor.toNat)) ∧
  ∀ (f : Fields) s q cr w act, IssuesLanes s (.ballot f) f.pn f.pred [] q cr w act →
    ∃ t, exec (.ballot f) s = .next t ∧ WritesS s t q w ((List.range 4).map (fun j =>
      (f.d.toNat + j, groupWord (w.p f.a.toNat &&& act).toNat j)))

/-- R190, R193 and R206: the compares and VOTE write the active lanes' bits of p(d); p0 takes no write (R46). -/
def Obligations.PredicateResults : Prop :=
  (∀ f : Fields, PredResult (.icmp f) f.pn f.pred f.d (vNamed f.ka f.a f.words ++ vNamed f.kb f.b f.words)
    (fun w _ l => let x := readInt f.signed f.width (f.ra w f.words l)
      let y := readInt f.signed f.width (f.rb w f.words l)
      if f.cc = 0 then decide (x = y) else if f.cc = 1 then decide (x ≠ y) else if f.cc = 2 then decide (x < y)
      else if f.cc = 3 then decide (x ≤ y) else if f.cc = 4 then decide (x > y) else decide (x ≥ y))) ∧
  (∀ f : Fields, PredResult (.fcmp f) f.pn f.pred f.d (vNamed f.ka f.a f.fwords ++ vNamed f.kb f.b f.fwords)
    (fun w _ l => f.fmt.compare f.cc (f.ra w f.fwords l) (f.rb w f.fwords l))) ∧
  ∀ f : Fields, PredResult (.vote f) f.pn f.pred f.d [] (fun w act _ =>
    let m := w.p f.a.toNat &&& act
    if f.mb 5 2 = 0 then decide (m = act) else if f.mb 5 2 = 1 then decide (m ≠ 0) else decide (m = 0 ∨ m = act))

/-- R213 to R222: LD, LDS, ST and STS issue an operation with an element for each active lane (one in the uniform form), at
the address of R64, with the destination registers of a load and the data of a store; the lowest lane that fails a check
raises its trap instead. -/
def Obligations.LoadsAndStoresIssue : Prop :=
  AccessIssues .ld (fun f => vNamed f.kd f.d (szGroup f.sz) ++ f.memNamed 2) (fun _ _ _ => True)
    (fun f _ _ _ => Machine.Fields.devForm f f.uniform Need.read) (fun f l => groupKeys f.kd f.d.toNat l (szGroup f.sz))
    (fun _ _ _ => 0) (fun _ _ _ => 0) (fun _ _ es => es.flatMap Elem.halves) (fun _ _ _ _ => []) ∧
  AccessIssues .lds (fun f => vNamed f.kd f.d (szGroup f.sz) ++ f.memNamed 1) (fun _ _ _ => True)
    (fun f _ _ _ => Machine.Fields.spadForm f f.uniform) (fun f l => groupKeys f.kd f.d.toNat l (szGroup f.sz))
    (fun _ _ _ => 0) (fun _ _ _ => 0) (fun _ _ es => es.flatMap Elem.halves) (fun _ _ _ _ => []) ∧
  AccessIssues .st (fun f => vNamed f.kd f.d (szGroup f.sz) ++ f.memNamed 2) (fun _ _ _ => True)
    (fun f _ _ _ => Machine.Fields.devForm f f.uniform Need.write) (fun _ _ => [])
    (fun f w l => f.rD w (szGroup f.sz) l % 2 ^ (8 * szBytes f.sz)) (fun _ _ _ => 0) (fun _ _ es => es.flatMap Elem.halves) (fun _ _ _ _ => []) ∧
  AccessIssues .sts (fun f => vNamed f.kd f.d (szGroup f.sz) ++ f.memNamed 1) (fun _ _ _ => True)
    (fun f _ _ _ => Machine.Fields.spadForm f f.uniform) (fun _ _ => [])
    (fun f w l => f.rD w (szGroup f.sz) l % 2 ^ (8 * szBytes f.sz)) (fun _ _ _ => 0) (fun _ _ es => es.flatMap Elem.halves) (fun _ _ _ _ => [])

/-- R223 to R227: the atomics, the reserved pair, reductions, gathers and scatters issue their operations. An access at pod
or wider of a versioned task first makes the task irrevocable (R98): IrrevocableFirst states it. -/
def Obligations.AtomicsAndGathersIssue : Prop :=
  AccessIssues .atom (fun f => vNamed f.kd f.d f.agrp ++ f.memNamed 2 ++ vNamed f.kc f.c f.acgrp)
    (fun f _ cr => f.scope < 3 ∨ cr.task ≠ .versioned)
    (fun f _ _ _ => ⟨false, f.uniform && f.kc, atBytes f.aty, atBytes f.aty, 0, Need.atomic, none, false⟩)
    (fun f l => groupKeys f.kd f.d.toNat l f.agrp) (fun f w l => f.rc w f.agrp l)
    (fun f w l => if f.aop = 8 then w.rd f.kc (f.c.toNat + f.agrp) l f.agrp else 0) (fun _ _ es => es) (fun _ _ _ _ => []) ∧
  AccessIssues .atoms (fun f => vNamed f.kd f.d f.agrp ++ f.memNamed 1 ++ vNamed f.kc f.c f.acgrp) (fun _ _ _ => True)
    (fun f _ _ _ => ⟨true, f.uniform && f.kc, atBytes f.aty, atBytes f.aty, 0, Need.atomic, none, false⟩)
    (fun f l => groupKeys f.kd f.d.toNat l f.agrp) (fun f w l => f.rc w f.agrp l)
    (fun f w l => if f.aop = 8 then w.rd f.kc (f.c.toNat + f.agrp) l f.agrp else 0) (fun _ _ es => es) (fun _ _ _ _ => []) ∧
  AccessIssues .lr (fun _ => []) (fun f _ cr => f.scope < 3 ∨ cr.task ≠ .versioned)
    (fun f _ _ _ => ⟨false, true, szBytes f.sz, 8, szBytes f.sz, Need.read, none, false⟩)
    (fun f l => groupKeys f.kd f.d.toNat l (szGroup f.sz)) (fun _ _ _ => 0) (fun _ _ _ => 0) (fun _ _ es => es) (fun _ _ _ _ => []) ∧
  AccessIssues .sc (fun _ => []) (fun f _ cr => f.scope < 3 ∨ cr.task ≠ .versioned)
    (fun f _ _ _ => ⟨false, true, szBytes f.sz, 8, 0, Need.atomic, none, false⟩)
    (fun f l => groupKeys f.kd f.d.toNat l 1) (fun f w l => f.rc w (szGroup f.sz) l) (fun _ _ _ => 0) (fun _ _ es => es) (fun _ _ _ _ => []) ∧
  AccessIssues .red (fun f => vNamed f.kd f.d f.agrp ++ f.memNamed 2) (fun _ _ _ => True)
    (fun f s cr _ => ⟨false, f.uniform, atBytes f.aty, atBytes f.aty, atBytes f.aty, Need.atomic, none, s.walkForbids cr f.aop f.aty⟩)
    (fun _ _ => []) (fun f w l => f.rD w f.agrp l) (fun _ _ _ => 0) (fun f w es => combine f.aop f.aty w.inChunk es)
    (fun _ _ _ _ => []) ∧
  AccessIssues .gath (fun f => vNamed f.kd f.d (szGroup f.sz) ++ f.memNamed 2) (fun _ _ _ => True)
    (fun f _ _ w => ⟨false, f.uniform, szBytes f.sz, szBytes f.sz, 0, Need.read, some (w.s f.c.toNat).toNat, false⟩)
    (fun f l => groupKeys f.kd f.d.toNat l (szGroup f.sz)) (fun _ _ _ => 0) (fun _ _ _ => 0)
    (fun _ _ es => es.flatMap Elem.halves) (fun _ _ _ _ => []) ∧
  AccessIssues .scat (fun f => vNamed f.kd f.d (if f.aop = 0 then szGroup f.sz else f.agrp) ++ f.memNamed 2) (fun _ _ _ => True)
    (fun f s cr w => ⟨false, f.uniform, if f.aop = 0 then szBytes f.sz else atBytes f.aty,
      if f.aop = 0 then szBytes f.sz else atBytes f.aty, 0, if f.aop = 0 then Need.write else Need.atomic,
      some (w.s f.c.toNat).toNat, decide (f.aop ≠ 0) && s.walkForbids cr f.aop f.aty⟩)
    (fun _ _ => [])
    (fun f w l => f.rD w (if f.aop = 0 then szGroup f.sz else f.agrp) l % 2 ^ (8 * (if f.aop = 0 then szBytes f.sz else atBytes f.aty)))
    (fun _ _ _ => 0) (fun f w es => if f.aop = 0 then es.flatMap Elem.halves else combine f.aop f.aty w.inChunk es)
    (fun _ _ _ _ => [])

/-- R228 to R231: CONFL's result is formed from the keys at issue; a fence fixes at issue what it waits for, at its scope;
PREF takes every lane whose address passes the checks, and no other, and traps for none; STW waits for its release half. -/
def Obligations.OrderingInstructionsIssue : Prop :=
  (∀ (f : Fields) s q cr w act, IssuesLanes s (.confl f) f.pn f.pred (vNamed f.kd f.d 1 ++ vNamed f.ka f.a (szGroup f.sz)) q cr w act →
    Issued (.confl f) s s q w { newOp s q cr w (.confl f) act with
      elems := (lanesOf act).map (fun l => ⟨l, laneBit l, 0, 0, 0, conflBits act (fun k => f.ra w (szGroup f.sz) k) l, 0,
        [vKey f.d.toNat l], none, .pending⟩)
      dsts := (lanesOf act).map (fun l => vKey f.d.toNat l) }) ∧
  (∀ (f : Fields) s q cr w act, IssuesLanes s (.fence f) f.pn f.pred [] q cr w act →
    Issued (.fence f) s s q w { newOp s q cr w (.fence f) act with waits := s.releaseList q.crew q.wave act f.scope }) ∧
  (∀ (f : Fields) s q cr w act, IssuesLanes s (.fencew f) f.pn f.pred [] q cr w act →
    Issued (.fencew f) s s q w { newOp s q cr w (.fencew f) act with waits := s.releaseList q.crew q.wave act 0 }) ∧
  (∀ (f : Fields) s q cr w act, IssuesLanes s (.pref f) f.pn f.pred (f.memNamed 2) q cr w act →
    let form : Machine.Form := ⟨false, f.ka && (f.kb || f.b == 0), 1, 1, 256, Need.read, none, false⟩
    Issued (.pref f) s (s.dropLackingLanes cr w f form act) q w { newOp s q cr w (.pref f) act with
      elems := (w.shares (f.ka && (f.kb || f.b == 0)) act).filterMap (fun x =>
        (s.checkLane cr w f form x.1).toOption.map
          (fun a => ⟨x.1, x.2, a.1, a.2, 1, 0, 0, [], none, .pending⟩))
      dsts := [] }) ∧
  AccessIssues .stw (fun f => vNamed f.kd f.d (szGroup f.sz) ++ f.memNamed 2) (fun _ _ cr => cr.task ≠ .versioned)
    (fun f _ _ _ => Machine.Fields.devForm f f.uniform Need.write) (fun _ _ => []) (fun f w l => f.rD w (szGroup f.sz) l)
    (fun _ _ _ => 0) (fun _ _ es => es) (fun f s q act => s.releaseList q.crew q.wave act f.scope)

/-- R218: the checks of one lane in their order: element bounds, then protection, then alignment, then translation. -/
def Obligations.AccessCheckOrder : Prop :=
  ∀ (s : State) cr w (f : Fields) (m : Machine.Form) l,
    let a := f.addr w l (if m.spad then 1 else 2) m.unit
    let out := ∃ b, m.bound = some b ∧ (f.index w l < 0 ∨ (b : Int) ≤ f.index w l)
    (out → s.checkLane cr w f m l = .error (Cause.elementBounds, a)) ∧
    (¬out → m.spad = true → cr.spadBytes ≤ a → s.checkLane cr w f m l = .error (Cause.protection, a)) ∧
    (¬out → m.spad = true → a < cr.spadBytes → a % m.align ≠ 0 → s.checkLane cr w f m l = .error (Cause.misaligned, a)) ∧
    (¬out → m.spad = true → a < cr.spadBytes → a % m.align = 0 → s.checkLane cr w f m l = .ok (a, 0)) ∧
    (¬out → m.spad = false → (2 ^ 56 ≤ a ∨ m.forbidden = true) → s.checkLane cr w f m l = .error (Cause.protection, a)) ∧
    (¬out → m.spad = false → a < 2 ^ 56 → m.forbidden = false → a % m.align ≠ 0 →
      s.checkLane cr w f m l = .error (Cause.misaligned, a)) ∧
    (¬out → m.spad = false → a < 2 ^ 56 → m.forbidden = false → a % m.align = 0 → ∀ pa,
      s.translate (dieOf cr.core) cr.ctx a m.need = .ok pa → s.checkLane cr w f m l = .ok (a, pa)) ∧
    (¬out → m.spad = false → a < 2 ^ 56 → m.forbidden = false → a % m.align = 0 → ∀ c,
      s.translate (dieOf cr.core) cr.ctx a m.need = .error c → s.checkLane cr w f m l = .error (c, a))

/-- R285 to R293: a tile instruction of a whole wave whose tile is bound, and whose operands pass the checks of its entry,
issues its operation on that tile with its operands captured. -/
def Obligations.MatrixProductsIssue : Prop :=
  ∀ (f : Fields) s q cr w p, (w.strand q.strand).mask = allLanes → w.tiles.find? f.d.toNat = some p →
    let blk := (List.range 8).map (fun n => w.s (f.c.toNat + n))
    let op (i : Instr) : Op := { newOp s q cr w i allLanes with
      av := sVal w f.a.toNat 1, bv := sVal w f.b.toNat 1, blk := blk, phys := p }
    let ok (k : MxKind) : Prop := mxCheck k cr.spadBytes (s.tile cr.core p).int (sVal w f.a.toNat 1) (sVal w f.b.toNat 1) blk = none
    (IssuesWave s (.mma f) [] q cr w → ok .dense → Issued (.mma f) s s q w (op (.mma f))) ∧
    (IssuesWave s (.mmas f) [] q cr w → ok .sparse → Issued (.mmas f) s s q w (op (.mmas f))) ∧
    (IssuesWave s (.mmsm f) [] q cr w → ok .softmax → Issued (.mmsm f) s s q w (op (.mmsm f))) ∧
    (IssuesWave s (.aresc f) [] q cr w → (s.tile cr.core p).int = false → sVal w f.a.toNat 1 + 512 ≤ cr.spadBytes →
      sVal w f.a.toNat 1 % 4 = 0 →
      Issued (.aresc f) s s q w { newOp s q cr w (.aresc f) allLanes with av := sVal w f.a.toNat 1, phys := p }) ∧
    (IssuesWave s (.mmask f) [] q cr w → ((s.tile cr.core p).int = false ∨ f.m 0 = true) →
      sVal w f.a.toNat 1 + 2048 ≤ cr.spadBytes → sVal w f.a.toNat 1 % 16 = 0 →
      Issued (.mmask f) s s q w { newOp s q cr w (.mmask f) allLanes with av := sVal w f.a.toNat 1, phys := p }) ∧
    (IssuesWave s (.ast f) [] q cr w → (f.mb 0 3 == 1) = (s.tile cr.core p).int → ∀ es,
      s.rowsCheck cr Need.write (f.m 5) (sVal w f.a.toNat (if f.m 5 then 1 else 2)) (sVal w f.b.toNat 1) (astBytes (f.mb 0 3)) = .ok es →
      Issued (.ast f) s s q w { newOp s q cr w (.ast f) allLanes with elems := es, phys := p }) ∧
    (IssuesWave s (.azero f) [] q cr w → f.mb 0 2 = 2 →
      ∃ t, exec (.azero f) s = .next t ∧ Launched s { t with cores := s.cores } q
        { flagUp w (newOp s q cr w (.azero f) allLanes).flag with tiles := w.tiles.filter (fun e => !(e.2 == p)) }
        { newOp s q cr w (.azero f) allLanes with phys := p } ∧ Released s t q cr.core true p)

/-- R280, R294 and R295: AZERO and ALD bind an unbound tile name to a free physical tile and keep a bound one, and issue their operation
on it. Four points are the model's choice: that the free tile is the lowest (log 93), that its elements and side words are cleared at the
binding (log 24), also where ALD binds it, and that an instruction whose unbound name finds every tile in use waits for one (log 92).
R296: MSIDE issues with the value to set read at issue, or with the pair it will write. -/
def Obligations.TileBindingIssues : Prop :=
  (∀ (f : Fields) s q cr w, (w.strand q.strand).mask = allLanes →
    (IssuesWave s (.azero f) [] q cr w → f.mb 0 2 ≠ 2 → s.tileRoom cr.core w f.d.toNat = true →
      ∃ t x, (s.bindTile q.crew q.wave f.d.toNat (f.mb 0 2 == 1)).1.wave? q.crew q.wave = some x ∧ exec (.azero f) s = .next t ∧
        Launched (s.bindTile q.crew q.wave f.d.toNat (f.mb 0 2 == 1)).1 t q (flagUp x (newOp s q cr w (.azero f) allLanes).flag)
          { newOp s q cr w (.azero f) allLanes with phys := (s.bindTile q.crew q.wave f.d.toNat (f.mb 0 2 == 1)).2 }) ∧
    (IssuesWave s (.ald f) [] q cr w → ∀ es,
      s.rowsCheck cr Need.read (f.m 5) (sVal w f.a.toNat (if f.m 5 then 1 else 2)) (sVal w f.b.toNat 1) 4 = .ok es →
      s.tileRoom cr.core w f.d.toNat = true → ∃ t x, (s.bindTile q.crew q.wave f.d.toNat (f.m 0)).1.wave? q.crew q.wave = some x ∧ exec (.ald f) s = .next t ∧
        Launched (s.bindTile q.crew q.wave f.d.toNat (f.m 0)).1 t q (flagUp x (newOp s q cr w (.ald f) allLanes).flag)
          { newOp s q cr w (.ald f) allLanes with elems := es, phys := (s.bindTile q.crew q.wave f.d.toNat (f.m 0)).2 }) ∧
    (∀ int : Bool, s.curWave = some (q, cr, w) → w.tiles.find? f.d.toNat = none →
      (s.bindTile q.crew q.wave f.d.toNat int).2 = (s.core cr.core).tiles.freeKey ∧
      (s.bindTile q.crew q.wave f.d.toNat int).1.tile cr.core (s.core cr.core).tiles.freeKey = ⟨int, [], [], true, []⟩ ∧
      (s.bindTile q.crew q.wave f.d.toNat int).1.wave? q.crew q.wave =
        some { w with tiles := w.tiles.put f.d.toNat (s.core cr.core).tiles.freeKey }) ∧
    (∀ p, s.curWave = some (q, cr, w) → w.tiles.find? f.d.toNat = some p → ∀ int : Bool,
      (s.bindTile q.crew q.wave f.d.toNat int).2 = p ∧
      (s.bindTile q.crew q.wave f.d.toNat int).1.wave? q.crew q.wave = some w) ∧
    (s.tileRoom cr.core w f.d.toNat = true ↔
      (w.tiles.find? f.d.toNat).isSome = true ∨ (s.core cr.core).tiles.length < Config.tiles) ∧
    (IssuesWave s (.azero f) [] q cr w → f.mb 0 2 ≠ 2 → s.tileRoom cr.core w f.d.toNat = false → exec (.azero f) s = .next s.retry)) ∧
  (∀ (f : Fields) s q cr w p, IssuesWave s (.mside f) [] q cr w → (w.strand q.strand).mask = allLanes →
    w.tiles.find? f.a.toNat = some p →
    Issued (.mside f) s s q w { newOp s q cr w (.mside f) allLanes with
      phys := p
      dv := if f.m 5 = true then sVal w f.d.toNat 2 else 0
      dsts := if f.m 5 = true then [] else [sKey f.d.toNat, sKey (f.d.toNat + 1)] })

/-- R266 to R270 and R275: copies issue with their operands captured, a free entry of the core's copy queue and their
future; RCFENCE and KICK fix at issue what they wait for at pod. -/
def Obligations.CopiesIssue : Prop :=
  ∀ (f : Fields) s q cr w,
    let m := (w.strand q.strand).mask
    let dDev := f.hint ≠ 0
    let aDev := f.hint ≠ 1
    let entry := s.freeEntry (fun op => isCopy op.instr && (match s.crew? op.crew with | some c => c.core == cr.core | none => false))
    let scope := if f.hint = 0 then 1 else 5
    let op (i : Instr) (na nd nb : Nat) : Op := { newOp s q cr w i m with
      av := sVal w f.a.toNat na, dv := sVal w f.d.toNat nd, bv := sVal w f.b.toNat (min nb 2)
      blk := (List.range nb).map (fun k => w.s (f.b.toNat + k))
      cv := if f.kc = true then (w.s f.c.toNat).toNat else 0
      entry := entry }
    let count := (w.s f.b.toNat).toNat
    let d := sVal w f.d.toNat (if dDev then 2 else 1)
    let a := sVal w f.a.toNat (if aDev then 2 else 1)
    (IssuesWave s (.cpy f) [] q cr w → 16 ≤ count → count ≤ 2 ^ 24 → count % 16 = 0 →
      (if dDev then d < 2 ^ 56 else d + count ≤ cr.spadBytes) → (if aDev then a < 2 ^ 56 else a + count ≤ cr.spadBytes) →
      d % 16 = 0 → a % 16 = 0 →
      IssuedH (.cpy f) f s q w (op (.cpy f) (if aDev then 2 else 1) (if dDev then 2 else 1) 1) scope) ∧
    (IssuesWave s (.cpyt f) [] q cr w → sVal w f.a.toNat 2 < 2 ^ 56 → sVal w f.a.toNat 2 % 64 = 0 →
      IssuedH (.cpyt f) f s q w (op (.cpyt f) 2 1 5) scope) ∧
    (IssuesWave s (.cpyg f) [] q cr w → sVal w f.a.toNat 2 < 2 ^ 56 → sVal w f.a.toNat 2 % 64 = 0 →
      IssuedH (.cpyg f) f s q w (op (.cpyg f) 2 1 2) scope) ∧
    (IssuesWave s (.rcfence f) [] q cr w → Issued (.rcfence f) s s q w { newOp s q cr w (.rcfence f) m with
      av := if f.m 0 = true then sVal w f.a.toNat 2 else 0, waits := s.releaseList q.crew q.wave m 3 }) ∧
    (IssuesWave s (.kick f) [] q cr w → Issued (.kick f) s s q w { newOp s q cr w (.kick f) m with
      av := sVal w f.a.toNat 1, waits := s.releaseList q.crew q.wave m 3 })

/-- R308 to R317: the Carillon's instructions, on a whole wave where their entries ask for it, issue with their operands
captured. The elements that CENUM and CPRED will write are the carries of their E lanes; a CENUM of the crew takes none from what is in
flight, and until the waves have come may write any register of a block the wave holds. -/
def Obligations.CarillonIssues : Prop :=
  ∀ (f : Fields) s q cr w,
    let m := (w.strand q.strand).mask
    let n := f.mb 0 3 + 1
    let carry (e : Nat) := (List.range (min e 128)).flatMap (fun l => groupKeys false f.a.toNat l n)
    let k (j : Nat) : Nat := (w.s (f.b.toNat + j)).toNat
    let base := sVal w f.a.toNat 1
    (IssuesWave s (.cenum f) [] q cr w → m = allLanes → w.sm.find? f.d.toNat = none → w.inChunk = false →
      f.m 3 = false → w.holds f.a.toNat n = true → badEntry (k 0) (k 1) = false →
      Issued (.cenum f) s s q w { newOp s q cr w (.cenum f) allLanes with
        bv := k 0, av := k 1, cv := f.a.toNat, count := n, dsts := if 128 < k 0 then [] else carry (k 0) }) ∧
    (IssuesWave s (.cenum f) [] q cr w → m = allLanes → w.sm.find? f.d.toNat = none → w.inChunk = false → f.m 3 = true →
      ∃ t, Launched s t q (flagUp w (newOp s q cr w (.cenum f) allLanes).flag) { newOp s q cr w (.cenum f) allLanes with
          bv := k 0, av := k 1, cv := f.a.toNat, count := n, dsts := [] } ∧
        exec (.cenum f) s = .next (t.modOp s.next (fun op => { op with
          dsts := ((List.range 256).filter (fun r => w.holds r 1)).flatMap (fun r => (List.range 128).map (vKey r)) }))) ∧
    (IssuesWave s (.cpred f) [] q cr w → m = allLanes → w.sm.find? f.d.toNat = none → w.inChunk = false →
      w.holds f.a.toNat n = true → 1 ≤ k 0 → k 0 ≤ 128 →
      Issued (.cpred f) s s q w { newOp s q cr w (.cpred f) allLanes with
        bv := k 0, cv := f.a.toNat, count := n, vcap := captureV w allLanes f.a.toNat 1 0, dsts := carry (k 0) }) ∧
    (IssuesWave s (.cmerge f) [] q cr w → m = allLanes → w.inChunk = true →
      Issued (.cmerge f) s s q w { newOp s q cr w (.cmerge f) allLanes with dsts := [sKey f.d.toNat] }) ∧
    (IssuesWave s (.cexit f) [] q cr w → m = allLanes → ∀ ch, w.sm.find? f.d.toNat = some ch →
      (ch.st = .opened ∨ (ch.st = .overflowed ∧ ch.crewMode = true)) →
      Issued (.cexit f) s s q w (newOp s q cr w (.cexit f) allLanes)) ∧
    (IssuesWave s (.cseal f) [] q cr w → ∀ ch, w.sm.find? f.d.toNat = some ch → ch.st = .exited → sVal w f.b.toNat 1 ≤ 65535 →
      let at_ := base + 1024 * (if ch.crewMode = true then ch.m * sVal w f.b.toNat 1 + ch.q else sVal w f.b.toNat 1)
      at_ + 1024 ≤ cr.spadBytes → base % 8 = 0 →
      Issued (.cseal f) s s q w { newOp s q cr w (.cseal f) m with av := at_ }) ∧
    (IssuesWave s (.ccomp f) [] q cr w → tableCheck cr.spadBytes base (k 0) (k 1) (k 2) (some (sVal w f.d.toNat 1)) = none →
      Issued (.ccomp f) s s q w { newOp s q cr w (.ccomp f) m with
        av := base, dv := sVal w f.d.toNat 1, off := k 0, len := k 1, count := k 2 }) ∧
    (IssuesWave s (.cres f) [] q cr w → tableCheck cr.spadBytes base (k 1) (k 2) (k 3) none = none →
      Issued (.cres f) s s q w { newOp s q cr w (.cres f) m with
        av := base, cv := k 0 % 2 ^ 16, off := k 1, len := k 2, count := k 3, dsts := [sKey f.d.toNat, sKey (f.d.toNat + 1)] }) ∧
    (IssuesWave s (.cabort f) [] q cr w → f.m 0 = true → tableCheck cr.spadBytes base (k 0) (k 1) (k 2) none = none →
      Issued (.cabort f) s s q w { newOp s q cr w (.cabort f) m with av := base, off := k 0, len := k 1, count := k 2 }) ∧
    (IssuesWave s (.cabort f) [] q cr w → f.m 0 = false → m = allLanes → (w.sm.find? f.d.toNat).isSome = true →
      Issued (.cabort f) s s q w (newOp s q cr w (.cabort f) allLanes)) ∧
    (IssuesWave s (.acomp f) [(f.a.toNat, 4), (f.b.toNat, 4), (f.d.toNat, 4)] q cr w → f.m 0 = false → m = allLanes →
      Issued (.acomp f) s s q w { newOp s q cr w (.acomp f) allLanes with
        vcap := captureV w allLanes f.a.toNat 4 0 ++ captureV w allLanes f.b.toNat 4 4
        dsts := (List.range 128).flatMap (fun l => groupKeys false f.d.toNat l 4) }) ∧
    (∀ p, IssuesWave s (.acomp f) [] q cr w → f.m 0 = true → m = allLanes → w.tiles.find? f.d.toNat = some p →
      (s.tile cr.core p).int = false →
      (∀ x ∈ [(0, 32768, 32), (1, 32768, 32), (2, 256, 32), (3, 512, 4)],
        (w.s (f.a.toNat + x.1)).toNat + x.2.1 ≤ cr.spadBytes ∧ (w.s (f.a.toNat + x.1)).toNat % x.2.2 = 0) →
      Issued (.acomp f) s s q w { newOp s q cr w (.acomp f) allLanes with
        phys := p, blk := (List.range 4).map (fun k => w.s (f.a.toNat + k)) })

/-- R326 to R332: the expansion instructions whose registers are bound, of the KIND asked for, issue with descriptors and lane
values read at issue; XORD sets the order register.
R318 and R327: XCLR.mp and XCLR.loc bind the name and write the slot: KIND 1 or 2, ORD 0, the centre and radius from the four s
registers; one whose unbound name finds all 256 slots in use waits for one (the model's choice, log 92). -/
def Obligations.ExpansionIssues : Prop :=
  (∀ (f : Fields) s q cr w,
    let m := (w.strand q.strand).mask
    (IssuesWave s (.xord f) [] q cr w → (w.s f.a.toNat).toNat ≤ 15 →
      ∃ t, exec (.xord f) s = .next t ∧ Launched s t q
        { flagUp w (newOp s q cr w (.xord f) m).flag with xo := (w.s f.a.toNat).toNat } (newOp s q cr w (.xord f) m)) ∧
    (∀ g : ImmFields, IssuesWave s (.xordImm g) [] q cr w →
      ∃ t, exec (.xordImm g) s = .next t ∧ Launched s t q
        { flagUp w (newOp s q cr w (.xordImm g) m).flag with xo := g.imm.toNat } (newOp s q cr w (.xordImm g) m)) ∧
    (IssuesWave s (.xclr f) [] q cr w → f.mb 0 2 = 2 → ∀ ps, s.expCheck q cr w [⟨f.d.toNat, 0⟩] = .ok ps →
      ∃ t, exec (.xclr f) s = .next t ∧ Launched s { t with cores := s.cores } q
        { flagUp w (newOp s q cr w (.xclr f) allLanes).flag with exps := w.exps.filter (fun e => !(e.2 == ps.getD 0 0)) }
        (s.expOp q cr w (.xclr f) allLanes (ps.getD 0 0) (ps.getD 0 0)) ∧ Released s t q cr.core false (ps.getD 0 0)) ∧
    (∀ act, IssuesLanes s (.xform f) f.pn f.pred [] q cr w act → ∀ ps, s.expCheck q cr w [⟨f.d.toNat, 1⟩] = .ok ps →
      w.holds f.a.toNat 4 = true →
      Issued (.xform f) s s q w { s.expOp q cr w (.xform f) act (ps.getD 0 0) (ps.getD 0 0) with
        vcap := captureV w act f.a.toNat 4 0 }) ∧
    (IssuesWave s (.xshift f) [] q cr w → ∀ ps, s.expCheck q cr w [⟨f.d.toNat, 1⟩, ⟨f.a.toNat, 1⟩] = .ok ps →
      Issued (.xshift f) s s q w (s.expOp q cr w (.xshift f) m (ps.getD 0 0) (ps.getD 1 0))) ∧
    (IssuesWave s (.xm2l f) [] q cr w → ∀ ps, s.expCheck q cr w [⟨f.d.toNat, 2⟩, ⟨f.a.toNat, 1⟩] = .ok ps →
      Issued (.xm2l f) s s q w (s.expOp q cr w (.xm2l f) m (ps.getD 0 0) (ps.getD 1 0))) ∧
    (IssuesWave s (.xlsh f) [] q cr w → ∀ ps, s.expCheck q cr w [⟨f.d.toNat, 2⟩, ⟨f.a.toNat, 2⟩] = .ok ps →
      Issued (.xlsh f) s s q w (s.expOp q cr w (.xlsh f) m (ps.getD 0 0) (ps.getD 1 0))) ∧
    (∀ act, IssuesLanes s (.xeval f) f.pn f.pred [] q cr w act → ∀ ps, s.expCheck q cr w [⟨f.a.toNat, 0⟩] = .ok ps →
      ((s.exp cr.core (ps.getD 0 0)).kind = 0 → exec (.xeval f) s = .next (s.trapHdr Cause.arithmeticCheck)) ∧
      ((s.exp cr.core (ps.getD 0 0)).kind ≠ 0 → w.holds f.d.toNat 4 = true → w.holds f.b.toNat 4 = true →
      Issued (.xeval f) s s q w { s.expOp q cr w (.xeval f) act (ps.getD 0 0) (ps.getD 0 0) with
        vcap := captureV w act f.b.toNat 4 0 ++ captureV w act f.d.toNat 4 4
        dsts := (lanesOf act).flatMap (fun l => groupKeys false f.d.toNat l 4) })) ∧
    (∀ act, IssuesLanes s (.xadm f) f.pn f.pred [(f.b.toNat, 4)] q cr w act → ∀ ps,
      s.expCheck q cr w [⟨f.a.toNat, 0⟩] = .ok ps →
      Issued (.xadm f) s s q w { s.expOp q cr w (.xadm f) act (ps.getD 0 0) (ps.getD 0 0) with
        vcap := captureV w act f.b.toNat 4 0, av := (w.s f.c.toNat).toNat, dsts := (lanesOf act).map (pKey f.d.toNat) }) ∧
    (IssuesWave s (.xst f) [] q cr w → ∀ ps, s.expCheck q cr w [⟨f.d.toNat, 0⟩] = .ok ps → ∀ es,
      s.recordCheck cr Need.write (f.m 5) (sVal w f.a.toNat (if f.m 5 then 1 else 2))
        (32 + 4 * ((s.exp cr.core (ps.getD 0 0)).ord + 1) ^ 2) = .ok es →
      Issued (.xst f) s s q w { s.expOp q cr w (.xst f) allLanes (ps.getD 0 0) (ps.getD 0 0) with
        elems := es, av := sVal w f.a.toNat (if f.m 5 then 1 else 2), count := (s.exp cr.core (ps.getD 0 0)).ord }) ∧
    (IssuesWave s (.xld f) [] q cr w → ∀ es,
      s.recordCheck cr Need.read (f.m 5) (sVal w f.a.toNat (if f.m 5 then 1 else 2)) (32 + 4 * (w.xo + 1) ^ 2) = .ok es →
      s.expRoom cr.core w f.d.toNat = true → ∃ t x, (s.bindExp q.crew q.wave f.d.toNat).1.wave? q.crew q.wave = some x ∧ exec (.xld f) s = .next t ∧
        Launched (s.bindExp q.crew q.wave f.d.toNat).1 t q (flagUp x (newOp s q cr w (.xld f) allLanes).flag)
          { newOp s q cr w (.xld f) allLanes with
            elems := es, av := sVal w f.a.toNat (if f.m 5 then 1 else 2)
            phys := (s.bindExp q.crew q.wave f.d.toNat).2, phys2 := (s.bindExp q.crew q.wave f.d.toNat).2 })) ∧
  (∀ (f : Fields) s q cr w, IssuesWave s (.xclr f) [] q cr w → f.mb 0 2 ≠ 2 →
    (s.expRoom cr.core w f.d.toNat = true ↔
      (w.exps.find? f.d.toNat).isSome = true ∨ (s.core cr.core).exps.length < Config.expSlots) ∧
    (s.expRoom cr.core w f.d.toNat = false → exec (.xclr f) s = .next s.retry) ∧
    (s.expRoom cr.core w f.d.toNat = true → (∀ p, w.exps.find? f.d.toNat = some p → ((s.core cr.core).exps.find? p).isSome = true) →
    let b := s.bindExp q.crew q.wave f.d.toNat
    let s1 := b.1.modExp cr.core b.2 (fun e => clearedExp e (f.mb 0 2 + 1) ((List.range 4).map (fun n => w.s (f.a.toNat + n))))
    ∃ t x, s1.wave? q.crew q.wave = some x ∧ exec (.xclr f) s = .next t ∧
      Launched s1 t q (flagUp x (newOp s q cr w (.xclr f) allLanes).flag)
        { s1.expOp q cr w (.xclr f) allLanes b.2 b.2 with blk := (List.range 4).map (fun n => w.s (f.a.toNat + n)) } ∧
      (t.exp cr.core b.2).kind = f.mb 0 2 + 1 ∧ (t.exp cr.core b.2).ord = 0 ∧
      (t.exp cr.core b.2).cx = w.s f.a.toNat ∧ (t.exp cr.core b.2).cy = w.s (f.a.toNat + 1) ∧
      (t.exp cr.core b.2).cz = w.s (f.a.toNat + 2) ∧ (t.exp cr.core b.2).rad = w.s (f.a.toNat + 3)))

/-- R339 to R343, R350 to R352: token-merging and beam operations whose counts, ranges and alignments pass issue with their
operands captured and their future; PROOT of a task that is not versioned. That PROOT.cmt asks no alignment of its check list's
address (the 1 beside it) is the model's choice (log 42). -/
def Obligations.TokenAndBeamIssue : Prop :=
  ∀ (f : Fields) s q cr w,
    let p (k : Nat) : Nat := (w.s (f.b.toNat + k)).toNat
    let v (r n : Nat) : Nat := sVal w r n
    let m := (w.strand q.strand).mask
    let g (i : Instr) (nd nb : Nat) : Op := { newOp s q cr w i m with
      av := v f.a.toNat 2, dv := v f.d.toNat nd, bv := v f.b.toNat 2
      blk := (List.range nb).map (fun k => w.s (f.b.toNat + k))
      entry := s.freeEntry (fun op => isToken op.instr && (match s.crew? op.crew with | some c => podOf c.core == podOf cr.core | none => false)) }
    let b (i : Instr) (nb : Nat) : Op := { newOp s q cr w i m with
      av := v f.a.toNat 2, dv := v f.d.toNat 2, bv := v f.b.toNat 2
      blk := (List.range nb).map (fun k => w.s (f.b.toNat + k)), entry := s.freeEntry (s.onBeamDie (dieOf cr.core)) }
    let fits (l : List (Nat × Nat)) : Prop := ∀ x ∈ l, x.1 < 2 ^ 56 ∧ x.1 % x.2 = 0
    (IssuesWave s (.tkmatch f) [] q cr w → 2 ≤ p 0 → p 0 ≤ 8192 → p 1 ≤ p 0 / 2 → 1 ≤ p 2 % 512 → p 2 % 512 ≤ 256 →
      p 2 / 512 % 128 = 0 → p 2 < 2 ^ 17 → pitchOk (p 3) (2 * (p 2 % 512)) = true → p 5 < 2 ^ 16 →
      fits [(v f.d.toNat 2, 64), (v f.a.toNat 2, 16)] → IssuedH (.tkmatch f) f s q w (g (.tkmatch f) 2 8) 5) ∧
    (IssuesWave s (.tkmerge f) [] q cr w → 1 ≤ p 2 → p 2 ≤ 4096 → pitchOk (p 3) (4 * p 2) = true →
      (v (f.b.toNat + 4) 2 = 0 ↔ v (f.b.toNat + 6) 2 = 0) →
      fits [(v f.d.toNat 2, 16), (v f.a.toNat 2, 16), (v f.b.toNat 2, 64), (v (f.b.toNat + 4) 2, 64), (v (f.b.toNat + 6) 2, 64)] →
      IssuedH (.tkmerge f) f s q w (g (.tkmerge f) 2 8) 5) ∧
    (IssuesWave s (.tkunmerge f) [] q cr w → 1 ≤ p 2 → p 2 ≤ 4096 → pitchOk (p 3) (4 * p 2) = true →
      pitchOk (p 4) (4 * p 2) = true → fits [(v f.d.toNat 2, 16), (v f.a.toNat 2, 16), (v f.b.toNat 2, 64)] →
      IssuedH (.tkunmerge f) f s q w (g (.tkunmerge f) 2 8) 5) ∧
    (IssuesWave s (.tksize f) [] q cr w → v f.d.toNat 1 + 512 ≤ cr.spadBytes → fits [(v f.a.toNat 2, 64), (v f.d.toNat 1, 4)] →
      IssuedH (.tksize f) f s q w (g (.tksize f) 1 4) 1) ∧
    (IssuesWave s (.beam f) [] q cr w → 1 ≤ p 0 → p 0 ≤ 64 → 1 ≤ p 1 → p 1 ≤ 2 ^ 20 → 1 ≤ p 2 → p 2 ≤ 64 → p 2 ≤ p 0 * p 1 →
      pitchOk (p 3) (4 * p 1) = true → fits [(v f.d.toNat 2, 8), (v f.a.toNat 2, 16)] →
      IssuedH (.beam f) f s q w (b (.beam f) 4) 5) ∧
    (IssuesWave s (.proot f) [] q cr w → cr.task ≠ .versioned → f.m 0 = true → p 2 ≤ 65536 →
      fits [(v f.d.toNat 2, 64), (v f.a.toNat 2, 16), (v f.b.toNat 2, 1)] → IssuedH (.proot f) f s q w (b (.proot f) 8) 5) ∧
    (IssuesWave s (.proot f) [] q cr w → cr.task ≠ .versioned → f.m 0 = false → 1 ≤ p 0 → p 0 ≤ 64 → 1 ≤ p 1 → p 1 ≤ 65536 →
      fits [(v f.d.toNat 2, 16), (v f.a.toNat 2, 16), (v (f.b.toNat + 2) 2, 32)] → IssuedH (.proot f) f s q w (b (.proot f) 8) 5)

/-- R155 to R157 and R145: BRA, BRX, RET and CALL part the strand's lanes by destination; a target that is misaligned or
outside the address space traps; CALL's active lanes keep the address of the next clause. -/
def Obligations.BranchesJump : Prop :=
  (∀ f : ImmFields, Branches (.bra f) f.pn f.pred [] (fun w _ => immTarget w f.imm) (fun _ _ _ s => s)) ∧
  (∀ f : Fields, Branches (.brx f) f.pn f.pred (vNamed f.ka f.a 2) (fun w l => f.ra w 2 l) (fun _ _ _ s => s)) ∧
  (∀ f : Fields, Branches (.ret f) f.pn f.pred (vNamed f.ka f.a 2) (fun w l => f.ra w 2 l) (fun _ _ _ s => s)) ∧
  (∀ f : ImmFields, Branches (.call f) f.pn f.pred (vNamed f.kd f.d 2) (fun w _ => immTarget w f.imm)
    (fun q w act s => s.writeRegs q.crew q.wave (laneWrites f.kd f.d.toNat 2 act (fun _ => (w.strand q.strand).pc)))) ∧
  (∀ (f : ImmFields) s q cr w act, IssuesLanes s (.call f) f.pn f.pred (vNamed f.kd f.d 2) q cr w act → f.d.toNat + 2 ≤ 256 →
    ∃ y, (s.writeRegs q.crew q.wave (laneWrites f.kd f.d.toNat 2 act (fun _ => (w.strand q.strand).pc))).wave? q.crew q.wave =
      some y ∧ RegsAfter w y f.kd f.d.toNat 2 act (fun _ => (w.strand q.strand).pc))

/-- R158 and R159: JOIN and JOINW wait at the clause that follows, where it carries a join tag; EXIT ends the active lanes,
and with a strand's last lane the strand, whose reserving load in flight reserves nothing, and with a wave's last lane the wave. -/
def Obligations.JoinsAndExit : Prop :=
  (∀ s q cr w hw i (m : JoinMember), s.curWave = some (q, cr, w) → w.chunkForbids i = false →
    s.walkHeld (dieOf cr.core) cr.ctx (w.strand q.strand).pc Need.fetch = false → ∀ s1,
    s1 = s.dropLacking (dieOf cr.core) cr.ctx (w.strand q.strand).pc Need.fetch →
    s1.fetchWord cr (w.strand q.strand).pc (s1.cachedClause cr (w.strand q.strand).pc).head? = .ok hw →
    (readHeader hw).jtag ≠ 0 →
    ((∃ f, i = .join f ∧ m = ⟨none, none⟩) ∨
      (∃ f, i = .joinw f ∧ m = ⟨some f.d.toNat, some (s.cycle + (w.s f.b.toNat).toNat)⟩) ∨
      (∃ f, i = .joinwImm f ∧ m = ⟨some f.d.toNat, some (s.cycle + f.imm.toNat)⟩)) →
    exec i s = .next (((m.d.elim s1 (fun d => s1.waitFor q.crew q.wave q.strand [sKey d])).modStrand q.crew q.wave q.strand (fun st =>
      { st with st := .waiting (.join (w.strand q.strand).pc (readHeader hw).jtag [m]), woken := false, expired := false, waitHdr := w.clauseAddr })).settleStrands
        q.crew q.wave q.strand w.clauseAddr)) ∧
  (∀ (f : Fields) s q cr w act, IssuesLanes s (.exit f) f.pn f.pred [] q cr w act →
    let st := w.strand q.strand
    let w1 := { w with lanes := w.lanes &&& ~~~act }
    let w2 := w1.modStrand q.strand (fun _ => Strand.unused)
    (st.mask &&& ~~~act ≠ 0 → ∃ t, exec (.exit f) s = .next t ∧
      t.wave? q.crew q.wave = some (w1.modStrand q.strand (fun st => { st with mask := st.mask &&& ~~~act })) ∧
      OnlyWave s t q.crew q.wave) ∧
    (st.mask &&& ~~~act = 0 → (∀ k ∈ w2.liveStrands, (w2.strand k).preArr = none) →
      exec (.exit f) s = .next (
        let s1 := (s.dropLr q.crew q.wave q.strand).modWave q.crew q.wave (fun _ => w2)
        if w.lanes &&& ~~~act = 0 then s1.endWave q.crew q.wave
        else s1.settleStrands q.crew q.wave q.strand w.clauseAddr)))

/-- R160, R161, R165, R68 to R70 and R248 to R250: NOP has no effect; YIELD lets another runnable strand go first; TRAP takes
the breakpoint trap; RBQRY, SYSR and HTEST write their registers; SYSW writes ENGQ for the handler; HMOV moves a handle; HCAN
cancels a copy or a token-merging or beam operation that its handle still names, and nothing else. -/
def Obligations.PlainControl : Prop :=
  (∀ f s q cr w, IssuesWave s (.nop f) [] q cr w → exec (.nop f) s = .next s) ∧
  (∀ f s q cr w, IssuesWave s (.yield f) [] q cr w → ∃ t x, exec (.yield f) s = .next t ∧
    t.wave? q.crew q.wave = some x ∧ StrandsOnly w x ∧ OnlyWave s t q.crew q.wave ∧
    x.yieldedStrand = some q.strand ∧ x.givenWay = some [] ∧
    ((∃ k < 4, k ≠ q.strand ∧ (w.strand k).runs = true) → (x.strand q.strand).st = .runnable ∧ (x.strand q.strand).age = 0)) ∧
  (∀ (f : ImmFields) s q cr w act, IssuesLanes s (.trap f) f.pn f.pred [] q cr w act →
    exec (.trap f) s = .next (s.trap q.crew q.wave q.strand Cause.breakpoint w.clauseAddr w.clauseCls)) ∧
  (∀ f s q cr w, IssuesWave s (.rbqry f) [] q cr w → ∃ t, exec (.rbqry f) s = .next t ∧
    WritesS s t q w [(f.d.toNat, BitVec.ofNat 32 ((w.seg.map (fun e => 2 ^ e.1)).sum + (s.segsFree cr.core).length * 2 ^ 16 +
      (s.core cr.core).rbq.length * 2 ^ 24))]) ∧
  (∀ f s q cr w, let n := if sreg64 f.num then 2 else 1
    IssuesWave s (.sysr f) (vNamed f.kd f.d n) q cr w → f.d.toNat + n ≤ 256 →
    (sregHandler f.num = false ∨ s.isHandler q cr = true) →
    ∃ t x, exec (.sysr f) s = .next t ∧ t.wave? q.crew q.wave = some x ∧ OnlyWave s t q.crew q.wave ∧
      if f.kd = true then ∀ r, x.s r = if f.d.toNat ≤ r ∧ r < f.d.toNat + n then groupWord (s.sreg q cr f.num 0) (r - f.d.toNat)
        else w.s r
      else RegsAfter w x false f.d.toNat n (w.active q.strand false 0) (fun l => s.sreg q cr f.num l)) ∧
  (∀ f s q cr w, IssuesWave s (.sysw f) [] q cr w → s.isHandler q cr = true →
    ∃ t, exec (.sysw f) s = .next t ∧ t.ctx cr.ctx = { s.ctx cr.ctx with engq := w.s f.a.toNat &&& 0xFFFFFFC0 } ∧ OnlyCtx s t cr.ctx) ∧
  (∀ f s q cr w, IssuesWave s (.htest f) [] q cr w → ∃ t, exec (.htest f) s = .next t ∧
    WritesS s t q w [(f.d.toNat, BitVec.ofNat 32 (w.handle f.a.toNat).code)]) ∧
  (∀ f s q cr w, IssuesWave s (.hmov f) [] q cr w →
    ∃ t x, exec (.hmov f) s = .next t ∧ t.wave? q.crew q.wave = some x ∧ OnlyWave s t q.crew q.wave ∧
      (∀ h, x.handle h = if h = f.d.toNat then w.handle f.a.toNat else if h = f.a.toNat then ⟨0, 0, 0⟩ else w.handle h) ∧
      { x with hd := w.hd, strands := w.strands } = w) ∧
  (∀ f s q cr w, IssuesWave s (.hcan f) [] q cr w →
    let h := w.handle f.a.toNat
    ((h.code ≠ 1 ∧ h.code ≠ 2) ∨ s.op? h.op = none → exec (.hcan f) s = .next s) ∧
    (h.code = 1 ∨ h.code = 2 → ∀ op, s.op? h.op = some op →
      (isCopy op.instr = true → exec (.hcan f) s = .next (s.cancelCopy h.op op)) ∧
      (isToken op.instr = true ∨ (∃ g, op.instr = .beam g) → exec (.hcan f) s = .next (s.endOp h.op 4)) ∧
      (isCopy op.instr = false → isToken op.instr = false → (∀ g, op.instr ≠ .beam g) → exec (.hcan f) s = .next s)))

/-- R163 and R164: RBACQ of blocks all held goes on, and otherwise queues and waits; RBREL unmaps the held blocks of its
range, whose registers then read 0 while every other register reads as before; results that operations in flight would still
write there are discarded, and a block's segment returns with the last of those operations. -/
def Obligations.RegisterBlocks : Prop :=
  (∀ f s q cr w, IssuesWave s (.rbacq f) [] q cr w →
    ((∀ b ∈ blockRange f, (w.seg.find? b).isSome = true) → exec (.rbacq f) s = .next s) ∧
    ((∃ b ∈ blockRange f, w.seg.find? b = none) → ∃ s1, OnlyCore s s1 cr.core ∧
      (s1.core cr.core).rbq = (s.core cr.core).rbq ++ [(q.crew, q.wave, q.strand)] ∧
      exec (.rbacq f) s = .next ((s1.enterWait q.crew q.wave q.strand (.rbacq (f.mb 4 4) (f.mb 0 4 + 1)) w.clauseAddr).settleStrands
        q.crew q.wave q.strand w.clauseAddr))) ∧
  (∀ f s q cr w, IssuesWave s (.rbrel f) [] q cr w →
    let held := (blockRange f).filter (fun b => (w.seg.find? b).isSome)
    let out (k : Nat) : Bool := held.any (fun b => inBlock b k)
    let writers (b : Nat) : List Nat :=
      (s.ops.filter (fun e => e.2.crew == q.crew && e.2.wave == q.wave && e.2.dsts.any (inBlock b))).map (·.1)
    ∃ t x, exec (.rbrel f) s = .next t ∧ t.wave? q.crew q.wave = some x ∧
      (∀ b, x.seg.find? b = if b ∈ blockRange f then none else w.seg.find? b) ∧
      (∀ r l, r < 256 → l < 128 → x.v r l = if r / 16 ∈ held then 0 else w.v r l) ∧
      x.segRet = w.segRet ++ held.filterMap (fun b => if writers b = [] then none else some ((w.seg.find? b).getD 0, writers b)) ∧
      (∀ o, t.op? o = (s.op? o).map (fun op => if op.crew = q.crew ∧ op.wave = q.wave then { op with dsts := op.dsts.filter (fun k => !out k) } else op)) ∧
      { x with seg := w.seg, vr := w.vr, segRet := w.segRet } = w ∧ { t with crews := s.crews, ops := s.ops } = s ∧
      SameMemory s t ∧ OtherWaves s t q.crew q.wave)

/-- R241 to R243: barrier instructions at an object that passes its checks (R233) and may be acted on (R234), outside a
versioned task where LVL asks for one that is not (an action at an object in device memory marks the strand's lanes, R93): BINIT writes COUNT; BARQ reads STATE and PHASE; BARA reads PHASE and
arrives; BAR and BARX arrive and wait; BARW waits.
R236: an arrival at an open barrier with arrivals outstanding counts PENDING down by one; the last one, with no bytes
outstanding, starts the next phase with PENDING at COUNT (an object in the scratchpad). -/
def Obligations.BarrierInstructions : Prop :=
  ((∀ (f : Fields) s q cr w o, IssuesWave s (.binit f) [] q cr w → (f.lvl < 3 ∨ cr.task ≠ .versioned) →
    s.barObj q cr w f.lvl (barAddr w f.a.toNat f.lvl) Need.atomic = .ok o → 0 < (w.s f.b.toNat).toNat →
    (w.s f.b.toNat).toNat < 2 ^ 31 → s.barFree o = true →
    exec (.binit f) s = .next (((marked s q o).barWrite q.crew (q.crew, q.wave, q.strand) o
      ⟨1, 0, 0, (w.s f.b.toNat).toNat, (w.s f.b.toNat).toNat⟩).breakWaiters o)) ∧
  (∀ (f : Fields) s q cr w o, IssuesWave s (.barq f) [] q cr w →
    s.barObj q cr w f.lvl (barAddr w f.a.toNat f.lvl) Need.read = .ok o → s.barFree o = true →
    (s.barRead q.crew o).state = 1 ∨ (s.barRead q.crew o).state = 2 →
    ∃ t x, exec (.barq f) s = .next t ∧ (marked s q o).wave? q.crew q.wave = some x ∧ { x with marks := w.marks } = w ∧
      WritesS (marked s q o) t q x
        [(f.d.toNat, BitVec.ofNat 32 ((s.barRead q.crew o).state * 2 ^ 30 + (s.barRead q.crew o).phase))]) ∧
  (∀ (f : Fields) s q cr w o, IssuesWave s (.bara f) [] q cr w → (f.lvl < 3 ∨ cr.task ≠ .versioned) →
    s.barObj q cr w f.lvl (barAddr w f.a.toNat f.lvl) Need.atomic = .ok o → (w.strand q.strand).mask = w.lanes →
    (w.strand q.strand).rel = none → s.releaseList q.crew q.wave allLanes (s.barScope cr f.lvl) = [] →
    s.barFree o = true → (s.barRead q.crew o).state = 1 →
    ∃ s1, s1 = marked (s.modCurStrand (fun st => { st with rel := none })) q o ∧
    exec (.bara f) s = .next ((s1.writeRegs q.crew q.wave
      [(sKey f.d.toNat, BitVec.ofNat 32 (s.barRead q.crew o).phase)]).arrive q o (s.barRead q.crew o) 0)) ∧
  (∀ s q cr w o i lvl a n, s.curWave = some (q, cr, w) → w.chunkForbids i = false → (lvl < 3 ∨ cr.task ≠ .versioned) →
    ((∃ f, i = .bar f ∧ lvl = f.lvl ∧ a = f.a ∧ n = 0) ∨
      (∃ f, i = .barx f ∧ lvl = 0 ∧ a = f.a ∧ n = (w.s f.b.toNat).toNat) ∨
      (∃ f, i = .barxImm f ∧ lvl = 0 ∧ a = f.a ∧ n = f.imm.toNat)) → n < 2 ^ 31 →
    s.barObj q cr w lvl (barAddr w a.toNat lvl) Need.atomic = .ok o → (w.strand q.strand).mask = w.lanes →
    (w.strand q.strand).rel = none → s.releaseList q.crew q.wave allLanes (s.barScope cr lvl) = [] →
    s.barFree o = true → (s.barRead q.crew o).state = 1 →
    ∃ s1, s1 = marked (s.modCurStrand (fun st => { st with rel := none })) q o ∧
    exec i s = .next ((s1.arrive q o (s.barRead q.crew o) n).waitPhase q o (s.barScope cr lvl) (s.barRead q.crew o).phase)) ∧
  (∀ (f : Fields) s q cr w o, IssuesWave s (.barw f) [] q cr w →
    s.barObj q cr w f.lvl (barAddr w f.a.toNat f.lvl) Need.read = .ok o → (w.strand q.strand).mask = w.lanes →
    s.barFree o = true → (s.barRead q.crew o).state = 1 → (f.lvl < 3 ∨ cr.task ≠ .versioned) →
    exec (.barw f) s = .next ((marked s q o).waitPhase q o (s.barScope cr f.lvl) ((w.s f.b.toNat).toNat % 2 ^ 30)))) ∧
  (∀ (s : State) (q : Cursor) cr a (b : Bar), s.crew? q.crew = some cr → b.state = 1 → b.phase < 2 ^ 30 → b.pending < 2 ^ 31 →
    b.count < 2 ^ 31 → -(2 ^ 31) ≤ b.bytes → b.bytes < 2 ^ 31 →
    (1 < b.pending ∨ (b.pending = 1 ∧ b.bytes ≠ 0) →
      (s.arrive q (.scratch q.crew a) b 0).barRead q.crew (.scratch q.crew a) = { b with pending := b.pending - 1 }) ∧
    (b.pending = 1 → b.bytes = 0 → (s.arrive q (.scratch q.crew a) b 0).barRead q.crew (.scratch q.crew a) =
      { b with phase := (b.phase + 1) % 2 ^ 30, pending := b.count }))

/-- R245 and R248: WWAIT on a word that passes its checks writes 0 and acquires where the comparison holds, and otherwise
waits, its result element taken from every earlier writer (R178); HWAIT writes the handle's state code, with the acquire half for one that is complete or cancelled, and waits while it is
pending or faulted. -/
def Obligations.WaitInstructions : Prop :=
  (∀ (f : Fields) s q cr w pa, IssuesWave s (.wwait f) [] q cr w →
    let addr := (w.s64 f.a.toNat).toNat
    addr < 2 ^ 56 → addr % 8 = 0 → s.translate (dieOf cr.core) cr.ctx addr Need.read = .ok pa → s.unowned pa 8 = true →
    s.poisoned pa 8 = false →
    (cmpHolds (f.mb 3 2) (s.read64 pa) (w.s64 f.b.toNat).toNat = true →
      exec (.wwait f) s = .next ((s.writeRegs q.crew q.wave [(sKey f.d.toNat, 0)]).acquire q.crew q.wave f.scope)) ∧
    (cmpHolds (f.mb 3 2) (s.read64 pa) (w.s64 f.b.toNat).toNat = false →
      exec (.wwait f) s = .next (((s.waitFor q.crew q.wave q.strand [sKey f.d.toNat]).enterWait q.crew q.wave q.strand
        (.wake pa (f.mb 3 2) (w.s64 f.b.toNat) f.scope f.d.toNat
          (if f.kc = true then some (s.cycle + (w.s f.c.toNat).toNat) else none) (f.m 5) w.clauseAddr) w.clauseAddr).settleStrands
        q.crew q.wave q.strand w.clauseAddr))) ∧
  (∀ (f : Fields) s q cr w, IssuesWave s (.hwait f) [] q cr w →
    let h := w.handle f.a.toNat
    (h.code = 0 → ∃ t, exec (.hwait f) s = .next t ∧ WritesS s t q w [(f.d.toNat, 0)]) ∧
    (2 < h.code → ∃ t, WritesS s t q w [(f.d.toNat, BitVec.ofNat 32 h.code)] ∧
      exec (.hwait f) s = .next (t.acquire q.crew q.wave h.scope)) ∧
    (h.code = 1 ∨ h.code = 2 → exec (.hwait f) s = .next (((s.waitFor q.crew q.wave q.strand [sKey f.d.toNat]).enterWait
      q.crew q.wave q.strand (.future f.a.toNat f.d.toNat) w.clauseAddr).settleStrands q.crew q.wave q.strand w.clauseAddr)))

/-- R98, R181, R239, R352 and R361: every instruction that makes its task irrevocable first finds it so before it acts: TIRREV; ATOM, LR
and SC at pod and wider; STW; BINIT, an arrival and a wait that must wait at LVL 3 to 7 of a wave that has converged; PROOT; TLBINV,
ICINV and QUIESCE. A versioned task whose kernel allows it and whose write-queue entries have drained commits its version, which then
holds nothing, and goes on irrevocably; under NOIRREV it takes the version-overflow trap and does nothing else; while an entry is left
the instruction issues again. In a task that is not versioned the instruction acts at once. -/
def Obligations.IrrevocableFirst : Prop :=
  (∀ s q cr w f, IssuesWave s (.tirrev f) [] q cr w →
    (s.noirrev cr = true → exec (.tirrev f) s = .next (s.trapHdr Cause.versionOverflow)) ∧
    (s.noirrev cr = false → FirstIrrevocable (.tirrev f) s s q cr id)) ∧
  (∀ (s : State) c cr, s.crew? c = some cr → ∃ x, (irrevoked s c).crew? c = some x ∧
    { x with waves := cr.waves } = { cr with task := .irrevocable, ver := [], held := [], mended := [] }) ∧
  AccessIrrevocably .atom (fun f => vNamed f.kd f.d f.agrp ++ f.memNamed 2 ++ vNamed f.kc f.c f.acgrp) (fun f => 3 ≤ f.scope)
    (fun f => ⟨false, f.uniform && f.kc, atBytes f.aty, atBytes f.aty, 0, Need.atomic, none, false⟩)
    (fun f l => groupKeys f.kd f.d.toNat l f.agrp) (fun f w l => f.rc w f.agrp l)
    (fun f w l => if f.aop = 8 then w.rd f.kc (f.c.toNat + f.agrp) l f.agrp else 0) (fun _ _ _ _ => []) ∧
  AccessIrrevocably .lr (fun _ => []) (fun f => 3 ≤ f.scope)
    (fun f => ⟨false, true, szBytes f.sz, 8, szBytes f.sz, Need.read, none, false⟩)
    (fun f l => groupKeys f.kd f.d.toNat l (szGroup f.sz)) (fun _ _ _ => 0) (fun _ _ _ => 0) (fun _ _ _ _ => []) ∧
  AccessIrrevocably .sc (fun _ => []) (fun f => 3 ≤ f.scope)
    (fun f => ⟨false, true, szBytes f.sz, 8, 0, Need.atomic, none, false⟩) (fun f l => groupKeys f.kd f.d.toNat l 1)
    (fun f w l => f.rc w (szGroup f.sz) l) (fun _ _ _ => 0) (fun _ _ _ _ => []) ∧
  AccessIrrevocably .stw (fun f => vNamed f.kd f.d (szGroup f.sz) ++ f.memNamed 2) (fun _ => True)
    (fun f => Machine.Fields.devForm f f.uniform Need.write) (fun _ _ => []) (fun f w l => f.rD w (szGroup f.sz) l)
    (fun _ _ _ => 0) (fun f u q act => u.releaseList q.crew q.wave act f.scope) ∧
  (∀ (f : Fields) s q cr w o, IssuesWave s (.binit f) [] q cr w → 3 ≤ f.lvl →
    s.barObj q cr w f.lvl (barAddr w f.a.toNat f.lvl) Need.atomic = .ok o → 0 < (w.s f.b.toNat).toNat →
    (w.s f.b.toNat).toNat < 2 ^ 31 →
    FirstIrrevocable (.binit f) s s q cr (fun u => if u.barFree o = true then
      ((marked u q o).barWrite q.crew (q.crew, q.wave, q.strand) o ⟨1, 0, 0, (w.s f.b.toNat).toNat, (w.s f.b.toNat).toNat⟩).breakWaiters o
      else u.retry)) ∧
  (∀ (f : Fields) s q cr w o, IssuesWave s (.bara f) [] q cr w → 3 ≤ f.lvl →
    s.barObj q cr w f.lvl (barAddr w f.a.toNat f.lvl) Need.atomic = .ok o → (w.strand q.strand).mask = w.lanes →
    FirstIrrevocable (.bara f) s s q cr (fun u => u.afterRelease (u.barScope cr f.lvl) (fun v =>
      v.onBarrier o (barAddr w f.a.toNat f.lvl) (fun b y => if b.state = 2 then y.trapHdr Cause.barrierUnreachable
        else (y.writeRegs q.crew q.wave [(sKey f.d.toNat, BitVec.ofNat 32 b.phase)]).arrive q o b 0)))) ∧
  (∀ (f : Fields) s q cr w o, IssuesWave s (.bar f) [] q cr w → 3 ≤ f.lvl →
    s.barObj q cr w f.lvl (barAddr w f.a.toNat f.lvl) Need.atomic = .ok o → (w.strand q.strand).mask = w.lanes →
    ∃ act, FirstIrrevocable (.bar f) s s q cr (fun u => u.afterRelease (s.barScope cr f.lvl) act) ∧
      ∀ v x, v.wave? q.crew q.wave = some x → act v = v.onBarrier o (barAddr w f.a.toNat f.lvl) (fun b y =>
        if b.state = 2 then y.arrive q o b 0 else (y.arrive q o b 0).waitPhase q o (s.barScope cr f.lvl) b.phase)) ∧
  (∀ (f : Fields) s q cr w o, IssuesWave s (.barw f) [] q cr w → 3 ≤ f.lvl →
    s.barObj q cr w f.lvl (barAddr w f.a.toNat f.lvl) Need.read = .ok o → (w.strand q.strand).mask = w.lanes →
    s.barFree o = true → (s.barRead q.crew o).state = 1 → (s.barRead q.crew o).phase = (w.s f.b.toNat).toNat % 2 ^ 30 →
    FirstIrrevocable (.barw f) s (marked s q o) q cr (fun u =>
      u.waitPhase q o (s.barScope cr f.lvl) ((w.s f.b.toNat).toNat % 2 ^ 30))) ∧
  (∀ (f : Fields) s q cr w, IssuesWave s (.proot f) [] q cr w →
    let p (k : Nat) : Nat := (w.s (f.b.toNat + k)).toNat
    (if f.m 0 = true then tokenCheck (decide (p 2 ≤ 65536)) [(sVal w f.d.toNat 2, 64), (sVal w f.a.toNat 2, 16), (sVal w f.b.toNat 2, 1)]
      else tokenCheck (decide (1 ≤ p 0) && decide (p 0 ≤ 64) && decide (1 ≤ p 1) && decide (p 1 ≤ 65536))
        [(sVal w f.d.toNat 2, 16), (sVal w f.a.toNat 2, 16), (sVal w (f.b.toNat + 2) 2, 32)]) = none →
    FirstIrrevocable (.proot f) s s q cr (fun u => (u.crew? q.crew).elim u (fun x => u.issueBeam (.proot f) f q x w 8))) ∧
  (∀ (f : Fields) s q cr w, IssuesWave s (.tlbinv f) [] q cr w →
    rangeCheck (f.m 0) (decide (1 ≤ (w.s f.b.toNat).toNat) && decide ((w.s f.b.toNat).toNat ≤ 2 ^ 20)) (sVal w f.a.toNat 2) 4096 = none →
    FirstIrrevocable (.tlbinv f) s s q cr (launchIn q.crew (fun u x => { newOp u q x w (.tlbinv f) allLanes with
      av := sVal w f.a.toNat 2, bv := (w.s f.b.toNat).toNat, waits := u.releaseList q.crew q.wave allLanes 5 }))) ∧
  (∀ (f : Fields) s q cr w, IssuesWave s (.icinv f) [] q cr w →
    rangeCheck (f.m 0) (decide (8 ≤ (w.s f.b.toNat).toNat) && decide ((w.s f.b.toNat).toNat ≤ 2 ^ 30) &&
      (w.s f.b.toNat).toNat % 8 == 0) (sVal w f.a.toNat 2) 8 = none →
    FirstIrrevocable (.icinv f) s s q cr (launchIn q.crew (fun u x => { newOp u q x w (.icinv f) allLanes with
      av := sVal w f.a.toNat 2, bv := (w.s f.b.toNat).toNat, waits := u.releaseList q.crew q.wave allLanes 5 }))) ∧
  (∀ (f : Fields) s q cr w, IssuesWave s (.quiesce f) [] q cr w →
    FirstIrrevocable (.quiesce f) s s q cr (fun u => (u.crew? q.crew).elim u (fun x =>
      ((u.launch { newOp u q x w (.quiesce f) allLanes with av := (u.ctx x.ctx).epoch }).modCtx x.ctx (fun cx =>
        { cx with epoch := cx.epoch + 1 })).writeRegs q.crew q.wave (wrGroup true f.d.toNat 0 2 (u.ctx x.ctx).epoch))))

/-- R179 and R180: TEND of a converged wave waits for the commit; in a diverged one it traps. TABRT restarts its task, and traps
in an irrevocable one.
R116 to R118: the context's trap handler reads and writes engine words, and ERET finishes the record in hand and waits for
the next; of every other wave the three take the protection trap. -/
def Obligations.TaskAndHandlerInstructions : Prop :=
  ((∀ f s q cr w, IssuesWave s (.tend f) [] q cr w →
    ((w.strand q.strand).mask = w.lanes → ∃ t, exec (.tend f) s = .next t ∧ t = s.enterWait q.crew q.wave q.strand .tend w.clauseAddr ∧
      OnlyWave s t q.crew q.wave ∧ ∃ x, t.wave? q.crew q.wave = some x ∧ StrandsOnly w x ∧ (x.strand q.strand).st = .waiting .tend) ∧
    ((w.strand q.strand).mask ≠ w.lanes → ∃ cls, exec (.tend f) s =
      .next (s.trap q.crew q.wave q.strand Cause.illegalConvergence w.clauseAddr cls))) ∧
  (∀ f s q cr w, IssuesWave s (.tabrt f) [] q cr w →
    (cr.task = .irrevocable → exec (.tabrt f) s = .next (s.trapHdr Cause.protection)) ∧
    (cr.task = .versioned → exec (.tabrt f) s = .next (s.restartTask q.crew)))) ∧
  (∀ (f : Fields) s q cr w,
    (s.isHandler q cr = true → IssuesWave s (.engrd f) [] q cr w → ∃ t, exec (.engrd f) s = .next t ∧
      WritesS s t q w [(f.d.toNat, groupWord (s.engWord cr.ctx (EngSel.ofWord (s.ctx cr.ctx).engq) (f.mb 0 4)) 0),
        (f.d.toNat + 1, groupWord (s.engWord cr.ctx (EngSel.ofWord (s.ctx cr.ctx).engq) (f.mb 0 4)) 1)]) ∧
    (s.isHandler q cr = true → IssuesWave s (.engwr f) [] q cr w → exec (.engwr f) s =
      .next (s.engWrite cr.ctx (EngSel.ofWord (s.ctx cr.ctx).engq) (f.mb 0 4) (sVal w f.a.toNat 2) w.clauseAddr)) ∧
    (s.isHandler q cr = true → IssuesWave s (.eret f) [] q cr w → (s.ctx cr.ctx).inHand = false → exec (.eret f) s =
      .next ((s.enterWait q.crew q.wave q.strand .record w.clauseAddr).deliverNext cr.ctx)) ∧
    (s.isHandler q cr = true → IssuesWave s (.eret f) [] q cr w → (s.ctx cr.ctx).inHand = true → exec (.eret f) s =
      .next (((s.finishRecord cr.ctx (f.mb 0 2 == 1)).enterWait q.crew q.wave q.strand .record w.clauseAddr).deliverNext cr.ctx)) ∧
    (s.isHandler q cr = false → ∀ i ∈ [Instr.engrd f, .engwr f, .eret f, .sysw f], IssuesWave s i [] q cr w →
      exec i s = .next (s.trapHdr Cause.protection)) ∧
    (s.isHandler q cr = false → sregHandler f.num = true →
      IssuesWave s (.sysr f) (vNamed f.kd f.d (if sreg64 f.num = true then 2 else 1)) q cr w →
      exec (.sysr f) s = .next (s.trapHdr Cause.protection)))

/-- R363, R362 and R364: QUIESCE returns the epoch it retires and starts the next, in one step; TLBINV and ICINV of a range that
passes its checks issue with the release half at package they wait for. In a task that is not versioned. -/
def Obligations.SystemLaunches : Prop :=
  ∀ (f : Fields) s q cr w, cr.task ≠ .versioned →
    (IssuesWave s (.quiesce f) [] q cr w → ∃ t x, exec (.quiesce f) s = .next t ∧
      t.wave? q.crew q.wave = some x ∧ (t.ctx cr.ctx).epoch = (s.ctx cr.ctx).epoch + 1 ∧
      x.s f.d.toNat = BitVec.ofNat 32 (s.ctx cr.ctx).epoch ∧ x.s (f.d.toNat + 1) = BitVec.ofNat 32 ((s.ctx cr.ctx).epoch / 2 ^ 32) ∧
      (∀ r, r ≠ f.d.toNat → r ≠ f.d.toNat + 1 → x.s r = w.s r) ∧
      { x with sr := w.sr, fl := w.fl } = w ∧ SameMemory s t ∧ OtherWaves s t q.crew q.wave ∧
      ∃ op, t.op? s.next = some op ∧ op.av = (s.ctx cr.ctx).epoch ∧ op.instr = .quiesce f ∧ op.st = .queued) ∧
    (IssuesWave s (.tlbinv f) [] q cr w →
      rangeCheck (f.m 0) (decide (1 ≤ (w.s f.b.toNat).toNat) && decide ((w.s f.b.toNat).toNat ≤ 2 ^ 20)) (sVal w f.a.toNat 2) 4096 = none →
      Issued (.tlbinv f) s s q w { newOp s q cr w (.tlbinv f) allLanes with
        av := sVal w f.a.toNat 2, bv := (w.s f.b.toNat).toNat, waits := s.releaseList q.crew q.wave allLanes 5 }) ∧
    (IssuesWave s (.icinv f) [] q cr w →
      rangeCheck (f.m 0) (decide (8 ≤ (w.s f.b.toNat).toNat) && decide ((w.s f.b.toNat).toNat ≤ 2 ^ 30) &&
        (w.s f.b.toNat).toNat % 8 == 0) (sVal w f.a.toNat 2) 8 = none →
      Issued (.icinv f) s s q w { newOp s q cr w (.icinv f) allLanes with
        av := sVal w f.a.toNat 2, bv := (w.s f.b.toNat).toNat, waits := s.releaseList q.crew q.wave allLanes 5 })

/-- R374 and R375: SNAP.loc fires the Clave with source 3, LATE unchanged: it latches a snapshot at the present Tabor count and counts
every context's SEQ up (that a firing stands in the record of every context is the model's choice, log 33), or merges into a latch in progress. SNAP.gang sends every other package of the gang the tick, in one message
each, and fires here at the tick, or at once where the tick has come, LATE saying whether it had passed. R139: GPW stores its pair at
scope system into the parameter of the graph; outside a graph it traps. -/
def Obligations.SnapAndGpw : Prop :=
  (∀ f s q cr w, IssuesWave s (.snap f) [] q cr w → f.m 0 = false → ∃ t, exec (.snap f) s = .next t ∧ ClaveFires s t 3 none) ∧
  (∀ f s q cr w, IssuesWave s (.snap f) [] q cr w → f.m 0 = true →
    let others := s.gang.filter (· ≠ Config.package)
    let tick := sVal w f.a.toNat 2
    ∃ s1, s1 = others.foldl (fun (u : State) p => u.tell 9 p 0 (splitWords 4 tick)) s ∧
      (∀ k p, s.openPort = some k → s.ports.find? k = some p → ∃ y ms, s1.ports.find? k = some y ∧ y.msgs = p.msgs ++ ms ∧
        ms.map (·.dst) = others ∧ ∀ m ∈ ms, m.kind = 9 ∧ m.src = Config.package ∧ m.data = splitWords 4 tick) ∧
      (s.tabor.toNat < tick → exec (.snap f) s = .next { s1 with claveTicks := s1.claveTicks ++ [(tick, true)] }) ∧
      (tick ≤ s.tabor.toNat → ∃ t, exec (.snap f) s = .next t ∧ ClaveFires s1 t 3 (some (decide (tick < s.tabor.toNat))))) ∧
  (∀ (f : Fields) s q cr w kn ga pa, IssuesWave s (.gpw f) [] q cr w → s.kernel? cr.kernel = some kn → kn.graph ≠ 0 →
    (w.strand q.strand).rel = none → s.releaseList q.crew q.wave allLanes 7 = [] →
    let die := dieOf cr.core
    s.walkHeld die cr.ctx (kn.graph + 8) Need.read = false → s.translate die cr.ctx (kn.graph + 8) Need.read = .ok ga →
    let s1 := s.dropLacking die cr.ctx (kn.graph + 8) Need.read
    let a := leNat (s.homeBytes (View.ofCrew q.crew) ga 8) + 8 * f.mb 0 8
    a < 2 ^ 56 → s1.walkHeld die cr.ctx a Need.write = false → s1.translate die cr.ctx a Need.write = .ok pa →
    ∃ t e, exec (.gpw f) s = .next t ∧ SameMemory s t ∧ (t.core cr.core).wq = (s.core cr.core).wq ++ [e] ∧
      e.pa = pa ∧ e.bytes = leBytes 8 (sVal w f.a.toNat 2) ∧ e.scope = 7 ∧ e.direct = cr.direct) ∧
  (∀ (f : Fields) s q cr w, IssuesWave s (.gpw f) [] q cr w → (∀ kn, s.kernel? cr.kernel = some kn → kn.graph = 0) →
    exec (.gpw f) s = .next (s.trapHdr Cause.protection))

/-- R83, R92, R221 and R222: a scratchpad element whose turn it is, no copy's range overlapping it, performs: STS writes its bytes
and no others, LDS delivers the scratchpad's bytes widened (lanes that read the same bytes all receive what the first of them read,
R220). A store to device memory performs by entering its core's write queue
as the youngest entry, memory unchanged (R85). An element held back changes nothing. -/
def Obligations.AccessesPerform : Prop :=
  ∀ (s : State) o n b op e cr w, s.op? o = some op → op.elems[n]? = some e → s.crew? op.crew = some cr →
    s.wave? op.crew op.wave = some w → e.st = .pending →
    (s.mayPerform o op n e = false → isAccess op.instr = true → exec (.accessPerform o n b) s = .next s) ∧
    (s.mayPerform o op n e = true → ∀ f, op.instr = .sts f → s.spadFree op.crew e.va e.w = true →
      ∃ t x, exec (.accessPerform o n b) s = .next t ∧ SameMemory s t ∧ t.crew? op.crew = some x ∧ x.waves = cr.waves ∧
        (∀ a, x.sp.rd 0 a = if e.va ≤ a ∧ a < e.va + e.w then (leBytes e.w e.data).getD (a - e.va) 0 else cr.sp.rd 0 a) ∧
        t.op? o = some { op with elems := op.elems.modify n (fun y => { y with st := .complete }) }) ∧
    (s.mayPerform o op n e = true → ∀ f, op.instr = .lds f → s.spadFree op.crew e.va e.w = true →
      exec (.accessPerform o n b) s = .next (s.finishLoad o n op e f.sz (leNat (cr.spadRead e.va e.w))) ∧
      ((op.elems.filter (fun x => x.alike e true)).length ≤ 1 →
        exec (.accessPerform o n b) s = .next (s.finishElem o n e (widen f.sz (leNat (cr.spadRead e.va e.w)))))) ∧
    (s.mayPerform o op n e = true → ∀ f, op.instr = .st f → ∃ t y, exec (.accessPerform o n b) s = .next t ∧ SameMemory s t ∧
      (t.core cr.core).wq = (s.core cr.core).wq ++ [y] ∧ y.pa = e.pa ∧ y.bytes = leBytes e.w e.data ∧ y.scope = f.scope ∧
      y.direct = cr.direct ∧ y.seg = e.seg ∧
      (t.op? o).map (fun p => p.elems[n]?.map (·.st)) = some (some (if 3 ≤ f.scope then .performed else .complete)))

/-- R82, R178 and R215: an element's value reaches the destination registers its operation may still write, in the attempt that
issued it, and no other register; the element is then complete, and the operation's other elements are as before.
R56 and R246: an operation of a wave's present attempt that ends leaves the table, counts its flag down by one and makes the
future bound to it complete (code 3) or cancelled (code 4). -/
def Obligations.OperationsEnd : Prop :=
  (∀ (s : State) o n op e cr w v, s.op? o = some op → s.crew? op.crew = some cr → s.wave? op.crew op.wave = some w →
    cr.attempt = op.attempt → (∀ k ∈ e.dst, k ∈ op.dsts) → e.dst.Nodup →
    ∃ x, (s.finishElem o n e v).wave? op.crew op.wave = some x ∧
      (∀ r l, r < 256 → l < 128 → x.v r l =
        if vKey r l ∈ e.dst then groupWord v (e.dst.idxOf (vKey r l)) else w.v r l) ∧
      (∀ r, x.s r = if sKey r ∈ e.dst then groupWord v (e.dst.idxOf (sKey r)) else w.s r) ∧
      (s.finishElem o n e v).op? o = some { op with elems := op.elems.modify n (fun y => { y with st := .complete }) } ∧
      SameMemory s (s.finishElem o n e v) ∧ OtherWaves s (s.finishElem o n e v) op.crew op.wave) ∧
  (∀ (s : State) o op cr w code, s.op? o = some op → s.crew? op.crew = some cr → s.wave? op.crew op.wave = some w →
    cr.attempt = op.attempt →
    (s.endOp o code).op? o = none ∧ SameMemory s (s.endOp o code) ∧
    ∃ x, (s.endOp o code).wave? op.crew op.wave = some x ∧ x.flag op.flag = w.flag op.flag - 1 ∧
      (∀ g, g ≠ op.flag → x.flag g = w.flag g) ∧ x.vr = w.vr ∧ x.sr = w.sr ∧ x.pr = w.pr ∧
      ∀ h, w.handle h ≠ ⟨0, 0, 0⟩ → x.handle h = if (w.handle h).op = o ∧ ((w.handle h).code = 1 ∨ (w.handle h).code = 2) then
        { w.handle h with code := code } else w.handle h)

/-- R86, R87, R88 and R94: a write-queue entry that drains directly joins the committed line whole and leaves the queue, and no
other byte changes; an invalidation drops the line's copies of a tag wider than core; a fence whose older accesses have come about
acquires and completes; a reduction replaces its target's bytes and leaves its queue. -/
def Obligations.QueuesDrain : Prop :=
  (∀ (s : State) core idx e, (s.core core).wq[idx]? = some e → homeOf e.pa = .hbm → e.direct = true → e.seg = none →
    s.unowned e.pa e.bytes.length = true →
    (∀ x ∈ (s.core core).wq.take idx, e.pa + e.bytes.length ≤ x.pa ∨ x.pa + x.bytes.length ≤ e.pa) →
    ∃ t, exec (.writeQueueDrain core idx) s = .next t ∧
      (∀ a, t.mem.rd 0 a = if e.pa ≤ a ∧ a < e.pa + e.bytes.length then e.bytes.getD (a - e.pa) 0 else s.mem.rd 0 a) ∧
      (t.core core).wq = (s.core core).wq.filter (fun x => x.id != e.id) ∧ e ∉ (t.core core).wq ∧
      (∀ d, d ≠ core → (t.core d).wq = (s.core d).wq)) ∧
  (∀ (s : State) core idx x, (s.core core).inv[idx]? = some x → ∃ t, exec (.invalidationApply core idx) s = .next t ∧
    OnlyCore s t core ∧ (t.core core).inv = (s.core core).inv.eraseIdx idx ∧
    (∀ l, l ∈ (t.core core).l1 ↔ l ∈ (s.core core).l1 ∧ (l.line = x.1 → l.tag ≤ 2))) ∧
  (∀ (s : State) o op, s.op? o = some op → op.waits.all (s.released op.lanes) = true →
    (∀ f, op.instr = .fence f → exec (.fenceCompletion o) s = .next ((s.acquire op.crew op.wave f.scope).endOp o 3)) ∧
    (∀ f, op.instr = .fencew f → exec (.fenceCompletion o) s = .next ((s.acquire op.crew op.wave 0).endOp o 3))) ∧
  (∀ (s : State) idx r, s.reds[idx]? = some r → homeOf r.pa = .hbm → s.unowned r.pa (atBytes r.ty) = true →
    ∃ t, exec (.reductionApply idx) s = .next t ∧ t.reds = s.reds.eraseIdx idx ∧
      (∀ a, t.mem.rd 0 a = if r.pa ≤ a ∧ a < r.pa + atBytes r.ty then
        (leBytes (atBytes r.ty) (atomNew r.op r.ty (leNat (s.mem.bytes r.pa (atBytes r.ty))) r.data 0 0xA)).getD (a - r.pa) 0
        else s.mem.rd 0 a))

/-- R56, R91, R251, R252 and R262: what the engines do when their rules let them: an access whose elements are all complete
completes; a queued CPY is performed, its length known; an active copy's unit is read, and one with every byte written completes, once another package has acknowledged what was sent to it;
a shape-record entry may be dropped; a scatter writes its elements of a line whose turn it is. A copy's unit is written whole: into the
scratchpad its bytes and no others change; into device memory it first owns the lines, and in its turn writes them; CPY's bytes are its
source's; the offset and the credit to a named barrier follow (R237, R251, R252), and after the last unit the copy ends.
R283 and R289: one chunk of an MMAS: the tile takes the chunk's product, and its side word records the step and the live
blocks so far. -/
def Obligations.EngineTurns : Prop :=
  ((∀ (s : State) o op f, s.op? o = some op → op.instr = .ld f ∨ op.instr = .lds f ∨ op.instr = .st f ∨ op.instr = .sts f →
    op.elems.all Elem.done = true → exec (.longLatencyCompletion o) s = .next (s.endOp o 3)) ∧
  (∀ (s : State) o v op cr f, s.op? o = some op → s.crew? op.crew = some cr → op.instr = .cpy f → op.st = .queued →
    s.engineClear o op = true → s.destHeld op (dieOf cr.core) ((op.blk.getD 0 0).toNat) = false → ∃ t, exec (.copyPerform o v) s = .next t ∧
      ∃ p, t.op? o = some p ∧ p.st = .active ∧ p.len = (op.blk.getD 0 0).toNat ∧ p.dsts = op.dsts ∧ SameMemory s t) ∧
  (∀ (s : State) o op cr, s.op? o = some op → s.crew? op.crew = some cr → isCopy op.instr = true → op.st = .active →
    op.len ≤ op.off → (s.unacked o = false → exec (.copyUnitWrite o) s = .next (s.endCopy o op)) ∧
      (s.unacked o = true → exec (.copyUnitWrite o) s = .next s)) ∧
  (∀ (s : State) o op cr tab, s.op? o = some op → s.crew? op.crew = some cr → isCopy op.instr = true → op.st = .active →
    op.off < op.len →
    let hi := min (op.off + 256) op.len
    let die := dieOf cr.core
    let src := op.unitSources op.off hi
    let old (va : Nat) : Byte := match s.translate die op.ctx va Need.write with
      | .ok pa => s.homeByte (View.ofCrew op.crew) pa
      | .error _ => 0
    let out := op.unitOut tab op.off hi old (fun x => (Config.freeWord (s.fresh + x)).extractLsb' 0 8)
    let s0 := ({ s with fresh := s.fresh + 512 } : State).dropSources die op.ctx src
    (s.gather o op die src).bind (fun t => s.readAhead o { op with buf := t } die op.off hi) = .ok tab →
    (isTensor op.instr = true → op.dir = 0 → op.checkBlocks tab op.off hi = none) →
    (∀ f, copyFields op.instr = some f → f.kc = true → s.noBarrier op.crew op.cv = false) →
    (op.dir = 0 → ∃ s1 x, exec (.copyUnitWrite o) s = .next (s1.unitWritten o op hi 0 tab) ∧ SameMemory s s1 ∧ s1.op? o = some op ∧
      s1.crew? op.crew = some x ∧ x.waves = cr.waves ∧ ∀ a, x.sp.rd 0 a = (out.find? a).getD (cr.sp.rd 0 a)) ∧
    (∀ l, op.dir ≠ 0 → s.runsHeld die op.ctx out = false → s0.writeRuns op die out = .ok l →
      ((runLines l).all (fun x => op.lines.contains x) = false → exec (.copyUnitWrite o) s = .next (s.ownMore o cr.core op (runLines l))) ∧
      ((runLines l).all (fun x => op.lines.contains x) = true → (runLines l).all (fun x => s.turnOf o x) = true →
        (cr.direct = true → ∀ r ∈ l, s.cutOff r.1 = false) →
        let s1 := (s0.dropRuns die op.ctx out).engineWrite o op 3 (outPages out l) l
        exec (.copyUnitWrite o) s = .next (if (s1.op? o).any (fun op => op.st == .active) then
          ((doneLines op l (decide (op.len ≤ hi))).foldl (fun (s : State) x => s.release o x) s1).unitWritten o op hi (runsScope l) tab
          else s1)))) ∧
  (∀ (op : Op) f tab lo hi old free a, op.instr = .cpy f → lo ≤ hi → (op.unitOut tab lo hi old free).find? a =
    if op.dv + lo ≤ a ∧ a < op.dv + hi then some (tab.rd 0 (srcKey (f.hint != 1) (op.av + (a - op.dv)))) else none) ∧
  (∀ (s : State) o op vas cls pa bs cr, s.crew? op.crew = some cr → cr.direct = true → homeOf pa = .hbm →
    ∀ a, (s.storeEngineAt o op vas cls pa bs).mem.rd 0 a = if pa ≤ a ∧ a < pa + bs.length then bs.getD (a - pa) 0 else s.mem.rd 0 a) ∧
  (∀ (s : State) o op f hi sc tab, s.op? o = some op → copyFields op.instr = some f →
    let p := { op with off := hi, buf := tab, count := max op.count sc }
    let s1 := s.modOp o (fun _ => p)
    let s2 := if f.kc = true then s1.credit op.crew op.cv (hi - op.off) else s1
    s1.op? o = some p ∧ (hi < op.len → s.unitWritten o op hi sc tab = s2) ∧
    (op.len ≤ hi → f.kc = false → s.unitWritten o op hi sc tab = if s1.unacked o = true then s1 else s1.endCopy o p)) ∧
  (∀ (s : State) o u op cr tab, s.op? o = some op → s.crew? op.crew = some cr → isCopy op.instr = true → op.st = .active →
    op.off ≤ 256 * u → 256 * u < op.len →
    let src := op.unitSources (256 * u) (min (256 * u + 256) op.len)
    s.gather o op (dieOf cr.core) src = .ok tab →
    exec (.engineSourceRead o u) s = .next ((s.dropSources (dieOf cr.core) op.ctx src).modOp o (fun op => { op with buf := tab }))) ∧
  (∀ (s : State) core idx, ∃ t, exec (.shapeCacheDrop core idx) s = .next t ∧ OnlyCore s t core ∧
    (t.core core).shapes = (s.core core).shapes.eraseIdx idx) ∧
  (∀ (s : State) o op f line, s.op? o = some op → op.instr = .scat f → f.aop = 0 →
    op.lines.find? (fun l => s.turnOf o l) = some line → exec (.engineUnitWrite o) s = .next (
      (((List.range op.elems.length).filter (fun n => match op.elems[n]? with
        | some e => e.st == .performed && e.pa / 256 == line
        | none => false)).foldl (fun (s : State) n => match op.elems[n]? with
          | none => s
          | some e => (s.storeEngine o op false e.seg 1 e.pa (leBytes e.w e.data)).modElem o n
              (fun x => { x with st := .complete })) s).release o line))) ∧
  (∀ (s : State) o op cr f a b, s.op? o = some op → s.crew? op.crew = some cr → op.instr = .mmas f → op.st = .active →
    op.off < ctlK (fbWord op.blk 0) / 32 → (opA true op.av op.blk).rows (s.spadByte op) = .ok a →
    (opB true op.bv op.blk).rows (s.spadByte op) = .ok b →
    let live := op.count + liveBlocks (s.spadByte op) (ctlK (fbWord op.blk 0)) (fbWord op.blk 3) (fbWord op.blk 4) op.off
    ∃ t, exec (.mmasStep o) s = .next t ∧
      t.op? o = some { op with off := op.off + 1, count := live } ∧ SameMemory s t ∧ t.crews = s.crews ∧
      (∀ tl, (s.core cr.core).tiles.find? op.phys = some tl → t.tile cr.core op.phys =
        { productTile tl tl.int (· == op.off) a b with side := tl.side.wr 0 0 (sideWord 1 (op.off + 1) op.flag live) }))

/-- R52, R54, R150: a clause fetch by the wave its scheduler takes, where no restart is asked for and no trap is due, starts the
clause at its running strand's pc, which then names the clause after it; a header the machine must reject traps instead. A
reservation is lost after 64 instructions (R95). A running strand that has kept another waiting too long becomes runnable, and its wave
chooses afresh (R149). -/
def Obligations.ClauseFetchStarts : Prop :=
  (∀ (s s1 : State) c w cr0 cr wv k, s.settleRestarts.crew? c = some cr0 →
    s1 = (s.settleRestarts.crewsOn cr0.core).foldl (fun (s : State) e =>
      (e.2.waves.map (·.1)).foldl (fun (s : State) x => s.settleWave e.1 x) s) s.settleRestarts →
    s1.crew? c = some cr → cr.waves.find? w = some wv → s1.scheduled cr.core (cr.slot w % 4) = some (c, w) →
    wv.running = some k → (wv.strand k).tend = false →
    (∀ cause a h, s1.fetchClause cr (wv.strand k).pc = .fault cause a h →
      ∃ cls, exec (.clauseFetch c w) s = .next ((s1.dropFetch cr (wv.strand k).pc h).trap c w k cause a cls)) ∧
    (∀ h is, s1.fetchClause cr (wv.strand k).pc = .bad h is → exec (.clauseFetch c w) s =
      .next ((s1.dropFetch cr (wv.strand k).pc (some h)).trap c w k Cause.illegalEncoding (wv.strand k).pc h.cls)) ∧
    (∀ h ws n, s1.fetchClause cr (wv.strand k).pc = .ok h ws n →
      ∃ (s2 : State) (x : Wave), exec (.clauseFetch c w) s = .next (s2.acquireFlags c w h) ∧ s2.wave? c w = some x ∧
        x.clause = some ⟨(wv.strand k).pc, h, ws, k⟩ ∧ (x.strand k).pc = (wv.strand k).pc + 8 * (h.cnt + 2) ∧
        s2.mem = s1.mem ∧ x.vr = wv.vr ∧ x.sr = wv.sr)) ∧
  (∀ (s : State) c w k wv, s.wave? c w = some wv → (wv.strand k).resv.isSome = true → 64 ≤ (wv.strand k).since →
    ∃ t, exec (.reservationExpiry c w k) s = .next t ∧ OnlyWave s t c w ∧
      t.wave? c w = some (wv.modStrand k (fun st => { st with resv := none, since := 0 }))) ∧
  (∀ (s : State) c w k wv, s.wave? c w = some wv → wv.switchDue = some k →
    exec (.fairnessSwitch c w) s = .next ((s.modStrand c w k (fun st => { st with st := .runnable, age := 0 })).choose c w))

/-- R152, R158, R178, R242, R245 and R248: a strand whose wait has come true goes on, with the result and the acquire its wait gives;
one whose limit passed first, the cycle of the limit having ended with the wait's condition still false, goes on with 1, or takes the
timeout trap. A result element that a later instruction has taken from the wait is not written. -/
def Obligations.StrandsWake : Prop :=
  (∀ (s : State) c w k cr wv, s.crew? c = some cr → cr.waves.find? w = some wv → s.crewRuns cr = true →
    let st := wv.strand k
    (st.woken = true → ∀ o sc p, st.st = .waiting (.barrier o sc p) →
      exec (.strandWake c w k) s = .next ((s.acquire c w sc).resume c w k)) ∧
    (st.woken = true → ∀ pa cmp v sc d dl trp h, st.st = .waiting (.wake pa cmp v sc d dl trp h) →
      exec (.strandWake c w k) s = .next (((s.waitWrite c w k [(sKey d, 0)]).acquire c w sc).resume c w k)) ∧
    (st.woken = true → ∀ h d, st.st = .waiting (.future h d) → (wv.handle h).code ≠ 0 →
      (wv.handle h).code ≠ 1 → (wv.handle h).code ≠ 2 →
      exec (.strandWake c w k) s = .next (((s.waitWrite c w k [(sKey d, BitVec.ofNat 32 (wv.handle h).code)]).acquire c w
        (wv.handle h).scope).resume c w k)) ∧
    (st.woken = true → ∀ a b ms, st.st = .waiting (.join a b ms) →
      exec (.strandWake c w k) s = .next ((s.waitWrite c w k (ms.filterMap (fun m => m.d.map (fun d => (sKey d, 0))))).resume c w k)) ∧
    (st.expired = true → ∀ a b ms, st.st = .waiting (.join a b ms) →
      exec (.joinwExpiry c w k) s = .next ((s.waitWrite c w k (ms.filterMap (fun m => m.d.map (fun d => (sKey d, 1))))).resume c w k)) ∧
    (st.expired = true → ∀ pa cmp v sc d dl trp h, st.st = .waiting (.wake pa cmp v sc d dl trp h) →
      exec (.wwaitDeadline c w k) s = .next (if trp = true then s.trap c w k Cause.timeout h 7
        else (s.waitWrite c w k [(sKey d, 1)]).resume c w k)) ∧
    (st.woken = false → exec (.strandWake c w k) s = .next s)) ∧
  (∀ (st : Strand) now,
    (∀ a b ms, st.st = .waiting (.join a b ms) → ∀ t, joinDeadline ms = some t →
      st.expire now = if st.woken = false ∧ t < now then { st with expired := true } else st) ∧
    (∀ pa cmp v sc d t trp h, st.st = .waiting (.wake pa cmp v sc d (some t) trp h) →
      st.expire now = if st.woken = false ∧ t < now then { st with expired := true } else st)) ∧
  (∀ (s : State) c w k wv key v, s.wave? c w = some wv → OnlyWave s (s.waitWrite c w k [(key, v)]) c w ∧
    ((c, w, k, key) ∈ s.waitDst → (s.waitWrite c w k [(key, v)]).wave? c w = some (wv.setKey key v)) ∧
    ((∀ j, (c, w, j, key) ∉ s.waitDst) → (s.waitWrite c w k [(key, v)]).wave? c w = some wv))

/-- R163, R164 and R144: the oldest block request is granted whole, once enough segments are free: its missing blocks are mapped to
segments that were free, each to one of its own, and their registers read 0, every other register as before; a released segment
returns once nothing in flight writes into it; an ended wave with nothing in flight gives up its segments, blocks, tiles, expansion
slots and wave slot, and nothing else of it changes. That a request needs the blocks it lacks when it is granted, not when it
was made, is the model's choice (log 70). -/
def Obligations.BlocksAndWavesReturn : Prop :=
  (∀ (s : State) core c w k rest wv first n, (s.core core).rbq = (c, w, k) :: rest → (c, w, k) ≠ restartReq c →
    s.wave? c w = some wv → (wv.strand k).st = .waiting (.rbacq first n) →
    let need := ((List.range n).map (fun i => first + i)).filter (fun b => (wv.seg.find? b).isNone)
    ((s.segsFree core).length < need.length → exec (.rbacqGrant core) s = .next s) ∧
    (need.length ≤ (s.segsFree core).length → ∃ (t : State) (x : Wave) (gs : List Nat), exec (.rbacqGrant core) s = .next t ∧ (t.core core).rbq = rest ∧
      t.wave? c w = some x ∧ (x.strand k).woken = true ∧
      gs.Nodup ∧ gs.length = need.length ∧ (∀ g ∈ gs, g ∈ s.segsFree core) ∧
      (∀ (i b : Nat), need[i]? = some b → x.seg.find? b = gs[i]?) ∧ (∀ b, b ∉ need → x.seg.find? b = wv.seg.find? b) ∧
      (∀ r l, r < 256 → l < 128 → x.v r l = if r / 16 ∈ need then 0 else wv.v r l) ∧
      { x with seg := wv.seg, vr := wv.vr, strands := wv.strands } = wv ∧
      { t with crews := s.crews, cores := s.cores } = s ∧ SameMemory s t ∧ OtherWaves s t c w)) ∧
  (∀ (s : State) c w seg wv ids, s.wave? c w = some wv → wv.segRet.find? (fun e => e.1 == seg) = some (seg, ids) →
    ((∀ o ∈ ids, s.op? o = none) → ∃ t x, exec (.segmentReturn c w seg) s = .next t ∧ OnlyWave s t c w ∧ t.wave? c w = some x ∧
      x = { wv with segRet := wv.segRet.filter (fun e => e.1 != seg) }) ∧
    ((∃ o ∈ ids, (s.op? o).isSome = true) → exec (.segmentReturn c w seg) s = .next s)) ∧
  (∀ (s : State) c w cr wv, s.crew? c = some cr → s.wave? c w = some wv → wv.live = true → wv.lanes = 0 →
    (∀ e ∈ s.ops, ¬(e.2.crew = c ∧ e.2.wave = w)) → ∃ t x, exec (.waveRetire c w) s = .next t ∧ t.wave? c w = some x ∧
      x = { wv with live := false, seg := [], segRet := [], vr := [], tiles := [], exps := [], sm := [], xo := 15 } ∧
      (∀ p ∈ wv.tiles.vals, (t.core cr.core).tiles.find? p = none) ∧ (∀ p ∈ wv.exps.vals, (t.core cr.core).exps.find? p = none) ∧
      { t with crews := s.crews, cores := s.cores } = s ∧ SameMemory s t ∧ OtherWaves s t c w)

/-- R179, R176, R177 and R115: a task whose crew may commit commits its version and the next task begins (a kernel without a walker);
the host finishes a record it was told of; a record goes to its ring; a wave becomes its context's handler; the engine commands act
on the entry that ENGQ selects. The model's choices: the conditions of a commit (log 29), and that a handler's wave waits for its record at
a clause boundary (log 21). -/
def Obligations.TaskAndTrapEvents : Prop :=
  (∀ (s : State) c tile cr kn, s.crew? c = some cr → s.kernel? cr.kernel = some kn → s.canCommit c cr = true →
    cr.task = .versioned → cr.liveWaves ≠ [] → kn.walk = false →
    exec (.taskCommit c tile) s = .next (((s.commitVersion c).dropSegments c).nextTask c (cr.taskIdx + 1))) ∧
  (∀ (s : State) c tile cr kn, s.crew? c = some cr → s.kernel? cr.kernel = some kn → s.canCommit c cr = false →
    exec (.taskCommit c tile) s = .next s) ∧
  (∀ (s : State) x a r rest kill, (s.ctx x).trapRecs = (a, r, true) :: rest → s.recovering = false →
    exec (.hostTrapFinish x kill) s = .next ((s.finishRecord x kill).deliverNext x)) ∧
  (∀ (s : State) core r pa, (s.ctx r.ctx).trapW - (s.ctx r.ctx).trapR < Config.trapSlots →
    (∀ k ∈ s.cores, ∀ q ∈ k.2.recs, q.ctx = r.ctx → r.opened ≤ q.opened) → r ∈ (s.core core).recs →
    s.walkHeld (dieOf core) r.ctx (s.ctx r.ctx).trapSlot ⟨true, true, false⟩ = false →
    s.translate (dieOf core) r.ctx (s.ctx r.ctx).trapSlot ⟨true, true, false⟩ = .ok pa → s.unowned pa 32 = true →
    s.recordSlot core r = some pa) ∧
  (∀ (s : State) core r pa, (s.core core).recs.find? (fun r => (s.recordSlot core r).isSome) = some r → s.recordSlot core r = some pa →
    homeOf pa = .hbm → (s.ctx r.ctx).handler = none →
    let a := (s.ctx r.ctx).trapSlot
    ∃ t, exec (.trapRecordDelivery core) s = .next t ∧
      (∀ b, t.mem.rd 0 b = if pa ≤ b ∧ b < pa + 32 then (leBytes 32 r.toNat).getD (b - pa) 0 else s.mem.rd 0 b) ∧
      (t.ctx r.ctx).trapW = (s.ctx r.ctx).trapW + 1 ∧ (t.ctx r.ctx).trapRecs = (s.ctx r.ctx).trapRecs ++ [(a, r, true)] ∧
      t.events = s.events ++ [⟨s.tabor.toNat, a, r.ctx, 0x43, 4⟩] ∧
      ((s.core core).heldTraps = [] → (t.core core).recs = (s.core core).recs.filter (fun q => q ≠ r))) ∧
  (∀ (s : State) x c w cr wv k, s.crew? c = some cr → s.wave? c w = some wv → wv.running = some k → (s.ctx x).handler = none →
    s.recovering = false → cr.ctx = x → wv.live = true → wv.lanes ≠ 0 → wv.clause = none →
    (wv.strands.all (fun e => match e.2.st with | .waiting _ => false | .stopped => false | _ => true)) = true →
    exec (.trapHandlerDesignation x c w) s = .next (((s.modCtx x (fun cx => { cx with handler := some (c, w), handlerName := none, inHand := false })).enterWait
      c w k .record (wv.strand k).pc).deliverNext x)) ∧
  (∀ (s : State) x sel o op v, s.engOp x (EngSel.ofWord sel) = some (o, op) →
    exec (.engqCancel x sel) s = .next (s.engCancel o op) ∧
    (∀ o2 op2, (s.engOffset x (EngSel.ofWord sel) v).engOp x (EngSel.ofWord sel) = some (o2, op2) →
      ∀ wv, s.engWave x (EngSel.ofWord sel) = some wv → ∀ d : Dword, d.toNat = v →
      exec (.engqResume x sel d) s = .next ((s.engOffset x (EngSel.ofWord sel) v).engResume o2 op2))) ∧
  (∀ (s : State) x sel (d : Dword) wv, s.engWave x (EngSel.ofWord sel) = some wv → s.engOp x (EngSel.ofWord sel) = none →
    exec (.engqRebuild x sel d) s =
      .next ((s.engOffset x (EngSel.ofWord sel) d.toNat).engRebuild x (EngSel.ofWord sel) d.toNat 0))

/-- R103 to R105: the context requests that their state accepts, each with its new state and nothing of any other context changed; a
destroy from created, loaded, runnable, saved or lost is performed at once and its frames enter quarantine (R101); a request that the state
does not accept answers wrong state and changes nothing else. R384: in recovery none is served. The model's choices: a create with a number
of 1,024 or more, a function above 63 or a save area off 256 bytes answers wrong state (log 99); a load names the handler (log 21). -/
def Obligations.ContextRequests : Prop :=
  ∀ (s : State) x,
    (s.recovering = true → ∀ i ∈ [Instr.contextCreate x 0 0 0 0 0, .contextLoad x ⟨[], none⟩, .contextAdmit x, .declareLost x,
      .contextDestroy x [], .vacate x [], .contextRestore x], exec i s = .next s) ∧
    (s.recovering = false →
    (∀ root base size ring fn, (s.ctx x).st = .absent → x < 1024 → base % 256 = 0 → size % 256 = 0 → fn ≤ 63 →
      ∃ t, exec (.contextCreate x root base size ring fn) s = .next t ∧ OnlyCtx { s with status := 0 } t x ∧
        t.ctx x = { Context.absent with
          st := .created, root := root, saveBase := base, saveSize := size, trapRing := ring, fn := fn }) ∧
    (∀ root base size ring fn, (s.ctx x).st ≠ .absent ∨ 1024 ≤ x ∨ 63 < fn ∨ base % 256 ≠ 0 ∨ size % 256 ≠ 0 →
      exec (.contextCreate x root base size ring fn) s = .next { s with status := 1 }) ∧
    (∀ images handler, (s.ctx x).st = .created ∨ (s.ctx x).st = .loaded → ∃ t, exec (.contextLoad x ⟨images, handler⟩) s = .next t ∧
      OnlyCtx { s with status := 0 } t x ∧
      t.ctx x = { s.ctx x with
        st := .loaded, images := distinct ((s.ctx x).images ++ images)
        handlerName := if handler = none then (s.ctx x).handlerName else handler }) ∧
    (∀ images handler, (s.ctx x).st ≠ .created → (s.ctx x).st ≠ .loaded →
      exec (.contextLoad x ⟨images, handler⟩) s = .next { s with status := 1 }) ∧
    ((s.ctx x).st = .loaded ∨ (s.ctx x).st = .saved → (s.ctx x).destroyHeld = false → ∃ t, exec (.contextAdmit x) s = .next t ∧
      OnlyCtx { s with status := 0 } t x ∧ t.ctx x = { s.ctx x with st := .runnable }) ∧
    ((s.ctx x).st ≠ .loaded → (s.ctx x).st ≠ .saved → exec (.contextAdmit x) s = .next { s with status := 1 }) ∧
    (∀ frames, (s.ctx x).st = .running ∨ (s.ctx x).st = .frozen ∨ (s.ctx x).st = .restoring →
      ∃ t, exec (.contextDestroy x frames) s = .next t ∧ OnlyCtx { s with status := 0 } t x ∧
        t.ctx x = { s.ctx x with destroyHeld := true, frames := frames }) ∧
    (∀ frames, (s.ctx x).st = .created ∨ (s.ctx x).st = .loaded ∨ (s.ctx x).st = .runnable ∨ (s.ctx x).st = .saved ∨ (s.ctx x).st = .lost →
      ∃ t, exec (.contextDestroy x frames) s = .next t ∧ t = { s.destroy x frames with status := 0 } ∧ SameMemory s t ∧
        (t.ctx x).st = .destroyed ∧ (t.ctx x).destroyHeld = false ∧ (t.ctx x).queues = [] ∧ (∀ k kn, t.kernel? k = some kn → kn.ctx ≠ x) ∧
        (∀ y, y ≠ x → t.ctx y = s.ctx y) ∧
        (frames = [] → (t.ctx x).quarantine = (s.ctx x).quarantine) ∧
        (∀ f, frames = [f] → (s.ctx x).releases = [] → (∀ e ∈ s.poolWait, e.2.2 ≠ x) → s.quarantined x < quarantineSize →
          (t.ctx x).quarantine = (s.ctx x).quarantine ++ [(f, (s.ctx x).epoch)])) ∧
    (∀ frames, (s.ctx x).st = .absent ∨ (s.ctx x).st = .destroyed →
      exec (.contextDestroy x frames) s = .next { s with status := 1 }) ∧
    ((s.ctx x).st.live = true → exec (.declareLost x) s = .next { s.loseContext x with status := 0 }) ∧
    ((s.ctx x).st.live = false → exec (.declareLost x) s = .next { s with status := 1 }) ∧
    ((s.ctx x).st ≠ .running → ∀ cores, exec (.vacate x cores) s = .next { s with status := 1 }) ∧
    ((s.ctx x).st ≠ .saved → exec (.contextRestore x) s = .next { s with status := 1 })) ∧
    ((s.ctx x).st = .destroyed → (s.ctx x).quarantine = [] → (s.ctx x).releases = [] → (∀ e ∈ s.poolQ, e.2.2.1 ≠ x) →
      (∀ e ∈ s.poolWait, e.2.2 ≠ x) → exec (.quarantineRetired x) s = .next { s with ctxs := s.ctxs.del x })

/-- R104 to R112 and R132: a held destroy takes effect once the context is runnable, saved or lost; a vacate stops the context's crews on
the named cores at their clause boundaries, notes when, takes the reservations of their waves that stand at one and unbinds the roles bound to
those cores; with every resident crew stopped and saving the context is frozen; a crew that is not to be saved and stands at a boundary stops
its operations and, with no access in flight, leaves its core and returns to its owner's list; a vacate of cores that hold no crew of the
context changes only role bindings; where exactly one stopped crew is left to save and nothing of it is in engines and queues, the save
completes and the context is saved; a context whose images all pass their checks is restoring, with what their verified bytes say; one with a
bad image is lost; the verified crews are loaded and run. The model's choices: the layout of images (log 10) and where they stand (log 105),
that a role bound to a vacated core is unbound (log 52), runnable where a restore finds no image left (log 60), saved straight from running
(log 98), and the die a stolen crew returns to (log 104). -/
def Obligations.SaveAndRestore : Prop :=
  ∀ (s : State) x,
    ((s.ctx x).st = .runnable ∨ (s.ctx x).st = .saved ∨ (s.ctx x).st = .lost → (s.ctx x).destroyHeld = true →
      exec (.destroyPerform x) s = .next (s.destroy x (s.ctx x).frames)) ∧
    (∀ cores, s.recovering = false → (s.ctx x).st = .running → (∀ e ∈ s.crews, e.2.ctx = x → e.2.core ∉ cores ∧ e.2.freezing = false) →
      ∃ t, exec (.vacate x cores) s = .next t ∧ t = { s.unbindRoles x cores with status := 0 }) ∧
    (∀ cores, s.recovering = false → (s.ctx x).st = .running →
      let stop (cr : Crew) : Crew := if cr.ctx = x ∧ cr.core ∈ cores ∧ s.kernelFailed cr = false then { cr with
        freezing := true, vacated := if cr.freezing = true then cr.vacated else s.tabor.toNat
        waves := cr.waves.mapV (fun _ w => if w.clause = none then w.unreserve else w) } else cr
      let s1 : State := { s.unbindRoles x cores with crews := s.crews.mapV (fun _ cr => stop cr) }
      let mine := s1.crews.filter (fun e => e.2.ctx == x && !s1.kernelFailed e.2)
      ((∀ e ∈ s1.vacated x, s1.savesOnVacate e.2 = true ∨ e.2.atBoundary = false) →
        (mine ≠ [] → (∀ e ∈ mine, e.2.freezing = true ∧ s1.savesOnVacate e.2 = true) →
          exec (.vacate x cores) s = .next { s1.modCtx x (fun cx => { cx with st := .frozen }) with status := 0 }) ∧
        (mine = [] ∨ (∃ e ∈ mine, e.2.freezing = false ∨ s1.savesOnVacate e.2 = false) →
          exec (.vacate x cores) s = .next { s1 with status := 0 })) ∧
      (∀ c cr, s.crews = [(c, cr)] → cr.ctx = x → cr.core ∈ cores → s.kernelFailed cr = false → s.savesOnVacate cr = false →
        cr.atBoundary = true → exec (.vacate x cores) s =
          .next { (if (s1.stopOps c).accessing c = true then s1.stopOps c else (s1.stopOps c).requeueCrew c) with status := 0 })) ∧
    (∀ c cr kn, s.crew? c = some cr → s.kernel? cr.kernel = some kn → kn.pinned = false → ∃ t y, s.requeueCrew c = t ∧ t.crew? c = none ∧
      SameMemory s t ∧ (∀ e ∈ t.ops, e.2.crew ≠ c) ∧ t.kernel? cr.kernel = some y ∧ cr.idx ∈ y.requeued.rd [] (kn.owner.rd 0 cr.idx) ∧
      y.restarts.rd (0, []) cr.idx = (cr.taskIdx, (cr.waves.filter (fun w => w.2.inTask)).map (fun w => (w.1, w.2.entry)))) ∧
    (∀ c cr, (s.vacated x).filter (fun e => s.savesOnVacate e.2) = [(c, cr)] → s.crew? c = some cr → cr.atBoundary = true →
      (s.freezeCrew c).frozenCrew c cr = true → ∀ cr1, (s.freezeCrew c).crew? c = some cr1 →
      ∀ s1, (s.freezeCrew c).saveCrew c cr1 = some s1 → (∀ e ∈ s1.crews, e.2.ctx ≠ x) →
      (s1.ctx x).st = .running ∨ (s1.ctx x).st = .frozen →
      exec (.saveComplete x) s = .next (s1.modCtx x (fun cx => { cx with st := .saved }))) ∧
    (s.recovering = false → (s.ctx x).st = .saved → (s.ctx x).destroyHeld = false →
      ∀ pas : Image → List Nat, (∀ i ∈ (s.ctx x).saves, s.saveUnits x i.off (i.len / 256) Need.read = some (pas i)) →
      ((∀ i ∈ (s.ctx x).saves, s.imageFault i (pas i) = none) → exec (.contextRestore x) s = .next { (((s.ctx x).saves.foldl
        (fun (u : State) i => u.readImage x i ((pas i).flatMap (fun pa => u.bytesAt pa 256))) s).modCtx x
        (fun cx => { cx with st := .restoring })) with status := 0 }) ∧
      (∀ i code off, (s.ctx x).saves = [i] → s.imageFault i (pas i) = some (code, off) →
        exec (.contextRestore x) s = .next { (s.loseContext x).event 4 code x off with status := 0 })) ∧
    (∀ cores, (s.ctx x).st = .restoring → cores.length = (s.ctx x).saves.length → s.stopped = false → ∀ s1,
      ((s.ctx x).saves.zip cores).foldl (fun (acc : Option State) e => acc.bind (fun s => s.loadCrew e.1 e.2)) (some s) = some s1 →
      exec (.restoreLoad x cores) s =
        .next (((s1.modCtx x (fun cx => { cx with
          st := if cx.saves.isEmpty = true then .runnable else .running, saves := [] })).settleRestarts).deliverNext x))

/-- R120 and R121: a queue's states, and its commands at their turn: the head of a ready queue that is well formed and may start
starts, and the read index moves; a malformed head halts its queue with host event 0x0051; a wait that does not hold blocks it. -/
def Obligations.QueueCommands : Prop :=
  ∀ (s : State) x q, 
    (s.recovering = false → s.hasCtx x = true → q < 64 → ((s.ctx x).queue q).st = .disabled → ∃ t, exec (.queueEnable x q) s = .next t ∧ OnlyCtx s t x ∧
      (t.ctx x).queue q = { (s.ctx x).queue q with
        st := if ((s.ctx x).queue q).ridx = ((s.ctx x).queue q).widx then .idle else .ready }) ∧
    (s.recovering = false → s.hasCtx x = true → q < 64 → ∃ t, exec (.queueDisable x q) s = .next t ∧ OnlyCtx s t x ∧
      (t.ctx x).queue q = { (s.ctx x).queue q with st := .disabled }) ∧
    (s.recovering = false → s.hasCtx x = true → q < 64 → ((s.ctx x).queue q).st = .halted → ∃ t, exec (.queueResume x q) s = .next t ∧ OnlyCtx s t x ∧
      (t.ctx x).queue q = { (s.ctx x).queue q with st := .ready }) ∧
    (∀ v, s.recovering = false → s.hasCtx x = true → q < 64 → ((s.ctx x).queue q).st = .idle → ((s.ctx x).queue q).ridx ≠ ((s.ctx x).queue q).widx →
      ∃ t, exec (.doorbell x q v) s = .next t ∧ OnlyCtx s t x ∧ (t.ctx x).queue q = { (s.ctx x).queue q with st := .ready }) ∧
    (∀ kind i bs, (kind, i) ∈ [(0, Instr.noopCommand x q), (1, .launchCommand x q), (2, .waitCommand x q), (3, .signalCommand x q),
        (4, .replayCommand x q)] → (∀ r ∈ s.replays, ¬(r.2.ctx = x ∧ r.2.queue = q)) → ((s.ctx x).queue q).st = .ready →
      s.admitted x = true → s.stopped = false → ((s.ctx x).queue q).ridx ≠ ((s.ctx x).queue q).widx →
      ((s.ctx x).queue q).overrun = false → s.rangeHeld 0 x Need.read (((s.ctx x).queue q).slotAddr ((s.ctx x).queue q).ridx) 64 = false →
      s.readV x (((s.ctx x).queue q).slotAddr ((s.ctx x).queue q).ridx) 64 = some bs →
      let p := Packet.ofNat (leNat bs)
      (p.bad = true → exec i s = .next (s.haltQueue x q)) ∧
      (p.bad = false → p.kind = kind → s.mayStart p ((s.ctx x).queue q).prev = true → s.commandHeld x p = false →
        (∀ c s1, s.startCommand x q p id false = some (some (c, s1)) → exec i s = .next (s1.advanceQueue x q c)) ∧
        (s.startCommand x q p id false = some none → exec i s = .next (if kind = 2
          then s.modQueue x q (fun qu => { qu with st := .blocked }) else s))))

/-- R122, R130 to R136: a placement that R122, R128, R129 and R140 allow loads the crew and the context runs; a die with room and
nothing to place takes half of another's crews; a role is bound, and the distributor's copy of the binding table goes back to ROLES, block by
block as it is mapped, no other byte of memory changed; a waiting kernel starts at its tick; a drained kernel completes
after the cycle of its last crew's end, with its record, whose ENERGY is the kernel's account (R135), written or, at another package,
acknowledged; one that has not ended before this cycle is cancelled with status 3. -/
def Obligations.KernelEvents : Prop :=
  (∀ (s s1 : State) k die core base c tile, s.placeCrew k die core base c tile = some s1 → s1.groupsKeep = true →
    exec (.crewPlace k die core base c tile) s = .next s1) ∧
  (∀ (s s1 : State) k die core base c tile kn, s.kernel? k = some kn → s.placeCrew k die core base c tile = some s1 →
    ∃ cr, s1.crew? s.next = some cr ∧ cr.kernel = k ∧ cr.idx = c ∧ cr.core = core ∧ cr.base = base ∧ s1.next = s.next + 1 ∧
      SameMemory s s1 ∧ (s1.ctx kn.ctx).st = .running ∧ ∀ d, d ≠ s.next → s1.crew? d = s.crew? d) ∧
  (∀ (s : State) k thief victim kn, s.kernel? k = some kn → kn.pinned = false → kn.st = .running → thief ≠ victim →
    thief < 4 → victim < 4 → kn.unplaced.rd [] thief = [] → kn.requeued.rd [] thief = [] → kn.unplaced.rd [] victim ≠ [] →
    ((List.range 64).map (fun i => 64 * thief + i)).any (fun c => s.roomFor kn c) = true →
    ∃ t x, exec (.stealMessage k thief victim) s = .next t ∧ t.kernel? k = some x ∧ SameMemory s t ∧ t.crews = s.crews ∧
      x.unplaced.rd [] victim ++ x.unplaced.rd [] thief = kn.unplaced.rd [] victim ∧
      (x.unplaced.rd [] thief).length = if (kn.unplaced.rd [] victim).length = 1 then 1 else (kn.unplaced.rd [] victim).length / 2) ∧
  (∀ (s : State) k role core kn, s.recovering = false → s.kernel? k = some kn → kn.pinned = true → kn.st = .running → role < 256 →
    core < Config.cores →
    let roles := kn.roles.set role (2 ^ 31 + core)
    let ps := s.rolesPieces kn roles
    let held := s.rangeHeld 0 kn.ctx Need.write kn.rolesAt (4 * roles.length)
    (held = true ∨ (∃ p ∈ ps, s.unowned p.1 p.2.length = false) → exec (.roleRebinding k role core) s = .next s) ∧
    (held = false → (∀ p ∈ ps, s.unowned p.1 p.2.length = true) → (∀ p ∈ ps, homeOf p.1 = .hbm) →
      ps.Pairwise (fun p q => p.1 + p.2.length ≤ q.1 ∨ q.1 + q.2.length ≤ p.1) →
      ∃ t x, exec (.roleRebinding k role core) s = .next t ∧ t.kernel? k = some x ∧
        x = { kn with bind := kn.bind.put role core, roles := roles } ∧ (∀ j, j ≠ k → t.kernel? j = s.kernel? j) ∧
        (∀ p ∈ ps, ∀ i, i < p.2.length → t.mem.rd 0 (p.1 + i) = p.2.getD i 0) ∧
        (∀ a, (∀ p ∈ ps, a < p.1 ∨ p.1 + p.2.length ≤ a) → t.mem.rd 0 a = s.mem.rd 0 a)) ∧
    (∀ p, p ∈ ps ↔ ∃ b ∈ blocksOf kn.rolesAt (4 * roles.length), ∃ pa, s.translate 0 kn.ctx b.1 Need.write = .ok pa ∧
      p = (pa, ((roles.flatMap (leBytes 4)).drop (b.1 - kn.rolesAt)).take b.2))) ∧
  (∀ (s : State) k kn, s.kernel? k = some kn → kn.st = .waiting → kn.start ≤ s.tabor.toNat → s.stopped = false →
    exec (.kernelStartTick k) s = .next (s.startKernel k)) ∧
  (∀ (s : State) k n kn, s.kernel? k = some kn → kn.st = .retiring → kn.endCycle < s.cycle → s.kernelQuiet kn = true →
    (∀ pa, kn.recording = none → s.walkHeld 0 kn.ctx kn.done Need.write = false → s.translate 0 kn.ctx kn.done Need.write = .ok pa →
      s.unowned pa 32 = true →
      (homeOf pa = .hbm → ∃ t x, exec (.kernelDrained k n) s = .next t ∧ t.kernel? k = some x ∧ x.st = .complete ∧ x.recorded = true ∧
        ∀ a, t.mem.rd 0 a = if pa ≤ a ∧ a < pa + 32 then (leBytes 32 (doneRecord kn kn.energy)).getD (a - pa) 0 else s.mem.rd 0 a) ∧
      (∀ g, homeOf pa = .remote g → s.openPort ≠ none → ∃ t x y, exec (.kernelDrained k n) s = .next t ∧ t.kernel? k = some x ∧
        x = { kn with recording := some s.msgNo } ∧ t.pend.find? s.msgNo = some y ∧ y.msg.kind = 3 ∧ y.msg.addr = pa ∧ SameMemory s t)) ∧
    (∀ m, kn.recording = some m →
      ((s.pend.find? m).isSome = true → exec (.kernelDrained k n) s = .next s) ∧
      (s.pend.find? m = none → ∃ t, exec (.kernelDrained k n) s = .next t ∧ { t with kernels := s.kernels } = s ∧
        t.kernel? k = some { kn with recorded := true, st := .complete }))) ∧
  (∀ (s : State) k kn, s.recovering = false → s.kernel? k = some kn →
    kn.st = .started ∨ kn.st = .waiting ∨ kn.st = .running ∨ (kn.st = .retiring ∧ kn.endCycle = s.cycle) →
    exec (.kernelCancel k) s = .next (s.failKernel k 3 0 0))

/-- R100, R101, R113, R358, R359, R382 and R384: a released frame joins the quarantine queue with the current epoch, and waits while the
queue is full; it goes to the free ring once that epoch has retired; a request for quiescence advances the epoch. Energy of a core is
counted for its die and the package and goes to the contexts of the waves resident there in proportion to their number (in whole
microjoules: the model's choice, log 81), and so to their kernels; an engine operation's goes to its context and to its crew's kernel, that
of the link to none.
R356, R357 and R383: a walk reads its next entry, or ends where the entry cannot be used, and one for an instruction about to issue or a
clause about to be fetched then keeps the trap's cause for it (which walks step apart from their access is the model's choice, log 37); a
finished walk's leaf enters its die's translation cache; the machine may drop an entry of a die's cache. On stopped dies nothing walks. -/
def Obligations.PagesAndTranslations : Prop :=
  (∀ (s : State) x,
    (∀ val : Dword, s.hasCtx x = true → s.recovering = false → (s.ctx x).releases = [] → (∀ e ∈ s.poolWait, e.2.2 ≠ x) →
      let f := val.toNat / 2 ^ 12 % 2 ^ 40
      ∃ t, exec (.frameRelease x val) s = .next t ∧ OnlyCtx s t x ∧ t.ctx x =
        if s.quarantined x < quarantineSize then { s.ctx x with quarantine := (s.ctx x).quarantine ++ [(f, (s.ctx x).epoch)] }
        else { s.ctx x with releases := [f] }) ∧
    (∀ f e rest, (s.ctx x).quarantine = (f, e) :: rest → s.retired x e = true → (s.ctx x).releases = [] →
      (∀ e ∈ s.poolWait, e.2.2 ≠ x) → ∃ t, exec (.frameFree x) s = .next t ∧ OnlyCtx s t x ∧
      t.ctx x = { s.ctx x with quarantine := rest, freeRing := (s.ctx x).freeRing ++ [f] }) ∧
    (∀ f e rest, (s.ctx x).quarantine = (f, e) :: rest → s.retired x e = false → exec (.frameFree x) s = .next s) ∧
    (s.hasCtx x = true → s.recovering = false → ∃ t, exec (.quiescenceRequest x) s = .next t ∧ OnlyCtx s t x ∧
      t.ctx x = { s.ctx x with epoch := (s.ctx x).epoch + 1 }) ∧
    (∀ c n, c < Config.cores → ∃ t, exec (.eacctUpdate (.core c) n) s = .next t ∧
      { t with ctxs := s.ctxs, kernels := s.kernels, energy := s.energy, energyDie := s.energyDie } = s ∧ t.energy = (s.energy + n) % 2 ^ 64 ∧
      t.energyDie = s.energyDie.wr 0 (dieOf c) ((s.energyDie.rd 0 (dieOf c) + n) % 2 ^ 64) ∧
      (∀ y, t.ctx y = if y ∈ s.residents (·.ctx) c ∧ (s.ctx y).st.live = true then { s.ctx y with
        eacct := ((s.ctx y).eacct + n * ((s.residents (·.ctx) c).filter (· == y)).length / (s.residents (·.ctx) c).length) % 2 ^ 64 }
        else s.ctx y) ∧
      ∀ k, t.kernel? k = (s.kernel? k).map (fun kn => if k ∈ s.residents (·.kernel) c then { kn with
        energy := (kn.energy + n * ((s.residents (·.kernel) c).filter (· == k)).length / (s.residents (·.kernel) c).length) % 2 ^ 64 }
        else kn)) ∧
    (∀ o op d n, s.op? o = some op → d < 4 → (s.ctx op.ctx).st.live = true → isRequest op = false → ∀ cr, s.crew? op.crew = some cr →
      ∃ t, exec (.eacctUpdate (.operation o d) n) s = .next t ∧ OnlyCtx (s.spend d n) { t with kernels := s.kernels } op.ctx ∧
      (∀ k, t.kernel? k = (s.kernel? k).map (fun kn => if k = cr.kernel then { kn with energy := (kn.energy + n) % 2 ^ 64 } else kn)) ∧
      t.ctx op.ctx = { s.ctx op.ctx with eacct := ((s.ctx op.ctx).eacct + n) % 2 ^ 64 }) ∧
    (∀ d n, d < 2 → exec (.eacctUpdate (.link d) n) s = .next { s with
      energy := (s.energy + n) % 2 ^ 64, energyDie := s.energyDie.wr 0 (4 + d) ((s.energyDie.rd 0 (4 + d) + n) % 2 ^ 64) })) ∧
  ((∀ (s : State) die x va w, s.stopped = false → s.hasCtx x = true → die < 4 → va < 2 ^ 56 →
    w = ((s.walks.find? (fun w => w.die == die && w.ctx == x && w.va == va)).getD ⟨die, x, va, 4, (s.ctx x).root, (s.ctx x).epoch, none,
      s.walkWanted die x va, none⟩) → w.leaf = none → w.fault = none → s.unowned (w.table + 8 * levelIndex w.level va) 8 = true →
    exec (.pageWalk die x va) s = .next { s with
      walks := (s.walks.filter (fun w => !(w.die == die && w.ctx == x && w.va == va))) ++ (s.walkStep w).toList }) ∧
  (∀ (s : State) idx victim w u, s.stopped = false → s.walks[idx]? = some w → w.leaf = some u →
    ∃ t, exec (.translationFill idx victim) s = .next t ∧
    { t with walks := s.walks, tlb := s.tlb } = s ∧ t.walks = s.walks.eraseIdx idx ∧ u ∈ t.tlb ∧
    (∀ v ∈ t.tlb, v = u ∨ v ∈ s.tlb) ∧ (∀ v ∈ s.tlb, v.die ≠ u.die → v ∈ t.tlb)) ∧
  (∀ (s : State) die x va idx victim, s.stopped = true →
    exec (.pageWalk die x va) s = .next s ∧ exec (.translationFill idx victim) s = .next s) ∧
  (∀ (s : State) die idx, exec (.translationDrop die idx) s = .next { s with
    tlb := s.tlb.filter (fun u => u.die != die) ++ (s.tlb.filter (fun u => u.die == die)).eraseIdx idx }))

/-- R376 to R381: what the host and the management controller do to the package: POWER limits of 1400 to 2300 are taken, and any other
leaves the register as it was and sets BOOTSTAT.ERR, which then reads 1 until 1 is written to it; the completion reports the value in
force after the write; with the link down or in recovery a host's write does nothing; an aperture access reaches the lines' homes (where
in the package an aperture begins is the model's choice, log 23); a command's completion reports the value in force after it; an event
goes to its ring's next slot with MSI-X; a lost CXL device is told once; a link change is seen in HOSTUP. -/
def Obligations.HostAccesses : Prop :=
  (∀ (s : State) (val : Dword), s.hostReaches = true → 1400 ≤ val.toNat → val.toNat ≤ 2300 →
    exec (.registerWrite 0 0 0x10 val) s =
      .next { s with pwrLim := val.toNat, outbox := .value val.toNat :: s.outbox }) ∧
  (∀ (s : State) (val : Dword), s.hostReaches = true → val.toNat < 1400 ∨ 2300 < val.toNat → val.toNat < 2 ^ 32 →
    ∃ t, exec (.registerWrite 0 0 0x10 val) s = .next t ∧
      t = { s with bootErr := true, outbox := .value s.pwrLim :: s.outbox } ∧ t.bootstat / 2 ^ 7 % 2 = 1) ∧
  (∀ (s : State) (val : Dword), s.hostReaches = true → ∃ t, exec (.registerWrite 0 0 0x00 val) s = .next t ∧
    t.bootErr = (s.bootErr && !val.toNat.testBit 7) ∧ { t with bootErr := s.bootErr, outbox := s.outbox } = s ∧
    t.bootstat / 2 ^ 7 % 2 = t.bootErr.toNat) ∧
  (∀ (s : State) fn bar off (val : Dword), s.hostReaches = false → exec (.registerWrite fn bar off val) s = .next s) ∧
  (∀ (s : State) fn off b len, s.hostReaches = true → fn ≤ 63 → b ≠ [] → off + b.length ≤ 2 ^ 24 →
    let addr := Config.apertureBase fn + off
    s.unowned addr b.length = true →
    ∃ t, exec (.hostApertureAccess ⟨fn, off⟩ (some b) len) s = .next t ∧
      ∀ a, t.mem.rd 0 a = if addr ≤ a ∧ a < addr + b.length then b.getD (a - addr) 0 else s.mem.rd 0 a) ∧
  (∀ (s : State) fn off len, s.hostReaches = true → fn ≤ 63 → 0 < len → off + len ≤ 2 ^ 24 →
    let addr := Config.apertureBase fn + off
    s.unowned addr len = true → exec (.hostApertureAccess ⟨fn, off⟩ none len) s =
      .next { s with outbox := .bytes ((List.range len).map (fun i => s.mem.rd 0 (addr + i))) :: s.outbox }) ∧
  (∀ (s : State) bar off (val : Dword), exec (.mctpCommand (.write bar off val)) s =
    .next ((s.mgmtWrite bar off val).send (.value ((s.mgmtWrite bar off val).mgmtRead bar off)))) ∧
  (∀ s : State, exec (.mctpCommand .snapshot) s =
    .next { s with outbox := .bytes (Config.snapshot s.snaps.length) :: .value (s.snaps.headD 0) :: s.outbox }) ∧
  (∀ (s : State) fw copy bytes, copy < 2 → exec (.mctpCommand (.writeImage fw copy bytes)) s =
    .next { s with flash := s.flash.put (2 * copy + fw.toNat) bytes }) ∧
  (∀ (s : State) e, s.events.find? (fun e => s.ringOf e == none) = some e → s.evBase ≠ 0 →
    (s.evW + 2 ^ 32 - s.evR) % 2 ^ 32 < 4096 → s.unowned (s.evBase + 32 * (s.evW % 4096)) 32 = true →
    homeOf (s.evBase + 32 * (s.evW % 4096)) = .hbm →
    ∃ t, exec (.eventDelivery none) s = .next t ∧ t.events = s.events.erase e ∧ t.evW = (s.evW + 1) % 2 ^ 32 ∧
      t.outbox.head? = some (.msix 0) ∧ (∀ a, t.mem.rd 0 a =
        let base := s.evBase + 32 * (s.evW % 4096)
        if base ≤ a ∧ a < base + 32 then (leBytes 32 e.toNat).getD (a - base) 0 else s.mem.rd 0 a)) ∧
  (∀ (s : State) dev, dev < 4 → dev ∉ s.cxlLost → exec (.cxlDeviceLost dev) s = .next { s with
    cxlLost := s.cxlLost ++ [dev], events := s.events ++ [⟨s.tabor.toNat, 0, 0, 0x73, 7⟩] }) ∧
  (∀ (s : State) up, exec (.hostLinkChange up) s = .next { s with hostUp := up })

/-- R271 to R273: a ring of a live context is registered with its indices at 0; a kick of no requests moves nothing but the kicker;
a kick whose walks an engine's line holds waits (R90); a request is read and starts while one of its die's four engines is free, and waits
while none is; a record that is due is written in one step; CMD acts on the oldest halted
request of its ring (that of several the oldest goes first is the model's choice, log 86). -/
def Obligations.TransformRings : Prop :=
  (∀ (s : State) x q die req comp k, s.recovering = false → (s.ctx x).st ≠ .absent → (s.ctx x).st ≠ .destroyed → q < 16 → die < 4 → 4 ≤ k → k ≤ 8 →
    req % 4096 = 0 → (∀ r, (s.ctx x).rings.find? q = some r → r.busy = [] ∧ r.ended = []) →
    ∃ t, exec (.transformRingRegistration x q die req comp k) s = .next t ∧ OnlyCtx s t x ∧
      (t.ctx x).rings.find? q = some ⟨die, req, comp, k, 0, 0, 0, 0, [], [], [], 0, none, 2 ^ k⟩) ∧
  (∀ (s : State) x q (val : Word) core, s.recovering = false → exec (.transformKick x q val core) s =
    .next (if s.kickHeld x q val.toNat none = true then s else s.kick x q val.toNat core none)) ∧
  (∀ (s : State) x q val core r, (s.ctx x).rings.find? q = some r → r.widx % 2 ^ 32 = val → 
    ∃ t, s.kick x q val core none = t ∧ OnlyCtx s t x ∧ (t.ctx x).rings.find? q = some { r with core := core, crew := none, limit := r.ridx + 2 ^ r.k }) ∧
  (∀ (s : State) x q r o op tab, (s.ctx x).rings.find? q = some r → r.halted = [] → r.ridx ≠ r.widx → s.enginesBusy r.die < 4 →
    s.stopped = false → (s.ctx x).st ≠ .frozen → r.busy.find? r.ridx = some o → s.op? o = some op → op.count ≠ 1 →
    s.gather o op r.die [.dev (r.req + 64 * (r.ridx % 2 ^ r.k)) 64] = .ok tab →
    let op1 := { op with cap := tabBytes tab true (r.req + 64 * (r.ridx % 2 ^ r.k)) 64, buf := [], st := .active }
    op1.badField = none →
    ∃ t y, exec (.transformRequestStart x q) s = .next t ∧ t.op? o = some { op1 with len := op1.rLen } ∧
      (t.ctx x).rings.find? q = some y ∧ y = { r with ridx := r.ridx + 1 } ∧ SameMemory s t) ∧
  (∀ (s : State) x q r, (s.ctx x).rings.find? q = some r → 4 ≤ s.enginesBusy r.die ∨ r.ridx = r.widx ∨ r.halted ≠ [] →
    exec (.transformRequestStart x q) s = .next s) ∧
  (∀ (s : State) x q slot r st dt us ep pa, (s.ctx x).rings.find? q = some r → r.ended.find? slot = some (st, dt, us, 0, ep) → st < 2 ^ 16 →
    s.walkHeld r.die x (r.comp + 16 * (slot % 2 ^ r.k)) Need.write = false → s.translate r.die x (r.comp + 16 * (slot % 2 ^ r.k)) Need.write = .ok pa → homeOf pa = .hbm → s.unowned pa 16 = true →
    ∃ t y, exec (.transformComplete x q slot) s = .next t ∧ (t.ctx x).rings.find? q = some y ∧ y.ended = r.ended.del slot ∧
      ∀ a, t.mem.rd 0 a = if pa ≤ a ∧ a < pa + 16 then
      (leBytes 16 (us.toNat * 2 ^ 64 + dt % 2 ^ 32 * 2 ^ 32 + st % 2 ^ 16 * 2 ^ 16 + 1)).getD (a - pa) 0 else s.mem.rd 0 a) ∧
  (∀ (s : State) x q r o op, s.recovering = false → s.haltedOp x q = some (r, o, op) →
    exec (.transformCancel x q) s = .next ((s.unhalt x q 2).endRequest o op 3 op.off) ∧
    (op.len ≠ 0 → exec (.transformResume x q) s =
      .next ((s.unhalt x q 1).modOp o (fun op => { op with st := .active }))))

/-- R336, R337, R346 and R351: TKSIZE's bias array is written to the scratchpad when the unit's turn comes; a PROOT that releases
no page and whose lines' turns have come commits what it writes and completes; a quarantined pool page stays while its epoch is not retired and then goes to its pool's ring. -/
def Obligations.UnitAndPoolTurns : Prop :=
  (∀ (s : State) o op cr f tab mp p tab2, s.op? o = some op → s.crew? op.crew = some cr → op.instr = .tksize f → op.st = .active →
    op.off = 0 → (∀ e ∈ s.ops, s.onPod (podOf cr.core) e.2 = true → e.2.st = .active → op.phys ≤ e.2.phys) →
    s.tokenMaps o op (dieOf cr.core) = .ok (tab, mp, p) →
    s.gather o { op with buf := tab } (dieOf cr.core) ((op.tokenRanges mp p).1.map (fun r => Src.dev r.1 r.2)) = .ok tab2 →
    exec (.gOperationCompletion o) s = .next (((s.spadWrite op.crew op.dv (op.biasArray mp)).noteAcquire op 1).endOp o 3)) ∧
  (∀ (s : State) o op cr f r l, s.op? o = some op → s.crew? op.crew = some cr → op.instr = .proot f → op.st = .active → op.off = 0 →
    s.rootStep o op (dieOf cr.core) = .ok r → (s.mappedLines op (dieOf cr.core) r.touched).all (fun x => op.lines.contains x) = true →
    (s.mappedLines op (dieOf cr.core) r.touched).all (fun x => s.turnOf o x) = true → r.freed = [] →
    s.runsHeld (dieOf cr.core) op.ctx r.out = false → s.writeRuns op (dieOf cr.core) r.out = .ok l → (∀ e ∈ l, homeOf e.1 = .hbm) →
    s.unacked o = false → (∀ e ∈ s.poolWait, e.2.2 ≠ op.ctx) → exec (.prootCompletion o) s =
      .next ((((l.foldl (fun (s : State) e => s.commitFor { op.origin o with vas := outPages r.out l } none none e.1 e.2)
        (s.dropRuns (dieOf cr.core) op.ctx r.out)).noteAcquire op (runsScope l)).noteFuture op o (runsScope l)).endOp o 3)) ∧
  (∀ (s : State) idx pool page x e, s.poolQ[idx]? = some (pool, page, x, e) →
    (s.retired x e = false → exec (.poolPageFree idx) s = .next s) ∧
    (s.retired x e = true → ∀ pa wa sa, s.walkHeld 0 x pool Need.read = false → s.walkHeld 0 x (pool + 20) Need.atomic = false →
      s.translate 0 x pool Need.read = .ok pa → s.translate 0 x (pool + 20) Need.atomic = .ok wa →
      let slot := bitsOf (leNat (s.bytesAt pa 20)) 64 64 + 4 * (leNat (s.bytesAt wa 4) % bitsOf (leNat (s.bytesAt pa 20)) 128 32)
      slot < 2 ^ 56 → s.walkHeld 0 x slot Need.write = false → s.translate 0 x slot Need.write = .ok sa → s.unowned pa 24 = true → s.unowned sa 4 = true →
      let now := (s.ctx x).epoch
      exec (.poolPageFree idx) s = .next ((({ s with poolQ := s.poolQ.eraseIdx idx }.ctxWrite x now sa (leBytes 4 page)).ctxWrite x now wa
        (leBytes 4 ((leNat (s.bytesAt wa 4) + 1) % 2 ^ 32))).settleQuarantine x)))

/-- R374, R375, R379 and R384: each source of the Clave latches a snapshot at the present count and is recorded in every context's LAST,
SEQ counting up (that a firing stands in every context's record is the model's choice, log 33); one that comes while a latch is in progress merges into it: LAST and LATE are recorded, SEQ and the snapshot stay. Of a
host firing and a Tabor match in one cycle LAST names the host. A write of the match tick fires once (the model's choice, log 34). A firing at a tick waits for it. A latch is over within 64 cycles (that
it lasts the cycle of its firing is the model's choice, log 87). -/
def Obligations.ClaveFirings : Prop :=
  ∀ s : State,
    (∀ v, s.hostReaches = true → ∃ t, exec (.claveFireHost v) s = .next t ∧ ClaveFires s t 1 none) ∧
    (∀ v, s.hostReaches = false → exec (.claveFireHost v) s = .next s) ∧
    (∃ t, exec .claveFireManagement s = .next t ∧ ClaveFires s t 2 none) ∧
    (s.claveArmed = true → s.claveTick ≠ 0 → s.claveTick ≤ s.tabor.toNat → ∃ t, exec .claveTaborMatch s = .next t ∧
      ClaveFires { s with claveArmed := false } t (if s.claveHost = some s.cycle then 1 else 5) none) ∧
    (s.tabor.toNat < s.claveTick ∨ s.claveArmed = false → exec .claveTaborMatch s = .next s) ∧
    (∀ idx t, s.claveTicks[idx]? = some t → t.1 ≤ s.tabor.toNat → ∃ u, exec (.snapTickFire idx) s = .next u ∧
      ClaveFires { s with claveTicks := s.claveTicks.eraseIdx idx } u (if t.2 = true then 3 else 4) (some false)) ∧
    (∀ idx t, s.claveTicks[idx]? = some t → s.tabor.toNat < t.1 → exec (.snapTickFire idx) s = .next s) ∧
    (s.cycle ≠ s.claveSince → exec .claveLatchDone s = .next { s with claveBusy := false }) ∧
    (s.cycle = s.claveSince → exec .claveLatchDone s = .next s) ∧
    (∀ c n, s.claveSince + 64 ≤ s.cycle + c → (s.tick c n).claveBusy = false)

/-- R369 and R370: the states of a port, and what each event makes of it, other ports unchanged. -/
def Obligations.PortEvents : Prop :=
  ∀ (s : State) p,
    ((s.port p).st = .down → p < 128 → exec (.portEnable p) s = .next (s.train p)) ∧
    ((s.port p).st ≠ .down → exec (.portEnable p) s = .next s) ∧
    (p < 128 → ∃ t, exec (.portDisable p) s = .next t ∧ (t.port p).st = .down ∧ (t.port p).lanes = 0) ∧
    (∀ lanes, (s.port p).st = .training → 1 ≤ lanes → lanes ≤ 3 → ∃ t, exec (.trainingDone p lanes) s = .next t ∧ OnlyPort s t p ∧
      t.port p = { s.port p with
        st := if lanes = 3 then .up else .degraded, lanes := lanes, seq := 0, rxSeq := 4095, tx := [], rx := []
        cmpOn := (s.port p).cmp, nakSent := false, nakDue := false, resend := 0, tries := 0, inw := [] }) ∧
    ((s.port p).st = .training → ∃ t, exec (.trainingFailed p) s = .next t ∧ (t.port p).st = .failed ∧
      t.events.getLast? = some ⟨s.tabor.toNat, p, 0, 0x61, 6⟩) ∧
    ((s.port p).works = true → ∀ l, exec (.laneLoss p l) s = .next (s.train p)) ∧
    ((s.port p).works = true → 8 ≤ (s.port p).tries → exec (.retryLimit p) s = .next (s.train p)) ∧
    ((s.port p).tries < 8 → exec (.retryLimit p) s = .next s) ∧
    (p < 128 → ∃ t, exec (.pstatReplaysRead p) s = .next t ∧ (t.port p) = { s.port p with replays := 0 } ∧
      t.outbox = .value (s.port p).pstat :: s.outbox ∧ ∀ o, o ≠ p → t.port o = s.port o) ∧
    ∃ t, exec (.ackTimeout p) s = .next t ∧ OnlyPort s t p ∧ t.port p = (s.port p).startResend

/-- R368 and R371: a port with a resend due sends the stored flit; while retrying, with its buffer full or with nothing queued it sends an
idle flit, which carries ACK and a NAK that is due; else it forms one, numbered with the next SEQ. A flit that fails its check is
discarded, one out of sequence too, and the expected one is accepted with the peer's ACK taken. The model's choices (log 54): an idle
flit's SEQ is not compared, and a discarded flit's ACK is not taken. -/
def Obligations.FlitsPass : Prop :=
  ∀ (s : State) p, (s.port p).works = true →
    (∀ e, 0 < (s.port p).resend → (s.port p).buf[(s.port p).buf.length - (s.port p).resend]? = some e →
      ∃ t, exec (.flitSend p) s = .next t ∧ t.outbox = .flit p e.2 :: s.outbox ∧
        t.port p = { s.port p with resend := (s.port p).resend - 1 }) ∧
    ((s.port p).resend = 0 → (s.port p).st = .retrying ∨ (s.port p).out = [] ∨ 512 ≤ (s.port p).buf.length →
      ∃ t, exec (.flitSend p) s = .next t ∧
      t.outbox = .flit p (makeFlit ⟨(s.port p).seq, (s.port p).rxSeq, true, (s.port p).nakDue, false, 0⟩ []) :: s.outbox ∧
      t.port p = { s.port p with nakDue := false }) ∧
    ((s.port p).resend = 0 → (s.port p).st ≠ .retrying → (s.port p).out ≠ [] → (s.port p).buf.length < 512 →
      let q := (s.port p).stamp s.tabor.toNat
      ∃ t, exec (.flitSend p) s = .next t ∧ t.outbox = .flit p q.form.1 :: s.outbox ∧ t.port p = q.form.2) ∧
    (∀ (q : Port) m count, q.msgs = [m] → m.kind = 7 → q.out = m.words → q.stamp count = { q with
      out := (m.words.set 4 (BitVec.ofNat 32 count)).set 5 (BitVec.ofNat 32 (count / 2 ^ 32)) }) ∧
    (∀ f, flitOk f = false → ∃ t, exec (.flitReceive p f) s = .next t ∧ OnlyPort s t p ∧ t.port p = (s.port p).discard) ∧
    (∀ f, flitOk f = true → (flitHeader f).idle = false → (flitHeader f).seq ≠ ((s.port p).rxSeq + 1) % 4096 →
      ∃ t, exec (.flitReceive p f) s = .next t ∧ OnlyPort s t p ∧ t.port p = (s.port p).discard) ∧
    (∀ f, flitOk f = true → (flitHeader f).idle = true → ∃ t, exec (.flitReceive p f) s = .next t ∧ OnlyPort s t p ∧
      t.port p = (s.port p).answers (flitHeader f)) ∧
    (∀ f, flitOk f = true → (flitHeader f).idle = false → (flitHeader f).seq = ((s.port p).rxSeq + 1) % 4096 →
      ∃ (s1 : State) (x : Port), OnlyPort s s1 p ∧ s1.port p = x ∧ x.inw = (s.port p).inw ++ (flitWords (s.port p).rx f).1 ∧
        exec (.flitReceive p f) s = .next (s1.takeMsgs p x.inw.length))

/-- R366, R367, R372, R373 and R375: a message received is acted on in one step and answered as its kind asks; reads and writes go to
the lines' home. The model's choices: the words of a message, the number that its answer carries and the bytes of a guard tag that
was never written (log 11), the words and stamps of a time message (log 82), and that the start of a gang's kernel is only acknowledged
(log 55). -/
def Obligations.MessagesActedOn : Prop :=
  ∀ (s : State) idx m,
    (∀ len, s.mail idx 1 = some m → 0 < len → len ≤ 256 → s.mailReady m len = true → exec (.readRequest idx len) s =
      .next ((s.readMail idx).answer 2 m (bytesWords (s.homeBytes View.plain m.addr len)))) ∧
    (s.mail idx 1 = some m → s.mailReady m 256 = true → exec (.readRequest idx 268) s =
      .next (({ s with fresh := s.fresh + 12 }.readMail idx).answer 2 m (bytesWords (s.homeBytes View.plain m.addr 256 ++ s.tagOf m.addr)))) ∧
    (s.mail idx 2 = some m → ∀ pd op e, (s.readMail idx).pend.find? m.no = some pd → s.op? pd.op = some op → pd.elem < noOp →
      op.elems[pd.elem]? = some e → e.w ≤ ((wordBytes m.data).take 256).length → exec (.readResponse idx) s =
        .next ({ s.readMail idx with pend := (s.readMail idx).pend.del m.no }.remoteValue pd.op pd.elem op e
          (leNat (((wordBytes m.data).take 256).take e.w)))) ∧
    (∀ len, s.mail idx 3 = some m → (len + 3) / 4 = m.data.length → len ≤ 256 → s.mailReady m len = true →
      exec (.writeMessage idx len) s = .next (((s.agentWrite m.addr ((wordBytes m.data).take len)).readMail idx).answer 5 m [])) ∧
    (s.mail idx 3 = some m → m.data.length = 67 → s.mailReady m 256 = true → exec (.writeMessage idx 268) s =
      .next ((({ s.agentWrite m.addr ((wordBytes m.data).take 256) with
        tags := (s.agentWrite m.addr ((wordBytes m.data).take 256)).tags.put (m.addr / 256) ((wordBytes m.data).take 268) } :
          State).readMail idx).answer 5 m [])) ∧
    (∀ aop aty, s.mail idx 4 = some m → s.mailReady m (atBytes aty) = true →
      let old := leNat (s.mem.bytes m.addr (atBytes aty))
      let c := leNat (wordBytes (m.data.take (m.data.length / 2))) % 2 ^ (8 * atBytes aty)
      let c2 := leNat (wordBytes (m.data.drop (m.data.length / 2))) % 2 ^ (8 * atBytes aty)
      exec (.atomicMessage idx aop aty false) s = .next (((if atomWrites aop old c c2 = true
        then s.agentWrite m.addr (leBytes (atBytes aty) (atomNew aop aty old c c2 1)) else s).readMail idx).answer 2 m
          (bytesWords (leBytes (atBytes aty) old)))) ∧
    (s.mail idx 5 = some m → ∀ pd, (s.readMail idx).pend.find? m.no = some pd → pd.msg.kind ≠ 1 →
      let gone := { s.readMail idx with pend := (s.readMail idx).pend.del m.no }.clearOthers pd.who pd.msg.addr pd.n
      (s.op? pd.op = none → exec (.endToEndAck idx) s = .next gone) ∧
      (∀ op, s.op? pd.op = some op → (∀ f, op.instr ≠ .sc f) → (∀ f, op.instr ≠ .atom f) →
        exec (.endToEndAck idx) s = .next (gone.modElem pd.op pd.elem (fun e => { e with st := .complete }))) ∧
      (∀ op f e, s.op? pd.op = some op → op.instr = .sc f → op.elems[pd.elem]? = some e →
        exec (.endToEndAck idx) s = .next (gone.remoteValue pd.op pd.elem op e 0))) ∧
    (∀ len, s.mail idx 6 = some m → len = 4 ∨ len = 8 → s.mailReady m len = true → exec (.wakeWrite idx len) s =
      .next (((s.wakeStore none none m.addr ((wordBytes m.data).take len) State.evalWakes).readMail idx).answer 5 m [])) ∧
    (∀ t1 t2 t3 t4, s.mail idx 7 = some m → s.master ≠ Config.package → m.dword 0 = BitVec.ofNat 64 t3 →
      m.dword 1 = BitVec.ofNat 64 t2 - BitVec.ofNat 64 t1 → m.dword 2 = BitVec.ofNat 64 t4 →
      exec (.taborSynchronisation idx t1 t2 t3 t4) s =
        .next (((s.readMail idx).answer 5 m []).adjust (BitVec.ofNat 64 t2 - BitVec.ofNat 64 t1) (BitVec.ofNat 64 t4 - BitVec.ofNat 64 t3))) ∧
    (∀ t1 t2 t3 t4, s.mail idx 7 = some m → s.master = Config.package → m.dword 0 = BitVec.ofNat 64 t1 →
      m.dword 2 = BitVec.ofNat 64 t2 → exec (.taborSynchronisation idx t1 t2 t3 t4) s = .next (((s.readMail idx).answer 5 m []).tell 7 m.src 0
        (splitWords 2 0 ++ splitWords 2 (BitVec.ofNat 64 t2 - BitVec.ofNat 64 t1).toNat))) ∧
    (∀ a b : Dword, (0 ≤ a.toInt - b.toInt →
        s.adjust a b = { s with tabor := s.tabor + BitVec.ofNat 64 ((a.toInt - b.toInt) / 2).toNat, ahead := 0, slowHalf := false }) ∧
      (a.toInt - b.toInt < 0 → (s.adjust a b).tabor = s.tabor ∧ 0 < (s.adjust a b).ahead)) ∧
    (s.gang ≠ [] → s.master ≠ Config.package →
      exec .taborSyncTimer s = .next (s.tell 7 s.master 0 (splitWords 4 0))) ∧
    (∀ tick gang, s.mail idx 8 = some m → m.data = gangWords tick false gang → gang < 2 ^ 32 →
      exec (.gangStartOrAbort idx false tick) s = .next ((s.readMail idx).answer 5 m [])) ∧
    (∀ tick gang, s.mail idx 8 = some m → m.data = gangWords tick true gang → gang < 2 ^ 32 → ∃ s1, s1 = (s.readMail idx).answer 5 m [] ∧
      (gang ≠ s.master → exec (.gangStartOrAbort idx true tick) s = .next s1) ∧
      (gang = s.master → exec (.gangStartOrAbort idx true tick) s = .next
        (let s2 := (s1.kernels.filter (fun e => e.2.start == tick && tick != 0 && (e.2.st == .waiting || s1.stillRunning e.2))).foldl
          (fun (u : State) e => u.failKernel e.1 4 0 0) s1
        { s2 with aborts := distinct ((s2.aborts ++ [tick]).filter (fun t => decide (s.tabor.toNat ≤ t))) }))) ∧
    (∀ tick, s.mail idx 9 = some m → m.data = splitWords 4 tick →
      (¬tick < s.tabor.toNat → exec (.claveFiring idx tick) s =
        .next { (s.readMail idx).answer 5 m [] with claveTicks := ((s.readMail idx).answer 5 m []).claveTicks ++ [(tick, false)] }) ∧
      (tick < s.tabor.toNat → ∃ t, exec (.claveFiring idx tick) s = .next t ∧ ClaveFires ((s.readMail idx).answer 5 m []) t 4 (some true))) ∧
    (∀ master members count, s.recovering = false → members.length ≤ 4096 → master ∈ members →
      exec (.gangFormation master members count) s = .next { s.takeCount count with gang := distinct members, master := master } ∧
      (s.tabor ≤ count → s.takeCount count = { s with tabor := count, ahead := 0, slowHalf := false }) ∧
      (count < s.tabor → s.takeCount count = { s with ahead := s.tabor.toNat - count.toNat, slowHalf := false }))

/-- R379 and R380 to R385: power, temperature, boot and attestation: above PWRLIM, and at 105 degrees, the clock is lowered 25 MHz,
down to 300, and event 0x0071 says where that begins a throttle (that it is told at its beginning alone is the model's choice, log 89);
the end of throttling restores 600 MHz with event 0x0072; a stop of the dies is told to host and controller, a write of 1 to RESTART
undoes it once the junctions are cool, and any other write of RESTART is refused; the ROM leaves STAGE 2 with FWVER or STAGE 3; a report
carries the nonce, the three SHA-384 digests and the Tabor count, and the certificate chain goes with it. The dies stop at a junction of 115
degrees or a supply outside 585 to 715 mV, and not otherwise. The model's choices: a boot in stage 1 or 2 does nothing (log 53), and which
flash copy boots is free (log 84). -/
def Obligations.PowerAndBoot : Prop :=
  ∀ s : State,
    (∀ w, exec (.powerLimitThrottle w) s = .next (if s.pwrLim < w then { s with pwrNow := w }.throttle else { s with pwrNow := w })) ∧
    (∀ c, 105 ≤ c → exec (.thermalThrottle c) s = .next s.throttle) ∧
    (∀ c, c < 105 → exec (.thermalThrottle c) s = .next s) ∧
    (s.throttle = if s.throttled = true then { s with mhz := max 300 (s.mhz - 25) } else { s with
      mhz := max 300 (s.mhz - 25), throttled := true, events := s.events ++ [⟨s.tabor.toNat, 0, 0, 0x71, 7⟩] }) ∧
    (s.throttled = true → exec .throttleEnd s = .next { s with
      mhz := 600, throttled := false, events := s.events ++ [⟨s.tabor.toNat, 0, 0, 0x72, 7⟩] }) ∧
    (s.throttled = false → exec .throttleEnd s = .next s) ∧
    (∀ c mv, s.stopped = false → 115 ≤ c ∨ mv < 585 ∨ 715 < mv → ∃ t, exec (.emergencyStop c mv) s = .next t ∧ t.stopped = true ∧
      t.outbox.head? = some .stopNotice ∧ t.events.getLast? = some ⟨s.tabor.toNat, 0, 0, 0x74, 7⟩) ∧
    (∀ c mv, c < 115 → 585 ≤ mv → mv ≤ 715 → exec (.emergencyStop c mv) s = .next s) ∧
    (∀ c mv, s.stopped = true → c < 95 → supplyOk mv = true → exec (.computeRestart 1 c mv) s = .next { s with stopped := false }) ∧
    (∀ val c mv, val ≠ 1 ∨ s.stopped = false ∨ 95 ≤ c ∨ supplyOk mv = false →
      exec (.computeRestart val c mv) s = .next { s with bootErr := true }) ∧
    (∀ cfg fw ver mn, s.stage = 0 ∨ s.stage = 3 →
      (cfg = false → exec (.boot cfg fw ver mn) s = .next { s with stage := 3 }) ∧
      (cfg = true → fw = true → mn ≤ ver → exec (.boot cfg fw ver mn) s = .next { s with
        boots := s.boots + 1, fresh := s.fresh + 2, stage := 2, fwVer := ver % 2 ^ 32
        booted := (s.booted.put 0 (s.flashed false)).put 1 (s.flashed true) }) ∧
      (cfg = true → fw = false ∨ ver < mn → exec (.boot cfg fw ver mn) s = .next { s with
        boots := s.boots + 1, fresh := s.fresh + 2, stage := 3, booted := s.booted.put 0 (s.flashed false) })) ∧
    (∀ cfg fw ver mn, s.stage = 1 ∨ s.stage = 2 → exec (.boot cfg fw ver mn) s = .next s) ∧
    (∀ nonce, nonce.length = 32 → ∃ t sig, exec (.attestationRequest nonce) s = .next t ∧ sig.length = 96 ∧
      t.outbox = .bytes (Config.certChain (s.booted.rd [] 0)) :: .bytes (s.reportBody nonce ++ sig) :: s.outbox ∧
      (s.reportBody nonce).take 32 = nonce ∧ (s.reportBody nonce).length = 184 ∧
      ((s.reportBody nonce).drop 32).take 48 = sha384 (s.booted.rd [] 0) ∧
      ((s.reportBody nonce).drop 80).take 48 = sha384 (s.booted.rd [] 1) ∧
      ((s.reportBody nonce).drop 128).take 48 = sha384 (Config.certChain (s.booted.rd [] 0)) ∧
      (s.reportBody nonce).drop 176 = leBytes 8 s.tabor.toNat)

end ObligationStatements
end

