-- ==== Sys2Proof/Laws/Tab.lean ====
section
/-!
SUPPORT. What tables do: reading after writing, at the same key and at others, and the canonical form under every write.
The reading laws hold of any table; only the canonical form speaks of rising keys.
-/

namespace Sys2Proof

variable {α : Type}

theorem Tab.find?_put (t : Tab α) (k j : Nat) (v : α) : (t.put k v).find? j = if j = k then some v else t.find? j := by
  induction t with
  | nil => simp [Tab.put, Tab.find?]
  | cons e t ih =>
    obtain ⟨k', v'⟩ := e
    simp only [Tab.put]
    split
    · simp [Tab.find?]
    · split
      · subst_vars
        simp only [Tab.find?]
        split <;> rfl
      · rename_i h1 h2
        simp only [Tab.find?, ih]
        split
        · subst_vars
          simp [Ne.symm h2]
        · rfl

/-- What a key finds is an entry of the table. -/
theorem Tab.mem_of_find? {t : Tab α} {k : Nat} {v : α} (h : t.find? k = some v) : (k, v) ∈ t := by
  induction t with
  | nil => cases h
  | cons e t ih =>
    simp only [Tab.find?] at h
    split at h
    · rename_i he
      obtain rfl := Option.some.inj h
      exact List.mem_cons.2 (Or.inl (by obtain ⟨a, b⟩ := e; simp_all))
    · exact List.mem_cons_of_mem _ (ih h)

@[simp] theorem Tab.find?_put_same (t : Tab α) (k : Nat) (v : α) : (t.put k v).find? k = some v := by
  simp [Tab.find?_put]

theorem Tab.find?_put_other (t : Tab α) (k j : Nat) (v : α) (h : j ≠ k) : (t.put k v).find? j = t.find? j := by
  simp [Tab.find?_put, h]

theorem Tab.find?_del (t : Tab α) (k j : Nat) : (t.del k).find? j = if j = k then none else t.find? j := by
  induction t with
  | nil => simp [Tab.del, Tab.find?]
  | cons e t ih =>
    obtain ⟨k', v'⟩ := e
    simp only [Tab.del] at ih ⊢
    by_cases hk : k' = k
    · subst hk
      simp only [List.filter_cons, bne_self_eq_false, Bool.false_eq_true, if_false, ih, Tab.find?]
      split <;> rfl
    · simp only [List.filter_cons, bne_iff_ne, ne_eq, hk, not_false_eq_true, if_true, Tab.find?, ih]
      split
      · subst_vars
        simp [hk]
      · rfl

@[simp] theorem Tab.find?_del_same (t : Tab α) (k : Nat) : (t.del k).find? k = none := by simp [Tab.find?_del]

theorem Tab.find?_modify (t : Tab α) (k j : Nat) (f : α → α) :
    (t.modify k f).find? j = if j = k then (t.find? k).map f else t.find? j := by
  unfold Tab.modify
  cases h : t.find? k with
  | none =>
    simp only [Option.map_none]
    split
    · subst_vars; exact h
    · rfl
  | some v => simp [Tab.find?_put]

/-- Filtering keeps an entry that it picks. -/
theorem Tab.find?_filter (t : Tab α) (p : Nat × α → Bool) (k : Nat) (v : α) (h : t.find? k = some v) (hp : p (k, v) = true) :
    Tab.find? (t.filter p) k = some v := by
  induction t with
  | nil => exact h
  | cons e t ih =>
    obtain ⟨k', v'⟩ := e
    simp only [Tab.find?] at h
    by_cases hk : k = k'
    · subst hk
      rw [if_pos rfl] at h
      obtain rfl := Option.some.inj h
      rw [List.filter_cons_of_pos hp]
      simp [Tab.find?]
    · rw [if_neg hk] at h
      rw [List.filter_cons]
      split
      · simp only [Tab.find?]; rw [if_neg hk]; exact ih h
      · exact ih h

theorem Tab.find?_mapV (t : Tab α) (f : Nat → α → α) (k : Nat) : (t.mapV f).find? k = (t.find? k).map (f k) := by
  induction t with
  | nil => rfl
  | cons e t ih =>
    obtain ⟨k', v'⟩ := e
    simp only [Tab.mapV, List.map_cons, Tab.find?] at ih ⊢
    split
    · subst_vars; rfl
    · exact ih

theorem Tab.rd_put (d : α) (t : Tab α) (k j : Nat) (v : α) : (t.put k v).rd d j = if j = k then v else t.rd d j := by
  unfold Tab.rd
  rw [Tab.find?_put]
  split <;> rfl

theorem Tab.rd_wr [DecidableEq α] (d : α) (t : Tab α) (k j : Nat) (v : α) :
    (t.wr d k v).rd d j = if j = k then v else t.rd d j := by
  unfold Tab.wr Tab.rd
  split
  · rw [Tab.find?_del]
    split <;> simp_all
  · rw [Tab.find?_put]
    split <;> rfl

@[simp] theorem Tab.rd_wr_same [DecidableEq α] (d : α) (t : Tab α) (k : Nat) (v : α) : (t.wr d k v).rd d k = v := by
  simp [Tab.rd_wr]

/-! ## The canonical form -/

/-- Rising keys, said with Mathlib's pairwise relation. -/
theorem Tab.rising_iff (t : Tab α) : t.Rising = true ↔ t.Pairwise (fun a b => a.1 < b.1) := by
  induction t with
  | nil => simp [Tab.Rising]
  | cons a t ih =>
    cases t with
    | nil => simp [Tab.Rising]
    | cons b t =>
      obtain ⟨k, v⟩ := a
      obtain ⟨k', v'⟩ := b
      simp only [Tab.Rising, Bool.and_eq_true, decide_eq_true_eq, ih]
      constructor
      · rintro ⟨h, hp⟩
        refine List.pairwise_cons.mpr ⟨?_, hp⟩
        intro x hx
        rcases List.mem_cons.mp hx with rfl | hx
        · exact h
        · exact Nat.lt_trans h ((List.pairwise_cons.mp hp).1 x hx)
      · intro hp
        have h := List.pairwise_cons.mp hp
        exact ⟨h.1 _ (List.mem_cons_self), h.2⟩

theorem Tab.mem_put (t : Tab α) (k : Nat) (v : α) (e : Nat × α) (h : e ∈ t.put k v) : e = (k, v) ∨ e ∈ t := by
  induction t with
  | nil => simpa [Tab.put] using h
  | cons a t ih =>
    obtain ⟨k', v'⟩ := a
    simp only [Tab.put] at h
    split at h
    · simpa using h
    · split at h
      · rcases List.mem_cons.mp h with h | h
        · exact .inl h
        · exact .inr (List.mem_cons_of_mem _ h)
      · rcases List.mem_cons.mp h with h | h
        · exact .inr (h ▸ List.mem_cons_self)
        · rcases ih h with h | h
          · exact .inl h
          · exact .inr (List.mem_cons_of_mem _ h)

theorem Tab.rising_put (t : Tab α) (k : Nat) (v : α) (h : t.Rising = true) : (t.put k v).Rising = true := by
  rw [Tab.rising_iff] at h ⊢
  induction t with
  | nil => simp [Tab.put]
  | cons a t ih =>
    obtain ⟨k', v'⟩ := a
    have ht := List.pairwise_cons.mp h
    simp only [Tab.put]
    split
    · refine List.pairwise_cons.mpr ⟨?_, h⟩
      intro x hx
      rcases List.mem_cons.mp hx with rfl | hx
      · assumption
      · have := ht.1 x hx
        simp only at this ⊢
        omega
    · split
      · subst_vars
        exact List.pairwise_cons.mpr ⟨ht.1, ht.2⟩
      · refine List.pairwise_cons.mpr ⟨?_, ih ht.2⟩
        intro x hx
        rcases Tab.mem_put t k v x hx with rfl | hx
        · simp only; omega
        · exact ht.1 x hx

theorem Tab.rising_filter (t : Tab α) (p : Nat × α → Bool) (h : t.Rising = true) :
    Tab.Rising (t.filter p : List (Nat × α)) = true := by
  rw [Tab.rising_iff] at h ⊢
  exact h.filter p

/-- Every write keeps the canonical form. -/
theorem Tab.wf_wr [DecidableEq α] (d : α) (t : Tab α) (k : Nat) (v : α) (h : Tab.wf d t = true) :
    Tab.wf d (t.wr d k v) = true := by
  simp only [Tab.wf, Bool.and_eq_true, List.all_eq_true, decide_eq_true_eq] at h ⊢
  unfold Tab.wr
  split
  · exact ⟨Tab.rising_filter t _ h.1, fun e he => h.2 e (List.mem_filter.mp he).1⟩
  · refine ⟨Tab.rising_put t k v h.1, fun e he => ?_⟩
    rcases Tab.mem_put t k v e he with rfl | he
    · assumption
    · exact h.2 e he

/-! ## Runs of bytes -/

/-- Reading after a run of bytes is written. -/
theorem Tab.rd_wrBytes (t : Tab Byte) (a : Nat) (bs : List Byte) (j : Nat) :
    (t.wrBytes a bs).rd 0 j = if a ≤ j ∧ j < a + bs.length then bs.getD (j - a) 0 else t.rd 0 j := by
  induction bs generalizing t a with
  | nil =>
    have : ¬(a ≤ j ∧ j < a + ([] : List Byte).length) := by simp
    rw [if_neg this]; rfl
  | cons b bs ih =>
    rw [Tab.wrBytes, ih, Tab.rd_wr]
    by_cases h1 : j = a
    · subst h1
      simp
    · by_cases h2 : a + 1 ≤ j ∧ j < a + 1 + bs.length
      · rw [if_pos h2, if_pos (by simp only [List.length_cons]; omega)]
        have : j - a = (j - (a + 1)) + 1 := by omega
        rw [this]; rfl
      · rw [if_neg h2, if_neg h1, if_neg (by simp only [List.length_cons]; omega)]

/-- A run of bytes keeps the canonical form. -/
theorem Tab.wf_wrBytes (t : Tab Byte) (a : Nat) (bs : List Byte) (h : Tab.wf 0 t = true) :
    Tab.wf 0 (t.wrBytes a bs) = true := by
  induction bs generalizing t a with
  | nil => exact h
  | cons b bs ih => exact ih _ _ (Tab.wf_wr 0 t a b h)

end Sys2Proof
end

