-- ==== Sys2Proof/Laws/State.lean ====
section
/-!
SUPPORT. The named updates of the state: each field that an update does not touch, and reading back what it does touch.
-/

namespace Sys2Proof.Machine

open Sys2Proof

/-! `modCore` -/

@[simp] theorem State.agenda_modCore (s : State) (c : Nat) (f : Core → Core) : (s.modCore c f).agenda = s.agenda := rfl
@[simp] theorem State.cur_modCore (s : State) (c : Nat) (f : Core → Core) : (s.modCore c f).cur = s.cur := rfl
@[simp] theorem State.fresh_modCore (s : State) (c : Nat) (f : Core → Core) : (s.modCore c f).fresh = s.fresh := rfl
@[simp] theorem State.next_modCore (s : State) (c : Nat) (f : Core → Core) : (s.modCore c f).next = s.next := rfl
@[simp] theorem State.status_modCore (s : State) (c : Nat) (f : Core → Core) : (s.modCore c f).status = s.status := rfl
@[simp] theorem State.outbox_modCore (s : State) (c : Nat) (f : Core → Core) : (s.modCore c f).outbox = s.outbox := rfl
@[simp] theorem State.winWrites_modCore (s : State) (c : Nat) (f : Core → Core) : (s.modCore c f).winWrites = s.winWrites := rfl
@[simp] theorem State.waitDst_modCore (s : State) (c : Nat) (f : Core → Core) : (s.modCore c f).waitDst = s.waitDst := rfl
@[simp] theorem State.poolQ_modCore (s : State) (c : Nat) (f : Core → Core) : (s.modCore c f).poolQ = s.poolQ := rfl
@[simp] theorem State.poolWait_modCore (s : State) (c : Nat) (f : Core → Core) : (s.modCore c f).poolWait = s.poolWait := rfl
@[simp] theorem State.cycle_modCore (s : State) (c : Nat) (f : Core → Core) : (s.modCore c f).cycle = s.cycle := rfl
@[simp] theorem State.tabor_modCore (s : State) (c : Nat) (f : Core → Core) : (s.modCore c f).tabor = s.tabor := rfl
@[simp] theorem State.mem_modCore (s : State) (c : Nat) (f : Core → Core) : (s.modCore c f).mem = s.mem := rfl
@[simp] theorem State.poison_modCore (s : State) (c : Nat) (f : Core → Core) : (s.modCore c f).poison = s.poison := rfl
@[simp] theorem State.sharers_modCore (s : State) (c : Nat) (f : Core → Core) : (s.modCore c f).sharers = s.sharers := rfl
@[simp] theorem State.owners_modCore (s : State) (c : Nat) (f : Core → Core) : (s.modCore c f).owners = s.owners := rfl
@[simp] theorem State.reds_modCore (s : State) (c : Nat) (f : Core → Core) : (s.modCore c f).reds = s.reds := rfl
@[simp] theorem State.ops_modCore (s : State) (c : Nat) (f : Core → Core) : (s.modCore c f).ops = s.ops := rfl
@[simp] theorem State.crews_modCore (s : State) (c : Nat) (f : Core → Core) : (s.modCore c f).crews = s.crews := rfl
@[simp] theorem State.ctxs_modCore (s : State) (c : Nat) (f : Core → Core) : (s.modCore c f).ctxs = s.ctxs := rfl
@[simp] theorem State.kernels_modCore (s : State) (c : Nat) (f : Core → Core) : (s.modCore c f).kernels = s.kernels := rfl
@[simp] theorem State.replays_modCore (s : State) (c : Nat) (f : Core → Core) : (s.modCore c f).replays = s.replays := rfl
@[simp] theorem State.tlb_modCore (s : State) (c : Nat) (f : Core → Core) : (s.modCore c f).tlb = s.tlb := rfl
@[simp] theorem State.walks_modCore (s : State) (c : Nat) (f : Core → Core) : (s.modCore c f).walks = s.walks := rfl
@[simp] theorem State.pend_modCore (s : State) (c : Nat) (f : Core → Core) : (s.modCore c f).pend = s.pend := rfl
@[simp] theorem State.ports_modCore (s : State) (c : Nat) (f : Core → Core) : (s.modCore c f).ports = s.ports := rfl
@[simp] theorem State.inbox_modCore (s : State) (c : Nat) (f : Core → Core) : (s.modCore c f).inbox = s.inbox := rfl
@[simp] theorem State.events_modCore (s : State) (c : Nat) (f : Core → Core) : (s.modCore c f).events = s.events := rfl
@[simp] theorem State.stopped_modCore (s : State) (c : Nat) (f : Core → Core) : (s.modCore c f).stopped = s.stopped := rfl

/-! `modCrew` -/

@[simp] theorem State.agenda_modCrew (s : State) (c : Nat) (f : Crew → Crew) : (s.modCrew c f).agenda = s.agenda := rfl
@[simp] theorem State.cur_modCrew (s : State) (c : Nat) (f : Crew → Crew) : (s.modCrew c f).cur = s.cur := rfl
@[simp] theorem State.fresh_modCrew (s : State) (c : Nat) (f : Crew → Crew) : (s.modCrew c f).fresh = s.fresh := rfl
@[simp] theorem State.next_modCrew (s : State) (c : Nat) (f : Crew → Crew) : (s.modCrew c f).next = s.next := rfl
@[simp] theorem State.status_modCrew (s : State) (c : Nat) (f : Crew → Crew) : (s.modCrew c f).status = s.status := rfl
@[simp] theorem State.outbox_modCrew (s : State) (c : Nat) (f : Crew → Crew) : (s.modCrew c f).outbox = s.outbox := rfl
@[simp] theorem State.winWrites_modCrew (s : State) (c : Nat) (f : Crew → Crew) : (s.modCrew c f).winWrites = s.winWrites := rfl
@[simp] theorem State.waitDst_modCrew (s : State) (c : Nat) (f : Crew → Crew) : (s.modCrew c f).waitDst = s.waitDst := rfl
@[simp] theorem State.poolQ_modCrew (s : State) (c : Nat) (f : Crew → Crew) : (s.modCrew c f).poolQ = s.poolQ := rfl
@[simp] theorem State.poolWait_modCrew (s : State) (c : Nat) (f : Crew → Crew) : (s.modCrew c f).poolWait = s.poolWait := rfl
@[simp] theorem State.cycle_modCrew (s : State) (c : Nat) (f : Crew → Crew) : (s.modCrew c f).cycle = s.cycle := rfl
@[simp] theorem State.tabor_modCrew (s : State) (c : Nat) (f : Crew → Crew) : (s.modCrew c f).tabor = s.tabor := rfl
@[simp] theorem State.mem_modCrew (s : State) (c : Nat) (f : Crew → Crew) : (s.modCrew c f).mem = s.mem := rfl
@[simp] theorem State.poison_modCrew (s : State) (c : Nat) (f : Crew → Crew) : (s.modCrew c f).poison = s.poison := rfl
@[simp] theorem State.sharers_modCrew (s : State) (c : Nat) (f : Crew → Crew) : (s.modCrew c f).sharers = s.sharers := rfl
@[simp] theorem State.owners_modCrew (s : State) (c : Nat) (f : Crew → Crew) : (s.modCrew c f).owners = s.owners := rfl
@[simp] theorem State.reds_modCrew (s : State) (c : Nat) (f : Crew → Crew) : (s.modCrew c f).reds = s.reds := rfl
@[simp] theorem State.ops_modCrew (s : State) (c : Nat) (f : Crew → Crew) : (s.modCrew c f).ops = s.ops := rfl
@[simp] theorem State.cores_modCrew (s : State) (c : Nat) (f : Crew → Crew) : (s.modCrew c f).cores = s.cores := rfl
@[simp] theorem State.ctxs_modCrew (s : State) (c : Nat) (f : Crew → Crew) : (s.modCrew c f).ctxs = s.ctxs := rfl
@[simp] theorem State.kernels_modCrew (s : State) (c : Nat) (f : Crew → Crew) : (s.modCrew c f).kernels = s.kernels := rfl
@[simp] theorem State.replays_modCrew (s : State) (c : Nat) (f : Crew → Crew) : (s.modCrew c f).replays = s.replays := rfl
@[simp] theorem State.tlb_modCrew (s : State) (c : Nat) (f : Crew → Crew) : (s.modCrew c f).tlb = s.tlb := rfl
@[simp] theorem State.walks_modCrew (s : State) (c : Nat) (f : Crew → Crew) : (s.modCrew c f).walks = s.walks := rfl
@[simp] theorem State.pend_modCrew (s : State) (c : Nat) (f : Crew → Crew) : (s.modCrew c f).pend = s.pend := rfl
@[simp] theorem State.ports_modCrew (s : State) (c : Nat) (f : Crew → Crew) : (s.modCrew c f).ports = s.ports := rfl
@[simp] theorem State.inbox_modCrew (s : State) (c : Nat) (f : Crew → Crew) : (s.modCrew c f).inbox = s.inbox := rfl
@[simp] theorem State.events_modCrew (s : State) (c : Nat) (f : Crew → Crew) : (s.modCrew c f).events = s.events := rfl
@[simp] theorem State.stopped_modCrew (s : State) (c : Nat) (f : Crew → Crew) : (s.modCrew c f).stopped = s.stopped := rfl

/-! `modWave` -/

@[simp] theorem State.agenda_modWave (s : State) (c w : Nat) (f : Wave → Wave) : (s.modWave c w f).agenda = s.agenda := rfl
@[simp] theorem State.cur_modWave (s : State) (c w : Nat) (f : Wave → Wave) : (s.modWave c w f).cur = s.cur := rfl
@[simp] theorem State.fresh_modWave (s : State) (c w : Nat) (f : Wave → Wave) : (s.modWave c w f).fresh = s.fresh := rfl
@[simp] theorem State.next_modWave (s : State) (c w : Nat) (f : Wave → Wave) : (s.modWave c w f).next = s.next := rfl
@[simp] theorem State.status_modWave (s : State) (c w : Nat) (f : Wave → Wave) : (s.modWave c w f).status = s.status := rfl
@[simp] theorem State.outbox_modWave (s : State) (c w : Nat) (f : Wave → Wave) : (s.modWave c w f).outbox = s.outbox := rfl
@[simp] theorem State.winWrites_modWave (s : State) (c w : Nat) (f : Wave → Wave) : (s.modWave c w f).winWrites = s.winWrites := rfl
@[simp] theorem State.waitDst_modWave (s : State) (c w : Nat) (f : Wave → Wave) : (s.modWave c w f).waitDst = s.waitDst := rfl
@[simp] theorem State.poolQ_modWave (s : State) (c w : Nat) (f : Wave → Wave) : (s.modWave c w f).poolQ = s.poolQ := rfl
@[simp] theorem State.poolWait_modWave (s : State) (c w : Nat) (f : Wave → Wave) : (s.modWave c w f).poolWait = s.poolWait := rfl
@[simp] theorem State.cycle_modWave (s : State) (c w : Nat) (f : Wave → Wave) : (s.modWave c w f).cycle = s.cycle := rfl
@[simp] theorem State.tabor_modWave (s : State) (c w : Nat) (f : Wave → Wave) : (s.modWave c w f).tabor = s.tabor := rfl
@[simp] theorem State.mem_modWave (s : State) (c w : Nat) (f : Wave → Wave) : (s.modWave c w f).mem = s.mem := rfl
@[simp] theorem State.poison_modWave (s : State) (c w : Nat) (f : Wave → Wave) : (s.modWave c w f).poison = s.poison := rfl
@[simp] theorem State.sharers_modWave (s : State) (c w : Nat) (f : Wave → Wave) : (s.modWave c w f).sharers = s.sharers := rfl
@[simp] theorem State.owners_modWave (s : State) (c w : Nat) (f : Wave → Wave) : (s.modWave c w f).owners = s.owners := rfl
@[simp] theorem State.reds_modWave (s : State) (c w : Nat) (f : Wave → Wave) : (s.modWave c w f).reds = s.reds := rfl
@[simp] theorem State.ops_modWave (s : State) (c w : Nat) (f : Wave → Wave) : (s.modWave c w f).ops = s.ops := rfl
@[simp] theorem State.cores_modWave (s : State) (c w : Nat) (f : Wave → Wave) : (s.modWave c w f).cores = s.cores := rfl
@[simp] theorem State.ctxs_modWave (s : State) (c w : Nat) (f : Wave → Wave) : (s.modWave c w f).ctxs = s.ctxs := rfl
@[simp] theorem State.kernels_modWave (s : State) (c w : Nat) (f : Wave → Wave) : (s.modWave c w f).kernels = s.kernels := rfl
@[simp] theorem State.replays_modWave (s : State) (c w : Nat) (f : Wave → Wave) : (s.modWave c w f).replays = s.replays := rfl
@[simp] theorem State.tlb_modWave (s : State) (c w : Nat) (f : Wave → Wave) : (s.modWave c w f).tlb = s.tlb := rfl
@[simp] theorem State.walks_modWave (s : State) (c w : Nat) (f : Wave → Wave) : (s.modWave c w f).walks = s.walks := rfl
@[simp] theorem State.pend_modWave (s : State) (c w : Nat) (f : Wave → Wave) : (s.modWave c w f).pend = s.pend := rfl
@[simp] theorem State.ports_modWave (s : State) (c w : Nat) (f : Wave → Wave) : (s.modWave c w f).ports = s.ports := rfl
@[simp] theorem State.inbox_modWave (s : State) (c w : Nat) (f : Wave → Wave) : (s.modWave c w f).inbox = s.inbox := rfl
@[simp] theorem State.events_modWave (s : State) (c w : Nat) (f : Wave → Wave) : (s.modWave c w f).events = s.events := rfl
@[simp] theorem State.stopped_modWave (s : State) (c w : Nat) (f : Wave → Wave) : (s.modWave c w f).stopped = s.stopped := rfl

/-! `modStrand` -/

@[simp] theorem State.agenda_modStrand (s : State) (c w k : Nat) (f : Strand → Strand) : (s.modStrand c w k f).agenda = s.agenda := rfl
@[simp] theorem State.cur_modStrand (s : State) (c w k : Nat) (f : Strand → Strand) : (s.modStrand c w k f).cur = s.cur := rfl
@[simp] theorem State.fresh_modStrand (s : State) (c w k : Nat) (f : Strand → Strand) : (s.modStrand c w k f).fresh = s.fresh := rfl
@[simp] theorem State.next_modStrand (s : State) (c w k : Nat) (f : Strand → Strand) : (s.modStrand c w k f).next = s.next := rfl
@[simp] theorem State.status_modStrand (s : State) (c w k : Nat) (f : Strand → Strand) : (s.modStrand c w k f).status = s.status := rfl
@[simp] theorem State.outbox_modStrand (s : State) (c w k : Nat) (f : Strand → Strand) : (s.modStrand c w k f).outbox = s.outbox := rfl
@[simp] theorem State.winWrites_modStrand (s : State) (c w k : Nat) (f : Strand → Strand) : (s.modStrand c w k f).winWrites = s.winWrites := rfl
@[simp] theorem State.waitDst_modStrand (s : State) (c w k : Nat) (f : Strand → Strand) : (s.modStrand c w k f).waitDst = s.waitDst := rfl
@[simp] theorem State.poolQ_modStrand (s : State) (c w k : Nat) (f : Strand → Strand) : (s.modStrand c w k f).poolQ = s.poolQ := rfl
@[simp] theorem State.poolWait_modStrand (s : State) (c w k : Nat) (f : Strand → Strand) : (s.modStrand c w k f).poolWait = s.poolWait := rfl
@[simp] theorem State.cycle_modStrand (s : State) (c w k : Nat) (f : Strand → Strand) : (s.modStrand c w k f).cycle = s.cycle := rfl
@[simp] theorem State.tabor_modStrand (s : State) (c w k : Nat) (f : Strand → Strand) : (s.modStrand c w k f).tabor = s.tabor := rfl
@[simp] theorem State.mem_modStrand (s : State) (c w k : Nat) (f : Strand → Strand) : (s.modStrand c w k f).mem = s.mem := rfl
@[simp] theorem State.poison_modStrand (s : State) (c w k : Nat) (f : Strand → Strand) : (s.modStrand c w k f).poison = s.poison := rfl
@[simp] theorem State.sharers_modStrand (s : State) (c w k : Nat) (f : Strand → Strand) : (s.modStrand c w k f).sharers = s.sharers := rfl
@[simp] theorem State.owners_modStrand (s : State) (c w k : Nat) (f : Strand → Strand) : (s.modStrand c w k f).owners = s.owners := rfl
@[simp] theorem State.reds_modStrand (s : State) (c w k : Nat) (f : Strand → Strand) : (s.modStrand c w k f).reds = s.reds := rfl
@[simp] theorem State.ops_modStrand (s : State) (c w k : Nat) (f : Strand → Strand) : (s.modStrand c w k f).ops = s.ops := rfl
@[simp] theorem State.cores_modStrand (s : State) (c w k : Nat) (f : Strand → Strand) : (s.modStrand c w k f).cores = s.cores := rfl
@[simp] theorem State.ctxs_modStrand (s : State) (c w k : Nat) (f : Strand → Strand) : (s.modStrand c w k f).ctxs = s.ctxs := rfl
@[simp] theorem State.kernels_modStrand (s : State) (c w k : Nat) (f : Strand → Strand) : (s.modStrand c w k f).kernels = s.kernels := rfl
@[simp] theorem State.replays_modStrand (s : State) (c w k : Nat) (f : Strand → Strand) : (s.modStrand c w k f).replays = s.replays := rfl
@[simp] theorem State.tlb_modStrand (s : State) (c w k : Nat) (f : Strand → Strand) : (s.modStrand c w k f).tlb = s.tlb := rfl
@[simp] theorem State.walks_modStrand (s : State) (c w k : Nat) (f : Strand → Strand) : (s.modStrand c w k f).walks = s.walks := rfl
@[simp] theorem State.pend_modStrand (s : State) (c w k : Nat) (f : Strand → Strand) : (s.modStrand c w k f).pend = s.pend := rfl
@[simp] theorem State.ports_modStrand (s : State) (c w k : Nat) (f : Strand → Strand) : (s.modStrand c w k f).ports = s.ports := rfl
@[simp] theorem State.inbox_modStrand (s : State) (c w k : Nat) (f : Strand → Strand) : (s.modStrand c w k f).inbox = s.inbox := rfl
@[simp] theorem State.events_modStrand (s : State) (c w k : Nat) (f : Strand → Strand) : (s.modStrand c w k f).events = s.events := rfl
@[simp] theorem State.stopped_modStrand (s : State) (c w k : Nat) (f : Strand → Strand) : (s.modStrand c w k f).stopped = s.stopped := rfl

/-! `modCtx` -/

@[simp] theorem State.agenda_modCtx (s : State) (x : Nat) (f : Context → Context) : (s.modCtx x f).agenda = s.agenda := rfl
@[simp] theorem State.cur_modCtx (s : State) (x : Nat) (f : Context → Context) : (s.modCtx x f).cur = s.cur := rfl
@[simp] theorem State.fresh_modCtx (s : State) (x : Nat) (f : Context → Context) : (s.modCtx x f).fresh = s.fresh := rfl
@[simp] theorem State.next_modCtx (s : State) (x : Nat) (f : Context → Context) : (s.modCtx x f).next = s.next := rfl
@[simp] theorem State.status_modCtx (s : State) (x : Nat) (f : Context → Context) : (s.modCtx x f).status = s.status := rfl
@[simp] theorem State.outbox_modCtx (s : State) (x : Nat) (f : Context → Context) : (s.modCtx x f).outbox = s.outbox := rfl
@[simp] theorem State.winWrites_modCtx (s : State) (x : Nat) (f : Context → Context) : (s.modCtx x f).winWrites = s.winWrites := rfl
@[simp] theorem State.waitDst_modCtx (s : State) (x : Nat) (f : Context → Context) : (s.modCtx x f).waitDst = s.waitDst := rfl
@[simp] theorem State.poolQ_modCtx (s : State) (x : Nat) (f : Context → Context) : (s.modCtx x f).poolQ = s.poolQ := rfl
@[simp] theorem State.poolWait_modCtx (s : State) (x : Nat) (f : Context → Context) : (s.modCtx x f).poolWait = s.poolWait := rfl
@[simp] theorem State.cycle_modCtx (s : State) (x : Nat) (f : Context → Context) : (s.modCtx x f).cycle = s.cycle := rfl
@[simp] theorem State.tabor_modCtx (s : State) (x : Nat) (f : Context → Context) : (s.modCtx x f).tabor = s.tabor := rfl
@[simp] theorem State.mem_modCtx (s : State) (x : Nat) (f : Context → Context) : (s.modCtx x f).mem = s.mem := rfl
@[simp] theorem State.poison_modCtx (s : State) (x : Nat) (f : Context → Context) : (s.modCtx x f).poison = s.poison := rfl
@[simp] theorem State.sharers_modCtx (s : State) (x : Nat) (f : Context → Context) : (s.modCtx x f).sharers = s.sharers := rfl
@[simp] theorem State.owners_modCtx (s : State) (x : Nat) (f : Context → Context) : (s.modCtx x f).owners = s.owners := rfl
@[simp] theorem State.reds_modCtx (s : State) (x : Nat) (f : Context → Context) : (s.modCtx x f).reds = s.reds := rfl
@[simp] theorem State.ops_modCtx (s : State) (x : Nat) (f : Context → Context) : (s.modCtx x f).ops = s.ops := rfl
@[simp] theorem State.crews_modCtx (s : State) (x : Nat) (f : Context → Context) : (s.modCtx x f).crews = s.crews := rfl
@[simp] theorem State.cores_modCtx (s : State) (x : Nat) (f : Context → Context) : (s.modCtx x f).cores = s.cores := rfl
@[simp] theorem State.kernels_modCtx (s : State) (x : Nat) (f : Context → Context) : (s.modCtx x f).kernels = s.kernels := rfl
@[simp] theorem State.replays_modCtx (s : State) (x : Nat) (f : Context → Context) : (s.modCtx x f).replays = s.replays := rfl
@[simp] theorem State.tlb_modCtx (s : State) (x : Nat) (f : Context → Context) : (s.modCtx x f).tlb = s.tlb := rfl
@[simp] theorem State.walks_modCtx (s : State) (x : Nat) (f : Context → Context) : (s.modCtx x f).walks = s.walks := rfl
@[simp] theorem State.pend_modCtx (s : State) (x : Nat) (f : Context → Context) : (s.modCtx x f).pend = s.pend := rfl
@[simp] theorem State.ports_modCtx (s : State) (x : Nat) (f : Context → Context) : (s.modCtx x f).ports = s.ports := rfl
@[simp] theorem State.inbox_modCtx (s : State) (x : Nat) (f : Context → Context) : (s.modCtx x f).inbox = s.inbox := rfl
@[simp] theorem State.events_modCtx (s : State) (x : Nat) (f : Context → Context) : (s.modCtx x f).events = s.events := rfl
@[simp] theorem State.stopped_modCtx (s : State) (x : Nat) (f : Context → Context) : (s.modCtx x f).stopped = s.stopped := rfl

/-! `modKernel` -/

@[simp] theorem State.agenda_modKernel (s : State) (k : Nat) (f : Kernel → Kernel) : (s.modKernel k f).agenda = s.agenda := rfl
@[simp] theorem State.cur_modKernel (s : State) (k : Nat) (f : Kernel → Kernel) : (s.modKernel k f).cur = s.cur := rfl
@[simp] theorem State.fresh_modKernel (s : State) (k : Nat) (f : Kernel → Kernel) : (s.modKernel k f).fresh = s.fresh := rfl
@[simp] theorem State.next_modKernel (s : State) (k : Nat) (f : Kernel → Kernel) : (s.modKernel k f).next = s.next := rfl
@[simp] theorem State.status_modKernel (s : State) (k : Nat) (f : Kernel → Kernel) : (s.modKernel k f).status = s.status := rfl
@[simp] theorem State.outbox_modKernel (s : State) (k : Nat) (f : Kernel → Kernel) : (s.modKernel k f).outbox = s.outbox := rfl
@[simp] theorem State.winWrites_modKernel (s : State) (k : Nat) (f : Kernel → Kernel) : (s.modKernel k f).winWrites = s.winWrites := rfl
@[simp] theorem State.waitDst_modKernel (s : State) (k : Nat) (f : Kernel → Kernel) : (s.modKernel k f).waitDst = s.waitDst := rfl
@[simp] theorem State.poolQ_modKernel (s : State) (k : Nat) (f : Kernel → Kernel) : (s.modKernel k f).poolQ = s.poolQ := rfl
@[simp] theorem State.poolWait_modKernel (s : State) (k : Nat) (f : Kernel → Kernel) : (s.modKernel k f).poolWait = s.poolWait := rfl
@[simp] theorem State.cycle_modKernel (s : State) (k : Nat) (f : Kernel → Kernel) : (s.modKernel k f).cycle = s.cycle := rfl
@[simp] theorem State.tabor_modKernel (s : State) (k : Nat) (f : Kernel → Kernel) : (s.modKernel k f).tabor = s.tabor := rfl
@[simp] theorem State.mem_modKernel (s : State) (k : Nat) (f : Kernel → Kernel) : (s.modKernel k f).mem = s.mem := rfl
@[simp] theorem State.poison_modKernel (s : State) (k : Nat) (f : Kernel → Kernel) : (s.modKernel k f).poison = s.poison := rfl
@[simp] theorem State.sharers_modKernel (s : State) (k : Nat) (f : Kernel → Kernel) : (s.modKernel k f).sharers = s.sharers := rfl
@[simp] theorem State.owners_modKernel (s : State) (k : Nat) (f : Kernel → Kernel) : (s.modKernel k f).owners = s.owners := rfl
@[simp] theorem State.reds_modKernel (s : State) (k : Nat) (f : Kernel → Kernel) : (s.modKernel k f).reds = s.reds := rfl
@[simp] theorem State.ops_modKernel (s : State) (k : Nat) (f : Kernel → Kernel) : (s.modKernel k f).ops = s.ops := rfl
@[simp] theorem State.crews_modKernel (s : State) (k : Nat) (f : Kernel → Kernel) : (s.modKernel k f).crews = s.crews := rfl
@[simp] theorem State.cores_modKernel (s : State) (k : Nat) (f : Kernel → Kernel) : (s.modKernel k f).cores = s.cores := rfl
@[simp] theorem State.ctxs_modKernel (s : State) (k : Nat) (f : Kernel → Kernel) : (s.modKernel k f).ctxs = s.ctxs := rfl
@[simp] theorem State.replays_modKernel (s : State) (k : Nat) (f : Kernel → Kernel) : (s.modKernel k f).replays = s.replays := rfl
@[simp] theorem State.tlb_modKernel (s : State) (k : Nat) (f : Kernel → Kernel) : (s.modKernel k f).tlb = s.tlb := rfl
@[simp] theorem State.walks_modKernel (s : State) (k : Nat) (f : Kernel → Kernel) : (s.modKernel k f).walks = s.walks := rfl
@[simp] theorem State.pend_modKernel (s : State) (k : Nat) (f : Kernel → Kernel) : (s.modKernel k f).pend = s.pend := rfl
@[simp] theorem State.ports_modKernel (s : State) (k : Nat) (f : Kernel → Kernel) : (s.modKernel k f).ports = s.ports := rfl
@[simp] theorem State.inbox_modKernel (s : State) (k : Nat) (f : Kernel → Kernel) : (s.modKernel k f).inbox = s.inbox := rfl
@[simp] theorem State.events_modKernel (s : State) (k : Nat) (f : Kernel → Kernel) : (s.modKernel k f).events = s.events := rfl
@[simp] theorem State.stopped_modKernel (s : State) (k : Nat) (f : Kernel → Kernel) : (s.modKernel k f).stopped = s.stopped := rfl

/-! `modPort` -/

@[simp] theorem State.agenda_modPort (s : State) (p : Nat) (f : Port → Port) : (s.modPort p f).agenda = s.agenda := rfl
@[simp] theorem State.cur_modPort (s : State) (p : Nat) (f : Port → Port) : (s.modPort p f).cur = s.cur := rfl
@[simp] theorem State.fresh_modPort (s : State) (p : Nat) (f : Port → Port) : (s.modPort p f).fresh = s.fresh := rfl
@[simp] theorem State.next_modPort (s : State) (p : Nat) (f : Port → Port) : (s.modPort p f).next = s.next := rfl
@[simp] theorem State.status_modPort (s : State) (p : Nat) (f : Port → Port) : (s.modPort p f).status = s.status := rfl
@[simp] theorem State.outbox_modPort (s : State) (p : Nat) (f : Port → Port) : (s.modPort p f).outbox = s.outbox := rfl
@[simp] theorem State.winWrites_modPort (s : State) (p : Nat) (f : Port → Port) : (s.modPort p f).winWrites = s.winWrites := rfl
@[simp] theorem State.waitDst_modPort (s : State) (p : Nat) (f : Port → Port) : (s.modPort p f).waitDst = s.waitDst := rfl
@[simp] theorem State.poolQ_modPort (s : State) (p : Nat) (f : Port → Port) : (s.modPort p f).poolQ = s.poolQ := rfl
@[simp] theorem State.poolWait_modPort (s : State) (p : Nat) (f : Port → Port) : (s.modPort p f).poolWait = s.poolWait := rfl
@[simp] theorem State.cycle_modPort (s : State) (p : Nat) (f : Port → Port) : (s.modPort p f).cycle = s.cycle := rfl
@[simp] theorem State.tabor_modPort (s : State) (p : Nat) (f : Port → Port) : (s.modPort p f).tabor = s.tabor := rfl
@[simp] theorem State.mem_modPort (s : State) (p : Nat) (f : Port → Port) : (s.modPort p f).mem = s.mem := rfl
@[simp] theorem State.poison_modPort (s : State) (p : Nat) (f : Port → Port) : (s.modPort p f).poison = s.poison := rfl
@[simp] theorem State.sharers_modPort (s : State) (p : Nat) (f : Port → Port) : (s.modPort p f).sharers = s.sharers := rfl
@[simp] theorem State.owners_modPort (s : State) (p : Nat) (f : Port → Port) : (s.modPort p f).owners = s.owners := rfl
@[simp] theorem State.reds_modPort (s : State) (p : Nat) (f : Port → Port) : (s.modPort p f).reds = s.reds := rfl
@[simp] theorem State.ops_modPort (s : State) (p : Nat) (f : Port → Port) : (s.modPort p f).ops = s.ops := rfl
@[simp] theorem State.crews_modPort (s : State) (p : Nat) (f : Port → Port) : (s.modPort p f).crews = s.crews := rfl
@[simp] theorem State.cores_modPort (s : State) (p : Nat) (f : Port → Port) : (s.modPort p f).cores = s.cores := rfl
@[simp] theorem State.ctxs_modPort (s : State) (p : Nat) (f : Port → Port) : (s.modPort p f).ctxs = s.ctxs := rfl
@[simp] theorem State.kernels_modPort (s : State) (p : Nat) (f : Port → Port) : (s.modPort p f).kernels = s.kernels := rfl
@[simp] theorem State.replays_modPort (s : State) (p : Nat) (f : Port → Port) : (s.modPort p f).replays = s.replays := rfl
@[simp] theorem State.tlb_modPort (s : State) (p : Nat) (f : Port → Port) : (s.modPort p f).tlb = s.tlb := rfl
@[simp] theorem State.walks_modPort (s : State) (p : Nat) (f : Port → Port) : (s.modPort p f).walks = s.walks := rfl
@[simp] theorem State.pend_modPort (s : State) (p : Nat) (f : Port → Port) : (s.modPort p f).pend = s.pend := rfl
@[simp] theorem State.inbox_modPort (s : State) (p : Nat) (f : Port → Port) : (s.modPort p f).inbox = s.inbox := rfl
@[simp] theorem State.events_modPort (s : State) (p : Nat) (f : Port → Port) : (s.modPort p f).events = s.events := rfl
@[simp] theorem State.stopped_modPort (s : State) (p : Nat) (f : Port → Port) : (s.modPort p f).stopped = s.stopped := rfl

/-! `modOp` -/

@[simp] theorem State.agenda_modOp (s : State) (o : Nat) (f : Op → Op) : (s.modOp o f).agenda = s.agenda := rfl
@[simp] theorem State.cur_modOp (s : State) (o : Nat) (f : Op → Op) : (s.modOp o f).cur = s.cur := rfl
@[simp] theorem State.fresh_modOp (s : State) (o : Nat) (f : Op → Op) : (s.modOp o f).fresh = s.fresh := rfl
@[simp] theorem State.next_modOp (s : State) (o : Nat) (f : Op → Op) : (s.modOp o f).next = s.next := rfl
@[simp] theorem State.status_modOp (s : State) (o : Nat) (f : Op → Op) : (s.modOp o f).status = s.status := rfl
@[simp] theorem State.outbox_modOp (s : State) (o : Nat) (f : Op → Op) : (s.modOp o f).outbox = s.outbox := rfl
@[simp] theorem State.winWrites_modOp (s : State) (o : Nat) (f : Op → Op) : (s.modOp o f).winWrites = s.winWrites := rfl
@[simp] theorem State.waitDst_modOp (s : State) (o : Nat) (f : Op → Op) : (s.modOp o f).waitDst = s.waitDst := rfl
@[simp] theorem State.poolQ_modOp (s : State) (o : Nat) (f : Op → Op) : (s.modOp o f).poolQ = s.poolQ := rfl
@[simp] theorem State.poolWait_modOp (s : State) (o : Nat) (f : Op → Op) : (s.modOp o f).poolWait = s.poolWait := rfl
@[simp] theorem State.cycle_modOp (s : State) (o : Nat) (f : Op → Op) : (s.modOp o f).cycle = s.cycle := rfl
@[simp] theorem State.tabor_modOp (s : State) (o : Nat) (f : Op → Op) : (s.modOp o f).tabor = s.tabor := rfl
@[simp] theorem State.mem_modOp (s : State) (o : Nat) (f : Op → Op) : (s.modOp o f).mem = s.mem := rfl
@[simp] theorem State.poison_modOp (s : State) (o : Nat) (f : Op → Op) : (s.modOp o f).poison = s.poison := rfl
@[simp] theorem State.sharers_modOp (s : State) (o : Nat) (f : Op → Op) : (s.modOp o f).sharers = s.sharers := rfl
@[simp] theorem State.owners_modOp (s : State) (o : Nat) (f : Op → Op) : (s.modOp o f).owners = s.owners := rfl
@[simp] theorem State.reds_modOp (s : State) (o : Nat) (f : Op → Op) : (s.modOp o f).reds = s.reds := rfl
@[simp] theorem State.crews_modOp (s : State) (o : Nat) (f : Op → Op) : (s.modOp o f).crews = s.crews := rfl
@[simp] theorem State.cores_modOp (s : State) (o : Nat) (f : Op → Op) : (s.modOp o f).cores = s.cores := rfl
@[simp] theorem State.ctxs_modOp (s : State) (o : Nat) (f : Op → Op) : (s.modOp o f).ctxs = s.ctxs := rfl
@[simp] theorem State.kernels_modOp (s : State) (o : Nat) (f : Op → Op) : (s.modOp o f).kernels = s.kernels := rfl
@[simp] theorem State.replays_modOp (s : State) (o : Nat) (f : Op → Op) : (s.modOp o f).replays = s.replays := rfl
@[simp] theorem State.tlb_modOp (s : State) (o : Nat) (f : Op → Op) : (s.modOp o f).tlb = s.tlb := rfl
@[simp] theorem State.walks_modOp (s : State) (o : Nat) (f : Op → Op) : (s.modOp o f).walks = s.walks := rfl
@[simp] theorem State.pend_modOp (s : State) (o : Nat) (f : Op → Op) : (s.modOp o f).pend = s.pend := rfl
@[simp] theorem State.ports_modOp (s : State) (o : Nat) (f : Op → Op) : (s.modOp o f).ports = s.ports := rfl
@[simp] theorem State.inbox_modOp (s : State) (o : Nat) (f : Op → Op) : (s.modOp o f).inbox = s.inbox := rfl
@[simp] theorem State.events_modOp (s : State) (o : Nat) (f : Op → Op) : (s.modOp o f).events = s.events := rfl
@[simp] theorem State.stopped_modOp (s : State) (o : Nat) (f : Op → Op) : (s.modOp o f).stopped = s.stopped := rfl

/-! `send` -/

@[simp] theorem State.agenda_send (s : State) (o : Out) : (s.send o).agenda = s.agenda := rfl
@[simp] theorem State.cur_send (s : State) (o : Out) : (s.send o).cur = s.cur := rfl
@[simp] theorem State.fresh_send (s : State) (o : Out) : (s.send o).fresh = s.fresh := rfl
@[simp] theorem State.next_send (s : State) (o : Out) : (s.send o).next = s.next := rfl
@[simp] theorem State.status_send (s : State) (o : Out) : (s.send o).status = s.status := rfl
@[simp] theorem State.cycle_send (s : State) (o : Out) : (s.send o).cycle = s.cycle := rfl
@[simp] theorem State.tabor_send (s : State) (o : Out) : (s.send o).tabor = s.tabor := rfl
@[simp] theorem State.mem_send (s : State) (o : Out) : (s.send o).mem = s.mem := rfl
@[simp] theorem State.poison_send (s : State) (o : Out) : (s.send o).poison = s.poison := rfl
@[simp] theorem State.sharers_send (s : State) (o : Out) : (s.send o).sharers = s.sharers := rfl
@[simp] theorem State.owners_send (s : State) (o : Out) : (s.send o).owners = s.owners := rfl
@[simp] theorem State.reds_send (s : State) (o : Out) : (s.send o).reds = s.reds := rfl
@[simp] theorem State.ops_send (s : State) (o : Out) : (s.send o).ops = s.ops := rfl
@[simp] theorem State.crews_send (s : State) (o : Out) : (s.send o).crews = s.crews := rfl
@[simp] theorem State.cores_send (s : State) (o : Out) : (s.send o).cores = s.cores := rfl
@[simp] theorem State.ctxs_send (s : State) (o : Out) : (s.send o).ctxs = s.ctxs := rfl
@[simp] theorem State.kernels_send (s : State) (o : Out) : (s.send o).kernels = s.kernels := rfl
@[simp] theorem State.replays_send (s : State) (o : Out) : (s.send o).replays = s.replays := rfl
@[simp] theorem State.tlb_send (s : State) (o : Out) : (s.send o).tlb = s.tlb := rfl
@[simp] theorem State.walks_send (s : State) (o : Out) : (s.send o).walks = s.walks := rfl
@[simp] theorem State.pend_send (s : State) (o : Out) : (s.send o).pend = s.pend := rfl
@[simp] theorem State.ports_send (s : State) (o : Out) : (s.send o).ports = s.ports := rfl
@[simp] theorem State.inbox_send (s : State) (o : Out) : (s.send o).inbox = s.inbox := rfl
@[simp] theorem State.events_send (s : State) (o : Out) : (s.send o).events = s.events := rfl
@[simp] theorem State.stopped_send (s : State) (o : Out) : (s.send o).stopped = s.stopped := rfl

/-! `event` -/

@[simp] theorem State.agenda_event (s : State) (kind code x off : Nat) : (s.event kind code x off).agenda = s.agenda := rfl
@[simp] theorem State.cur_event (s : State) (kind code x off : Nat) : (s.event kind code x off).cur = s.cur := rfl
@[simp] theorem State.fresh_event (s : State) (kind code x off : Nat) : (s.event kind code x off).fresh = s.fresh := rfl
@[simp] theorem State.next_event (s : State) (kind code x off : Nat) : (s.event kind code x off).next = s.next := rfl
@[simp] theorem State.status_event (s : State) (kind code x off : Nat) : (s.event kind code x off).status = s.status := rfl
@[simp] theorem State.outbox_event (s : State) (kind code x off : Nat) : (s.event kind code x off).outbox = s.outbox := rfl
@[simp] theorem State.winWrites_event (s : State) (kind code x off : Nat) : (s.event kind code x off).winWrites = s.winWrites := rfl
@[simp] theorem State.waitDst_event (s : State) (kind code x off : Nat) : (s.event kind code x off).waitDst = s.waitDst := rfl
@[simp] theorem State.poolQ_event (s : State) (kind code x off : Nat) : (s.event kind code x off).poolQ = s.poolQ := rfl
@[simp] theorem State.poolWait_event (s : State) (kind code x off : Nat) : (s.event kind code x off).poolWait = s.poolWait := rfl
@[simp] theorem State.cycle_event (s : State) (kind code x off : Nat) : (s.event kind code x off).cycle = s.cycle := rfl
@[simp] theorem State.tabor_event (s : State) (kind code x off : Nat) : (s.event kind code x off).tabor = s.tabor := rfl
@[simp] theorem State.mem_event (s : State) (kind code x off : Nat) : (s.event kind code x off).mem = s.mem := rfl
@[simp] theorem State.poison_event (s : State) (kind code x off : Nat) : (s.event kind code x off).poison = s.poison := rfl
@[simp] theorem State.sharers_event (s : State) (kind code x off : Nat) : (s.event kind code x off).sharers = s.sharers := rfl
@[simp] theorem State.owners_event (s : State) (kind code x off : Nat) : (s.event kind code x off).owners = s.owners := rfl
@[simp] theorem State.reds_event (s : State) (kind code x off : Nat) : (s.event kind code x off).reds = s.reds := rfl
@[simp] theorem State.ops_event (s : State) (kind code x off : Nat) : (s.event kind code x off).ops = s.ops := rfl
@[simp] theorem State.crews_event (s : State) (kind code x off : Nat) : (s.event kind code x off).crews = s.crews := rfl
@[simp] theorem State.cores_event (s : State) (kind code x off : Nat) : (s.event kind code x off).cores = s.cores := rfl
@[simp] theorem State.ctxs_event (s : State) (kind code x off : Nat) : (s.event kind code x off).ctxs = s.ctxs := rfl
@[simp] theorem State.kernels_event (s : State) (kind code x off : Nat) : (s.event kind code x off).kernels = s.kernels := rfl
@[simp] theorem State.replays_event (s : State) (kind code x off : Nat) : (s.event kind code x off).replays = s.replays := rfl
@[simp] theorem State.tlb_event (s : State) (kind code x off : Nat) : (s.event kind code x off).tlb = s.tlb := rfl
@[simp] theorem State.walks_event (s : State) (kind code x off : Nat) : (s.event kind code x off).walks = s.walks := rfl
@[simp] theorem State.pend_event (s : State) (kind code x off : Nat) : (s.event kind code x off).pend = s.pend := rfl
@[simp] theorem State.ports_event (s : State) (kind code x off : Nat) : (s.event kind code x off).ports = s.ports := rfl
@[simp] theorem State.inbox_event (s : State) (kind code x off : Nat) : (s.event kind code x off).inbox = s.inbox := rfl
@[simp] theorem State.stopped_event (s : State) (kind code x off : Nat) : (s.event kind code x off).stopped = s.stopped := rfl

/-! `killDst` -/

@[simp] theorem State.agenda_killDst (s : State) (c w b : Nat) (ks : List Nat) : (s.killDst c w b ks).agenda = s.agenda := rfl
@[simp] theorem State.cur_killDst (s : State) (c w b : Nat) (ks : List Nat) : (s.killDst c w b ks).cur = s.cur := rfl
@[simp] theorem State.fresh_killDst (s : State) (c w b : Nat) (ks : List Nat) : (s.killDst c w b ks).fresh = s.fresh := rfl
@[simp] theorem State.next_killDst (s : State) (c w b : Nat) (ks : List Nat) : (s.killDst c w b ks).next = s.next := rfl
@[simp] theorem State.status_killDst (s : State) (c w b : Nat) (ks : List Nat) : (s.killDst c w b ks).status = s.status := rfl
@[simp] theorem State.outbox_killDst (s : State) (c w b : Nat) (ks : List Nat) : (s.killDst c w b ks).outbox = s.outbox := rfl
@[simp] theorem State.winWrites_killDst (s : State) (c w b : Nat) (ks : List Nat) : (s.killDst c w b ks).winWrites = s.winWrites := rfl
@[simp] theorem State.poolQ_killDst (s : State) (c w b : Nat) (ks : List Nat) : (s.killDst c w b ks).poolQ = s.poolQ := rfl
@[simp] theorem State.poolWait_killDst (s : State) (c w b : Nat) (ks : List Nat) : (s.killDst c w b ks).poolWait = s.poolWait := rfl
@[simp] theorem State.cycle_killDst (s : State) (c w b : Nat) (ks : List Nat) : (s.killDst c w b ks).cycle = s.cycle := rfl
@[simp] theorem State.tabor_killDst (s : State) (c w b : Nat) (ks : List Nat) : (s.killDst c w b ks).tabor = s.tabor := rfl
@[simp] theorem State.mem_killDst (s : State) (c w b : Nat) (ks : List Nat) : (s.killDst c w b ks).mem = s.mem := rfl
@[simp] theorem State.poison_killDst (s : State) (c w b : Nat) (ks : List Nat) : (s.killDst c w b ks).poison = s.poison := rfl
@[simp] theorem State.sharers_killDst (s : State) (c w b : Nat) (ks : List Nat) : (s.killDst c w b ks).sharers = s.sharers := rfl
@[simp] theorem State.owners_killDst (s : State) (c w b : Nat) (ks : List Nat) : (s.killDst c w b ks).owners = s.owners := rfl
@[simp] theorem State.reds_killDst (s : State) (c w b : Nat) (ks : List Nat) : (s.killDst c w b ks).reds = s.reds := rfl
@[simp] theorem State.crews_killDst (s : State) (c w b : Nat) (ks : List Nat) : (s.killDst c w b ks).crews = s.crews := rfl
@[simp] theorem State.cores_killDst (s : State) (c w b : Nat) (ks : List Nat) : (s.killDst c w b ks).cores = s.cores := rfl
@[simp] theorem State.ctxs_killDst (s : State) (c w b : Nat) (ks : List Nat) : (s.killDst c w b ks).ctxs = s.ctxs := rfl
@[simp] theorem State.kernels_killDst (s : State) (c w b : Nat) (ks : List Nat) : (s.killDst c w b ks).kernels = s.kernels := rfl
@[simp] theorem State.replays_killDst (s : State) (c w b : Nat) (ks : List Nat) : (s.killDst c w b ks).replays = s.replays := rfl
@[simp] theorem State.tlb_killDst (s : State) (c w b : Nat) (ks : List Nat) : (s.killDst c w b ks).tlb = s.tlb := rfl
@[simp] theorem State.walks_killDst (s : State) (c w b : Nat) (ks : List Nat) : (s.killDst c w b ks).walks = s.walks := rfl
@[simp] theorem State.pend_killDst (s : State) (c w b : Nat) (ks : List Nat) : (s.killDst c w b ks).pend = s.pend := rfl
@[simp] theorem State.ports_killDst (s : State) (c w b : Nat) (ks : List Nat) : (s.killDst c w b ks).ports = s.ports := rfl
@[simp] theorem State.inbox_killDst (s : State) (c w b : Nat) (ks : List Nat) : (s.killDst c w b ks).inbox = s.inbox := rfl
@[simp] theorem State.events_killDst (s : State) (c w b : Nat) (ks : List Nat) : (s.killDst c w b ks).events = s.events := rfl
@[simp] theorem State.stopped_killDst (s : State) (c w b : Nat) (ks : List Nat) : (s.killDst c w b ks).stopped = s.stopped := rfl

/-! `writeRegs` -/

@[simp] theorem State.agenda_writeRegs (s : State) (c w : Nat) (l : List (Nat × Word)) : (s.writeRegs c w l).agenda = s.agenda := rfl
@[simp] theorem State.cur_writeRegs (s : State) (c w : Nat) (l : List (Nat × Word)) : (s.writeRegs c w l).cur = s.cur := rfl
@[simp] theorem State.fresh_writeRegs (s : State) (c w : Nat) (l : List (Nat × Word)) : (s.writeRegs c w l).fresh = s.fresh := rfl
@[simp] theorem State.next_writeRegs (s : State) (c w : Nat) (l : List (Nat × Word)) : (s.writeRegs c w l).next = s.next := rfl
@[simp] theorem State.status_writeRegs (s : State) (c w : Nat) (l : List (Nat × Word)) : (s.writeRegs c w l).status = s.status := rfl
@[simp] theorem State.outbox_writeRegs (s : State) (c w : Nat) (l : List (Nat × Word)) : (s.writeRegs c w l).outbox = s.outbox := rfl
@[simp] theorem State.winWrites_writeRegs (s : State) (c w : Nat) (l : List (Nat × Word)) : (s.writeRegs c w l).winWrites = s.winWrites := rfl
@[simp] theorem State.poolQ_writeRegs (s : State) (c w : Nat) (l : List (Nat × Word)) : (s.writeRegs c w l).poolQ = s.poolQ := rfl
@[simp] theorem State.poolWait_writeRegs (s : State) (c w : Nat) (l : List (Nat × Word)) : (s.writeRegs c w l).poolWait = s.poolWait := rfl
@[simp] theorem State.cycle_writeRegs (s : State) (c w : Nat) (l : List (Nat × Word)) : (s.writeRegs c w l).cycle = s.cycle := rfl
@[simp] theorem State.tabor_writeRegs (s : State) (c w : Nat) (l : List (Nat × Word)) : (s.writeRegs c w l).tabor = s.tabor := rfl
@[simp] theorem State.mem_writeRegs (s : State) (c w : Nat) (l : List (Nat × Word)) : (s.writeRegs c w l).mem = s.mem := rfl
@[simp] theorem State.poison_writeRegs (s : State) (c w : Nat) (l : List (Nat × Word)) : (s.writeRegs c w l).poison = s.poison := rfl
@[simp] theorem State.sharers_writeRegs (s : State) (c w : Nat) (l : List (Nat × Word)) : (s.writeRegs c w l).sharers = s.sharers := rfl
@[simp] theorem State.owners_writeRegs (s : State) (c w : Nat) (l : List (Nat × Word)) : (s.writeRegs c w l).owners = s.owners := rfl
@[simp] theorem State.reds_writeRegs (s : State) (c w : Nat) (l : List (Nat × Word)) : (s.writeRegs c w l).reds = s.reds := rfl
@[simp] theorem State.cores_writeRegs (s : State) (c w : Nat) (l : List (Nat × Word)) : (s.writeRegs c w l).cores = s.cores := rfl
@[simp] theorem State.ctxs_writeRegs (s : State) (c w : Nat) (l : List (Nat × Word)) : (s.writeRegs c w l).ctxs = s.ctxs := rfl
@[simp] theorem State.kernels_writeRegs (s : State) (c w : Nat) (l : List (Nat × Word)) : (s.writeRegs c w l).kernels = s.kernels := rfl
@[simp] theorem State.replays_writeRegs (s : State) (c w : Nat) (l : List (Nat × Word)) : (s.writeRegs c w l).replays = s.replays := rfl
@[simp] theorem State.tlb_writeRegs (s : State) (c w : Nat) (l : List (Nat × Word)) : (s.writeRegs c w l).tlb = s.tlb := rfl
@[simp] theorem State.walks_writeRegs (s : State) (c w : Nat) (l : List (Nat × Word)) : (s.writeRegs c w l).walks = s.walks := rfl
@[simp] theorem State.pend_writeRegs (s : State) (c w : Nat) (l : List (Nat × Word)) : (s.writeRegs c w l).pend = s.pend := rfl
@[simp] theorem State.ports_writeRegs (s : State) (c w : Nat) (l : List (Nat × Word)) : (s.writeRegs c w l).ports = s.ports := rfl
@[simp] theorem State.inbox_writeRegs (s : State) (c w : Nat) (l : List (Nat × Word)) : (s.writeRegs c w l).inbox = s.inbox := rfl
@[simp] theorem State.events_writeRegs (s : State) (c w : Nat) (l : List (Nat × Word)) : (s.writeRegs c w l).events = s.events := rfl
@[simp] theorem State.stopped_writeRegs (s : State) (c w : Nat) (l : List (Nat × Word)) : (s.writeRegs c w l).stopped = s.stopped := rfl

/-! `launch` -/

@[simp] theorem State.agenda_launch (s : State) (op : Op) : (s.launch op).agenda = s.agenda := rfl
@[simp] theorem State.cur_launch (s : State) (op : Op) : (s.launch op).cur = s.cur := rfl
@[simp] theorem State.fresh_launch (s : State) (op : Op) : (s.launch op).fresh = s.fresh := rfl
@[simp] theorem State.status_launch (s : State) (op : Op) : (s.launch op).status = s.status := rfl
@[simp] theorem State.outbox_launch (s : State) (op : Op) : (s.launch op).outbox = s.outbox := rfl
@[simp] theorem State.winWrites_launch (s : State) (op : Op) : (s.launch op).winWrites = s.winWrites := rfl
@[simp] theorem State.poolQ_launch (s : State) (op : Op) : (s.launch op).poolQ = s.poolQ := rfl
@[simp] theorem State.poolWait_launch (s : State) (op : Op) : (s.launch op).poolWait = s.poolWait := rfl
@[simp] theorem State.cycle_launch (s : State) (op : Op) : (s.launch op).cycle = s.cycle := rfl
@[simp] theorem State.tabor_launch (s : State) (op : Op) : (s.launch op).tabor = s.tabor := rfl
@[simp] theorem State.mem_launch (s : State) (op : Op) : (s.launch op).mem = s.mem := rfl
@[simp] theorem State.poison_launch (s : State) (op : Op) : (s.launch op).poison = s.poison := rfl
@[simp] theorem State.sharers_launch (s : State) (op : Op) : (s.launch op).sharers = s.sharers := rfl
@[simp] theorem State.owners_launch (s : State) (op : Op) : (s.launch op).owners = s.owners := rfl
@[simp] theorem State.reds_launch (s : State) (op : Op) : (s.launch op).reds = s.reds := rfl
@[simp] theorem State.cores_launch (s : State) (op : Op) : (s.launch op).cores = s.cores := rfl
@[simp] theorem State.ctxs_launch (s : State) (op : Op) : (s.launch op).ctxs = s.ctxs := rfl
@[simp] theorem State.kernels_launch (s : State) (op : Op) : (s.launch op).kernels = s.kernels := rfl
@[simp] theorem State.replays_launch (s : State) (op : Op) : (s.launch op).replays = s.replays := rfl
@[simp] theorem State.tlb_launch (s : State) (op : Op) : (s.launch op).tlb = s.tlb := rfl
@[simp] theorem State.walks_launch (s : State) (op : Op) : (s.launch op).walks = s.walks := rfl
@[simp] theorem State.pend_launch (s : State) (op : Op) : (s.launch op).pend = s.pend := rfl
@[simp] theorem State.ports_launch (s : State) (op : Op) : (s.launch op).ports = s.ports := rfl
@[simp] theorem State.inbox_launch (s : State) (op : Op) : (s.launch op).inbox = s.inbox := rfl
@[simp] theorem State.events_launch (s : State) (op : Op) : (s.launch op).events = s.events := rfl
@[simp] theorem State.stopped_launch (s : State) (op : Op) : (s.launch op).stopped = s.stopped := rfl

/-! ## Reading back -/

theorem State.core_modCore (s : State) (c d : Nat) (f : Core → Core) :
    (s.modCore c f).core d = if d = c then f (s.core c) else s.core d := by
  simp [State.core, State.modCore, Tab.rd_put]

theorem State.ctx_modCtx (s : State) (x y : Nat) (f : Context → Context) :
    (s.modCtx x f).ctx y = if y = x then f (s.ctx x) else s.ctx y := by
  simp [State.ctx, State.modCtx, Tab.rd_put]

theorem State.port_modPort (s : State) (p q : Nat) (f : Port → Port) :
    (s.modPort p f).port q = if q = p then f (s.port p) else s.port q := by
  simp [State.port, State.modPort, Tab.rd_put]

theorem State.crew?_modCrew (s : State) (c d : Nat) (f : Crew → Crew) :
    (s.modCrew c f).crew? d = if d = c then (s.crew? c).map f else s.crew? d := by
  simp [State.crew?, State.modCrew, Tab.find?_modify]

theorem State.kernel?_modKernel (s : State) (k j : Nat) (f : Kernel → Kernel) :
    (s.modKernel k f).kernel? j = if j = k then (s.kernel? k).map f else s.kernel? j := by
  simp [State.kernel?, State.modKernel, Tab.find?_modify]

theorem State.op?_modOp (s : State) (o j : Nat) (f : Op → Op) :
    (s.modOp o f).op? j = if j = o then (s.op? o).map f else s.op? j := by
  simp [State.op?, State.modOp, Tab.find?_modify]

theorem State.wave?_modWave (s : State) (c d w x : Nat) (f : Wave → Wave) :
    (s.modWave c w f).wave? d x = if d = c ∧ x = w then (s.wave? c w).map f else s.wave? d x := by
  unfold State.wave? State.modWave
  rw [State.crew?_modCrew]
  by_cases hd : d = c
  · subst hd
    cases hc : s.crew? d with
    | none => simp
    | some cr =>
      simp only [if_true, Option.map_some, Option.bind_some, Tab.find?_modify, true_and]
  · simp [hd]

/-- A wave's crew but for its waves is as before when a wave changes. -/
theorem State.crew?_modWave (s : State) (c d w : Nat) (f : Wave → Wave) :
    ((s.modWave c w f).crew? d).map (fun cr => { cr with waves := [] }) = (s.crew? d).map (fun cr => { cr with waves := [] }) := by
  unfold State.modWave
  rw [State.crew?_modCrew]
  split
  · rename_i h
    subst h
    cases h : s.crew? d with
    | none => rfl
    | some cr => rfl
  · rfl

theorem State.op?_killDst (s : State) (c w b o : Nat) (ks : List Nat) :
    (s.killDst c w b ks).op? o = (s.op? o).map (fun op =>
      if op.crew = c && op.wave = w && decide (o < b) && op.dsts.any ks.contains
      then { op with dsts := op.dsts.filter (fun k => !ks.contains k) } else op) := by
  simp only [State.op?, State.killDst, Tab.find?_mapV]

@[simp] theorem State.crew?_killDst (s : State) (c w b d : Nat) (ks : List Nat) : (s.killDst c w b ks).crew? d = s.crew? d := rfl

@[simp] theorem State.wave?_killDst (s : State) (c w b d x : Nat) (ks : List Nat) :
    (s.killDst c w b ks).wave? d x = s.wave? d x := rfl

/-- The issuing wave is the wave of the table that the cursor names. -/
theorem State.curWave_spec (s : State) (q : Cursor) (cr : Crew) (w : Wave) (h : s.curWave = some (q, cr, w)) :
    s.cur = some q ∧ s.crew? q.crew = some cr ∧ cr.waves.find? q.wave = some w ∧ s.wave? q.crew q.wave = some w := by
  unfold State.curWave at h
  cases hq : s.cur with
  | none => simp [hq] at h
  | some q' =>
    simp only [hq] at h
    cases hc : s.crew? q'.crew with
    | none => simp [hc] at h
    | some cr' =>
      simp only [hc] at h
      cases hw : cr'.waves.find? q'.wave with
      | none => simp [hw] at h
      | some w' =>
        simp only [hw, Option.some.injEq, Prod.mk.injEq] at h
        obtain ⟨rfl, rfl, rfl⟩ := h
        refine ⟨rfl, hc, hw, ?_⟩
        simp [State.wave?, hc, hw]

end Sys2Proof.Machine
end

