-- ==== Sys2Proof/Laws/Regs.lean ====
section
/-!
SUPPORT. Registers: what writing a list of register elements leaves, the lanes of masks, and what every lane-wise,
predicate-writing, s-register-writing and operation-launching instruction does when nothing is in its way.
-/

namespace Sys2Proof.Machine

open Sys2Proof Sys2Proof.Safety Host

/-! ## Single elements -/

theorem Wave.v_setKey_v (w : Wave) (r l k : Nat) (x : Word) (hk : k < 32768) :
    (w.setKey k x).v r l = if 128 * r + l = k then x else w.v r l := by
  simp [Wave.setKey, hk, Wave.v, Tab.rd_wr]

theorem Wave.v_setKey_s (w : Wave) (r l k : Nat) (x : Word) (hk : ¬k < 32768) : (w.setKey k x).v r l = w.v r l := by
  simp [Wave.setKey, hk, Wave.v]

theorem Wave.s_setKey_v (w : Wave) (r k : Nat) (x : Word) (hk : k < 32768) : (w.setKey k x).s r = w.s r := by
  simp [Wave.setKey, hk, Wave.s]

theorem Wave.s_setKey_s (w : Wave) (r k : Nat) (x : Word) (hk : ¬k < 32768) :
    (w.setKey k x).s r = if r = k - 32768 then x else w.s r := by
  simp [Wave.setKey, hk, Wave.s, Tab.rd_wr]

theorem Wave.rest_setKey (w : Wave) (k : Nat) (x : Word) : { w.setKey k x with vr := w.vr, sr := w.sr } = w := by
  unfold Wave.setKey
  split <;> rfl

theorem Wave.rest_setKeys (w : Wave) (l : List (Nat × Word)) : { w.setKeys l with vr := w.vr, sr := w.sr } = w := by
  unfold Wave.setKeys
  induction l generalizing w with
  | nil => rfl
  | cons e l ih =>
    have h := ih (w.setKey e.1 e.2)
    simp only [List.foldl_cons]
    have h2 := congrArg (fun x : Wave => { x with vr := w.vr, sr := w.sr }) h
    simp only at h2
    rw [Wave.rest_setKey] at h2
    exact h2

/-- The last value a list gives a key, or a default. -/
def lastOf (l : List (Nat × Word)) (k : Nat) (d : Word) : Word := l.foldl (fun a e => if e.1 = k then e.2 else a) d

theorem Wave.v_setKeys (w : Wave) (l : List (Nat × Word)) (r n : Nat) (hr : 128 * r + n < 32768) :
    (w.setKeys l).v r n = lastOf l (128 * r + n) (w.v r n) := by
  unfold Wave.setKeys lastOf
  induction l generalizing w with
  | nil => rfl
  | cons e l ih =>
    simp only [List.foldl_cons]
    rw [ih]
    congr 1
    by_cases hk : e.1 < 32768
    · rw [Wave.v_setKey_v _ _ _ _ _ hk]
      by_cases h : e.1 = 128 * r + n
      · rw [if_pos h, if_pos h.symm]
      · rw [if_neg h, if_neg (Ne.symm h)]
    · rw [Wave.v_setKey_s _ _ _ _ _ hk, if_neg (by omega)]

theorem Wave.s_setKeys (w : Wave) (l : List (Nat × Word)) (r : Nat) :
    (w.setKeys l).s r = lastOf l (32768 + r) (w.s r) := by
  unfold Wave.setKeys lastOf
  induction l generalizing w with
  | nil => rfl
  | cons e l ih =>
    simp only [List.foldl_cons]
    rw [ih]
    congr 1
    by_cases hk : e.1 < 32768
    · rw [Wave.s_setKey_v _ _ _ _ hk, if_neg (by omega)]
    · rw [Wave.s_setKey_s _ _ _ _ hk]
      by_cases h : e.1 = 32768 + r
      · rw [if_pos h, if_pos (by omega)]
      · rw [if_neg h, if_neg (by omega)]

theorem lastOf_append (a b : List (Nat × Word)) (k : Nat) (d : Word) : lastOf (a ++ b) k d = lastOf b k (lastOf a k d) := by
  simp [lastOf, List.foldl_append]

theorem lastOf_none (l : List (Nat × Word)) (k : Nat) (d : Word) (h : ∀ e ∈ l, e.1 ≠ k) : lastOf l k d = d := by
  unfold lastOf
  induction l generalizing d with
  | nil => rfl
  | cons e l ih =>
    simp only [List.foldl_cons, if_neg (h e (List.mem_cons_self))]
    exact ih d (fun x hx => h x (List.mem_cons_of_mem _ hx))

/-! ## Groups -/

theorem groupWord_succ (v j : Nat) : groupWord (v / 2 ^ 32) j = groupWord v (j + 1) := by
  unfold groupWord
  rw [Nat.div_div_eq_div_mul, ← pow_add]
  congr 3
  ring

theorem lastOf_cons (a : Nat) (b : Word) (t : List (Nat × Word)) (k : Nat) (x : Word) :
    lastOf ((a, b) :: t) k x = lastOf t k (if a = k then b else x) := rfl

/-- What a group of a v destination in lane `l` gives element `(r, m)`. -/
theorem lastOf_wrGroup_v (d l n v r m : Nat) (x : Word) (hl : l < 128) (hm : m < 128) :
    lastOf (wrGroup false d l n v) (128 * r + m) x = if d ≤ r ∧ r < d + n ∧ m = l then groupWord v (r - d) else x := by
  induction n generalizing d v x with
  | zero =>
    rw [if_neg (by omega)]; rfl
  | succ n ih =>
    simp only [wrGroup, Bool.false_eq_true, if_false]
    rw [lastOf_cons, ih]
    have hk : vKey d l = 128 * d + l := rfl
    by_cases h : d + 1 ≤ r ∧ r < d + 1 + n ∧ m = l
    · rw [if_pos h, if_pos (by omega)]
      have : r - d = (r - (d + 1)) + 1 := by omega
      rw [this, groupWord_succ]
    · rw [if_neg h]
      by_cases h2 : vKey d l = 128 * r + m
      · have hd : d = r := by omega
        have hlm : m = l := by omega
        subst hd hlm
        rw [if_pos h2, if_pos (by omega)]
        simp [groupWord]
      · rw [if_neg h2, if_neg (by omega)]

theorem lastOf_wrGroup_s (d l n v r : Nat) (x : Word) :
    lastOf (wrGroup true d l n v) (32768 + r) x = if d ≤ r ∧ r < d + n then groupWord v (r - d) else x := by
  induction n generalizing d v x with
  | zero => rw [if_neg (by omega)]; rfl
  | succ n ih =>
    simp only [wrGroup, if_true]
    rw [lastOf_cons, ih]
    have hk : sKey d = 32768 + d := rfl
    by_cases h : d + 1 ≤ r ∧ r < d + 1 + n
    · rw [if_pos h, if_pos (by omega)]
      have : r - d = (r - (d + 1)) + 1 := by omega
      rw [this, groupWord_succ]
    · rw [if_neg h]
      by_cases h2 : sKey d = 32768 + r
      · have hd : d = r := by omega
        subst hd
        rw [if_pos h2, if_pos (by omega)]
        simp [groupWord]
      · rw [if_neg h2, if_neg (by omega)]

/-- Keys of a v group lie among the v keys where its registers exist. -/
theorem wrGroup_v_keys (d l n v : Nat) (hl : l < 128) (hd : d + n ≤ 256) : ∀ e ∈ wrGroup false d l n v, e.1 < 32768 := by
  induction n generalizing d v with
  | zero => simp [wrGroup]
  | succ n ih =>
    intro e he
    simp only [wrGroup, Bool.false_eq_true, if_false, List.mem_cons] at he
    rcases he with rfl | he
    · simp only [vKey]; omega
    · exact ih (d + 1) _ (by omega) e he

theorem wrGroup_s_keys (d l n v : Nat) : ∀ e ∈ wrGroup true d l n v, 32768 ≤ e.1 := by
  induction n generalizing d v with
  | zero => simp [wrGroup]
  | succ n ih =>
    intro e he
    simp only [wrGroup, if_true, List.mem_cons] at he
    rcases he with rfl | he
    · simp only [sKey]; omega
    · exact ih (d + 1) _ e he

/-! ## Masks -/

theorem mem_lanesOf (m : LaneMask) (l : Nat) : l ∈ lanesOf m ↔ l < 128 ∧ m.getLsbD l = true := by
  simp [lanesOf, List.mem_filter]

theorem lanesOf_ne_nil (m : LaneMask) (h : m ≠ 0) : lanesOf m ≠ [] := by
  intro hn
  apply h
  apply BitVec.eq_of_getLsbD_eq
  intro l hl
  by_contra hc
  have : l ∈ lanesOf m := (mem_lanesOf m l).mpr ⟨hl, by simpa using hc⟩
  rw [hn] at this
  simp at this

theorem lanesOf_head (m : LaneMask) (h : m ≠ 0) : (lanesOf m).take 1 = [lowest m] ∧ lowest m < 128 ∧ m.getLsbD (lowest m) = true := by
  unfold lowest
  cases hl : lanesOf m with
  | nil => exact absurd hl (lanesOf_ne_nil m h)
  | cons a t =>
    have : a ∈ lanesOf m := by rw [hl]; exact List.mem_cons_self
    have := (mem_lanesOf m a).mp this
    exact ⟨by simp, by simpa using this.1, by simpa using this.2⟩



theorem laneWrites_v (d n : Nat) (ls : List Nat) (val : Nat → Nat) (r m : Nat) (x : Word)
    (hls : ∀ l ∈ ls, l < 128) (hm : m < 128) :
    lastOf (ls.flatMap (fun l => wrGroup false d l n (val l))) (128 * r + m) x =
      if d ≤ r ∧ r < d + n ∧ m ∈ ls then groupWord (val m) (r - d) else x := by
  induction ls generalizing x with
  | nil => simp [lastOf]
  | cons a t ih =>
    rw [List.flatMap_cons, lastOf_append, lastOf_wrGroup_v d a n (val a) r m x (hls a (List.mem_cons_self)) hm,
      ih _ (fun l hl => hls l (List.mem_cons_of_mem _ hl))]
    by_cases h : d ≤ r ∧ r < d + n ∧ m ∈ t
    · rw [if_pos h, if_pos ⟨h.1, h.2.1, List.mem_cons_of_mem _ h.2.2⟩]
    · rw [if_neg h]
      by_cases h2 : d ≤ r ∧ r < d + n ∧ m = a
      · rw [if_pos h2, if_pos ⟨h2.1, h2.2.1, by simp [h2.2.2]⟩, h2.2.2]
      · rw [if_neg h2, if_neg]
        rintro ⟨h3, h4, h5⟩
        rcases List.mem_cons.mp h5 with h5 | h5
        · exact h2 ⟨h3, h4, h5⟩
        · exact h ⟨h3, h4, h5⟩

/-- What lane-wise writes leave in a wave. -/
theorem Wave.regsAfter_laneWrites (w : Wave) (kd : Bool) (d n : Nat) (act : LaneMask) (val : Nat → Nat)
    (ha : act ≠ 0) (hd : d + n ≤ 256) : RegsAfter w (w.setKeys (laneWrites kd d n act val)) kd d n act val := by
  refine ⟨?_, ?_, Wave.rest_setKeys w _⟩
  · intro r l hr hl
    rw [Wave.v_setKeys _ _ _ _ (by omega)]
    cases kd with
    | true =>
      simp only [Bool.true_eq_false, false_and, if_false]
      apply lastOf_none
      intro e he
      simp only [laneWrites, if_true, List.mem_flatMap] at he
      obtain ⟨a, _, he⟩ := he
      have := wrGroup_s_keys _ _ _ _ e he
      omega
    | false =>
      simp only [laneWrites, Bool.false_eq_true, if_false, true_and]
      rw [laneWrites_v d n (lanesOf act) val r l _ (fun l hl => ((mem_lanesOf act l).mp hl).1) hl]
      simp only [mem_lanesOf, hl, true_and]
  · intro r
    rw [Wave.s_setKeys]
    cases kd with
    | true =>
      simp only [laneWrites, if_true, true_and, (lanesOf_head act ha).1, List.flatMap_cons, List.flatMap_nil, List.append_nil]
      exact lastOf_wrGroup_s _ _ _ _ _ _
    | false =>
      simp only [Bool.false_eq_true, false_and, if_false]
      apply lastOf_none
      intro e he
      simp only [laneWrites, Bool.false_eq_true, if_false, List.mem_flatMap] at he
      obtain ⟨a, ha', he⟩ := he
      have := wrGroup_v_keys _ _ _ _ ((mem_lanesOf act a).mp ha').1 hd e he
      omega

/-! ## Writing a wave's registers -/

/-- Operations keep everything but destinations lost to a later writer. -/
theorem State.opsKeep_killDst (s : State) (c w b : Nat) (ks : List Nat) : OpsKeep s (s.killDst c w b ks) := by
  intro o
  rw [State.op?_killDst]
  cases s.op? o with
  | none => exact ⟨rfl, fun op p h => by simp at h⟩
  | some op =>
    refine ⟨?_, ?_⟩
    · simp only [Option.map_some]
      split <;> rfl
    · intro op' p h1 h2 k hk
      simp only [Option.some.injEq] at h1
      subst h1
      simp only [Option.map_some, Option.some.injEq] at h2
      subst h2
      split at hk
      · exact (List.mem_filter.mp hk).1
      · exact hk

/-- A change of one wave, after some destinations were lost, changes nothing else. -/
theorem State.onlyWave_modWave (s : State) (c w b : Nat) (ks : List Nat) (f : Wave → Wave) :
    OnlyWave s ((s.killDst c w b ks).modWave c w f) c w where
  rest := rfl
  waits := fun _ h => (List.mem_filter.mp h).1
  memory := fun _ => rfl
  ops := State.opsKeep_killDst s c w b ks
  waves := by
    refine ⟨fun d => State.crew?_modWave _ c d w f, ?_⟩
    intro d x h
    rw [State.wave?_modWave, if_neg h]
    rfl

theorem State.onlyWave_modWave' (s : State) (c w : Nat) (f : Wave → Wave) : OnlyWave s (s.modWave c w f) c w where
  rest := rfl
  waits := fun _ h => h
  memory := fun _ => rfl
  ops := by
    intro o
    refine ⟨rfl, ?_⟩
    intro op p h1 h2 k hk
    have : some op = some p := h1.symm.trans h2
    simp only [Option.some.injEq] at this
    exact this ▸ hk
  waves := by
    refine ⟨fun d => State.crew?_modWave _ c d w f, ?_⟩
    intro d x h
    rw [State.wave?_modWave, if_neg h]

theorem State.wave?_writeRegs (s : State) (c w : Nat) (l : List (Nat × Word)) (x : Wave) (h : s.wave? c w = some x) :
    (s.writeRegs c w l).wave? c w = some (x.setKeys l) := by
  unfold State.writeRegs
  rw [State.wave?_modWave, if_pos ⟨rfl, rfl⟩, State.wave?_killDst, h]
  rfl

theorem State.onlyWave_writeRegs (s : State) (c w : Nat) (l : List (Nat × Word)) : OnlyWave s (s.writeRegs c w l) c w := by
  unfold State.writeRegs
  exact State.onlyWave_modWave s c w s.next _ _

/-- Writing s registers by number. -/
theorem State.writesS_writeRegs (s : State) (q : Cursor) (cr : Crew) (w : Wave) (l : List (Nat × Word))
    (h : s.curWave = some (q, cr, w)) (hn : (l.map (·.1)).Nodup) :
    WritesS s (s.writeRegs q.crew q.wave (l.map (fun e => (sKey e.1, e.2)))) q w l := by
  have hw := (State.curWave_spec s q cr w h).2.2.2
  refine ⟨_, State.wave?_writeRegs s _ _ _ w hw, ?_, ?_, ?_, State.onlyWave_writeRegs s _ _ _⟩
  · intro r v hm
    rw [Wave.s_setKeys]
    clear hw h
    generalize w.s r = d
    induction l generalizing d with
    | nil => simp at hm
    | cons e l ih =>
      simp only [List.map_cons, List.nodup_cons] at hn
      simp only [List.map_cons]
      rw [lastOf_cons]
      rcases List.mem_cons.mp hm with rfl | hm
      · rw [lastOf_none]
        · simp [sKey]
        · intro x hx
          obtain ⟨y, hy, rfl⟩ := List.mem_map.mp hx
          intro hk
          apply hn.1
          have : y.1 = r := by simpa [sKey] using hk
          exact List.mem_map.mpr ⟨y, hy, this⟩
      · exact ih hn.2 hm _
  · intro r hr
    rw [Wave.s_setKeys, lastOf_none]
    intro x hx
    obtain ⟨y, hy, rfl⟩ := List.mem_map.mp hx
    intro hk
    apply hr
    have : y.1 = r := by simpa [sKey] using hk
    exact List.mem_map.mpr ⟨y, hy, this⟩
  · have hv : ∀ (l : List (Nat × Word)) (w : Wave), (w.setKeys (l.map (fun e => (sKey e.1, e.2)))).vr = w.vr := by
      intro l
      induction l with
      | nil => intro w; rfl
      | cons e l ih =>
        intro w
        have := ih (w.setKey (sKey e.1) e.2)
        simp only [Wave.setKeys, List.map_cons, List.foldl_cons] at this ⊢
        rw [this]
        simp [Wave.setKey, sKey]
    have h1 := Wave.rest_setKeys w (l.map (fun e => (sKey e.1, e.2)))
    have h2 := hv l w
    cases hx : w.setKeys (l.map (fun e => (sKey e.1, e.2)))
    rw [hx] at h1 h2
    simp only at h2
    subst h2
    exact h1

/-! ## The guards of R62 -/

theorem any_not_holds (w : Wave) (vs : List (Nat × Nat)) (h : Holds w vs) : (vs.any fun g => !w.holds g.1 g.2) = false := by
  simp only [List.any_eq_false, Bool.not_eq_true', Bool.not_eq_false]
  exact fun g hg => h g hg

/-- A lane-guarded instruction with nothing in its way acts. -/
theorem State.laned_acts (s : State) (i : Instr) (pn : Bool) (pred : BitVec 3) (vs : List (Nat × Nat)) (q : Cursor)
    (cr : Crew) (w : Wave) (act : LaneMask) (body : Cursor → Crew → Wave → LaneMask → State)
    (h : IssuesLanes s i pn pred vs q cr w act) : s.laned i pn pred vs body = .next (body q cr w act) := by
  obtain ⟨⟨hc, hf⟩, ha, hz, hv⟩ := h
  unfold State.laned
  simp only [hc, hf, ← ha, hz, any_not_holds w vs hv, Bool.false_eq_true, if_false]

/-- A wave instruction with nothing in its way acts. -/
theorem State.waved_acts (s : State) (i : Instr) (vs : List (Nat × Nat)) (q : Cursor) (cr : Crew) (w : Wave)
    (body : Cursor → Crew → Wave → State) (h : IssuesWave s i vs q cr w) : s.waved i vs body = .next (body q cr w) := by
  obtain ⟨⟨hc, hf⟩, hv⟩ := h
  unfold State.waved
  simp only [hc, hf, any_not_holds w vs hv, Bool.false_eq_true, if_false]

/-- A lane-guarded instruction with no active lane has no effect (R62). -/
theorem State.laned_empty (s : State) (i : Instr) (pn : Bool) (pred : BitVec 3) (vs : List (Nat × Nat)) (q : Cursor)
    (cr : Crew) (w : Wave) (body : Cursor → Crew → Wave → LaneMask → State) (h : Issues s i q cr w)
    (ha : w.active q.strand pn pred.toNat = 0) : s.laned i pn pred vs body = .next s := by
  unfold State.laned
  simp only [h.1, h.2, ha, Bool.false_eq_true, if_false, if_true]

/-! ## The three shapes -/

/-- A lane-wise instruction's result, from the equation of its meaning. -/
theorem laneResult_of (i : Instr) (pn : Bool) (pred : BitVec 3) (kd : Bool) (d : BitVec 8) (n : Nat)
    (vs : List (Nat × Nat)) (val : State → Wave → LaneMask → Nat → Nat)
    (h : ∀ s, exec i s = s.laneOp i pn pred kd d n vs (val s)) : LaneResult i pn pred kd d n vs val := by
  intro s q cr w act hi hd
  have hw := (State.curWave_spec s q cr w hi.1.1).2.2.2
  refine ⟨_, _, ?_, State.wave?_writeRegs s q.crew q.wave (laneWrites kd d.toNat n act (val s w act)) w hw,
    Wave.regsAfter_laneWrites w kd d.toNat n act _ hi.2.2.1 hd, State.onlyWave_writeRegs s _ _ _⟩
  rw [h s]
  exact State.laned_acts s i pn pred _ q cr w act _ hi

/-- The same with a value that agrees with the meaning's in every lane. -/
theorem laneResult_congr (i : Instr) (pn : Bool) (pred : BitVec 3) (kd : Bool) (d : BitVec 8) (n : Nat)
    (vs : List (Nat × Nat)) (val val' : State → Wave → LaneMask → Nat → Nat)
    (h : LaneResult i pn pred kd d n vs val') (he : ∀ s w a l, l < 128 → val' s w a l = val s w a l) :
    LaneResult i pn pred kd d n vs val := by
  intro s q cr w act hi hd
  obtain ⟨t, x, h1, h2, h3, h4⟩ := h s q cr w act hi hd
  refine ⟨t, x, h1, h2, ⟨?_, ?_, h3.rest⟩, h4⟩
  · intro r l hr hl
    rw [h3.vregs r l hr hl, he _ _ _ _ hl]
  · intro r
    rw [h3.sregs r, he _ _ _ _ (lanesOf_head act hi.2.2.1).2.1]

theorem getLsbD_maskOf (p : Nat → Bool) (l : Nat) (hl : l < 128) : (maskOf p).getLsbD l = p l := by
  unfold maskOf
  rw [BitVec.getLsbD_ofNat]
  simp only [hl, decide_true, Bool.true_and]
  have key : ∀ n, ((List.range n).foldl (fun acc l => if p l then acc + 2 ^ l else acc) 0) < 2 ^ n ∧
      ∀ l, ((List.range n).foldl (fun acc l => if p l then acc + 2 ^ l else acc) 0).testBit l = (decide (l < n) && p l) := by
    intro n
    induction n with
    | zero => simp
    | succ n ih =>
      rw [List.range_succ, List.foldl_append]
      simp only [List.foldl_cons, List.foldl_nil]
      generalize ((List.range n).foldl (fun acc l => if p l then acc + 2 ^ l else acc) 0) = a at ih
      obtain ⟨h1, h2⟩ := ih
      have hp : 2 ^ (n + 1) = 2 ^ n + 2 ^ n := by ring
      cases hpn : p n with
      | false =>
        simp only [Bool.false_eq_true, if_false]
        refine ⟨by omega, fun l => ?_⟩
        rw [h2]
        by_cases hl : l < n
        · simp [hl, Nat.lt_succ_of_lt hl]
        · by_cases hln : l = n
          · subst hln; simp [hpn]
          · have : ¬l < n + 1 := by omega
            simp [hl, this]
      | true =>
        simp only [if_true]
        refine ⟨by omega, fun l => ?_⟩
        rw [show a + 2 ^ n = 2 ^ n * 1 + a by ring, Nat.two_pow_add_eq_or_of_lt h1, Nat.mul_one, Nat.testBit_or, Nat.testBit_two_pow, h2]
        by_cases hl : l < n
        · have : n ≠ l := by omega
          simp [hl, Nat.lt_succ_of_lt hl, this]
        · by_cases hln : l = n
          · subst hln; simp [hpn]
          · have h3 : ¬l < n + 1 := by omega
            have h4 : n ≠ l := by omega
            simp [hl, h3, h4]
  rw [(key 128).2]
  simp [hl]

theorem Wave.predAfter (w : Wave) (d : Nat) (act : LaneMask) (val : Nat → Bool) :
    PredAfter w (w.setP d ((w.p d &&& ~~~act) ||| (maskOf val &&& act))) d act val := by
  refine ⟨?_, ?_⟩
  · intro n l hl
    by_cases hd : d = 0
    · subst hd
      rw [if_neg (by rintro ⟨h1, h2, _⟩; exact h2 h1)]
      rfl
    · by_cases hn : n = 0
      · subst hn
        rw [if_neg (by rintro ⟨_, h2, _⟩; exact h2 rfl)]
        simp [Wave.p]
      · by_cases hnd : n = d
        · subst hnd
          have e1 : ∀ v, (w.setP n v).p n = v := by
            intro v
            simp [Wave.p, Wave.setP, hn]
          rw [e1]
          simp only [true_and, ne_eq, hn, not_false_eq_true]
          rw [BitVec.getLsbD_or, BitVec.getLsbD_and, BitVec.getLsbD_and, getLsbD_maskOf val l hl, BitVec.getLsbD_not]
          cases act.getLsbD l <;> simp [hl]
        · rw [if_neg (by rintro ⟨h, _⟩; exact hnd h)]
          simp only [Wave.p, Wave.setP, if_neg hn, if_neg hd, Tab.rd_wr, if_neg hnd]
  · unfold Wave.setP
    split <;> rfl

/-- A predicate-writing instruction's result, from the equation of its meaning. -/
theorem predResult_of (i : Instr) (pn : Bool) (pred : BitVec 3) (d : BitVec 8) (vs : List (Nat × Nat))
    (val : Wave → LaneMask → Nat → Bool) (h : ∀ s, exec i s = s.predOp i pn pred d vs val) :
    PredResult i pn pred d vs val := by
  intro s q cr w act hi
  have hw := (State.curWave_spec s q cr w hi.1.1).2.2.2
  refine ⟨_, _, (h s).trans (State.laned_acts s i pn pred _ q cr w act _ hi), ?_, Wave.predAfter w d.toNat act (val w act),
    State.onlyWave_modWave s q.crew q.wave s.next _ _⟩
  rw [State.wave?_modWave, if_pos ⟨rfl, rfl⟩, State.wave?_killDst, hw]
  rfl

/-- Dropping nothing from a list of destinations leaves it. -/
theorem filter_notContains (l ks : List Nat) (h : l.any ks.contains = false) : l.filter (fun k => !ks.contains k) = l := by
  rw [List.filter_eq_self]
  intro a ha
  simpa using List.any_eq_false.mp h a ha

/-- A launch, from what it takes from earlier operations. -/
theorem State.launch_eq (s : State) (q : Cursor) (op : Op) (hc : op.crew = q.crew) (hw : op.wave = q.wave) :
    s.launch op = State.modWave { s.killDst q.crew q.wave s.next op.dsts with
      ops := (s.killDst q.crew q.wave s.next op.dsts).ops.put s.next op, next := s.next + 1 } q.crew q.wave (fun w => flagUp w op.flag) := by
  unfold State.launch
  rw [hc, hw]
  rfl

/-- Launching an operation. -/
theorem State.launched (s : State) (q : Cursor) (cr : Crew) (w : Wave) (op : Op) (h : s.curWave = some (q, cr, w))
    (hc : op.crew = q.crew) (hw : op.wave = q.wave) : Launched s (s.launch op) q (flagUp w op.flag) op := by
  have hs := (State.curWave_spec s q cr w h).2.2.2
  rw [State.launch_eq s q op hc hw]
  refine ⟨?_, rfl, ?_, rfl, ?_, ?_, fun _ => rfl, rfl⟩
  · simp [State.op?]
  · intro o ho
    refine ((Tab.find?_put_other _ _ _ _ ho).trans (State.op?_killDst s q.crew q.wave s.next o op.dsts)).trans ?_
    congr 1
    funext p
    by_cases h1 : p.crew = q.crew ∧ p.wave = q.wave ∧ o < s.next
    · rw [if_pos h1]
      by_cases h2 : p.dsts.any op.dsts.contains = true
      · rw [if_pos (by simp [h1.1, h1.2.1, h1.2.2, h2])]
      · rw [if_neg (by simp [h2]), filter_notContains _ _ (by simpa using h2)]
    · rw [if_neg h1, if_neg (by simp only [Bool.and_eq_true, decide_eq_true_eq]; exact fun h2 => h1 ⟨h2.1.1.1, h2.1.1.2, h2.1.2⟩)]
  · rw [State.wave?_modWave, if_pos ⟨rfl, rfl⟩]
    exact congrArg (Option.map _) hs
  · refine ⟨fun d => State.crew?_modWave _ _ d _ _, ?_⟩
    intro d x hx
    rw [State.wave?_modWave, if_neg hx]
    rfl

/-- The wave may change after a launch. -/
theorem State.launched_modWave (s t : State) (q : Cursor) (x : Wave) (op : Op) (g : Wave → Wave) (hl : Launched s t q x op) :
    Launched s (t.modWave q.crew q.wave g) q (g x) op := by
  refine ⟨hl.inFlight, hl.next, hl.others, hl.waits, ?_, ?_, fun a => hl.memory a, hl.rest⟩
  · rw [State.wave?_modWave, if_pos ⟨rfl, rfl⟩, hl.wave]; rfl
  · exact ⟨fun d => (State.crew?_modWave _ _ d _ _).trans (hl.waves.1 d),
      fun d y hx => by rw [State.wave?_modWave, if_neg hx]; exact hl.waves.2 d y hx⟩

/-- The unit a release picks, by its number. -/
theorem contains_picked {l : Tab Nat} {p : Nat} (b : Bool) (n : Nat) (h : b = true → ∃ e ∈ l, e.2 = p) :
    ((l.filter (fun e => b && e.2 == p)).map (·.2)).contains n = (b && n == p) := by
  rw [Bool.eq_iff_iff]
  simp only [List.contains_iff_mem, List.mem_map, List.mem_filter, Bool.and_eq_true, beq_iff_eq]
  constructor
  · rintro ⟨e, ⟨_, hb, he⟩, rfl⟩; exact ⟨hb, he⟩
  · rintro ⟨hb, rfl⟩
    obtain ⟨e, he, hp⟩ := h hb
    exact ⟨e, ⟨he, hb, hp⟩, hp⟩

/-- A core's change is not of the operations. -/
@[simp] theorem State.tileOps_modCore (s : State) (d : Nat) (g : Machine.Core → Machine.Core) (c w p : Nat) :
    (s.modCore d g).tileOps c w p = s.tileOps c w p := rfl

@[simp] theorem State.expOps_modCore (s : State) (d : Nat) (g : Machine.Core → Machine.Core) (c w : Nat) :
    (s.modCore d g).expOps c w = s.expOps c w := rfl

/-- What AZERO.rel and XCLR.rel do: the operation is launched, its tile (`tile`) or slot `p` unbound (R280, R320). -/
theorem State.launched_release (s : State) (q : Cursor) (cr : Crew) (w : Wave) (op : Op) (tile : Bool) (p : Nat)
    (h : s.curWave = some (q, cr, w)) (hc : op.crew = q.crew) (hw : op.wave = q.wave)
    (ho : if tile then op.tileUsed = some p else op.ofExps = true)
    (hm : ∃ e ∈ (if tile then w.tiles else w.exps), e.2 = p) :
    let t := (s.launch op).releaseUnits q.crew q.wave (fun n => tile && n == p) (fun n => !tile && n == p)
    Launched s { t with cores := s.cores } q { flagUp w op.flag with
      tiles := w.tiles.filter (fun e => !(tile && e.2 == p)), exps := w.exps.filter (fun e => !(!tile && e.2 == p)) } op ∧
      Released s t q cr.core tile p := by
  have hl := State.launched s q cr w op h hc hw
  obtain ⟨_, hcr, _, _⟩ := State.curWave_spec s q cr w h
  have hcc := hl.waves.1 q.crew
  rw [hcr] at hcc
  obtain ⟨cr', hu, he⟩ := Option.map_eq_some_iff.1 hcc
  have hcore : cr'.core = cr.core := by injection he
  have hwv : cr'.waves.find? q.wave = some (flagUp w op.flag) := by
    have := hl.wave; unfold State.wave? at this; rw [hu] at this; exact this
  have hcores : (s.launch op).cores = s.cores := by rw [State.launch_eq s q op hc hw]; rfl
  generalize hts : (s.launch op) = u at *
  simp only [State.releaseUnits, hu, hwv, hcore]
  have ht : ∀ n, (((flagUp w op.flag).tiles.filter (fun e => tile && e.2 == p)).map (·.2)).contains n = (tile && n == p) := fun n =>
    contains_picked tile n (fun hb => by subst hb; exact hm)
  have hx : ∀ n, (((flagUp w op.flag).exps.filter (fun e => !tile && e.2 == p)).map (·.2)).contains n = (!tile && n == p) := fun n =>
    contains_picked (!tile) n (fun hb => by cases tile; exact hm; cases hb)
  simp only [ht, hx]
  refine ⟨?_, ?_⟩
  · have := State.launched_modWave s u q _ op (fun wv => { wv with
        tiles := wv.tiles.filter (fun e => !(tile && e.2 == p)), exps := wv.exps.filter (fun e => !(!tile && e.2 == p)) }) hl
    have e : ∀ (x : State) (g : Machine.Core → Machine.Core), { ({ x with cores := s.cores } : State).modCore cr.core g with cores := s.cores } = { x with cores := s.cores } := fun _ _ => rfl
    have e2 : { u with cores := s.cores } = u := by rw [← hcores]
    rw [e2.symm] at this
    exact this
  · have hcoreS : ∀ d, u.core d = s.core d := fun d => by unfold State.core; rw [hcores]
    have hop : u.op? s.next = some op := hl.inFlight
    have ha : ∀ x : State, x.ops = u.ops →
        x.anyInFlight (if tile then u.tileOps q.crew q.wave p else u.expOps q.crew q.wave) = true := by
      intro x h1
      have hmem := Tab.mem_of_find? hop
      refine List.any_eq_true.2 ⟨s.next, ?_, by rw [h1]; exact Option.isSome_iff_exists.2 ⟨op, hop⟩⟩
      cases tile
      · exact List.mem_map.2 ⟨(s.next, op), List.mem_filter.2 ⟨hmem, by simpa [hc, hw] using ho⟩, rfl⟩
      · exact List.mem_map.2 ⟨(s.next, op), List.mem_filter.2 ⟨hmem, by simpa [hc, hw] using ho⟩, rfl⟩
    unfold State.settleUnits
    generalize hg : (fun k : Machine.Core => ({ k with
        tiles := k.tiles.mapV (fun n t => if (tile && n == p) = true then { t with bound := false, after := u.tileOps q.crew q.wave n } else t),
        exps := k.exps.mapV (fun n e => if (!tile && n == p) = true then { e with bound := false, after := u.expOps q.crew q.wave } else e) } : Machine.Core)) = g
    generalize hh : (fun wv : Wave => ({ wv with
        tiles := wv.tiles.filter (fun e => !(tile && e.2 == p)), exps := wv.exps.filter (fun e => !(!tile && e.2 == p)) } : Wave)) = hw'
    generalize hst : (u.modCore cr.core g).modWave q.crew q.wave hw' = st
    have hsc : st.core cr.core = g (s.core cr.core) := by
      rw [← hst, ← hcoreS]
      exact (State.core_modCore u cr.core cr.core g).trans (if_pos rfl)
    have hso : st.ops = u.ops := by rw [← hst]; rfl
    have hA := ha st hso
    have hT : st.tileOps q.crew q.wave p = u.tileOps q.crew q.wave p ∧ st.expOps q.crew q.wave = u.expOps q.crew q.wave := by
      unfold State.tileOps State.expOps; rw [hso]; exact ⟨rfl, rfl⟩
    subst hg
    refine ⟨?_, ?_, ?_, ?_⟩
    · intro n y hy hb
      rw [State.core_modCore, if_pos rfl, hsc]
      refine Tab.find?_filter _ _ _ _ ?_ ?_
      · rw [Tab.find?_mapV, hy]
        simp only [Option.map_some, Bool.and_eq_true, beq_iff_eq]
        by_cases hn : tile = true ∧ n = p
        · rw [if_pos hn, if_pos hn, hn.2, ← hT.1]; rfl
        · rw [if_neg hn, if_neg hn]
      · rcases hb with hb | ⟨rfl, rfl⟩
        · by_cases hn : tile = true ∧ n = p
          · obtain ⟨rfl, rfl⟩ := hn
            simpa [hT.1, hT.2] using hA
          · simp [hn, hb]
        · simpa [hT.1, hT.2] using hA
    · intro n y hy hb
      rw [State.core_modCore, if_pos rfl, hsc]
      refine Tab.find?_filter _ _ _ _ ?_ ?_
      · rw [Tab.find?_mapV, hy]
        simp only [Option.map_some, Bool.and_eq_true, beq_iff_eq, Bool.not_eq_true', ← hT.2]
        rfl
      · rcases hb with hb | ⟨rfl, rfl⟩
        · by_cases hn : tile = false ∧ n = p
          · obtain ⟨rfl, rfl⟩ := hn
            simpa [hT.1, hT.2] using hA
          · simp [hn, hb]
        · simpa [hT.1, hT.2] using hA
    · rw [State.core_modCore, if_pos rfl, hsc]
    · intro d hd
      rw [State.core_modCore, if_neg hd]
      rw [← hst, show ∀ v : State, (v.modWave q.crew q.wave hw').core d = v.core d from fun _ => rfl, State.core_modCore, if_neg hd, hcoreS]

/-- Launching an operation with its future. -/
theorem State.launchedH (s : State) (q : Cursor) (cr : Crew) (w : Wave) (f : Fields) (op : Op) (scope : Nat)
    (h : s.curWave = some (q, cr, w)) (hc : op.crew = q.crew) (hw : op.wave = q.wave) (hf : fieldsOf op.instr = some f) :
    Launched s (s.launchH op scope) q (withFuture f (flagUp w op.flag) s.next scope) (withHandle f op) := by
  unfold State.launchH withFuture withHandle
  simp only [hf]
  by_cases hm : f.m 7 = true
  · rw [if_pos hm, if_pos hm, if_pos hm]
    have hl := State.launched s q cr w { op with phys2 := f.mb 3 4 + 1 } h hc hw
    refine ⟨hl.inFlight, hl.next, hl.others, hl.waits, ?_, ?_, hl.memory, ?_⟩
    · unfold State.bindHandle
      have hlw := hl.wave
      rw [← hc, ← hw] at hlw
      rw [State.wave?_modWave, if_pos ⟨hc.symm, hw.symm⟩, hlw]
      rfl
    · unfold State.bindHandle
      refine ⟨fun d => (State.crew?_modWave _ _ d _ _).trans (hl.waves.1 d), ?_⟩
      intro d x hx
      rw [State.wave?_modWave, if_neg (by rw [hc, hw]; exact hx)]
      exact hl.waves.2 d x hx
    · exact hl.rest
  · rw [if_neg hm, if_neg hm, if_neg hm]
    exact State.launched s q cr w op h hc hw

end Sys2Proof.Machine
end

