-- ==== Sys2Proof/Laws/Access.lean ====
section
/-!
SUPPORT. Accesses of class M at issue: the elements they form, the trap of the first failing share, and what an access
instruction with nothing in its way does.
-/

namespace Sys2Proof.Machine

open Sys2Proof Sys2Proof.Safety Host

/-- Shares that all pass their checks give one element each. -/
theorem State.elements_ok (s : State) (cr : Crew) (w : Wave) (f : Fields) (m : Machine.Form) (act : LaneMask)
    (dst : Nat → List Nat) (data data2 : Nat → Nat) (addr : Nat → Nat × Nat) (h : ChecksPass s cr w f m act addr) :
    s.elements cr w f m act dst data data2 = .ok (elemsAt w m act addr dst data data2) := by
  unfold State.elements elemsAt
  unfold ChecksPass at h
  generalize w.shares m.uniform act = l at h
  have key : ∀ (l : List (Nat × LaneMask)) (acc : List Elem) (k : Nat), k = acc.length →
      (∀ x ∈ l, s.checkLane cr w f m x.1 = .ok (addr x.1)) →
      l.foldl (s.elemStep cr w f m dst data data2) (.ok acc) =
        .ok (acc ++ (l.zipIdx k).map (fun x => ⟨x.1.1, x.1.2, (addr x.1.1).1, (addr x.1.1).2, m.w, data x.1.1, data2 x.1.1,
          if m.uniform = true ∧ x.2 ≠ 0 then [] else dst x.1.1, (w.lineageOf x.1.1).head?, .pending⟩)) := by
    intro l
    induction l with
    | nil => intro acc k _ _; simp
    | cons a t ih =>
      intro acc k hk hl
      have ha : s.elemStep cr w f m dst data data2 (.ok acc) a = .ok (acc ++ [⟨a.1, a.2, (addr a.1).1, (addr a.1).2, m.w,
          data a.1, data2 a.1, if m.uniform = true ∧ k ≠ 0 then [] else dst a.1, (w.lineageOf a.1).head?, .pending⟩]) := by
        subst hk
        simp only [State.elemStep, hl a (List.mem_cons_self)]
        cases acc <;> simp
      rw [List.foldl_cons, ha, ih _ (k + 1) (by simp [hk]) (fun x hx => hl x (List.mem_cons_of_mem _ hx))]
      simp only [List.zipIdx_cons, List.map_cons, List.append_assoc, List.cons_append, List.nil_append]
  rw [key l [] 0 rfl h]
  rfl

/-- The first failing share's trap stands. -/
theorem State.elements_err (s : State) (cr : Crew) (w : Wave) (f : Fields) (m : Machine.Form) (act : LaneMask)
    (dst : Nat → List Nat) (data data2 : Nat → Nat) (e : Nat × Nat) (h : CheckFails s cr w f m act e) :
    s.elements cr w f m act dst data data2 = .error e := by
  obtain ⟨pre, x, post, hs, hp, hx⟩ := h
  unfold State.elements
  rw [hs, List.foldl_append, List.foldl_cons]
  have ok : ∀ (l : List (Nat × LaneMask)) (acc : List Elem), (∀ y ∈ l, ∃ a, s.checkLane cr w f m y.1 = .ok a) →
      ∃ es, l.foldl (s.elemStep cr w f m dst data data2) (.ok acc) = .ok es := by
    intro l
    induction l with
    | nil => exact fun acc _ => ⟨acc, rfl⟩
    | cons a t ih =>
      intro acc hl
      obtain ⟨b, hb⟩ := hl a (List.mem_cons_self)
      rw [List.foldl_cons]
      have : ∃ es, s.elemStep cr w f m dst data data2 (.ok acc) a = .ok es := by
        simp only [State.elemStep, hb]
        exact ⟨_, rfl⟩
      obtain ⟨es, hes⟩ := this
      rw [hes]
      exact ih es (fun x hx => hl x (List.mem_cons_of_mem _ hx))
  have err : ∀ (l : List (Nat × LaneMask)), l.foldl (s.elemStep cr w f m dst data data2) (.error e) = .error e := by
    intro l
    induction l with
    | nil => rfl
    | cons a t ih => rw [List.foldl_cons]; exact ih
  obtain ⟨es, hes⟩ := ok pre [] hp
  rw [hes]
  have : s.elemStep cr w f m dst data data2 (.ok es) x = .error e := by simp only [State.elemStep, hx]
  rw [this, err]

/-- Dropping cached translations leaves everything else. -/
theorem State.dropLackingAll_rest (s : State) (cr : Crew) (m : Machine.Form) (es : List Elem) :
    { s.dropLackingAll cr m es with tlb := s.tlb } = s := by
  unfold State.dropLackingAll
  split
  · rfl
  · have : ∀ (es : List Elem) (s : State), { es.foldl (fun (s : State) e => s.dropLacking (dieOf cr.core) cr.ctx e.va m.need) s with
        tlb := s.tlb } = s := by
      intro es
      induction es with
      | nil => intro s; rfl
      | cons a t ih =>
        intro s
        have h := congrArg (fun x : State => { x with tlb := s.tlb }) (ih (s.dropLacking (dieOf cr.core) cr.ctx a.va m.need))
        exact h
    exact this es s

theorem State.curWave_dropLackingAll (s : State) (cr : Crew) (m : Machine.Form) (es : List Elem) :
    (s.dropLackingAll cr m es).curWave = s.curWave := by
  have h := congrArg State.curWave (s.dropLackingAll_rest cr m es)
  exact h

theorem State.ctxs_dropLackingAll (s : State) (cr : Crew) (m : Machine.Form) (es : List Elem) :
    (s.dropLackingAll cr m es).ctxs = s.ctxs := by
  have h := congrArg State.ctxs (s.dropLackingAll_rest cr m es)
  exact h

theorem newOp_dropLackingAll (s : State) (cr' : Crew) (m : Machine.Form) (es : List Elem) (q : Cursor) (cr : Crew) (w : Wave)
    (i : Instr) (l : LaneMask) : newOp (s.dropLackingAll cr' m es) q cr w i l = newOp s q cr w i l := by
  simp only [newOp, State.ctx, State.ctxs_dropLackingAll]

/-- An access instruction, from the equation of its meaning. -/
theorem accessIssues_of (mk : Fields → Instr) (vs : Fields → List (Nat × Nat)) (when : Fields → State → Crew → Prop)
    (form : Fields → State → Crew → Wave → Machine.Form) (dst : Fields → Nat → List Nat)
    (data data2 : Fields → Wave → Nat → Nat) (post : Fields → Wave → List Elem → List Elem)
    (waits : Fields → State → Cursor → LaneMask → List Nat)
    (go : Fields → Cursor → Crew → Wave → LaneMask → List Elem → State → State)
    (hgo : ∀ (f : Fields) (s : State) q cr w act es (s1 : State), s1.curWave = some (q, cr, w) → { s1 with tlb := s.tlb } = s →
      when f s cr → go f q cr w act es s1 =
        s1.launch { accessOp s1 q cr w (mk f) act (post f w es) with waits := waits f s q act })
    (hex : ∀ f s, exec (mk f) s = s.access (mk f) f (vs f) (form f s) (fun _ => dst f) (data f) (data2 f) (go f)) :
    AccessIssues mk vs when form dst data data2 post waits := by
  intro f s q cr w act hi
  constructor
  · intro addr hc hw
    have hcw := (s.curWave_dropLackingAll cr (form f s cr w)
      (elemsAt w (form f s cr w) act addr (dst f) (data f w) (data2 f w))).trans hi.1.1
    refine ⟨_, ?_, State.launched _ q cr w _ hcw rfl rfl⟩
    rw [hex]
    unfold State.access
    rw [State.laned_acts _ _ _ _ _ q cr w act _ hi]
    simp only
    rw [State.elements_ok s cr w f _ act _ _ _ addr hc]
    simp only
    rw [hgo f s _ _ _ _ _ _ hcw (s.dropLackingAll_rest _ _ _) hw]
    unfold accessOp
    rw [newOp_dropLackingAll]
  · intro e he
    rw [hex]
    unfold State.access
    rw [State.laned_acts _ _ _ _ _ q cr w act _ hi]
    simp only
    rw [State.elements_err s cr w f _ act _ _ _ e he]

/-- An access of an irrevocable or handler-free task that needs irrevocability goes on at once. -/
theorem State.irrevocably_pass (s : State) (q : Cursor) (cr : Crew) (w : Wave) (body : State → State)
    (h : s.curWave = some (q, cr, w)) (ht : cr.task ≠ .versioned) : s.irrevocably body = body s := by
  unfold State.irrevocably
  simp [h, ht]

/-- An instruction whose meaning is `irrevocably`, from its equation: `s0` is the state in which it has passed its checks. -/
theorem State.irrevocably_first (i : Instr) (s s0 : State) (q : Cursor) (cr cr' : Crew) (w : Wave) (body : State → State)
    (h : s0.curWave = some (q, cr', w)) (ht : cr'.task = cr.task) (hk : cr'.kernel = cr.kernel)
    (he : exec i s = .next (s0.irrevocably body)) : FirstIrrevocable i s s0 q cr body := by
  have hn : s0.noirrev cr' = s0.noirrev cr := by unfold State.noirrev; rw [hk]
  have hq : s0.cur = some q := (State.curWave_spec s0 q cr' w h).1
  unfold FirstIrrevocable
  rw [he]
  unfold State.irrevocably
  rw [h]
  simp only [ht, hn]
  refine ⟨fun h1 => by simp [h1], fun h1 h2 => by simp [h1, h2], fun h1 h2 h3 => ?_, fun h1 h2 h3 => ?_⟩
  · simp [h1, h2, h3, State.retry, hq]
  · simp [h1, h2, h3, irrevoked]

/-- An access that becomes irrevocable first, from the equation of its meaning. -/
theorem accessIrrevocably_of (mk : Fields → Instr) (vs : Fields → List (Nat × Nat)) (when : Fields → Prop)
    (form : Fields → Machine.Form) (dst : Fields → Nat → List Nat) (data data2 : Fields → Wave → Nat → Nat)
    (waits : Fields → State → Cursor → LaneMask → List Nat)
    (go : Fields → Cursor → Crew → Wave → LaneMask → List Elem → State → State)
    (hgo : ∀ (f : Fields) q cr w act es (s : State), when f → go f q cr w act es s = s.irrevocably (launchIn q.crew (fun u x =>
      { newOp u q x w (mk f) act with elems := es, dsts := es.flatMap (·.dst), waits := waits f u q act })))
    (hex : ∀ f s, exec (mk f) s = s.access (mk f) f (vs f) (fun _ _ => form f) (fun _ => dst f) (data f) (data2 f) (go f)) :
    AccessIrrevocably mk vs when form dst data data2 waits := by
  intro f s q cr w act addr hi hw hc es
  refine State.irrevocably_first _ s _ q cr cr w _ ((s.curWave_dropLackingAll cr (form f) es).trans hi.1.1) rfl rfl ?_
  rw [hex]
  unfold State.access
  rw [State.laned_acts _ _ _ _ _ q cr w act _ hi]
  simp only
  rw [State.elements_ok s cr w f _ act _ _ _ addr hc]
  simp only
  rw [hgo f q cr w act _ _ hw]

end Sys2Proof.Machine
end

