-- ==== Sys2Proof/Laws/Encoding.lean ====
section
/-!
SUPPORT. The encodings of R60 to R65 bit by bit: packing and reading back, the opcode tables in both directions, and what a
decoded clause looks like.
-/

namespace Sys2Proof

/-- Each bit of a register-form word (R60, R61). -/
theorem packFields_bit (opc : Nat) (f : Fields) (i : Nat) (hi : i < 64) : (packFields opc f).getLsbD i =
    if i < 16 then f.mod.getLsbD i else if i < 17 then f.kc else if i < 18 then f.kb else if i < 19 then f.ka
    else if i < 20 then f.kd else if i < 28 then f.c.getLsbD (i - 20) else if i < 36 then f.b.getLsbD (i - 28)
    else if i < 44 then f.a.getLsbD (i - 36) else if i < 52 then f.d.getLsbD (i - 44)
    else if i < 55 then f.pred.getLsbD (i - 52) else if i < 56 then f.pn else (BitVec.ofNat 8 opc).getLsbD (i - 56) := by
  unfold packFields
  show @BitVec.getLsbD (8 + 1 + 3 + 8 + 8 + 8 + 8 + 1 + 1 + 1 + 1 + 16) _ i = _
  simp only [BitVec.getLsbD_append, BitVec.getLsbD_ofBool]
  interval_cases i <;> simp

/-- Each bit of an immediate-form word (R65). -/
theorem packImm_bit (opc : Nat) (f : ImmFields) (i : Nat) (hi : i < 64) : (packImm opc f).getLsbD i =
    if i < 16 then f.imm.getLsbD i else if i < 18 then false else if i < 19 then f.ka
    else if i < 20 then f.kd else if i < 36 then f.imm.getLsbD (i - 4)
    else if i < 44 then f.a.getLsbD (i - 36) else if i < 52 then f.d.getLsbD (i - 44)
    else if i < 55 then f.pred.getLsbD (i - 52) else if i < 56 then f.pn else (BitVec.ofNat 8 opc).getLsbD (i - 56) := by
  unfold packImm
  show @BitVec.getLsbD (8 + 1 + 3 + 8 + 8 + 16 + 1 + 1 + 2 + 16) _ i = _
  simp only [BitVec.getLsbD_append, BitVec.getLsbD_ofBool, BitVec.getLsbD_extractLsb']
  interval_cases i <;> simp

/-- Packing and reading register fields. -/
theorem readFields_pack (opc : Nat) (f : Fields) : readFields (packFields opc f) = f := by
  obtain ⟨pn, pred, d, a, b, c, kd, ka, kb, kc, m⟩ := f
  unfold readFields
  congr 1
  all_goals first
    | (rw [packFields_bit _ _ _ (by omega)]; rfl)
    | (apply BitVec.eq_of_getLsbD_eq; intro i hi; rw [BitVec.getLsbD_extractLsb', packFields_bit _ _ _ (by omega)]; interval_cases i <;> simp)

/-- Packing and reading immediate fields. -/
theorem readImm_pack (opc : Nat) (f : ImmFields) : readImm (packImm opc f) = f := by
  obtain ⟨pn, pred, d, a, kd, ka, m⟩ := f
  unfold readImm
  congr 1
  all_goals first
    | (rw [packImm_bit _ _ _ (by omega)]; rfl)
    | (apply BitVec.eq_of_getLsbD_eq; intro i hi; rw [BitVec.getLsbD_extractLsb', packImm_bit _ _ _ (by omega)]; interval_cases i <;> simp)
    | (apply BitVec.eq_of_getLsbD_eq; intro i hi
       show @BitVec.getLsbD (16 + 16) _ i = _
       rw [BitVec.getLsbD_append, BitVec.getLsbD_extractLsb', BitVec.getLsbD_extractLsb', packImm_bit _ _ _ (by omega), packImm_bit _ _ _ (by omega)]; interval_cases i <;> simp)

/-- The opcode of a packed word. -/
theorem packFields_opcode (opc : Nat) (h : opc < 256) (f : Fields) : ((packFields opc f).extractLsb' 56 8).toNat = opc := by
  have : (packFields opc f).extractLsb' 56 8 = BitVec.ofNat 8 opc := by
    apply BitVec.eq_of_getLsbD_eq; intro i hi
    rw [BitVec.getLsbD_extractLsb', packFields_bit _ _ _ (by omega)]
    interval_cases i <;> simp
  rw [this]; simp; omega

/-- The opcode of a packed immediate-form word. -/
theorem packImm_opcode (opc : Nat) (h : opc < 256) (f : ImmFields) : ((packImm opc f).extractLsb' 56 8).toNat = opc := by
  have : (packImm opc f).extractLsb' 56 8 = BitVec.ofNat 8 opc := by
    apply BitVec.eq_of_getLsbD_eq; intro i hi
    rw [BitVec.getLsbD_extractLsb', packImm_bit _ _ _ (by omega)]
    interval_cases i <;> simp
  rw [this]; simp; omega

/-- The immediate form leaves KB and KC zero. -/
theorem packImm_kb (opc : Nat) (f : ImmFields) : ((packImm opc f).getLsbD 17 || (packImm opc f).getLsbD 16) = false := by
  rw [packImm_bit _ _ _ (by omega), packImm_bit _ _ _ (by omega)]; rfl

/-- Reading and packing register fields: no bit of a word is dropped. -/
theorem pack_readFields (w : Dword) : packFields (w.extractLsb' 56 8).toNat (readFields w) = w := by
  apply BitVec.eq_of_getLsbD_eq; intro i hi
  rw [packFields_bit _ _ _ (by omega)]; unfold readFields
  simp only [BitVec.ofNat_toNat, BitVec.setWidth_eq]
  interval_cases i <;> simp

/-- Reading and packing immediate fields. -/
theorem pack_readImm (w : Dword) (h : (w.getLsbD 17 || w.getLsbD 16) = false) : packImm (w.extractLsb' 56 8).toNat (readImm w) = w := by
  simp at h
  apply BitVec.eq_of_getLsbD_eq; intro i hi
  rw [packImm_bit _ _ _ (by omega)]; unfold readImm
  simp only [BitVec.ofNat_toNat, BitVec.setWidth_eq]
  have e : ∀ j, j < 32 → (w.extractLsb' 20 16 ++ w.extractLsb' 0 16 : BitVec 32).getLsbD j = if j < 16 then w.getLsbD j else w.getLsbD (j + 4) := by
    intro j hj
    show @BitVec.getLsbD (16 + 16) _ j = _
    rw [BitVec.getLsbD_append]
    split
    · simp [*]
    · rw [BitVec.getLsbD_extractLsb', show 20 + (j - 16) = j + 4 by omega]; simp; omega
  generalize (w.extractLsb' 20 16 ++ w.extractLsb' 0 16 : BitVec 32) = m at e ⊢
  have e' := fun j (hj : j < 32) => (BitVec.getLsbD_eq_getElem (x := m) hj).symm.trans (e j hj)
  interval_cases i <;> simp [h, e']

/-- What the decoder makes of a register form has that class and opcode, and those fields. -/
theorem formOf_reg (cls opc : Nat) (mk) (h : formOf cls opc = some (.reg mk)) (f : Fields) : opcodeOf (mk f) = some (cls, opc) ∧ fieldsOf (mk f) = some f := by
  unfold formOf at h
  split at h
  all_goals first | (unfold formV at h) | (unfold formM at h) | (unfold formX at h) | (unfold formC at h) | (unfold formK at h) | (unfold formE at h) | (unfold formG at h) | (unfold formB at h) | (unfold formS at h) | skip
  all_goals (try (split at h))
  all_goals first | (cases h; done) | (cases h; exact ⟨rfl, rfl⟩)

/-- What the decoder makes of an immediate form has that class and opcode, and those fields. -/
theorem formOf_imm (cls opc : Nat) (mk) (h : formOf cls opc = some (.imm mk)) (f : ImmFields) : opcodeOf (mk f) = some (cls, opc) ∧ fieldsOf (mk f) = none ∧ immOf (mk f) = some f := by
  unfold formOf at h
  split at h
  all_goals first | (unfold formV at h) | (unfold formM at h) | (unfold formX at h) | (unfold formC at h) | (unfold formK at h) | (unfold formE at h) | (unfold formG at h) | (unfold formB at h) | (unfold formS at h) | skip
  all_goals (try (split at h))
  all_goals first | (cases h; done) | (cases h; exact ⟨rfl, rfl, rfl⟩)

/-- A decoded clause has an instruction for each of its words. -/
theorem decodeWords_length (c : Nat) (l : List Dword) : ∀ is, decodeWords c l = .ok is → is.length = l.length := by
  induction l with
  | nil => intro is h; cases h; rfl
  | cons a l ih =>
    intro is h
    unfold decodeWords at h
    split at h
    · cases h
    split at h
    · cases h
    · cases h; simp [ih _ (by assumption)]

/-- No well-formed instruction that is not long-latency has bit 15 of its modifier set (R57, R60). -/
theorem chk_bit15 (lane : Bool) (f : Fields) (d a b c : Kind) (mask : BitVec 16) (e : Bool) (h : f.mod.getLsbD 15 = true)
    (hm : mask.getLsbD 15 = false) : chk lane f d a b c mask e = false := by
  have : (f.mod &&& ~~~mask == 0) = false := by
    rw [beq_eq_false_iff_ne]
    intro e
    have := congrArg (fun x => x.getLsbD 15) e
    simp [h] at this hm
    simp [hm] at this
  unfold chk
  rw [this]; simp

end Sys2Proof
end

