-- ==== Sys2Proof/Laws/Home.lean ====
section
/-!
SUPPORT. What writing at a home does to memory, and that the bookkeeping around it leaves memory alone.
-/

namespace Sys2Proof.Machine

open Sys2Proof

@[simp] theorem State.mem_post (s : State) (m : Msg) : (s.post m).mem = s.mem := by
  unfold State.post
  split <;> rfl

@[simp] theorem State.mem_tell (s : State) (kind dst addr : Nat) (data : List Word) : (s.tell kind dst addr data).mem = s.mem := by
  unfold State.tell
  simp

/-- A fold of updates that leave memory alone leaves it alone. -/
theorem mem_foldl {α : Type} (f : State → α → State) (h : ∀ s x, (f s x).mem = s.mem) (l : List α) (s : State) :
    (l.foldl f s).mem = s.mem := by
  induction l generalizing s with
  | nil => rfl
  | cons a t ih => rw [List.foldl_cons, ih, h]

@[simp] theorem State.mem_invalidateSharers (s : State) (line : Nat) (writer : Option Nat) :
    (s.invalidateSharers line writer).mem = s.mem := by
  unfold State.invalidateSharers
  exact mem_foldl (fun (s : State) c => s.modCore c (fun k => k.invalidate line)) (fun _ _ => rfl) _ s

@[simp] theorem State.mem_clearResv (s : State) (pa n : Nat) (sel : Nat → Crew → Nat → Nat → Resv → Bool) :
    (s.clearResv pa n sel).mem = s.mem := rfl

@[simp] theorem State.mem_recheckQueues (s : State) (pa n : Nat) : (s.recheckQueues pa n).mem = s.mem := by
  unfold State.recheckQueues
  split <;> rfl

@[simp] theorem State.mem_releaseLines (s : State) (o : Nat) (l : List Nat) : (s.releaseLines o l).mem = s.mem := rfl

@[simp] theorem State.mem_settleUnits (s : State) (core : Nat) : (s.settleUnits core).mem = s.mem := rfl

@[simp] theorem State.mem_dropOp (s : State) (o : Nat) : (s.dropOp o).mem = s.mem := by
  unfold State.dropOp
  split
  · rfl
  · simp only
    split
    · rfl
    · split <;> rfl

@[simp] theorem State.mem_future (s : State) (o code : Nat) : (s.future o code).mem = s.mem := rfl

@[simp] theorem State.mem_flagDown (s : State) (op : Op) : (s.flagDown op).mem = s.mem := by
  unfold State.flagDown
  split
  · rfl
  · split <;> rfl

@[simp] theorem State.mem_endOp (s : State) (o code : Nat) : (s.endOp o code).mem = s.mem := by
  unfold State.endOp
  split <;> simp

@[simp] theorem State.mem_breakObject (s : State) (c a : Nat) : (s.breakObject c a).mem = s.mem := by
  unfold State.breakObject
  split
  · rfl
  · simp only
    split <;> rfl

@[simp] theorem State.mem_endRequest (s : State) (o : Nat) (op : Op) (status detail : Nat) : (s.endRequest o op status detail).mem = s.mem := by
  unfold State.endRequest
  simp

@[simp] theorem State.mem_stopOp (s : State) (o : Nat) (op : Op) (irr : Bool) : (s.stopOp o op irr).mem = s.mem := by
  unfold State.stopOp
  split
  · split <;> simp
  · split <;> simp
  · split <;> simp
  · simp
  · simp
  · split <;> simp

@[simp] theorem State.mem_stopOps (s : State) (c : Nat) : (s.stopOps c).mem = s.mem := by
  unfold State.stopOps
  split
  · rfl
  · exact mem_foldl _ (fun s x => State.mem_stopOp s _ _ _) _ _

@[simp] theorem State.mem_discard (s : State) (c : Nat) : (s.discard c).mem = s.mem := by
  unfold State.discard
  split
  · rfl
  · exact (mem_foldl (fun (s : State) (x : Nat × Nat) => s.modOp x.1 _) (fun _ _ => rfl) _ _).trans rfl

@[simp] theorem State.mem_unbindAll (s : State) (c w : Nat) : (s.unbindAll c w).mem = s.mem := by
  unfold State.unbindAll
  split
  · rfl
  · split <;> rfl

@[simp] theorem State.mem_stopTask (s : State) (c : Nat) : (s.stopTask c).mem = s.mem := by
  unfold State.stopTask
  split
  · rfl
  · split
    · simp
    · simp only [State.mem_modCrew, State.mem_modCore]
      rw [mem_foldl _ (fun s x => State.mem_unbindAll s c x)]
      simp

@[simp] theorem State.mem_loseHandler (s : State) (x : Nat) : (s.loseHandler x).mem = s.mem := by
  unfold State.loseHandler
  simp only [State.mem_modCtx]
  refine mem_foldl _ ?_ _ _
  intro s e
  split <;> rfl

/-- A trap writes no memory. -/
@[simp] theorem State.mem_trap (s : State) (c w k cause addr cls : Nat) : (s.trap c w k cause addr cls).mem = s.mem := by
  unfold State.trap
  split
  · rfl
  · simp only
    split <;> simp

@[simp] theorem State.mem_evFault (s : State) (o : Nat) (op : Op) (core cause addr : Nat) :
    (s.evFault o op core cause addr).mem = s.mem := rfl

/-- An access with no path to its home writes no memory. -/
@[simp] theorem State.mem_lost (s : State) (g : Origin) (va : Nat) : (s.lost g va).mem = s.mem := by
  unfold State.lost State.poisonTask
  simp only [State.mem_event]
  repeat' split
  all_goals simp

@[simp] theorem State.mem_sendFor (s : State) (g : Origin) (kind dst pa va n : Nat) (data : List Word) :
    (s.sendFor g kind dst pa va n data).mem = s.mem := by
  unfold State.sendFor
  simp only
  split <;> simp

@[simp] theorem State.mem_hostStore (s : State) (core : Nat) (who : Option (Nat × Nat × Nat)) (pa : Nat) (bs : List Byte) :
    (s.hostStore core who pa bs).mem = s.mem := by
  unfold State.hostStore State.clearOthers
  simp only [State.mem_clearResv]
  split <;> rfl

/-- A write homed in this package's HBM writes its bytes into memory. -/
theorem State.mem_commitBytes (s : State) (writer : Option Nat) (who : Option (Nat × Nat × Nat)) (pa : Nat) (bs : List Byte)
    (h : homeOf pa = .hbm) : (s.commitBytes writer who pa bs).mem = s.mem.wrBytes pa bs := by
  unfold State.commitBytes State.commitFor State.clearOthers
  simp only [h, State.mem_recheckQueues, State.mem_clearResv]
  exact mem_foldl _ (fun s x => State.mem_invalidateSharers s x writer) _ _

/-- A write homed elsewhere leaves memory alone. -/
theorem State.mem_commitBytes_away (s : State) (writer : Option Nat) (who : Option (Nat × Nat × Nat)) (pa : Nat)
    (bs : List Byte) (h : homeOf pa ≠ .hbm) : (s.commitBytes writer who pa bs).mem = s.mem := by
  unfold State.commitBytes State.commitFor
  cases hh : homeOf pa with
  | hbm => exact absurd hh h
  | remote p => simp
  | host => simp
  | cxl => rfl

@[simp] theorem State.mem_modElem (s : State) (o e : Nat) (f : Elem → Elem) : (s.modElem o e f).mem = s.mem := rfl

/-- Reading scratchpad bytes after a write of the same crew. -/
theorem State.sp_spadWrite (s : State) (c lo : Nat) (bs : List Byte) (a : Nat) :
    ((s.spadWrite c lo bs).crew? c).map (fun cr => cr.sp.rd 0 a) =
      (s.crew? c).map (fun cr => if lo ≤ a ∧ a < lo + bs.length then bs.getD (a - lo) 0 else cr.sp.rd 0 a) := by
  unfold State.spadWrite
  rw [State.crew?_modCrew, if_pos rfl]
  cases s.crew? c with
  | none => rfl
  | some cr => simp only [Option.map_some, Tab.rd_wrBytes]

end Sys2Proof.Machine
end

