-- ==== Sys2Proof/Laws/Engines.lean ====
section
/-!
SUPPORT. Updates of a core, a context and a port read back, what refuses an instruction before its body, and what binding a
tile or an expansion keeps.
-/

namespace Sys2Proof.Machine

open Sys2Proof Sys2Proof.Safety Host

/-- Reading back an update of a core. -/
theorem State.core_modCore_self (s : State) (c f) : (State.modCore s c f).core c = f (s.core c) := by simp [State.modCore, State.core, Tab.rd_put]

/-- Reading back an update of a context. -/
theorem State.ctx_modCtx_self (s : State) (x f) : (s.modCtx x f).ctx x = f (s.ctx x) := by simp [State.modCtx, State.ctx, Tab.rd_put]

/-- An update of a context changes no other, and no memory. -/
theorem State.onlyCtx_modCtx (s : State) (x f) : OnlyCtx s (s.modCtx x f) x := ⟨rfl, fun _ => rfl, fun y hy => by simp [State.modCtx, State.ctx, Tab.rd_put, hy]⟩

/-- Reading back an update of a port. -/
theorem State.port_modPort_self (s : State) (x f) : (s.modPort x f).port x = f (s.port x) := by simp [State.modPort, State.port, Tab.rd_put]

/-- An update of a port changes no other, and no memory. -/
theorem State.onlyPort_modPort (s : State) (x f) : OnlyPort s (s.modPort x f) x := ⟨rfl, fun _ => rfl, fun y hy => by simp [State.modPort, State.port, Tab.rd_put, hy]⟩

/-- An update of a wave is none of a core. -/
theorem State.core_modWave_same (s : State) (a b c f) : (State.modWave s a b f).core c = s.core c := rfl

/-- A state with the same cursor has its issuing wave where that wave is found. -/
theorem State.curWave_of (s t : State) (q : Cursor) (x : Wave) (hc : t.cur = s.cur) (h : t.wave? q.crew q.wave = some x) (hq : s.cur = some q) : ∃ cr, t.curWave = some (q, cr, x) := by
  unfold State.curWave
  unfold State.wave? at h
  rw [hc, hq]
  cases hcr : t.crew? q.crew with
  | none => simp [hcr] at h
  | some cr => simp [hcr] at h; exact ⟨cr, by simp [hcr, h]⟩

/-- A lane-wise instruction with a named block that the wave does not hold traps (R141). -/
theorem State.laned_notHeld (s : State) (i) (pn pred) (vs : List (Nat × Nat)) (q : Cursor) (cr : Crew) (w : Wave) (body) (g)
   (h : Issues s i q cr w) (ha : w.active q.strand pn pred.toNat ≠ 0) (hg : g ∈ vs) (hh : w.holds g.1 g.2 = false) :
   s.laned i pn pred vs body = .next (s.trap q.crew q.wave q.strand Cause.protection w.clauseAddr w.clauseCls) := by
  unfold State.laned
  rw [h.1]
  have : (vs.any fun g => !w.holds g.1 g.2) = true := List.any_eq_true.2 ⟨g, hg, by simp [hh]⟩
  have ha' : w.active q.strand pn pred.toNat ≠ 0#128 := ha
  simp [h.2, ha', this, State.trapHdr, State.trapAt, h.1]

/-- A matrix instruction of a whole wave with its tile bound goes to its body (R280). -/
theorem State.matrixIssue_acts (s : State) (i : Instr) (name needs body) (q cr w p) (h : IssuesWave s i [] q cr w) (hm : (w.strand q.strand).mask = allLanes) (hp : w.tiles.find? name = some p) :
  s.matrixIssue i name needs body = .next (body q cr w p) := by
  unfold State.matrixIssue
  rw [State.waved_acts s _ _ q cr w _ h]
  simp [hm, hp]

/-- Binding a tile leaves the issuing wave in its place. -/
theorem State.bindTile_keeps (s : State) (q : Cursor) (cr : Crew) (w : Wave) (name int) (h : s.curWave = some (q, cr, w)) :
   ∃ x, (s.bindTile q.crew q.wave name int).1.wave? q.crew q.wave = some x ∧ (s.bindTile q.crew q.wave name int).1.cur = s.cur := by
  obtain ⟨h1, h2, h3, h4⟩ := State.curWave_spec s q cr w h
  unfold State.bindTile
  simp only [h2, h3, Option.bind_some]
  cases hn : w.tiles.find? name with
  | some p => exact ⟨w, h4, rfl⟩
  | none => simp only; exact ⟨_, by rw [State.wave?_modWave, if_pos ⟨rfl, rfl⟩]; rw [show State.wave? (State.modCore s _ _) _ _ = s.wave? q.crew q.wave from rfl, h4]; rfl, rfl⟩

/-- Binding an expansion leaves the issuing wave in its place. -/
theorem State.bindExp_keeps (s : State) (q : Cursor) (cr : Crew) (w : Wave) (name) (h : s.curWave = some (q, cr, w)) :
   ∃ x, (s.bindExp q.crew q.wave name).1.wave? q.crew q.wave = some x ∧ (s.bindExp q.crew q.wave name).1.cur = s.cur := by
  obtain ⟨h1, h2, h3, h4⟩ := State.curWave_spec s q cr w h
  unfold State.bindExp
  simp only [h2, h3, Option.bind_some]
  cases hn : w.exps.find? name with
  | some p => exact ⟨w, h4, rfl⟩
  | none => simp only; exact ⟨_, by rw [State.wave?_modWave, if_pos ⟨rfl, rfl⟩]; rw [show State.wave? (State.modCore s _ _) _ _ = s.wave? q.crew q.wave from rfl, h4]; rfl, rfl⟩

/-- A quantised block writes the keys it read. -/
theorem cvtqBlock_keys (bf rm nsat z ins) : (cvtqBlock bf rm nsat z ins).map (·.1) = ins.map (·.1) := by
  unfold cvtqBlock
  simp only
  split
  · simp [Function.comp_def]
  · split
    · apply List.ext_getElem <;> simp
    · apply List.ext_getElem <;> simp

/-- An instruction of a whole wave goes to its body. -/
theorem State.wholeWave_acts (s : State) (i : Instr) (body : Cursor → Crew → Wave → State) (q : Cursor) (cr : Crew) (w : Wave)
    (h : IssuesWave s i [] q cr w) (hm : (w.strand q.strand).mask = allLanes) :
    s.wholeWave i body = .next (body q cr w) := by
  unfold State.wholeWave
  rw [State.waved_acts s _ _ q cr w _ h]
  simp [hm]

end Sys2Proof.Machine
end

