-- ==== Sys2Proof/Laws/PerInstr.lean ====
section
/-!
SUPPORT. Facts stated once for every instruction, a lemma for each constructor.
-/

namespace Sys2Proof.Laws.Encoding

open Sys2Proof

/-- The opcode tables of the encoder and the decoder agree on an instruction: its class and opcode name its own
constructor, applied to its own fields. An event has no opcode. -/
def Statement (i : Instr) : Prop :=
  ∀ cls opc, opcodeOf i = some (cls, opc) → cls < 9 ∧ opc < 256 ∧
    ((∃ f mk, fieldsOf i = some f ∧ formOf cls opc = some (.reg mk) ∧ mk f = i) ∨
      (∃ f mk, fieldsOf i = none ∧ immOf i = some f ∧ formOf cls opc = some (.imm mk) ∧ mk f = i))

/-- A register form. -/
theorem ofReg (i : Instr) (c o : Nat) (f : Fields) (mk : Fields → Instr) (h1 : opcodeOf i = some (c, o)) (h2 : fieldsOf i = some f)
    (h3 : formOf c o = some (.reg mk)) (h4 : mk f = i) (hc : c < 9) (ho : o < 256) : Statement i := by
  intro cls opc h
  obtain ⟨rfl, rfl⟩ := Prod.mk.inj (Option.some.inj (h1.symm.trans h))
  exact ⟨hc, ho, .inl ⟨f, mk, h2, h3, h4⟩⟩

/-- An immediate form. -/
theorem ofImm (i : Instr) (c o : Nat) (f : ImmFields) (mk : ImmFields → Instr) (h1 : opcodeOf i = some (c, o))
    (h2 : fieldsOf i = none) (h3 : immOf i = some f) (h4 : formOf c o = some (.imm mk)) (h5 : mk f = i) (hc : c < 9)
    (ho : o < 256) : Statement i := by
  intro cls opc h
  obtain ⟨rfl, rfl⟩ := Prod.mk.inj (Option.some.inj (h1.symm.trans h))
  exact ⟨hc, ho, .inr ⟨f, mk, h2, h3, h4, h5⟩⟩

/-- An event. -/
theorem ofEvent (i : Instr) (h : opcodeOf i = none) : Statement i := by
  intro cls opc h'
  rw [h] at h'
  cases h'

theorem iadd (f : Fields) : Statement (.iadd f) := ofReg _ _ _ f _ rfl rfl rfl rfl (by decide) (by decide)

theorem iaddImm (f : ImmFields) : Statement (.iaddImm f) := ofImm _ _ _ f _ rfl rfl rfl rfl rfl (by decide) (by decide)

theorem isub (f : Fields) : Statement (.isub f) := ofReg _ _ _ f _ rfl rfl rfl rfl (by decide) (by decide)

theorem isubImm (f : ImmFields) : Statement (.isubImm f) := ofImm _ _ _ f _ rfl rfl rfl rfl rfl (by decide) (by decide)

theorem iadds (f : Fields) : Statement (.iadds f) := ofReg _ _ _ f _ rfl rfl rfl rfl (by decide) (by decide)

theorem iaddsImm (f : ImmFields) : Statement (.iaddsImm f) := ofImm _ _ _ f _ rfl rfl rfl rfl rfl (by decide) (by decide)

theorem imul (f : Fields) : Statement (.imul f) := ofReg _ _ _ f _ rfl rfl rfl rfl (by decide) (by decide)

theorem imulImm (f : ImmFields) : Statement (.imulImm f) := ofImm _ _ _ f _ rfl rfl rfl rfl rfl (by decide) (by decide)

theorem imad (f : Fields) : Statement (.imad f) := ofReg _ _ _ f _ rfl rfl rfl rfl (by decide) (by decide)

theorem imin (f : Fields) : Statement (.imin f) := ofReg _ _ _ f _ rfl rfl rfl rfl (by decide) (by decide)

theorem iminImm (f : ImmFields) : Statement (.iminImm f) := ofImm _ _ _ f _ rfl rfl rfl rfl rfl (by decide) (by decide)

theorem imax (f : Fields) : Statement (.imax f) := ofReg _ _ _ f _ rfl rfl rfl rfl (by decide) (by decide)

theorem imaxImm (f : ImmFields) : Statement (.imaxImm f) := ofImm _ _ _ f _ rfl rfl rfl rfl rfl (by decide) (by decide)

theorem iand (f : Fields) : Statement (.iand f) := ofReg _ _ _ f _ rfl rfl rfl rfl (by decide) (by decide)

theorem iandImm (f : ImmFields) : Statement (.iandImm f) := ofImm _ _ _ f _ rfl rfl rfl rfl rfl (by decide) (by decide)

theorem ior (f : Fields) : Statement (.ior f) := ofReg _ _ _ f _ rfl rfl rfl rfl (by decide) (by decide)

theorem iorImm (f : ImmFields) : Statement (.iorImm f) := ofImm _ _ _ f _ rfl rfl rfl rfl rfl (by decide) (by decide)

theorem ixor (f : Fields) : Statement (.ixor f) := ofReg _ _ _ f _ rfl rfl rfl rfl (by decide) (by decide)

theorem ixorImm (f : ImmFields) : Statement (.ixorImm f) := ofImm _ _ _ f _ rfl rfl rfl rfl rfl (by decide) (by decide)

theorem ishl (f : Fields) : Statement (.ishl f) := ofReg _ _ _ f _ rfl rfl rfl rfl (by decide) (by decide)

theorem ishlImm (f : ImmFields) : Statement (.ishlImm f) := ofImm _ _ _ f _ rfl rfl rfl rfl rfl (by decide) (by decide)

theorem ishr (f : Fields) : Statement (.ishr f) := ofReg _ _ _ f _ rfl rfl rfl rfl (by decide) (by decide)

theorem ishrImm (f : ImmFields) : Statement (.ishrImm f) := ofImm _ _ _ f _ rfl rfl rfl rfl rfl (by decide) (by decide)

theorem isra (f : Fields) : Statement (.isra f) := ofReg _ _ _ f _ rfl rfl rfl rfl (by decide) (by decide)

theorem israImm (f : ImmFields) : Statement (.israImm f) := ofImm _ _ _ f _ rfl rfl rfl rfl rfl (by decide) (by decide)

theorem irot (f : Fields) : Statement (.irot f) := ofReg _ _ _ f _ rfl rfl rfl rfl (by decide) (by decide)

theorem irotImm (f : ImmFields) : Statement (.irotImm f) := ofImm _ _ _ f _ rfl rfl rfl rfl rfl (by decide) (by decide)

theorem iabs (f : Fields) : Statement (.iabs f) := ofReg _ _ _ f _ rfl rfl rfl rfl (by decide) (by decide)

theorem inot (f : Fields) : Statement (.inot f) := ofReg _ _ _ f _ rfl rfl rfl rfl (by decide) (by decide)

theorem ipopc (f : Fields) : Statement (.ipopc f) := ofReg _ _ _ f _ rfl rfl rfl rfl (by decide) (by decide)

theorem iclz (f : Fields) : Statement (.iclz f) := ofReg _ _ _ f _ rfl rfl rfl rfl (by decide) (by decide)

theorem ibrev (f : Fields) : Statement (.ibrev f) := ofReg _ _ _ f _ rfl rfl rfl rfl (by decide) (by decide)

theorem ibfe (f : Fields) : Statement (.ibfe f) := ofReg _ _ _ f _ rfl rfl rfl rfl (by decide) (by decide)

theorem ibfi (f : Fields) : Statement (.ibfi f) := ofReg _ _ _ f _ rfl rfl rfl rfl (by decide) (by decide)

theorem icmp (f : Fields) : Statement (.icmp f) := ofReg _ _ _ f _ rfl rfl rfl rfl (by decide) (by decide)

theorem fadd (f : Fields) : Statement (.fadd f) := ofReg _ _ _ f _ rfl rfl rfl rfl (by decide) (by decide)

theorem faddImm (f : ImmFields) : Statement (.faddImm f) := ofImm _ _ _ f _ rfl rfl rfl rfl rfl (by decide) (by decide)

theorem fsub (f : Fields) : Statement (.fsub f) := ofReg _ _ _ f _ rfl rfl rfl rfl (by decide) (by decide)

theorem fsubImm (f : ImmFields) : Statement (.fsubImm f) := ofImm _ _ _ f _ rfl rfl rfl rfl rfl (by decide) (by decide)

theorem fmul (f : Fields) : Statement (.fmul f) := ofReg _ _ _ f _ rfl rfl rfl rfl (by decide) (by decide)

theorem fmulImm (f : ImmFields) : Statement (.fmulImm f) := ofImm _ _ _ f _ rfl rfl rfl rfl rfl (by decide) (by decide)

theorem ffma (f : Fields) : Statement (.ffma f) := ofReg _ _ _ f _ rfl rfl rfl rfl (by decide) (by decide)

theorem fmin (f : Fields) : Statement (.fmin f) := ofReg _ _ _ f _ rfl rfl rfl rfl (by decide) (by decide)

theorem fminImm (f : ImmFields) : Statement (.fminImm f) := ofImm _ _ _ f _ rfl rfl rfl rfl rfl (by decide) (by decide)

theorem fmax (f : Fields) : Statement (.fmax f) := ofReg _ _ _ f _ rfl rfl rfl rfl (by decide) (by decide)

theorem fmaxImm (f : ImmFields) : Statement (.fmaxImm f) := ofImm _ _ _ f _ rfl rfl rfl rfl rfl (by decide) (by decide)

theorem fabs (f : Fields) : Statement (.fabs f) := ofReg _ _ _ f _ rfl rfl rfl rfl (by decide) (by decide)

theorem fneg (f : Fields) : Statement (.fneg f) := ofReg _ _ _ f _ rfl rfl rfl rfl (by decide) (by decide)

theorem fcmp (f : Fields) : Statement (.fcmp f) := ofReg _ _ _ f _ rfl rfl rfl rfl (by decide) (by decide)

theorem fclass (f : Fields) : Statement (.fclass f) := ofReg _ _ _ f _ rfl rfl rfl rfl (by decide) (by decide)

theorem fscale (f : Fields) : Statement (.fscale f) := ofReg _ _ _ f _ rfl rfl rfl rfl (by decide) (by decide)

theorem fround (f : Fields) : Statement (.fround f) := ofReg _ _ _ f _ rfl rfl rfl rfl (by decide) (by decide)

theorem fsqrt (f : Fields) : Statement (.fsqrt f) := ofReg _ _ _ f _ rfl rfl rfl rfl (by decide) (by decide)

theorem frcp (f : Fields) : Statement (.frcp f) := ofReg _ _ _ f _ rfl rfl rfl rfl (by decide) (by decide)

theorem frsq (f : Fields) : Statement (.frsq f) := ofReg _ _ _ f _ rfl rfl rfl rfl (by decide) (by decide)

theorem fexp2 (f : Fields) : Statement (.fexp2 f) := ofReg _ _ _ f _ rfl rfl rfl rfl (by decide) (by decide)

theorem flog2 (f : Fields) : Statement (.flog2 f) := ofReg _ _ _ f _ rfl rfl rfl rfl (by decide) (by decide)

theorem cvt (f : Fields) : Statement (.cvt f) := ofReg _ _ _ f _ rfl rfl rfl rfl (by decide) (by decide)

theorem cvtq (f : Fields) : Statement (.cvtq f) := ofReg _ _ _ f _ rfl rfl rfl rfl (by decide) (by decide)

theorem cvtx (f : Fields) : Statement (.cvtx f) := ofReg _ _ _ f _ rfl rfl rfl rfl (by decide) (by decide)

theorem mov (f : Fields) : Statement (.mov f) := ofReg _ _ _ f _ rfl rfl rfl rfl (by decide) (by decide)

theorem movImm (f : ImmFields) : Statement (.movImm f) := ofImm _ _ _ f _ rfl rfl rfl rfl rfl (by decide) (by decide)

theorem ldi (f : ImmFields) : Statement (.ldi f) := ofImm _ _ _ f _ rfl rfl rfl rfl rfl (by decide) (by decide)

theorem sel (f : Fields) : Statement (.sel f) := ofReg _ _ _ f _ rfl rfl rfl rfl (by decide) (by decide)

theorem movs (f : Fields) : Statement (.movs f) := ofReg _ _ _ f _ rfl rfl rfl rfl (by decide) (by decide)

theorem bcast (f : Fields) : Statement (.bcast f) := ofReg _ _ _ f _ rfl rfl rfl rfl (by decide) (by decide)

theorem shfl (f : Fields) : Statement (.shfl f) := ofReg _ _ _ f _ rfl rfl rfl rfl (by decide) (by decide)

theorem shflImm (f : ImmFields) : Statement (.shflImm f) := ofImm _ _ _ f _ rfl rfl rfl rfl rfl (by decide) (by decide)

theorem vote (f : Fields) : Statement (.vote f) := ofReg _ _ _ f _ rfl rfl rfl rfl (by decide) (by decide)

theorem ballot (f : Fields) : Statement (.ballot f) := ofReg _ _ _ f _ rfl rfl rfl rfl (by decide) (by decide)

theorem redux (f : Fields) : Statement (.redux f) := ofReg _ _ _ f _ rfl rfl rfl rfl (by decide) (by decide)

theorem scanw (f : Fields) : Statement (.scanw f) := ofReg _ _ _ f _ rfl rfl rfl rfl (by decide) (by decide)

theorem bfly (f : Fields) : Statement (.bfly f) := ofReg _ _ _ f _ rfl rfl rfl rfl (by decide) (by decide)

theorem bfly4 (f : Fields) : Statement (.bfly4 f) := ofReg _ _ _ f _ rfl rfl rfl rfl (by decide) (by decide)

theorem cmul (f : Fields) : Statement (.cmul f) := ofReg _ _ _ f _ rfl rfl rfl rfl (by decide) (by decide)

theorem twid (f : Fields) : Statement (.twid f) := ofReg _ _ _ f _ rfl rfl rfl rfl (by decide) (by decide)

theorem rdtime (f : Fields) : Statement (.rdtime f) := ofReg _ _ _ f _ rfl rfl rfl rfl (by decide) (by decide)

theorem ld (f : Fields) : Statement (.ld f) := ofReg _ _ _ f _ rfl rfl rfl rfl (by decide) (by decide)

theorem lds (f : Fields) : Statement (.lds f) := ofReg _ _ _ f _ rfl rfl rfl rfl (by decide) (by decide)

theorem st (f : Fields) : Statement (.st f) := ofReg _ _ _ f _ rfl rfl rfl rfl (by decide) (by decide)

theorem sts (f : Fields) : Statement (.sts f) := ofReg _ _ _ f _ rfl rfl rfl rfl (by decide) (by decide)

theorem atom (f : Fields) : Statement (.atom f) := ofReg _ _ _ f _ rfl rfl rfl rfl (by decide) (by decide)

theorem atoms (f : Fields) : Statement (.atoms f) := ofReg _ _ _ f _ rfl rfl rfl rfl (by decide) (by decide)

theorem lr (f : Fields) : Statement (.lr f) := ofReg _ _ _ f _ rfl rfl rfl rfl (by decide) (by decide)

theorem sc (f : Fields) : Statement (.sc f) := ofReg _ _ _ f _ rfl rfl rfl rfl (by decide) (by decide)

theorem red (f : Fields) : Statement (.red f) := ofReg _ _ _ f _ rfl rfl rfl rfl (by decide) (by decide)

theorem gath (f : Fields) : Statement (.gath f) := ofReg _ _ _ f _ rfl rfl rfl rfl (by decide) (by decide)

theorem scat (f : Fields) : Statement (.scat f) := ofReg _ _ _ f _ rfl rfl rfl rfl (by decide) (by decide)

theorem confl (f : Fields) : Statement (.confl f) := ofReg _ _ _ f _ rfl rfl rfl rfl (by decide) (by decide)

theorem fence (f : Fields) : Statement (.fence f) := ofReg _ _ _ f _ rfl rfl rfl rfl (by decide) (by decide)

theorem fencew (f : Fields) : Statement (.fencew f) := ofReg _ _ _ f _ rfl rfl rfl rfl (by decide) (by decide)

theorem pref (f : Fields) : Statement (.pref f) := ofReg _ _ _ f _ rfl rfl rfl rfl (by decide) (by decide)

theorem stw (f : Fields) : Statement (.stw f) := ofReg _ _ _ f _ rfl rfl rfl rfl (by decide) (by decide)

theorem mma (f : Fields) : Statement (.mma f) := ofReg _ _ _ f _ rfl rfl rfl rfl (by decide) (by decide)

theorem mmas (f : Fields) : Statement (.mmas f) := ofReg _ _ _ f _ rfl rfl rfl rfl (by decide) (by decide)

theorem mmsm (f : Fields) : Statement (.mmsm f) := ofReg _ _ _ f _ rfl rfl rfl rfl (by decide) (by decide)

theorem aresc (f : Fields) : Statement (.aresc f) := ofReg _ _ _ f _ rfl rfl rfl rfl (by decide) (by decide)

theorem mmask (f : Fields) : Statement (.mmask f) := ofReg _ _ _ f _ rfl rfl rfl rfl (by decide) (by decide)

theorem azero (f : Fields) : Statement (.azero f) := ofReg _ _ _ f _ rfl rfl rfl rfl (by decide) (by decide)

theorem ald (f : Fields) : Statement (.ald f) := ofReg _ _ _ f _ rfl rfl rfl rfl (by decide) (by decide)

theorem ast (f : Fields) : Statement (.ast f) := ofReg _ _ _ f _ rfl rfl rfl rfl (by decide) (by decide)

theorem mside (f : Fields) : Statement (.mside f) := ofReg _ _ _ f _ rfl rfl rfl rfl (by decide) (by decide)

theorem cpy (f : Fields) : Statement (.cpy f) := ofReg _ _ _ f _ rfl rfl rfl rfl (by decide) (by decide)

theorem cpyt (f : Fields) : Statement (.cpyt f) := ofReg _ _ _ f _ rfl rfl rfl rfl (by decide) (by decide)

theorem cpyg (f : Fields) : Statement (.cpyg f) := ofReg _ _ _ f _ rfl rfl rfl rfl (by decide) (by decide)

theorem rcfence (f : Fields) : Statement (.rcfence f) := ofReg _ _ _ f _ rfl rfl rfl rfl (by decide) (by decide)

theorem kick (f : Fields) : Statement (.kick f) := ofReg _ _ _ f _ rfl rfl rfl rfl (by decide) (by decide)

theorem cenum (f : Fields) : Statement (.cenum f) := ofReg _ _ _ f _ rfl rfl rfl rfl (by decide) (by decide)

theorem cpred (f : Fields) : Statement (.cpred f) := ofReg _ _ _ f _ rfl rfl rfl rfl (by decide) (by decide)

theorem cmerge (f : Fields) : Statement (.cmerge f) := ofReg _ _ _ f _ rfl rfl rfl rfl (by decide) (by decide)

theorem cexit (f : Fields) : Statement (.cexit f) := ofReg _ _ _ f _ rfl rfl rfl rfl (by decide) (by decide)

theorem cseal (f : Fields) : Statement (.cseal f) := ofReg _ _ _ f _ rfl rfl rfl rfl (by decide) (by decide)

theorem ccomp (f : Fields) : Statement (.ccomp f) := ofReg _ _ _ f _ rfl rfl rfl rfl (by decide) (by decide)

theorem cres (f : Fields) : Statement (.cres f) := ofReg _ _ _ f _ rfl rfl rfl rfl (by decide) (by decide)

theorem cabort (f : Fields) : Statement (.cabort f) := ofReg _ _ _ f _ rfl rfl rfl rfl (by decide) (by decide)

theorem acomp (f : Fields) : Statement (.acomp f) := ofReg _ _ _ f _ rfl rfl rfl rfl (by decide) (by decide)

theorem xord (f : Fields) : Statement (.xord f) := ofReg _ _ _ f _ rfl rfl rfl rfl (by decide) (by decide)

theorem xordImm (f : ImmFields) : Statement (.xordImm f) := ofImm _ _ _ f _ rfl rfl rfl rfl rfl (by decide) (by decide)

theorem xclr (f : Fields) : Statement (.xclr f) := ofReg _ _ _ f _ rfl rfl rfl rfl (by decide) (by decide)

theorem xform (f : Fields) : Statement (.xform f) := ofReg _ _ _ f _ rfl rfl rfl rfl (by decide) (by decide)

theorem xshift (f : Fields) : Statement (.xshift f) := ofReg _ _ _ f _ rfl rfl rfl rfl (by decide) (by decide)

theorem xm2l (f : Fields) : Statement (.xm2l f) := ofReg _ _ _ f _ rfl rfl rfl rfl (by decide) (by decide)

theorem xlsh (f : Fields) : Statement (.xlsh f) := ofReg _ _ _ f _ rfl rfl rfl rfl (by decide) (by decide)

theorem xeval (f : Fields) : Statement (.xeval f) := ofReg _ _ _ f _ rfl rfl rfl rfl (by decide) (by decide)

theorem xadm (f : Fields) : Statement (.xadm f) := ofReg _ _ _ f _ rfl rfl rfl rfl (by decide) (by decide)

theorem xld (f : Fields) : Statement (.xld f) := ofReg _ _ _ f _ rfl rfl rfl rfl (by decide) (by decide)

theorem xst (f : Fields) : Statement (.xst f) := ofReg _ _ _ f _ rfl rfl rfl rfl (by decide) (by decide)

theorem tkmatch (f : Fields) : Statement (.tkmatch f) := ofReg _ _ _ f _ rfl rfl rfl rfl (by decide) (by decide)

theorem tkmerge (f : Fields) : Statement (.tkmerge f) := ofReg _ _ _ f _ rfl rfl rfl rfl (by decide) (by decide)

theorem tkunmerge (f : Fields) : Statement (.tkunmerge f) := ofReg _ _ _ f _ rfl rfl rfl rfl (by decide) (by decide)

theorem tksize (f : Fields) : Statement (.tksize f) := ofReg _ _ _ f _ rfl rfl rfl rfl (by decide) (by decide)

theorem nop (f : Fields) : Statement (.nop f) := ofReg _ _ _ f _ rfl rfl rfl rfl (by decide) (by decide)

theorem yield (f : Fields) : Statement (.yield f) := ofReg _ _ _ f _ rfl rfl rfl rfl (by decide) (by decide)

theorem bra (f : ImmFields) : Statement (.bra f) := ofImm _ _ _ f _ rfl rfl rfl rfl rfl (by decide) (by decide)

theorem brx (f : Fields) : Statement (.brx f) := ofReg _ _ _ f _ rfl rfl rfl rfl (by decide) (by decide)

theorem ret (f : Fields) : Statement (.ret f) := ofReg _ _ _ f _ rfl rfl rfl rfl (by decide) (by decide)

theorem call (f : ImmFields) : Statement (.call f) := ofImm _ _ _ f _ rfl rfl rfl rfl rfl (by decide) (by decide)

theorem join (f : Fields) : Statement (.join f) := ofReg _ _ _ f _ rfl rfl rfl rfl (by decide) (by decide)

theorem joinw (f : Fields) : Statement (.joinw f) := ofReg _ _ _ f _ rfl rfl rfl rfl (by decide) (by decide)

theorem joinwImm (f : ImmFields) : Statement (.joinwImm f) := ofImm _ _ _ f _ rfl rfl rfl rfl rfl (by decide) (by decide)

theorem exit (f : Fields) : Statement (.exit f) := ofReg _ _ _ f _ rfl rfl rfl rfl (by decide) (by decide)

theorem trap (f : ImmFields) : Statement (.trap f) := ofImm _ _ _ f _ rfl rfl rfl rfl rfl (by decide) (by decide)

theorem rbacq (f : Fields) : Statement (.rbacq f) := ofReg _ _ _ f _ rfl rfl rfl rfl (by decide) (by decide)

theorem rbrel (f : Fields) : Statement (.rbrel f) := ofReg _ _ _ f _ rfl rfl rfl rfl (by decide) (by decide)

theorem rbqry (f : Fields) : Statement (.rbqry f) := ofReg _ _ _ f _ rfl rfl rfl rfl (by decide) (by decide)

theorem binit (f : Fields) : Statement (.binit f) := ofReg _ _ _ f _ rfl rfl rfl rfl (by decide) (by decide)

theorem bar (f : Fields) : Statement (.bar f) := ofReg _ _ _ f _ rfl rfl rfl rfl (by decide) (by decide)

theorem bara (f : Fields) : Statement (.bara f) := ofReg _ _ _ f _ rfl rfl rfl rfl (by decide) (by decide)

theorem barw (f : Fields) : Statement (.barw f) := ofReg _ _ _ f _ rfl rfl rfl rfl (by decide) (by decide)

theorem barx (f : Fields) : Statement (.barx f) := ofReg _ _ _ f _ rfl rfl rfl rfl (by decide) (by decide)

theorem barxImm (f : ImmFields) : Statement (.barxImm f) := ofImm _ _ _ f _ rfl rfl rfl rfl rfl (by decide) (by decide)

theorem barq (f : Fields) : Statement (.barq f) := ofReg _ _ _ f _ rfl rfl rfl rfl (by decide) (by decide)

theorem htest (f : Fields) : Statement (.htest f) := ofReg _ _ _ f _ rfl rfl rfl rfl (by decide) (by decide)

theorem hwait (f : Fields) : Statement (.hwait f) := ofReg _ _ _ f _ rfl rfl rfl rfl (by decide) (by decide)

theorem hcan (f : Fields) : Statement (.hcan f) := ofReg _ _ _ f _ rfl rfl rfl rfl (by decide) (by decide)

theorem hmov (f : Fields) : Statement (.hmov f) := ofReg _ _ _ f _ rfl rfl rfl rfl (by decide) (by decide)

theorem wwait (f : Fields) : Statement (.wwait f) := ofReg _ _ _ f _ rfl rfl rfl rfl (by decide) (by decide)

theorem sysr (f : Fields) : Statement (.sysr f) := ofReg _ _ _ f _ rfl rfl rfl rfl (by decide) (by decide)

theorem sysw (f : Fields) : Statement (.sysw f) := ofReg _ _ _ f _ rfl rfl rfl rfl (by decide) (by decide)

theorem eret (f : Fields) : Statement (.eret f) := ofReg _ _ _ f _ rfl rfl rfl rfl (by decide) (by decide)

theorem tend (f : Fields) : Statement (.tend f) := ofReg _ _ _ f _ rfl rfl rfl rfl (by decide) (by decide)

theorem tabrt (f : Fields) : Statement (.tabrt f) := ofReg _ _ _ f _ rfl rfl rfl rfl (by decide) (by decide)

theorem tirrev (f : Fields) : Statement (.tirrev f) := ofReg _ _ _ f _ rfl rfl rfl rfl (by decide) (by decide)

theorem tlbinv (f : Fields) : Statement (.tlbinv f) := ofReg _ _ _ f _ rfl rfl rfl rfl (by decide) (by decide)

theorem quiesce (f : Fields) : Statement (.quiesce f) := ofReg _ _ _ f _ rfl rfl rfl rfl (by decide) (by decide)

theorem icinv (f : Fields) : Statement (.icinv f) := ofReg _ _ _ f _ rfl rfl rfl rfl (by decide) (by decide)

theorem engrd (f : Fields) : Statement (.engrd f) := ofReg _ _ _ f _ rfl rfl rfl rfl (by decide) (by decide)

theorem engwr (f : Fields) : Statement (.engwr f) := ofReg _ _ _ f _ rfl rfl rfl rfl (by decide) (by decide)

theorem snap (f : Fields) : Statement (.snap f) := ofReg _ _ _ f _ rfl rfl rfl rfl (by decide) (by decide)

theorem gpw (f : Fields) : Statement (.gpw f) := ofReg _ _ _ f _ rfl rfl rfl rfl (by decide) (by decide)

theorem beam (f : Fields) : Statement (.beam f) := ofReg _ _ _ f _ rfl rfl rfl rfl (by decide) (by decide)

theorem proot (f : Fields) : Statement (.proot f) := ofReg _ _ _ f _ rfl rfl rfl rfl (by decide) (by decide)

theorem clauseFetch (crew wave : Nat) : Statement (.clauseFetch crew wave) := ofEvent _ rfl

theorem fairnessSwitch (crew wave : Nat) : Statement (.fairnessSwitch crew wave) := ofEvent _ rfl

theorem reservationExpiry (crew wave strand : Nat) : Statement (.reservationExpiry crew wave strand) := ofEvent _ rfl

theorem strandWake (crew wave strand : Nat) : Statement (.strandWake crew wave strand) := ofEvent _ rfl

theorem joinwExpiry (crew wave strand : Nat) : Statement (.joinwExpiry crew wave strand) := ofEvent _ rfl

theorem wwaitDeadline (crew wave strand : Nat) : Statement (.wwaitDeadline crew wave strand) := ofEvent _ rfl

theorem rbacqGrant (core : Nat) : Statement (.rbacqGrant core) := ofEvent _ rfl

theorem segmentReturn (crew wave seg : Nat) : Statement (.segmentReturn crew wave seg) := ofEvent _ rfl

theorem waveRetire (crew wave : Nat) : Statement (.waveRetire crew wave) := ofEvent _ rfl

theorem accessPerform (op elem : Nat) (atHome : Bool) : Statement (.accessPerform op elem atHome) := ofEvent _ rfl

theorem writeQueueDrain (core idx : Nat) : Statement (.writeQueueDrain core idx) := ofEvent _ rfl

theorem invalidationApply (core idx : Nat) : Statement (.invalidationApply core idx) := ofEvent _ rfl

theorem fenceCompletion (op : Nat) : Statement (.fenceCompletion op) := ofEvent _ rfl

theorem reductionApply (idx : Nat) : Statement (.reductionApply idx) := ofEvent _ rfl

theorem engineSourceRead (op unit : Nat) : Statement (.engineSourceRead op unit) := ofEvent _ rfl

theorem engineUnitWrite (op : Nat) : Statement (.engineUnitWrite op) := ofEvent _ rfl

theorem longLatencyCompletion (op : Nat) : Statement (.longLatencyCompletion op) := ofEvent _ rfl

theorem mmasStep (op : Nat) : Statement (.mmasStep op) := ofEvent _ rfl

theorem copyPerform (op : Nat) (victim : Nat) : Statement (.copyPerform op victim) := ofEvent _ rfl

theorem copyUnitWrite (op : Nat) : Statement (.copyUnitWrite op) := ofEvent _ rfl

theorem shapeCacheDrop (core idx : Nat) : Statement (.shapeCacheDrop core idx) := ofEvent _ rfl

theorem engqResume (ctx : Nat) (sel : Word) (w3 : Dword) : Statement (.engqResume ctx sel w3) := ofEvent _ rfl

theorem engqCancel (ctx : Nat) (sel : Word) : Statement (.engqCancel ctx sel) := ofEvent _ rfl

theorem engqRebuild (ctx : Nat) (sel : Word) (w3 : Dword) : Statement (.engqRebuild ctx sel w3) := ofEvent _ rfl

theorem taskCommit (crew tile : Nat) : Statement (.taskCommit crew tile) := ofEvent _ rfl

theorem trapRecordDelivery (core : Nat) : Statement (.trapRecordDelivery core) := ofEvent _ rfl

theorem hostTrapFinish (ctx : Nat) (kill : Bool) : Statement (.hostTrapFinish ctx kill) := ofEvent _ rfl

theorem contextCreate (ctx root saveBase saveSize trapRing fn : Nat) : Statement (.contextCreate ctx root saveBase saveSize trapRing fn) :=
  ofEvent _ rfl

theorem contextLoad (ctx : Nat) (load : ContextLoad) : Statement (.contextLoad ctx load) := ofEvent _ rfl

theorem contextAdmit (ctx : Nat) : Statement (.contextAdmit ctx) := ofEvent _ rfl

theorem crewPlace (kernel die core base : Nat) (crewIdx tile : Nat) : Statement (.crewPlace kernel die core base crewIdx tile) :=
  ofEvent _ rfl

theorem stealMessage (kernel thief victim : Nat) : Statement (.stealMessage kernel thief victim) := ofEvent _ rfl

theorem vacate (ctx : Nat) (cores : List Nat) : Statement (.vacate ctx cores) := ofEvent _ rfl

theorem saveComplete (ctx : Nat) : Statement (.saveComplete ctx) := ofEvent _ rfl

theorem contextRestore (ctx : Nat) : Statement (.contextRestore ctx) := ofEvent _ rfl

theorem restoreLoad (ctx : Nat) (cores : List Nat) : Statement (.restoreLoad ctx cores) := ofEvent _ rfl

theorem declareLost (ctx : Nat) : Statement (.declareLost ctx) := ofEvent _ rfl

theorem contextDestroy (ctx : Nat) (frames : List Nat) : Statement (.contextDestroy ctx frames) := ofEvent _ rfl

theorem destroyPerform (ctx : Nat) : Statement (.destroyPerform ctx) := ofEvent _ rfl

theorem quarantineRetired (ctx : Nat) : Statement (.quarantineRetired ctx) := ofEvent _ rfl

theorem queueEnable (ctx queue : Nat) : Statement (.queueEnable ctx queue) := ofEvent _ rfl

theorem queueDisable (ctx queue : Nat) : Statement (.queueDisable ctx queue) := ofEvent _ rfl

theorem queueResume (ctx queue : Nat) : Statement (.queueResume ctx queue) := ofEvent _ rfl

theorem doorbell (ctx queue : Nat) (val : Word) : Statement (.doorbell ctx queue val) := ofEvent _ rfl

theorem noopCommand (ctx queue : Nat) : Statement (.noopCommand ctx queue) := ofEvent _ rfl

theorem launchCommand (ctx queue : Nat) : Statement (.launchCommand ctx queue) := ofEvent _ rfl

theorem waitCommand (ctx queue : Nat) : Statement (.waitCommand ctx queue) := ofEvent _ rfl

theorem signalCommand (ctx queue : Nat) : Statement (.signalCommand ctx queue) := ofEvent _ rfl

theorem replayCommand (ctx queue : Nat) : Statement (.replayCommand ctx queue) := ofEvent _ rfl

theorem kernelStartTick (kernel : Nat) : Statement (.kernelStartTick kernel) := ofEvent _ rfl

theorem kernelDrained (kernel energy : Nat) : Statement (.kernelDrained kernel energy) := ofEvent _ rfl

theorem kernelCancel (kernel : Nat) : Statement (.kernelCancel kernel) := ofEvent _ rfl

theorem registerWrite (fn bar offset : Nat) (val : Dword) : Statement (.registerWrite fn bar offset val) := ofEvent _ rfl

theorem hostApertureAccess (first : ApertureByte) (write : Option (List Byte)) (len : Nat) : Statement (.hostApertureAccess first write len) :=
  ofEvent _ rfl

theorem frameRelease (ctx : Nat) (val : Dword) : Statement (.frameRelease ctx val) := ofEvent _ rfl

theorem frameFree (ctx : Nat) : Statement (.frameFree ctx) := ofEvent _ rfl

theorem quiescenceRequest (ctx : Nat) : Statement (.quiescenceRequest ctx) := ofEvent _ rfl

theorem pageWalk (die ctx va : Nat) : Statement (.pageWalk die ctx va) := ofEvent _ rfl

theorem translationFill (idx victim : Nat) : Statement (.translationFill idx victim) := ofEvent _ rfl

theorem translationDrop (die idx : Nat) : Statement (.translationDrop die idx) := ofEvent _ rfl

theorem transformKick (ctx ring : Nat) (val : Word) (core : Nat) : Statement (.transformKick ctx ring val core) :=
  ofEvent _ rfl

theorem transformRequestStart (ctx ring : Nat) : Statement (.transformRequestStart ctx ring) := ofEvent _ rfl

theorem transformComplete (ctx ring slot : Nat) : Statement (.transformComplete ctx ring slot) := ofEvent _ rfl

theorem transformResume (ctx ring : Nat) : Statement (.transformResume ctx ring) := ofEvent _ rfl

theorem transformCancel (ctx ring : Nat) : Statement (.transformCancel ctx ring) := ofEvent _ rfl

theorem gOperationCompletion (op : Nat) : Statement (.gOperationCompletion op) := ofEvent _ rfl

theorem prootCompletion (op : Nat) : Statement (.prootCompletion op) := ofEvent _ rfl

theorem poolPageFree (idx : Nat) : Statement (.poolPageFree idx) := ofEvent _ rfl

theorem claveFireHost (val : Word) : Statement (.claveFireHost val) := ofEvent _ rfl

theorem claveFireManagement : Statement .claveFireManagement := ofEvent _ rfl

theorem claveTaborMatch : Statement .claveTaborMatch := ofEvent _ rfl

theorem snapTickFire (idx : Nat) : Statement (.snapTickFire idx) := ofEvent _ rfl

theorem claveLatchDone : Statement .claveLatchDone := ofEvent _ rfl

theorem portEnable (port : Nat) : Statement (.portEnable port) := ofEvent _ rfl

theorem portDisable (port : Nat) : Statement (.portDisable port) := ofEvent _ rfl

theorem trainingDone (port lanes : Nat) : Statement (.trainingDone port lanes) := ofEvent _ rfl

theorem trainingFailed (port : Nat) : Statement (.trainingFailed port) := ofEvent _ rfl

theorem laneLoss (port lanes : Nat) : Statement (.laneLoss port lanes) := ofEvent _ rfl

theorem retryLimit (port : Nat) : Statement (.retryLimit port) := ofEvent _ rfl

theorem flitSend (port : Nat) : Statement (.flitSend port) := ofEvent _ rfl

theorem flitReceive (port : Nat) (flit : List Byte) : Statement (.flitReceive port flit) := ofEvent _ rfl

theorem ackTimeout (port : Nat) : Statement (.ackTimeout port) := ofEvent _ rfl

theorem readRequest (idx len : Nat) : Statement (.readRequest idx len) := ofEvent _ rfl

theorem readResponse (idx : Nat) : Statement (.readResponse idx) := ofEvent _ rfl

theorem writeMessage (idx len : Nat) : Statement (.writeMessage idx len) := ofEvent _ rfl

theorem atomicMessage (idx aop aty : Nat) (red : Bool) : Statement (.atomicMessage idx aop aty red) := ofEvent _ rfl

theorem endToEndAck (idx : Nat) : Statement (.endToEndAck idx) := ofEvent _ rfl

theorem wakeWrite (idx len : Nat) : Statement (.wakeWrite idx len) := ofEvent _ rfl

theorem taborSynchronisation (idx t1 t2 t3 t4 : Nat) : Statement (.taborSynchronisation idx t1 t2 t3 t4) := ofEvent _ rfl

theorem taborSyncTimer : Statement .taborSyncTimer := ofEvent _ rfl

theorem gangStartOrAbort (idx : Nat) (abort : Bool) (tick : Nat) : Statement (.gangStartOrAbort idx abort tick) :=
  ofEvent _ rfl

theorem claveFiring (idx tick : Nat) : Statement (.claveFiring idx tick) := ofEvent _ rfl

theorem pstatReplaysRead (port : Nat) : Statement (.pstatReplaysRead port) := ofEvent _ rfl

theorem mctpCommand (cmd : MgmtCommand) : Statement (.mctpCommand cmd) := ofEvent _ rfl

theorem attestationRequest (nonce : List Byte) : Statement (.attestationRequest nonce) := ofEvent _ rfl

theorem boot (cfgOk fwOk : Bool) (fwVer minVer : Nat) : Statement (.boot cfgOk fwOk fwVer minVer) := ofEvent _ rfl

theorem hostLinkChange (up : Bool) : Statement (.hostLinkChange up) := ofEvent _ rfl

theorem powerLimitThrottle (watts : Nat) : Statement (.powerLimitThrottle watts) := ofEvent _ rfl

theorem thermalThrottle (celsius : Nat) : Statement (.thermalThrottle celsius) := ofEvent _ rfl

theorem throttleEnd : Statement .throttleEnd := ofEvent _ rfl

theorem emergencyStop (celsius millivolts : Nat) : Statement (.emergencyStop celsius millivolts) := ofEvent _ rfl

theorem computeRestart (val : Word) (celsius millivolts : Nat) : Statement (.computeRestart val celsius millivolts) :=
  ofEvent _ rfl

theorem cxlDeviceLost (dev : Nat) : Statement (.cxlDeviceLost dev) := ofEvent _ rfl

theorem eventDelivery (ctx : Option Nat) : Statement (.eventDelivery ctx) := ofEvent _ rfl

theorem eacctUpdate (src : EnergySource) (energy : Nat) : Statement (.eacctUpdate src energy) := ofEvent _ rfl

theorem trapHandlerDesignation (ctx crew wave : Nat) : Statement (.trapHandlerDesignation ctx crew wave) := ofEvent _ rfl

theorem roleRebinding (kernel role core : Nat) : Statement (.roleRebinding kernel role core) := ofEvent _ rfl

theorem transformRingRegistration (ctx ring die reqBase compBase logSize : Nat) : Statement (.transformRingRegistration ctx ring die reqBase compBase logSize) :=
  ofEvent _ rfl

theorem gangFormation (master : Nat) (members : List Nat) (count : Dword) : Statement (.gangFormation master members count) :=
  ofEvent _ rfl

end Sys2Proof.Laws.Encoding
end

