-- ==== Sys2Proof/Tests/Slice0.lean ====
section
/-!
SUPPORT. Tests: words that the spec writes out, ill-formed terms, small steps, and a state that meets the premises of each
statement.
-/

namespace Sys2Proof.Tests

open Sys2Proof Sys2Proof.Machine Sys2Proof.Safety Host

/-- No operand and no modifier. -/
def f0 : Fields := ⟨false, 0, 0, 0, 0, 0, false, false, false, false, 0⟩

/-! ## Words the spec writes out -/

/-- `ENGRD s10.w2` (04_*.md). -/
theorem test_decode_engrd : decodeWord 8 0x1800A00000080002 =
    .ok (.engrd ⟨false, 0, 10, 0, 0, 0, true, false, false, false, 0x2⟩) := by decide

/-- `GPW GP3, s10` (05_*.md). -/
theorem test_decode_gpw : decodeWord 8 0x210000A000040003 =
    .ok (.gpw ⟨false, 0, 0, 10, 0, 0, false, true, false, false, 0x3⟩) := by decide

/-- `(p2) BRA loop` (06_*.md). -/
theorem test_decode_bra : decodeWord 7 0x8120000FFFF0FFFA =
    .ok (.bra ⟨false, 2, 0, 0, false, false, 0xFFFFFFFA⟩) := by decide

/-- `RET v20` (06_*.md). -/
theorem test_decode_ret : decodeWord 7 0x0400014000000000 =
    .ok (.ret ⟨false, 0, 0, 20, 0, 0, false, false, false, false, 0x0⟩) := by decide

/-- `CALL v20, fn` (06_*.md). -/
theorem test_decode_call : decodeWord 7 0x8301400000000028 =
    .ok (.call ⟨false, 0, 20, 0, false, false, 0x28⟩) := by decide

/-- `JOINW s5, 1000` (06_*.md). -/
theorem test_decode_joinwImm : decodeWord 7 0x86005000000803E8 =
    .ok (.joinwImm ⟨false, 0, 5, 0, true, false, 0x3E8⟩) := by decide

/-- `(!p4) EXIT` (06_*.md). -/
theorem test_decode_exit : decodeWord 7 0x07C0000000000000 =
    .ok (.exit ⟨true, 4, 0, 0, 0, 0, false, false, false, false, 0x0⟩) := by decide

/-- `YIELD` (06_*.md). -/
theorem test_decode_yield : decodeWord 7 0x0800000000000000 =
    .ok (.yield ⟨false, 0, 0, 0, 0, 0, false, false, false, false, 0x0⟩) := by decide

/-- `NOP` (06_*.md). -/
theorem test_decode_nop : decodeWord 7 0x0000000000000000 =
    .ok (.nop ⟨false, 0, 0, 0, 0, 0, false, false, false, false, 0x0⟩) := by decide

/-- `TRAP 7` (06_*.md). -/
theorem test_decode_trap : decodeWord 7 0x8900000000000007 =
    .ok (.trap ⟨false, 0, 0, 0, false, false, 0x7⟩) := by decide

/-- `RBACQ v64, v127` (06_*.md). -/
theorem test_decode_rbacq : decodeWord 7 0x1000000000000043 =
    .ok (.rbacq ⟨false, 0, 0, 0, 0, 0, false, false, false, false, 0x43⟩) := by decide

/-- `RBREL v64, v127` (06_*.md). -/
theorem test_decode_rbrel : decodeWord 7 0x1100000000000043 =
    .ok (.rbrel ⟨false, 0, 0, 0, 0, 0, false, false, false, false, 0x43⟩) := by decide

/-- `RBQRY s3` (06_*.md). -/
theorem test_decode_rbqry : decodeWord 7 0x1200300000080000 =
    .ok (.rbqry ⟨false, 0, 3, 0, 0, 0, true, false, false, false, 0x0⟩) := by decide

/-- `IADDS.u32 v8, v8, v9` (08_*.md). -/
theorem test_decode_iadds : decodeWord 0 0x0200808090000008 =
    .ok (.iadds ⟨false, 0, 8, 8, 9, 0, false, false, false, false, 0x8⟩) := by decide

/-- `IMUL.hi.s64 v10, v12, v14` (08_*.md). -/
theorem test_decode_imul : decodeWord 0 0x0300A0C0E0000030 =
    .ok (.imul ⟨false, 0, 10, 12, 14, 0, false, false, false, false, 0x30⟩) := by decide

/-- `ISHL v3, v3, 4` (08_*.md). -/
theorem test_decode_ishlImm : decodeWord 0 0x8C00303000000004 =
    .ok (.ishlImm ⟨false, 0, 3, 3, false, false, 0x4⟩) := by decide

/-- `IBFE v7, v1, s2` (08_*.md). -/
theorem test_decode_ibfe : decodeWord 0 0x1300701020020000 =
    .ok (.ibfe ⟨false, 0, 7, 1, 2, 0, false, false, true, false, 0x0⟩) := by decide

/-- `ICMP.lt.u32 p2, v5, s6` (08_*.md). -/
theorem test_decode_icmp : decodeWord 0 0x1500205060020048 =
    .ok (.icmp ⟨false, 0, 2, 5, 6, 0, false, false, true, false, 0x48⟩) := by decide

/-- `FFMA.rz v4, v5, v6, v7` (08_*.md). -/
theorem test_decode_ffma : decodeWord 0 0x2300405060700001 =
    .ok (.ffma ⟨false, 0, 4, 5, 6, 7, false, false, false, false, 0x1⟩) := by decide

/-- `(p1) FMAX v2, v2, v3` (08_*.md). -/
theorem test_decode_fmax : decodeWord 0 0x2510202030000000 =
    .ok (.fmax ⟨false, 1, 2, 2, 3, 0, false, false, false, false, 0x0⟩) := by decide

/-- `FCMP.un p1, v2, v2` (08_*.md). -/
theorem test_decode_fcmp : decodeWord 0 0x28001020200000C0 =
    .ok (.fcmp ⟨false, 0, 1, 2, 2, 0, false, false, false, false, 0xC0⟩) := by decide

/-- `FCLASS v9, v2` (08_*.md). -/
theorem test_decode_fclass : decodeWord 0 0x2900902000000000 =
    .ok (.fclass ⟨false, 0, 9, 2, 0, 0, false, false, false, false, 0x0⟩) := by decide

/-- `FSQRT.f64 v10, v12` (08_*.md). -/
theorem test_decode_fsqrt : decodeWord 0 0x2E00A0C000000008 =
    .ok (.fsqrt ⟨false, 0, 10, 12, 0, 0, false, false, false, false, 0x8⟩) := by decide

/-- `CVT.f16.f32.nsat v3, v2` (08_*.md). -/
theorem test_decode_cvt : decodeWord 0 0x3800302000000308 =
    .ok (.cvt ⟨false, 0, 3, 2, 0, 0, false, false, false, false, 0x308⟩) := by decide

/-- `CVTQ.e2m1x.rs v20, v16, s9` (08_*.md). -/
theorem test_decode_cvtq : decodeWord 0 0x3901410090020004 =
    .ok (.cvtq ⟨false, 0, 20, 16, 9, 0, false, false, true, false, 0x4⟩) := by decide

/-- `CVTX.e4m3 v21, v20` (08_*.md). -/
theorem test_decode_cvtx : decodeWord 0 0x3A01514000000020 =
    .ok (.cvtx ⟨false, 0, 21, 20, 0, 0, false, false, false, false, 0x20⟩) := by decide

/-- `MOV.b64 s10, s20` (08_*.md). -/
theorem test_decode_mov : decodeWord 0 0x4000A140000C0010 =
    .ok (.mov ⟨false, 0, 10, 20, 0, 0, true, true, false, false, 0x10⟩) := by decide

/-- `LDI v6, -1` (08_*.md). -/
theorem test_decode_ldi : decodeWord 0 0xC100600FFFF0FFFF =
    .ok (.ldi ⟨false, 0, 6, 0, false, false, 0xFFFFFFFF⟩) := by decide

/-- `SEL v1, v2, v3, p4` (08_*.md). -/
theorem test_decode_sel : decodeWord 0 0x4200102030400000 =
    .ok (.sel ⟨false, 0, 1, 2, 3, 4, false, false, false, false, 0x0⟩) := by decide

/-- `MOVS.ln s4, v9, s5` (08_*.md). -/
theorem test_decode_movs : decodeWord 0 0x43004090500A0008 =
    .ok (.movs ⟨false, 0, 4, 9, 5, 0, true, false, true, false, 0x8⟩) := by decide

/-- `BCAST v2, v9, s5` (08_*.md). -/
theorem test_decode_bcast : decodeWord 0 0x4400209050020000 =
    .ok (.bcast ⟨false, 0, 2, 9, 5, 0, false, false, true, false, 0x0⟩) := by decide

/-- `SHFL.down.w32 v3, v2, s1` (08_*.md). -/
theorem test_decode_shfl : decodeWord 0 0x4800302010020440 =
    .ok (.shfl ⟨false, 0, 3, 2, 1, 0, false, false, true, false, 0x440⟩) := by decide

/-- `VOTE.any p3, p1` (08_*.md). -/
theorem test_decode_vote : decodeWord 0 0x4900301000000020 =
    .ok (.vote ⟨false, 0, 3, 1, 0, 0, false, false, false, false, 0x20⟩) := by decide

/-- `BALLOT s8, p2` (08_*.md). -/
theorem test_decode_ballot : decodeWord 0 0x4A00802000080000 =
    .ok (.ballot ⟨false, 0, 8, 2, 0, 0, true, false, false, false, 0x0⟩) := by decide

/-- `REDUX.add.f32 s12, v4` (08_*.md). -/
theorem test_decode_redux : decodeWord 0 0x4B00C04000080010 =
    .ok (.redux ⟨false, 0, 12, 4, 0, 0, true, false, false, false, 0x10⟩) := by decide

/-- `SCANW.ex.add v5, v4` (08_*.md). -/
theorem test_decode_scanw : decodeWord 0 0x4C00504000000400 =
    .ok (.scanw ⟨false, 0, 5, 4, 0, 0, false, false, false, false, 0x400⟩) := by decide

/-- `CMUL v10, v12, s20` (08_*.md). -/
theorem test_decode_cmul : decodeWord 0 0x5300A0C140020000 =
    .ok (.cmul ⟨false, 0, 10, 12, 20, 0, false, false, true, false, 0x0⟩) := by decide

/-- `BFLY v40, v32, v34, v36` (08_*.md). -/
theorem test_decode_bfly : decodeWord 0 0x5002820222400000 =
    .ok (.bfly ⟨false, 0, 40, 32, 34, 36, false, false, false, false, 0x0⟩) := by decide

/-- `BFLY4 v48, v32` (08_*.md). -/
theorem test_decode_bfly4 : decodeWord 0 0x5103020000000000 =
    .ok (.bfly4 ⟨false, 0, 48, 32, 0, 0, false, false, false, false, 0x0⟩) := by decide

/-- `TWID v14, v1, s3` (08_*.md). -/
theorem test_decode_twid : decodeWord 0 0x5200E01030020000 =
    .ok (.twid ⟨false, 0, 14, 1, 3, 0, false, false, true, false, 0x0⟩) := by decide

/-- `RDTIME s30` (08_*.md). -/
theorem test_decode_rdtime : decodeWord 0 0x5801E00000080000 =
    .ok (.rdtime ⟨false, 0, 30, 0, 0, 0, true, false, false, false, 0x0⟩) := by decide

/-- `RED.add.f32.pkg [s2 + v1*4], v5` (09_*.md). -/
theorem test_decode_red : decodeWord 1 0x0C00502010045214 =
    .ok (.red ⟨false, 0, 5, 2, 1, 0, false, true, false, false, 0x5214⟩) := by decide

/-- `GATH.b32.pkg v6, [s8 + v2*4], s20` (09_*.md). -/
theorem test_decode_gath : decodeWord 1 0x1000608021455202 =
    .ok (.gath ⟨false, 0, 6, 8, 2, 20, false, true, false, true, 0x5202⟩) := by decide

/-- `SCAT.add.f32.pkg [s8 + v2*4], v5, s20` (09_*.md). -/
theorem test_decode_scat : decodeWord 1 0x1100508021455214 =
    .ok (.scat ⟨false, 0, 5, 8, 2, 20, false, true, false, true, 0x5214⟩) := by decide

/-- `CONFL.b32 v9, v2` (09_*.md). -/
theorem test_decode_confl : decodeWord 1 0x1200902000000002 =
    .ok (.confl ⟨false, 0, 9, 2, 0, 0, false, false, false, false, 0x2⟩) := by decide

/-- `PREF.l1 [s4 + v2*4]` (09_*.md). -/
theorem test_decode_pref : decodeWord 1 0x1A00004020040600 =
    .ok (.pref ⟨false, 0, 0, 4, 2, 0, false, true, false, false, 0x600⟩) := by decide

/-- `STW.b64.pkg [s12], s14` (09_*.md). -/
theorem test_decode_stw : decodeWord 1 0x2000E0C0000C5003 =
    .ok (.stw ⟨false, 0, 14, 12, 0, 0, true, true, false, false, 0x5003⟩) := by decide

/-- `BINIT [s4], s5` (10_*.md). -/
theorem test_decode_binit : decodeWord 7 0x2000004050060000 =
    .ok (.binit ⟨false, 0, 0, 4, 5, 0, false, true, true, false, 0x0⟩) := by decide

/-- `BARQ s8, [s4]` (10_*.md). -/
theorem test_decode_barq : decodeWord 7 0x25008040000C0000 =
    .ok (.barq ⟨false, 0, 8, 4, 0, 0, true, true, false, false, 0x0⟩) := by decide

/-- `HCAN h3` (10_*.md). -/
theorem test_decode_hcan : decodeWord 7 0x3200003000000000 =
    .ok (.hcan ⟨false, 0, 0, 3, 0, 0, false, false, false, false, 0x0⟩) := by decide

/-- `HMOV h5, h3` (10_*.md). -/
theorem test_decode_hmov : decodeWord 7 0x3300503000000000 =
    .ok (.hmov ⟨false, 0, 5, 3, 0, 0, false, false, false, false, 0x0⟩) := by decide

/-- `CPY.g2s.h3 s20, s8, s6, s4` (12_*.md). -/
theorem test_decode_cpy : decodeWord 3 0x00014080604F0098 =
    .ok (.cpy ⟨false, 0, 20, 8, 6, 4, true, true, true, true, 0x98⟩) := by decide

/-- `CPYT.g2s s20, s10, s12` (12_*.md). -/
theorem test_decode_cpyt : decodeWord 3 0x010140A0C00E0000 =
    .ok (.cpyt ⟨false, 0, 20, 10, 12, 0, true, true, true, false, 0x0⟩) := by decide

/-- `CPYG.g2s.h1 s20, s10, s16, s4` (12_*.md). -/
theorem test_decode_cpyg : decodeWord 3 0x020140A1004F0088 =
    .ok (.cpyg ⟨false, 0, 20, 10, 16, 4, true, true, true, true, 0x88⟩) := by decide

/-- `KICK 2, s7` (12_*.md). -/
theorem test_decode_kick : decodeWord 3 0x0900007000040002 =
    .ok (.kick ⟨false, 0, 0, 7, 0, 0, false, true, false, false, 0x2⟩) := by decide

/-- `BARX [s22], 1056` (13_*.md). -/
theorem test_decode_barxImm : decodeWord 7 0xA400016000040420 =
    .ok (.barxImm ⟨false, 0, 0, 22, false, true, 0x420⟩) := by decide

/-- `MMA a1, s20, s21, s8` (15_*.md). -/
theorem test_decode_mma : decodeWord 2 0x0000114150870000 =
    .ok (.mma ⟨false, 0, 1, 20, 21, 8, false, true, true, true, 0x0⟩) := by decide

/-- `MMAS.fb a2, s20, s21, s8` (15_*.md). -/
theorem test_decode_mmas : decodeWord 2 0x0100214150878000 =
    .ok (.mmas ⟨false, 0, 2, 20, 21, 8, false, true, true, true, 0x8000⟩) := by decide

/-- `MMSM a0, s16, s17, s8` (15_*.md). -/
theorem test_decode_mmsm : decodeWord 2 0x0200010110870000 =
    .ok (.mmsm ⟨false, 0, 0, 16, 17, 8, false, true, true, true, 0x0⟩) := by decide

/-- `ARESC.div a0, s24` (15_*.md). -/
theorem test_decode_aresc : decodeWord 2 0x0800018000040001 =
    .ok (.aresc ⟨false, 0, 0, 24, 0, 0, false, true, false, false, 0x1⟩) := by decide

/-- `MMASK.ninf a0, s24` (15_*.md). -/
theorem test_decode_mmask : decodeWord 2 0x0D00018000040000 =
    .ok (.mmask ⟨false, 0, 0, 24, 0, 0, false, true, false, false, 0x0⟩) := by decide

/-- `AZERO a3` (15_*.md). -/
theorem test_decode_azero : decodeWord 2 0x0900300000000000 =
    .ok (.azero ⟨false, 0, 3, 0, 0, 0, false, false, false, false, 0x0⟩) := by decide

/-- `MSIDE.get s40, a2, 0` (15_*.md). -/
theorem test_decode_mside : decodeWord 2 0x0C02802000080000 =
    .ok (.mside ⟨false, 0, 40, 2, 0, 0, true, false, false, false, 0x0⟩) := by decide

/-- `CMERGE s6` (16_*.md). -/
theorem test_decode_cmerge : decodeWord 4 0x0100600000080000 =
    .ok (.cmerge ⟨false, 0, 6, 0, 0, 0, true, false, false, false, 0x0⟩) := by decide

/-- `CEXIT sm0` (16_*.md). -/
theorem test_decode_cexit : decodeWord 4 0x0200000000000000 =
    .ok (.cexit ⟨false, 0, 0, 0, 0, 0, false, false, false, false, 0x0⟩) := by decide

/-- `CSEAL sm0, s20, s21` (16_*.md). -/
theorem test_decode_cseal : decodeWord 4 0x0800014150060000 =
    .ok (.cseal ⟨false, 0, 0, 20, 21, 0, false, true, true, false, 0x0⟩) := by decide

/-- `CCOMP s22, s20, s24` (16_*.md). -/
theorem test_decode_ccomp : decodeWord 4 0x03016141800E0000 =
    .ok (.ccomp ⟨false, 0, 22, 20, 24, 0, true, true, true, false, 0x0⟩) := by decide

/-- `CRES s26, s20, s28` (16_*.md). -/
theorem test_decode_cres : decodeWord 4 0x0601A141C00E0000 =
    .ok (.cres ⟨false, 0, 26, 20, 28, 0, true, true, true, false, 0x0⟩) := by decide

/-- `XFORM e2, v16` (18_*.md). -/
theorem test_decode_xform : decodeWord 5 0x0200210000000000 =
    .ok (.xform ⟨false, 0, 2, 16, 0, 0, false, false, false, false, 0x0⟩) := by decide

/-- `XEVAL v20, e2, v24` (18_*.md). -/
theorem test_decode_xeval : decodeWord 5 0x0601402180000000 =
    .ok (.xeval ⟨false, 0, 20, 2, 24, 0, false, false, false, false, 0x0⟩) := by decide

/-- `XADM p3, e2, v28, s9` (18_*.md). -/
theorem test_decode_xadm : decodeWord 5 0x07003021C0910000 =
    .ok (.xadm ⟨false, 0, 3, 2, 28, 9, false, false, false, true, 0x0⟩) := by decide

/-- `TKMATCH.h2 s20, s22, s8` (19_*.md). -/
theorem test_decode_tkmatch : decodeWord 6 0x00014160800E0090 =
    .ok (.tkmatch ⟨false, 0, 20, 22, 8, 0, true, true, true, false, 0x90⟩) := by decide

/-- `TKMERGE s24, s26, s8` (19_*.md). -/
theorem test_decode_tkmerge : decodeWord 6 0x010181A0800E0000 =
    .ok (.tkmerge ⟨false, 0, 24, 26, 8, 0, true, true, true, false, 0x0⟩) := by decide

/-- `TKUNMERGE s30, s24, s16` (19_*.md). -/
theorem test_decode_tkunmerge : decodeWord 6 0x0201E181000E0000 =
    .ok (.tkunmerge ⟨false, 0, 30, 24, 16, 0, true, true, true, false, 0x0⟩) := by decide

/-- `TKSIZE s40, s20, s4` (19_*.md). -/
theorem test_decode_tksize : decodeWord 6 0x03028140400E0000 =
    .ok (.tksize ⟨false, 0, 40, 20, 4, 0, true, true, true, false, 0x0⟩) := by decide

/-- `BEAM.h1 s20, s22, s8` (21_*.md). -/
theorem test_decode_beam : decodeWord 8 0x28014160800E0088 =
    .ok (.beam ⟨false, 0, 20, 22, 8, 0, true, true, true, false, 0x88⟩) := by decide

/-- `PROOT.cmt s30, s32, s40` (21_*.md). -/
theorem test_decode_proot : decodeWord 8 0x2901E202800E0001 =
    .ok (.proot ⟨false, 0, 30, 32, 40, 0, true, true, true, false, 0x1⟩) := by decide

/-- `PROOT.perm s30, s32, s40` (21_*.md). -/
theorem test_decode_proot2 : decodeWord 8 0x2901E202800E0000 =
    .ok (.proot ⟨false, 0, 30, 32, 40, 0, true, true, true, false, 0x0⟩) := by decide

/-- `TLBINV.va.pkg s10, s12` (22_*.md). -/
theorem test_decode_tlbinv : decodeWord 8 0x100000A0C0065001 =
    .ok (.tlbinv ⟨false, 0, 0, 10, 12, 0, false, true, true, false, 0x5001⟩) := by decide

/-- `QUIESCE s20` (22_*.md). -/
theorem test_decode_quiesce : decodeWord 8 0x1101400000080000 =
    .ok (.quiesce ⟨false, 0, 20, 0, 0, 0, true, false, false, false, 0x0⟩) := by decide

/-- `ICINV.va s10, s12` (22_*.md). -/
theorem test_decode_icinv : decodeWord 8 0x120000A0C0060001 =
    .ok (.icinv ⟨false, 0, 0, 10, 12, 0, false, true, true, false, 0x1⟩) := by decide

/-! ## Ill-formed terms -/

/-- R61: an unused operand is 0 with class bit 0. -/
theorem test_wf_unusedOperand :
    Instr.wf (.iadd { f0 with c := 1 }) = false ∧
    Instr.wf (.iadd { f0 with kc := true }) = false ∧
    Instr.wf (.nop { f0 with d := 1 }) = false ∧
    Instr.wf (.fence { f0 with a := 4 }) = false := by decide

/-- R61: a v operand has class bit 0 and an s operand names s0 to s63. -/
theorem test_wf_vOperand :
    Instr.wf (.iadd { f0 with kd := true, d := 64, ka := true, kb := true }) = false ∧
    Instr.wf (.bfly4 { f0 with kd := true }) = false ∧
    Instr.wf (.cvtq { f0 with ka := true, kb := true }) = false ∧
    Instr.wf (.bcast { f0 with b := 3 }) = false ∧
    Instr.wf (.rbqry { f0 with d := 3 }) = false := by decide

/-- R47 and R61: pairs and groups are aligned. -/
theorem test_wf_pairs :
    Instr.wf (.iadd { f0 with d := 1, mod := 0x10 }) = false ∧
    Instr.wf (.quiesce { f0 with d := 21, kd := true }) = false ∧
    Instr.wf (.mma { f0 with ka := true, kb := true, kc := true, c := 9 }) = false ∧
    Instr.wf (.bfly { f0 with d := 2 }) = false ∧
    Instr.wf (.acomp { f0 with d := 2 }) = false := by decide

/-- R46 and R61: predicates, tiles, handles, expansions and maps are in range. -/
theorem test_wf_otherClasses :
    Instr.wf (.icmp { f0 with d := 8 }) = false ∧
    Instr.wf (.mma { f0 with d := 8, ka := true, kb := true, kc := true }) = false ∧
    Instr.wf (.htest { f0 with kd := true, a := 16 }) = false ∧
    Instr.wf (.xshift { f0 with d := 16 }) = false ∧
    Instr.wf (.cexit { f0 with d := 8 }) = false ∧
    Instr.wf (.sel { f0 with c := 8 }) = false := by decide

/-- R61 and R64: an omitted operand is 0; an s index is below 64. -/
theorem test_wf_optional :
    Instr.wf (.cpy { f0 with kd := true, ka := true, kb := true, c := 1 }) = false ∧
    Instr.wf (.lr { f0 with kd := true, ka := true, b := 1, mod := 0x3002 }) = false ∧
    Instr.wf (.ld { f0 with ka := true, kb := true, b := 64, mod := 2 }) = false ∧
    Instr.wf (.ld { f0 with ka := true, kc := true, mod := 2 }) = false := by decide

/-- R62: a wave instruction has no guard. -/
theorem test_wf_guard :
    Instr.wf (.nop { f0 with pred := 1 }) = false ∧
    Instr.wf (.nop { f0 with pn := true }) = false ∧
    Instr.wf (.joinwImm ⟨true, 0, 5, 0, true, false, 1⟩) = false := by decide

/-- R63: reserved modifier bits are 0. -/
theorem test_wf_reservedBits :
    Instr.wf (.iadd { f0 with mod := 0x20 }) = false ∧
    Instr.wf (.nop { f0 with mod := 1 }) = false ∧
    Instr.wf (.exit { f0 with mod := 0x8000 }) = false ∧
    Instr.wf (.ld { f0 with ka := true, mod := 0x0012 }) = false ∧
    Instr.wf (.bar { f0 with mod := 0x9 }) = false := by decide

/-- R182: with an s destination no source is a v register. -/
theorem test_wf_uniformSources :
    Instr.wf (.iadd { f0 with kd := true, ka := true }) = false ∧
    Instr.wf (.iaddImm ⟨false, 0, 1, 1, true, false, 5⟩) = false ∧
    Instr.wf (.ffma { f0 with kd := true, ka := true, kb := true }) = false ∧
    Instr.wf (.sel { f0 with kd := true, ka := true }) = false := by decide

/-- R185: IABS and MOV take two TY codes, floating instructions .f32 and .f64, rounding modes 0 to 3. -/
theorem test_wf_typeCodes :
    Instr.wf (.iabs { f0 with mod := 0x08 }) = false ∧
    Instr.wf (.mov { f0 with mod := 0x08 }) = false ∧
    Instr.wf (.fadd { f0 with mod := 0x10 }) = false ∧
    Instr.wf (.fadd { f0 with mod := 4 }) = false ∧
    Instr.wf (.icmp { f0 with mod := 0xC0 }) = false := by decide

/-- R197 to R200: NSAT only for narrow formats; rounding codes in range; alignment by format. -/
theorem test_wf_conversions :
    Instr.wf (.cvt { f0 with mod := 0x0008 }) = false ∧
    Instr.wf (.cvt { f0 with mod := 0x0304 }) = false ∧
    Instr.wf (.cvt { f0 with d := 1, mod := 0x0100 }) = false ∧
    Instr.wf (.cvtq { f0 with kb := true, mod := 5 }) = false ∧
    Instr.wf (.cvtx { f0 with mod := 4 }) = false := by decide

/-- R205 to R207: SHFL modes, VOTE modes, and the operations of REDUX and SCANW. -/
theorem test_wf_crossLane :
    Instr.wf (.shfl { f0 with mod := 0x80 }) = false ∧
    Instr.wf (.vote { f0 with mod := 0x60 }) = false ∧
    Instr.wf (.redux { f0 with mod := 0xC0 }) = false ∧
    Instr.wf (.redux { f0 with mod := 0x18 }) = false ∧
    Instr.wf (.redux { f0 with mod := 0x70 }) = false ∧
    Instr.wf (.scanw { f0 with mod := 0x800 }) = false ∧
    Instr.wf (.movs { f0 with kd := true, kb := true }) = false := by decide

/-- R214, R215: SZ codes, HINT codes, SCALE without an index. -/
theorem test_wf_accessSizes :
    Instr.wf (.ld { f0 with ka := true, mod := 7 }) = false ∧
    Instr.wf (.st { f0 with ka := true, mod := 5 }) = false ∧
    Instr.wf (.ld { f0 with ka := true, mod := 0x0802 }) = false ∧
    Instr.wf (.ld { f0 with ka := true, mod := 0x0102 }) = false ∧
    Instr.wf (.confl { f0 with mod := 1 }) = false ∧
    Instr.wf (.pref { f0 with ka := true, mod := 0x0800 }) = false := by decide

/-- R216, R217, R226, R227: operations and types, register classes, scopes of GATH, SCAT and STW. -/
theorem test_wf_atomics :
    Instr.wf (.atom { f0 with ka := true, mod := 0 }) = false ∧
    Instr.wf (.atom { f0 with ka := true, mod := 0x44 }) = false ∧
    Instr.wf (.atom { f0 with ka := true, mod := 0x76 }) = false ∧
    Instr.wf (.red { f0 with ka := true, mod := 0x70 }) = false ∧
    Instr.wf (.lr { f0 with kd := true, ka := true, mod := 0x3001 }) = false ∧
    Instr.wf (.sc { f0 with kd := true, ka := true, kc := true, mod := 0x3004 }) = false ∧
    Instr.wf (.gath { f0 with ka := true, kc := true, mod := 0x2002 }) = false ∧
    Instr.wf (.scat { f0 with ka := true, kc := true, mod := 0x2002 }) = false ∧
    Instr.wf (.stw { f0 with ka := true, mod := 0x2002 }) = false ∧
    Instr.wf (.stw { f0 with ka := true, mod := 0x3001 }) = false := by decide

/-- R285 and R294: AZERO and AST codes. -/
theorem test_wf_matrix :
    Instr.wf (.azero { f0 with mod := 3 }) = false ∧
    Instr.wf (.ast { f0 with ka := true, kb := true, mod := 4 }) = false ∧
    Instr.wf (.ast { f0 with ka := true, kb := true, mod := 8 }) = false ∧
    Instr.wf (.mside { f0 with kd := true, mod := 0x40 }) = false := by decide

/-- R266: SPACE, credit barriers and handles. -/
theorem test_wf_copies :
    Instr.wf (.cpy { f0 with kd := true, ka := true, kb := true, mod := 0x0C00 }) = false ∧
    Instr.wf (.cpy { f0 with kd := true, ka := true, kb := true, kc := true, mod := 0x0400 }) = false ∧
    Instr.wf (.cpyt { f0 with kd := true, ka := true, kb := true, mod := 0x0800 }) = false ∧
    Instr.wf (.cpyg { f0 with kd := true, ka := true, kb := true, mod := 0x0008 }) = false ∧
    Instr.wf (.tkmatch { f0 with kd := true, ka := true, kb := true, mod := 0x0010 }) = false := by decide

/-- R308: the carry registers end below v256. -/
theorem test_wf_chunks :
    Instr.wf (.cenum { f0 with a := 255, kb := true, mod := 1 }) = false ∧
    Instr.wf (.cpred { f0 with a := 250, kb := true, mod := 7 }) = false := by decide

/-- R326 and R327: the order is at most 15; XCLR has three forms. -/
theorem test_wf_expansions :
    Instr.wf (.xordImm ⟨false, 0, 0, 0, false, false, 16⟩) = false ∧
    Instr.wf (.xclr { f0 with mod := 3 }) = false ∧
    Instr.wf (.xclr { f0 with ka := true, mod := 2 }) = false ∧
    Instr.wf (.xst { f0 with ka := true, a := 1 }) = false := by decide

/-- R162 and R233: block ranges; LVL 2; BINIT of the implicit barrier. -/
theorem test_wf_blocksAndBarriers :
    Instr.wf (.rbacq { f0 with mod := 0x03 }) = false ∧
    Instr.wf (.rbrel { f0 with mod := 0xF1 }) = false ∧
    Instr.wf (.bar { f0 with mod := 2 }) = false ∧
    Instr.wf (.binit { f0 with kb := true, mod := 1 }) = false ∧
    Instr.wf (.bar { f0 with mod := 1, ka := true }) = false := by decide

/-- R68, R70, R118, R245, R361: special registers, ERET, WWAIT, scopes and kinds. -/
theorem test_wf_system :
    Instr.wf (.sysr { f0 with mod := 0x012 }) = false ∧
    Instr.wf (.sysr { f0 with kd := true, mod := 0x001 }) = false ∧
    Instr.wf (.sysw { f0 with ka := true, mod := 0x011 }) = false ∧
    Instr.wf (.eret { f0 with mod := 2 }) = false ∧
    Instr.wf (.wwait { f0 with kd := true, ka := true, kb := true, mod := 0x2000 }) = false ∧
    Instr.wf (.wwait { f0 with kd := true, ka := true, kb := true, mod := 0x3018 }) = false ∧
    Instr.wf (.tlbinv { f0 with mod := 0x3000 }) = false ∧
    Instr.wf (.tlbinv { f0 with mod := 0x4002 }) = false ∧
    Instr.wf (.icinv { f0 with ka := true }) = false ∧
    Instr.wf (.snap { f0 with ka := true }) = false := by decide

/-- R52, R50: reserved classes, header bits, flag fields and opcodes; R65: KB and KC of an immediate form; R58 and R53. -/
theorem test_decode_refuses :
    decodeWord 9 0 = .error .reservedClass ∧ decodeWord 7 0x0900000000000000 = .error .unassignedOpcode ∧
    decodeWord 0 0x8C00303000020004 = .error .immediateClassBits ∧ decodeWord 7 0x0000100000000000 = .error .badFields ∧
    headerError (readHeader 0xF000000000000000) = some .reservedClass ∧
    headerError (readHeader 0x0000000000000001) = some .reservedHeaderBits ∧
    headerError (readHeader 0x00000E0000000000) = some .badFlagField ∧
    headerError (readHeader 0x0000008000000000) = some .badFlagField ∧
    decodeClause 0x1000000000000000 [0x1200902000000002] = .error .flagNotSet ∧
    decodeClause 0x7100000000000000 [0x0800000000000000, 0] = .error .terminalNotLast := by decide
/-! ## One step on a small state -/

/-- The issuing strand. -/
def q0 : Cursor := ⟨1, 0, 0, false⟩

/-- A wave of sixteen blocks whose strand 0 has lanes 0 to 3 and a clause started at 0x10000. -/
def w0 : Wave := { Kernel.probe.startWave (takeSegs (List.range 16) 16) 0x10000 with
  clause := some ⟨0x10000, readHeader 0, [], 0⟩
  strands := [(0, ⟨.running, 0xF, 0x10010, 0, none, 0, false, 0, none, false, false⟩)] }

/-- The same wave, its strand with all lanes. -/
def wAll : Wave := w0.modStrand 0 (fun st => { st with mask := allLanes })

/-- A crew of one wave. -/
def crew0 (w : Wave) : Crew := { Crew.probe 0 (readHeader 0) 0 with waves := [(0, w)] }

/-- A package that runs one crew, its instruction issuing. -/
def state0 (cr : Crew) : State := { State.reset with
  cur := some q0
  next := 2
  kernels := [(0, Kernel.probe)]
  crews := [(1, cr)]
  ctxs := [(0, { State.reset.ctx 0 with st := .running })] }

/-- That package with a translation cached for die 0: 4 KiB pages from virtual 0 to physical 0. -/
def mapped (cr : Crew) : State := { state0 cr with tlb := [⟨0, 0, 0, 4096, 0, true, true, true⟩] }

/-- The state after. -/
def after (o : Outcome State Fault Refusal) : State := match o with | .next t => t | _ => State.reset

/-- The wave of a state. -/
def waveOf (s : State) : Wave := (s.wave? 1 0).getD w0

/-- The wave after an instruction. -/
def run (i : Instr) (w : Wave) : Wave := waveOf (after (exec i (state0 (crew0 w))))

/-- R187: unsigned saturation, by hand. -/
theorem test_iadds : (run (.iadds { f0 with d := 8, a := 8, b := 9, mod := 8 })
    { w0 with vr := [(1024, 0xFFFFFFF0), (1152, 0x20)] }).v 8 0 = 0xFFFFFFFF := by decide

/-- R187: the high word of (-1) * (-1) is 0; wrapping addition. -/
theorem test_imul_hi : (run (.imul { f0 with d := 3, a := 1, b := 2, mod := 0x20 })
    { w0 with vr := [(128, 0xFFFFFFFF), (256, 0xFFFFFFFF)] }).v 3 0 = 0 ∧
  (run (.iadd { f0 with d := 1, a := 1, b := 2 }) { w0 with vr := [(128, 0xFFFFFFFF), (256, 2)] }).v 1 0 = 1 := by decide

/-- R187: a count of the width shifts everything out, and leaves the sign. -/
theorem test_shifts : (run (.ishl { f0 with d := 3, a := 1, b := 2 }) { w0 with vr := [(128, 1), (256, 32)] }).v 3 0 = 0 ∧
  (run (.isra { f0 with d := 3, a := 1, b := 2 }) { w0 with vr := [(128, 0x80000000), (256, 99)] }).v 3 0 = 0xFFFFFFFF := by decide

/-- 08_vector.md: s2 = 0x0000_0804 and v1 = 0x0000_0F80 give 0xFFFF_FFF8. -/
theorem test_ibfe : (run (.ibfe { f0 with d := 7, a := 1, b := 2, kb := true })
    { w0 with vr := [(128, 0xF80)], sr := [(2, 0x804)] }).v 7 0 = 0xFFFFFFF8 := by decide

/-- R190: unsigned and signed comparison of -1 and 1; p0 takes no write (R46). -/
theorem test_icmp : ((run (.icmp { f0 with d := 2, a := 1, b := 2, mod := 0x40 }) { w0 with vr := [(128, 0xFFFFFFFF), (256, 1)] }).p 2).getLsbD 0 = true ∧
  ((run (.icmp { f0 with d := 2, a := 1, b := 2, mod := 0x48 }) { w0 with vr := [(128, 0xFFFFFFFF), (256, 1)] }).p 2).getLsbD 0 = false ∧
  (run (.icmp { f0 with a := 1, b := 2, mod := 0x20 }) { w0 with vr := [(128, 5)] }).p 0 = allLanes := by decide

/-- R191: 1.5 + 2.25 = 3.75; 1 + 2^-24 rounds to even; toward zero with RM 1. -/
theorem test_fadd : (run (.fadd { f0 with d := 3, a := 1, b := 2 })
    { w0 with vr := [(128, 0x3FC00000), (256, 0x40100000)] }).v 3 0 = 0x40700000 ∧
  (run (.fadd { f0 with d := 3, a := 1, b := 2 }) { w0 with vr := [(128, 0x3F800000), (256, 0x33800000)] }).v 3 0 = 0x3F800000 := by decide

set_option exponentiation.threshold 600 in
/-- R191: 3 * 5 - 1 = 14 rounded once; R192: 0x8000_0000 negated. -/
theorem test_ffma : (run (.ffma { f0 with d := 4, a := 1, b := 2, c := 3 })
    { w0 with vr := [(128, 0x40400000), (256, 0x40A00000), (384, 0xBF800000)] }).v 4 0 = 0x41600000 ∧
  (run (.fneg { f0 with d := 4, a := 1 }) { w0 with vr := [(128, 0x80000000)] }).v 4 0 = 0 := by decide

/-- R193: a NaN is unordered with itself. -/
theorem test_fcmp : ((run (.fcmp { f0 with d := 1, a := 2, b := 2, mod := 0xC0 })
    { w0 with vr := [(256, 0x7FC00000)] }).p 1).getLsbD 0 = true := by decide

/-- R183: a lane that is not active keeps its destination. -/
theorem test_guard : (run (.mov { f0 with pred := 1, d := 3, a := 1 })
    { w0 with vr := [(128, 7), (129, 7)], pr := [(1, 1)] }).v 3 0 = 7 ∧
  (run (.mov { f0 with pred := 1, d := 3, a := 1 }) { w0 with vr := [(128, 7), (129, 7)], pr := [(1, 1)] }).v 3 1 = 0 := by decide

/-- R201: LDI sign-extends to a pair. -/
theorem test_ldi : (run (.ldi ⟨false, 0, 6, 0, false, false, 0xFFFFFFFF⟩) w0).v 7 3 = 0xFFFFFFFF := by decide

/-- R205: SHFL takes its source lane from B; BALLOT puts lane 0 in bit 0 (R206). -/
theorem test_lanes : (run (.shflImm ⟨false, 0, 3, 2, false, false, 1⟩) { w0 with vr := [(256, 5), (257, 9)] }).v 3 0 = 9 ∧
  (run (.ballot { f0 with d := 8, a := 2, kd := true }) { w0 with pr := [(2, 5)] }).s 8 = 5 := by decide

/-- R207: the sum of four lanes. -/
theorem test_redux : (run (.redux { f0 with d := 12, a := 4, kd := true })
    { w0 with vr := [(512, 1), (513, 2), (514, 3), (515, 4)] }).s 12 = 10 := by decide

/-- R197: 1.5 to FP16 and back. -/
theorem test_cvt : (run (.cvt { f0 with d := 3, a := 2, mod := 0x300 }) { w0 with vr := [(256, 0x3FC00000)] }).v 3 0 = 0x3E00 := by decide

/-- R212: the Tabor counter's 64 bits. -/
theorem test_rdtime : (waveOf (after (exec (.rdtime { f0 with d := 30, kd := true })
    { state0 (crew0 w0) with tabor := 0x500000007 }))).s 31 = 5 := by decide

/-- R161, R172: TRAP's cause is 0x0F and its address the clause header; the strand is stopped. -/
theorem test_trap : ((after (exec (.trap ⟨false, 0, 0, 0, false, false, 7⟩) (state0 (crew0 w0)))).core 0).recs.map
      (fun r => (r.cause, r.addr, r.waves, r.count)) = [(0x0F, 0x10000, 1, 1)] ∧
    ((run (.trap ⟨false, 0, 0, 0, false, false, 7⟩) w0).strand 0).st = .stopped := by decide

/-- R155 and R66: a branch six words back. -/
theorem test_bra : ((run (.bra ⟨false, 0, 0, 0, false, false, 0xFFFFFFFA⟩) w0).strand 0).pc = 0x10000 - 48 := by decide

/-- R157: the link is the address of the next clause. -/
theorem test_call : (run (.call ⟨false, 0, 20, 0, false, false, 40⟩) w0).v 20 0 = 0x10010 := by decide

/-- R159: lanes without p4 end. -/
theorem test_exit : (run (.exit { f0 with pn := true, pred := 4 }) { w0 with pr := [(4, 5)] }).lanes = allLanes &&& ~~~(0xA : LaneMask) := by
  decide

set_option maxRecDepth 20000 in
/-- R165: sixteen blocks held, sixteen of the core's segments in use. -/
theorem test_rbqry : (run (.rbqry { f0 with d := 3, kd := true }) w0).s 3 &&& 0xFFFF = 0xFFFF := by decide

/-- R68 and R69: WAVE's lane number in a v register. -/
theorem test_sysr : (run (.sysr { f0 with d := 1, mod := 1 }) w0).v 1 3 = 3 := by decide

/-- R236 and R241: BINIT opens an object with PENDING = COUNT; BARA returns the phase and counts it down. -/
theorem test_barrier : (Bar.ofNat (leNat ((crew0 w0).spadRead 0 16))).state = 0 ∧
    ((after (exec (.binit { f0 with a := 4, b := 5, ka := true, kb := true })
      (state0 (crew0 { w0 with sr := [(4, 32), (5, 3)] })))).barRead 1 (.scratch 1 32)) = ⟨1, 0, 0, 3, 3⟩ := by decide

/-- R250: HMOV empties its source. -/
theorem test_hmov : (run (.hmov { f0 with d := 5, a := 3 }) { w0 with hd := [(3, ⟨1, 9, 5⟩)] }).hd = [(5, ⟨1, 9, 5⟩)] := by decide

/-- R363: QUIESCE returns the epoch and begins the next. -/
theorem test_quiesce : ((after (exec (.quiesce { f0 with d := 20, kd := true })
    (state0 { crew0 w0 with task := .irrevocable }))).ctx 0).epoch = (State.reset.ctx 0).epoch + 1 := by decide

/-- R56: a long-latency instruction raises its flag. -/
theorem test_flag : (run (.lds { f0 with d := 1, a := 2, mod := 2 }) w0).flag 0 = 1 := by decide

/-- R222 and R86: a byte written at home reads back, little-endian. -/
theorem test_memory : (State.reset.agentWrite 0x100 [0x34, 0x12]).mem = [(0x100, 0x34), (0x101, 0x12)] := by decide

set_option maxRecDepth 20000 in
/-- The step of a placed clause issues its instruction: MOV s6, -1 (R201, R65). -/
theorem test_step : (match step (State.reset.withFetchWord 128 0xC000600FFFF8FFFF0000000000000000) with
    | .next t => (t.wave? 1 0).map (fun w => (w.s 6, w.clause.isNone))
    | _ => none) = some (0xFFFFFFFF, true) := by decide
/-! ## A state that meets the premises of each statement -/

/-- A wave without chunks lets every instruction issue. -/
theorem issues_of (s : State) (cr : Crew) (w : Wave) (i : Instr) (h : s.curWave = some (q0, cr, w)) (hw : w.sm = []) :
    Issues s i q0 cr w := ⟨h, by simp [Wave.chunkForbids, Wave.inChunk, hw]⟩

theorem wave_of (s : State) (cr : Crew) (w : Wave) (i : Instr) (vs : List (Nat × Nat)) (h : s.curWave = some (q0, cr, w))
    (hw : w.sm = []) (hv : ∀ g ∈ vs, w.holds g.1 g.2 = true) : IssuesWave s i vs q0 cr w := ⟨issues_of s cr w i h hw, hv⟩

theorem lanes_of (i : Instr) (vs : List (Nat × Nat)) (hv : ∀ g ∈ vs, w0.holds g.1 g.2 = true) :
    IssuesLanes (state0 (crew0 w0)) i false 0 vs q0 (crew0 w0) w0 0xF :=
  ⟨issues_of _ _ _ _ rfl rfl, by decide, by decide, hv⟩

theorem witness_EncodeDecode : Instr.wf (.ffma { f0 with d := 255, a := 254, b := 253, c := 252, mod := 3 }) = true ∧
    opcodeOf (.ffma f0) ≠ none ∧ Instr.wf (.ldi ⟨true, 7, 254, 0, false, false, 0xFFFFFFFF⟩) = true := by decide

theorem witness_DecodeEncode : decodeWord 6 0x03028140400E0000 =
    .ok (.tksize ⟨false, 0, 40, 20, 4, 0, true, true, true, false, 0⟩) := by decide

theorem witness_TerminalsEndTheClause : ∃ h is i, decodeClause 0x7100000000000000 [0, 0x0800000000000000] = .ok (h, is) ∧
    is[1]? = some i ∧ terminal i = true := ⟨_, _, _, rfl, rfl, rfl⟩

theorem witness_FlagSelect : longLatency (.lds f0) = true ∧ fieldsOf (.lds f0) = some f0 ∧ w0.clause = some ⟨0x10000, readHeader 0, [], 0⟩ ∧
    f0.mod.getLsbD 15 = false ∧ ({ f0 with mod := 0x8000 } : Fields).mod.getLsbD 15 = true ∧
    opcodeOf (.nop f0) ≠ none ∧ longLatency (.nop { f0 with mod := 0x8000 }) = false := by
  refine ⟨rfl, rfl, rfl, rfl, rfl, by decide, rfl⟩

/-- A wave with one instruction word left in its clause. -/
def wRest (d : Dword) : Wave := { w0 with clause := some ⟨0x10000, readHeader 0, [d], 0⟩ }

theorem witness_StepRunsDecoded :
    let s := { state0 (crew0 (wRest 0x8C00303000000004)) with cur := none, agenda := [.issue 1 0] }
    let s0 := s.taken.unstall 1 0
    s.turn = .issue 1 0 ∧ s0.crew? 1 = some (crew0 (wRest 0x8C00303000000004)) ∧ s0.wave? 1 0 = some (wRest 0x8C00303000000004) ∧
      s0.stopped = false ∧ ((wRest 0x8C00303000000004).strand 0).resv = none ∧
      decodeWord (readHeader 0).cls 0x8C00303000000004 = .ok (.ishlImm ⟨false, 0, 3, 3, false, false, 4⟩) ∧
      s0.issueHeld (crew0 (wRest 0x8C00303000000004)) (wRest 0x8C00303000000004) 0 (.ishlImm ⟨false, 0, 3, 3, false, false, 4⟩) = false ∧
      ∀ t, ({ s with agenda := [t] } : State).turn = t := by
  refine ⟨rfl, by decide, by decide, by decide, rfl, by decide, by decide, fun t => rfl⟩

theorem witness_MemoryReadsBack : homeOf 0 = .hbm ∧ homeOf (Config.hbmBytes - 1) = .hbm ∧ MemoryCanonical State.reset := by
  refine ⟨by decide, by decide, rfl⟩

theorem witness_MemoryStaysCanonical : MemoryCanonical { State.reset with agenda := [.tick 1 1] } ∧
    ∃ t, step { State.reset with agenda := [.tick 1 1] } = .next t := ⟨rfl, _, rfl⟩

/-- A stopping record. -/
def rec0 : TrapRec := ⟨1, 0x10000, 0, 0, 1, 0, true, false, false, 0, 0, 0x0F, 0, 0, [], false, 0⟩

theorem witness_TrapEntry : (state0 (crew0 w0)).crew? 1 = some (crew0 w0) ∧ (crew0 w0).waves.find? 0 = some w0 ∧
    (crew0 w0).task ≠ .stopped ∧ ((state0 (crew0 w0)).ctx 0).handler ≠ some (1, 0) := by
  refine ⟨rfl, rfl, by decide, by decide⟩

theorem witness_TrapEntry_merge : TrapsMerge rec0 { rec0 with waves := 2 } ∧
    TrapsMerge { rec0 with cause := 4, addr := 0x1FFF } { rec0 with cause := 4, addr := 0x1000 } ∧
    ¬ TrapsMerge { rec0 with cause := 4, addr := 0x0FFF } { rec0 with cause := 4, addr := 0x1000 } ∧
    (∀ x ∈ List.replicate 16 { rec0 with cause := 6 }, ¬ TrapsMerge x rec0) ∧ 16 ≤ (List.replicate 16 rec0).length := by
  unfold TrapsMerge
  refine ⟨by decide, by decide, by decide, by decide, by decide⟩

theorem witness_GuardAndBlocks : Issues (state0 (crew0 w0)) (.iadd { f0 with pred := 1 }) q0 (crew0 w0) w0 ∧
    w0.active 0 false 1 = 0 ∧
    (let w := { w0 with seg := [(0, 0)] }
     Issues (state0 (crew0 w)) (.iadd { f0 with d := 16 }) q0 (crew0 w) w ∧ w.active 0 false 0 ≠ 0 ∧ w.holds 15 1 = true ∧
       w.holds 16 1 = false) := by
  refine ⟨issues_of _ _ _ _ rfl rfl, by decide, issues_of _ _ _ _ rfl rfl, by decide, by decide, by decide⟩

theorem witness_IntegerArithmetic :
    let f := { f0 with d := 255, a := 0, b := 255 }
    (∀ i, IssuesLanes (state0 (crew0 w0)) i false 0 (vNamed f.kd f.d 1 ++ (vNamed f.ka f.a 1 ++ vNamed f.kb f.b 1)) q0 (crew0 w0) w0 0xF) ∧
      f.d.toNat + f.words ≤ 256 := ⟨fun i => lanes_of i _ (by decide), by decide⟩

theorem witness_IntegerMinMaxLogic :
    let f := { f0 with d := 254, a := 254, b := 0, mod := 0x10 }
    (∀ i, IssuesLanes (state0 (crew0 w0)) i false 0 (vNamed f.kd f.d 2 ++ (vNamed f.ka f.a 2 ++ vNamed f.kb f.b 2)) q0 (crew0 w0) w0 0xF) ∧
      f.words = 2 ∧ f.d.toNat + f.words ≤ 256 := ⟨fun i => lanes_of i _ (by decide), rfl, by decide⟩

theorem witness_IntegerShiftsAndBits :
    let f := { f0 with d := 255, a := 1, b := 2 }
    (∀ i, IssuesLanes (state0 (crew0 w0)) i false 0 (vNamed f.kd f.d 1 ++ (vNamed f.ka f.a 1 ++ vNamed f.kb f.b 1)) q0 (crew0 w0) w0 0xF) ∧
      f.d.toNat + f.words ≤ 256 := ⟨fun i => lanes_of i _ (by decide), by decide⟩

theorem witness_FloatArithmetic :
    let f := { f0 with d := 254, a := 2, b := 4, c := 6, mod := 8 }
    (∀ i, IssuesLanes (state0 (crew0 w0)) i false 0
        (vNamed f.kd f.d f.fwords ++ (vNamed f.ka f.a f.fwords ++ vNamed f.kb f.b f.fwords ++ vNamed f.kc f.c f.fwords)) q0 (crew0 w0) w0 0xF) ∧
      f.fwords = 2 ∧ f.d.toNat + f.fwords ≤ 256 := ⟨fun i => lanes_of i _ (by decide), rfl, by decide⟩

theorem witness_ApproximationsAndConversions :
    let f := { f0 with d := 254, a := 2, mod := 0x100 }
    (∀ i, IssuesLanes (state0 (crew0 w0)) i false 0 (vNamed f.kd f.d (fmtAl f.dstFmt) ++ vNamed f.ka f.a (fmtAl f.srcFmt)) q0 (crew0 w0) w0 0xF) ∧
      f.d.toNat + fmtAl f.dstFmt ≤ 256 := ⟨fun i => lanes_of i _ (by decide), by decide⟩

theorem witness_MovesAndShuffles : ∀ i, IssuesLanes (state0 (crew0 w0)) i false 0
    (vNamed false 254 2 ++ (vNamed false 1 1 ++ vNamed false 2 1)) q0 (crew0 w0) w0 0xF := fun i => lanes_of i _ (by decide)

theorem witness_CrossLaneAndComplex : ∀ i, IssuesLanes (state0 (crew0 w0)) i false 0
    (vNamed false 248 8 ++ vNamed false 8 8) q0 (crew0 w0) w0 0xF := fun i => lanes_of i _ (by decide)

theorem witness_PredicateResults : ∀ i, IssuesLanes (state0 (crew0 w0)) i false 0
    (vNamed false 255 1 ++ vNamed false 0 1) q0 (crew0 w0) w0 0xF := fun i => lanes_of i _ (by decide)

theorem witness_LoadsAndStoresIssue :
    let f := { f0 with d := 1, a := 2, mod := 2 }
    IssuesLanes (state0 (crew0 w0)) (.lds f) false 0 (vNamed f.kd f.d 1 ++ f.memNamed 1) q0 (crew0 w0) w0 0xF ∧
    ChecksPass (state0 (crew0 w0)) (crew0 w0) w0 f (Machine.Fields.spadForm f f.uniform) 0xF (fun _ => (0, 0)) ∧
    CheckFails (state0 (crew0 { w0 with vr := [(256, 2)] })) (crew0 w0) { w0 with vr := [(256, 2)] } f
      (Machine.Fields.spadForm f f.uniform) 0xF (Cause.misaligned, 2) := by
  refine ⟨lanes_of _ _ (by decide), by unfold ChecksPass; decide, [], (0, 1), _, rfl, by simp, by decide⟩

theorem witness_LoadsAndStoresIssue_device :
    let f := { f0 with d := 1, a := 2, mod := 2 }
    IssuesLanes (mapped (crew0 w0)) (.ld f) false 0 (vNamed f.kd f.d 1 ++ f.memNamed 2) q0 (crew0 w0) w0 0xF ∧
    ChecksPass (mapped (crew0 w0)) (crew0 w0) w0 f (Machine.Fields.devForm f f.uniform Need.read) 0xF (fun _ => (0, 0)) ∧
    CheckFails (state0 (crew0 w0)) (crew0 w0) w0 f (Machine.Fields.devForm f f.uniform Need.read) 0xF (Cause.pageFault, 0) := by
  refine ⟨⟨issues_of _ _ _ _ rfl rfl, by decide, by decide, ?_⟩, by unfold ChecksPass; decide, [], (0, 1), _, rfl, by simp, by decide⟩
  unfold Holds; decide

theorem witness_AtomicsAndGathersIssue :
    let f := { f0 with d := 1, a := 2, c := 4, mod := 0x10 }
    IssuesLanes (mapped (crew0 w0)) (.atom f) false 0 (vNamed f.kd f.d f.agrp ++ f.memNamed 2 ++ vNamed f.kc f.c f.acgrp) q0 (crew0 w0) w0 0xF ∧
    f.scope < 3 ∧ ChecksPass (mapped (crew0 w0)) (crew0 w0) w0 f
      ⟨false, f.uniform && f.kc, atBytes f.aty, atBytes f.aty, 0, Need.atomic, none, false⟩ 0xF (fun _ => (0, 0)) := by
  refine ⟨⟨issues_of _ _ _ _ rfl rfl, by decide, by decide, ?_⟩, by decide, by unfold ChecksPass; decide⟩
  unfold Holds; decide

/-- GATH of index 0 with a bound of 1 passes; with a bound of 0 the lowest lane is out of bounds (R226). -/
theorem witness_AtomicsAndGathersIssue_bound :
    let f := { f0 with d := 1, a := 2, kb := true, b := 1, c := 3, kc := true, mod := 0x5002 }
    let w := { w0 with sr := [(3, 1)] }
    ChecksPass (mapped (crew0 w)) (crew0 w) w f ⟨false, f.uniform, szBytes f.sz, szBytes f.sz, 0, Need.read, some (w.s f.c.toNat).toNat, false⟩ 0xF
      (fun _ => (0, 0)) ∧
    CheckFails (mapped (crew0 w0)) (crew0 w0) w0 f
      ⟨false, f.uniform, szBytes f.sz, szBytes f.sz, 0, Need.read, some (w0.s f.c.toNat).toNat, false⟩ 0xF (Cause.elementBounds, 0) := by
  refine ⟨by unfold ChecksPass; decide, [], (0, 1), _, rfl, by simp, by decide⟩

theorem witness_OrderingInstructionsIssue :
    (∀ i, IssuesLanes (state0 (crew0 w0)) i false 0 (vNamed false 9 1 ++ vNamed false 2 1) q0 (crew0 w0) w0 0xF) ∧
    (∀ i, IssuesLanes (state0 (crew0 w0)) i false 0 [] q0 (crew0 w0) w0 0xF) ∧
    ({ crew0 w0 with task := .irrevocable } : Crew).task ≠ .versioned :=
  ⟨fun i => lanes_of i _ (by decide), fun i => lanes_of i _ (by decide), by decide⟩

/-- R218's checks meet at the end of the scratchpad and of the address space. -/
theorem witness_AccessCheckOrder :
    let f := { f0 with ka := true, mod := 2 }
    let at_ (x y : Word) : Wave := { w0 with sr := [(0, x), (1, y)] }
    (state0 (crew0 w0)).checkLane (crew0 w0) (at_ 0x10000 0) f (Machine.Fields.spadForm f true) 0 = .error (Cause.protection, 0x10000) ∧
    (state0 (crew0 w0)).checkLane (crew0 w0) (at_ 0xFFFF 0) f (Machine.Fields.spadForm f true) 0 = .error (Cause.misaligned, 0xFFFF) ∧
    (state0 (crew0 w0)).checkLane (crew0 w0) (at_ 0xFFFC 0) f (Machine.Fields.spadForm f true) 0 = .ok (0xFFFC, 0) ∧
    (mapped (crew0 w0)).checkLane (crew0 w0) (at_ 1 0x1000000) f (Machine.Fields.devForm f true Need.read) 0 =
      .error (Cause.protection, 2 ^ 56 + 1) ∧
    (mapped (crew0 w0)).checkLane (crew0 w0) (at_ 0xFFD 0) f (Machine.Fields.devForm f true Need.read) 0 = .error (Cause.misaligned, 0xFFD) ∧
    (mapped (crew0 w0)).checkLane (crew0 w0) (at_ 0xFFC 0) f (Machine.Fields.devForm f true Need.read) 0 = .ok (0xFFC, 0xFFC) ∧
    (mapped (crew0 w0)).checkLane (crew0 w0) (at_ 0x1000 0) f (Machine.Fields.devForm f true Need.read) 0 =
      .error (Cause.pageFault, 0x1000) := by decide
/-- A wave with all lanes active, tile a0 bound to physical tile 0 and the format block of an MXFP8 product in s8. -/
def wTile : Wave := { wAll with tiles := [(0, 0)], sr := [(8, 0x24000000), (21, 0x2000)] }

/-- Its core's tile is FP32. -/
def tiled : State := { state0 (crew0 wTile) with cores := [(0, { Machine.Core.empty with tiles := [(0, ⟨false, [], [], true, []⟩)] })] }

theorem witness_MatrixProductsIssue :
    let f := { f0 with a := 20, b := 21, c := 8 }
    let blk := (List.range 8).map (fun n => wTile.s (8 + n))
    (wTile.strand 0).mask = allLanes ∧ wTile.tiles.find? f.d.toNat = some 0 ∧ (tiled.tile 0 0).int = false ∧
    (∀ i, IssuesWave tiled i [] q0 (crew0 wTile) wTile) ∧
    mxCheck .dense 65536 false (sVal wTile 20 1) (sVal wTile 21 1) blk = none ∧
    mxCheck .sparse 65536 false (sVal wTile 20 1) (sVal wTile 21 1) blk = none ∧
    mxCheck .softmax 65536 false (sVal wTile 20 1) (sVal wTile 21 1) (blk.set 0 0x24002000) = none ∧
    (crew0 wTile).spadBytes = 65536 ∧ sVal wTile 20 1 + 2048 ≤ 65536 ∧ sVal wTile 20 1 % 16 = 0 := by
  refine ⟨rfl, rfl, rfl, fun i => wave_of _ _ _ _ _ rfl rfl (by simp), by decide, by decide, by decide, rfl, by decide, by decide⟩

set_option maxRecDepth 20000 in
/-- AST.sp and ALD.sp of 128 rows of 512 bytes fill the scratchpad. -/
theorem witness_TileBindingIssues : (wTile.strand 0).mask = allLanes ∧ (∀ i, IssuesWave tiled i [] q0 (crew0 wTile) wTile) ∧
    (match tiled.rowsCheck (crew0 wTile) Need.read true 0 512 4 with | .ok es => es.length | .error _ => 0) = 128 ∧
    wTile.tiles.find? 1 = none ∧ wTile.tiles.find? 0 = some 0 := by
  refine ⟨rfl, fun i => wave_of _ _ _ _ _ rfl rfl (by simp), by decide, rfl, rfl⟩

theorem witness_CopiesIssue :
    let w := { w0 with sr := [(6, 16), (10, 0xFFFFFFF0), (11, 0xFFFFFF), (20, 0xFFF0), (12, 0x1000000)] }
    (∀ i, IssuesWave (state0 (crew0 w)) i [] q0 (crew0 w) w) ∧ 16 ≤ (w.s 6).toNat ∧ (w.s 6).toNat ≤ 2 ^ 24 ∧ (w.s 12).toNat ≤ 2 ^ 24 ∧
    (w.s 6).toNat % 16 = 0 ∧ sVal w 10 2 < 2 ^ 56 ∧ sVal w 20 1 + (w.s 6).toNat ≤ (crew0 w).spadBytes ∧ sVal w 20 1 % 16 = 0 ∧
    sVal w 10 2 % 16 = 0 := by
  refine ⟨fun i => wave_of _ _ _ _ _ rfl rfl (by simp), by decide, by decide, by decide, by decide, by decide, by decide, by decide, by decide⟩

/-- A chunk of one wave. -/
def chunk0 (st : ChunkState) : Chunk := ⟨st, false, 4, 1, 1, allLanes, [], [], 0, 1, 0⟩

theorem witness_CarillonIssues :
    let w := { wAll with sr := [(0, 1), (1, 65535), (24, 0), (25, 0), (26, 128)] }
    (∀ i, IssuesWave (state0 (crew0 w)) i [] q0 (crew0 w) w) ∧ (w.strand 0).mask = allLanes ∧ w.sm.find? 7 = none ∧ w.inChunk = false ∧
    w.holds 248 8 = true ∧ badEntry (w.s 0).toNat (w.s 1).toNat = false ∧ badEntry 2 65535 = true ∧
    tableCheck (crew0 w).spadBytes 0 0 0 128 (some 1024) = none ∧ tableCheck (crew0 w).spadBytes 0 0 63 128 none = none ∧
    tableCheck (crew0 w).spadBytes 0 0 64 128 none ≠ none := by
  refine ⟨fun i => wave_of _ _ _ _ _ rfl rfl (by simp), rfl, rfl, rfl, by decide, by decide, by decide, by decide, by decide, by decide⟩

/-- In an open chunk: CMERGE, CEXIT and CABORT; after the exit: CSEAL. -/
theorem witness_CarillonIssues_chunk :
    let w := { wAll with sm := [(0, chunk0 .opened)] }
    let x := { wAll with sm := [(0, chunk0 .exited)] }
    Issues (state0 (crew0 w)) (.cmerge { f0 with d := 6, kd := true }) q0 (crew0 w) w ∧ w.inChunk = true ∧
    Issues (state0 (crew0 w)) (.cexit f0) q0 (crew0 w) w ∧ w.sm.find? 0 = some (chunk0 .opened) ∧ (chunk0 .opened).st = .opened ∧
    Issues (state0 (crew0 w)) (.cabort f0) q0 (crew0 w) w ∧
    Issues (state0 (crew0 x)) (.cseal { f0 with ka := true, a := 20, kb := true, b := 21 }) q0 (crew0 x) x ∧
    x.sm.find? 0 = some (chunk0 .exited) ∧ sVal x 21 1 ≤ 65535 ∧ sVal x 20 1 + 1024 ≤ (crew0 x).spadBytes := by
  refine ⟨⟨rfl, by decide⟩, rfl, ⟨rfl, by decide⟩, rfl, rfl, ⟨rfl, by decide⟩, ⟨rfl, by decide⟩, rfl, by decide, by decide⟩

/-- ACOMP.dense on a bound FP32 tile, its four scratchpad operands in range. -/
theorem witness_CarillonIssues_dense :
    let f := { f0 with a := 12, ka := true, mod := 1 }
    (∀ i, IssuesWave tiled i [] q0 (crew0 wTile) wTile) ∧ f.m 0 = true ∧ wTile.tiles.find? f.d.toNat = some 0 ∧
    (tiled.tile 0 0).int = false ∧
    ∀ x ∈ [(0, 32768, 32), (1, 32768, 32), (2, 256, 32), (3, 512, 4)],
      (wTile.s (f.a.toNat + x.1)).toNat + x.2.1 ≤ (crew0 wTile).spadBytes ∧ (wTile.s (f.a.toNat + x.1)).toNat % x.2.2 = 0 := by
  refine ⟨fun i => wave_of _ _ _ _ _ rfl rfl (by simp), rfl, rfl, rfl, by decide⟩

/-- A wave with e0 bound to a multipole of order 2 and e1 to a local expansion. -/
def wExp : Wave := { w0 with exps := [(0, 0), (1, 1)], sr := [(4, 15)] }

/-- Its core. -/
def expanded : State := { state0 (crew0 wExp) with cores := [(0, { Machine.Core.empty with
  exps := [(0, { Exp.empty with kind := 1, ord := 2 }), (1, { Exp.empty with kind := 2, ord := 2 })] })] }

theorem witness_ExpansionIssues :
    (∀ i, IssuesWave expanded i [] q0 (crew0 wExp) wExp) ∧ (wExp.s 4).toNat ≤ 15 ∧
    (∀ i, IssuesLanes expanded i false 0 [(16, 4), (252, 4)] q0 (crew0 wExp) wExp 0xF) ∧
    expanded.expCheck q0 (crew0 wExp) wExp [⟨0, 0⟩] = .ok [0] ∧ expanded.expCheck q0 (crew0 wExp) wExp [⟨0, 1⟩, ⟨0, 1⟩] = .ok [0, 0] ∧
    expanded.expCheck q0 (crew0 wExp) wExp [⟨1, 2⟩, ⟨0, 1⟩] = .ok [1, 0] ∧ expanded.expCheck q0 (crew0 wExp) wExp [⟨1, 2⟩, ⟨1, 2⟩] = .ok [1, 1] ∧
    (match expanded.recordCheck (crew0 wExp) Need.write true (65536 - 80) (32 + 4 * 9) with | .ok es => es.length | .error _ => 0) = 1 ∧
    (∀ p, wExp.exps.find? 0 = some p → ((expanded.core 0).exps.find? p).isSome = true) ∧ ({ f0 with mod := 1 } : Fields).mb 0 2 ≠ 2 := by
  refine ⟨fun i => wave_of _ _ _ _ _ rfl rfl (by simp), by decide, fun i => ⟨issues_of _ _ _ _ rfl rfl, by decide, by decide, ?_⟩,
    by decide, by decide, by decide, by decide, by decide, ?_, by decide⟩
  · unfold Holds; decide
  · intro p h; cases h; rfl

theorem witness_TokenAndBeamIssue :
    let w := { w0 with sr := [(8, 64), (9, 0x100000), (10, 64), (11, 0x400000), (16, 2), (17, 1), (18, 256), (19, 512), (21, 0xFFFFFF),
      (40, 64), (41, 65536), (42, 0x20)] }
    (∀ i, IssuesWave (state0 (crew0 w)) i [] q0 (crew0 w) w) ∧
    (1 ≤ (w.s 8).toNat ∧ (w.s 8).toNat ≤ 64 ∧ (w.s 9).toNat ≤ 2 ^ 20 ∧ (w.s 10).toNat ≤ (w.s 8).toNat * (w.s 9).toNat ∧
      pitchOk (w.s 11).toNat (4 * (w.s 9).toNat) = true) ∧
    (2 ≤ (w.s 16).toNat ∧ (w.s 17).toNat ≤ (w.s 16).toNat / 2 ∧ (w.s 18).toNat % 512 ≤ 256 ∧ (w.s 18).toNat / 512 % 128 = 0 ∧
      pitchOk (w.s 19).toNat (2 * ((w.s 18).toNat % 512)) = true) ∧
    (sVal w 20 2 < 2 ^ 56 ∧ sVal w 20 2 % 64 = 0) ∧ ((w.s 40).toNat ≤ 64 ∧ (w.s 41).toNat ≤ 65536 ∧ sVal w 42 2 % 32 = 0) ∧
    sVal w 0 1 + 512 ≤ (crew0 w).spadBytes ∧ ({ crew0 w with task := .irrevocable } : Crew).task ≠ .versioned := by
  refine ⟨fun i => wave_of _ _ _ _ _ rfl rfl (by simp), by decide, by decide, by decide, by decide, by decide, by decide⟩

theorem witness_BranchesJump :
    (∀ i, IssuesLanes (state0 (crew0 w0)) i false 0 [(254, 2)] q0 (crew0 w0) w0 0xF) ∧
    firstTargetFault 0xF (fun _ => 2 ^ 56) = some (Cause.protection, 2 ^ 56) ∧ firstTargetFault 0xF (fun _ => 4) = some (Cause.misaligned, 4) ∧
    firstTargetFault 0xF (fun _ => 2 ^ 56 - 8) = none ∧ targetFault (2 ^ 56 - 8) = none ∧
    (0xF : LaneMask) = (w0.strand 0).mask &&& w0.lanes ∧ (254 : BitVec 8).toNat + 2 ≤ 256 := by
  refine ⟨fun i => lanes_of i _ (by decide), by decide, by decide, by decide, by decide, by decide, by decide⟩

/-- The clause that follows carries join tag 3. -/
def joining : State := { mapped (crew0 wJoin) with mem := [(0x12, 3), (0x17, 0x70)] }
where wJoin : Wave := w0.modStrand 0 (fun st => { st with pc := 0x10 })

theorem witness_JoinsAndExit :
    (∃ w, joining.curWave = some (q0, crew0 w, w) ∧ w.chunkForbids (.join f0) = false ∧
      joining.fetchWord (crew0 w) (w.strand 0).pc (joining.cachedClause (crew0 w) (w.strand 0).pc).head? = .ok 0x7000000000030000 ∧
      (readHeader 0x7000000000030000).jtag ≠ 0) ∧
    (w0.strand 0).mask &&& ~~~(1 : LaneMask) ≠ 0 ∧ (w0.strand 0).mask &&& ~~~(0xF : LaneMask) = 0 ∧
    IssuesLanes (state0 (crew0 w0)) (.exit f0) false 0 [] q0 (crew0 w0) w0 0xF := by
  refine ⟨⟨_, rfl, by decide, by decide, by decide⟩, by decide, by decide, lanes_of _ _ (by simp)⟩

theorem witness_PlainControl :
    (∀ i, IssuesWave (state0 (crew0 w0)) i [] q0 (crew0 w0) w0) ∧
    (∀ i, IssuesWave (state0 (crew0 w0)) i (vNamed false 254 2) q0 (crew0 w0) w0) ∧ sregHandler 0x000 = false ∧
    (∃ k < 4, k ≠ 0 ∧ ((w0.modStrand 1 (fun _ => { w0.strand 0 with st := .runnable })).strand k).runs = true) ∧
    ({ state0 (crew0 w0) with ctxs := [(0, { State.reset.ctx 0 with handler := some (1, 0) })] } : State).isHandler q0 (crew0 w0) = true := by
  refine ⟨fun i => wave_of _ _ _ _ _ rfl rfl (by simp), fun i => wave_of _ _ _ _ _ rfl rfl (by decide), rfl, ⟨1, by decide, by decide, rfl⟩, by decide⟩

theorem witness_RegisterBlocks :
    let f := { f0 with mod := 0x4F }
    (∀ b ∈ blockRange { f0 with mod := 0x1E }, (w0.seg.find? b).isSome = true) ∧
    (∃ b ∈ blockRange f, ({ w0 with seg := [(0, 0)] } : Wave).seg.find? b = none) ∧
    ∀ i, IssuesWave (state0 (crew0 w0)) i [] q0 (crew0 w0) w0 := by
  refine ⟨by decide, ⟨4, by decide, rfl⟩, fun i => wave_of _ _ _ _ _ rfl rfl (by simp)⟩

/-- An open crew barrier at scratchpad address 65520 with PENDING 1 of 2. -/
def barred : State := state0 { crew0 wAll with sp := [(65520, 2), (65524, 1), (65535, 0x40)] }

set_option maxRecDepth 4000 in
theorem witness_BarrierInstructions :
    let cr := { crew0 wAll with sp := [(65520, 2), (65524, 1), (65535, 0x40)] }
    (∀ i, IssuesWave barred i [] q0 cr wAll) ∧ barred.barObj q0 cr wAll 0 65520 Need.atomic = .ok (.scratch 1 65520) ∧
    barred.barRead 1 (.scratch 1 65520) = ⟨1, 0, 0, 1, 2⟩ ∧ barred.barFree (.scratch 1 65520) = true ∧
    barred.barObj q0 cr wAll 1 0 Need.atomic = .ok (.crew 1) ∧ barred.barFree (.crew 1) = true ∧
    (barred.barRead 1 (.crew 1)).state = 1 ∧ (wAll.strand 0).mask = wAll.lanes ∧ (wAll.strand 0).rel = none ∧
    barred.releaseList 1 0 allLanes (barred.barScope cr 0) = [] ∧ 0 < (1 : Nat) ∧ 2 ^ 31 - 1 < 2 ^ 31 := by
  refine ⟨fun i => wave_of _ _ _ _ _ rfl rfl (by simp), by decide, by decide, by decide, by decide, rfl, by decide, rfl, rfl, by decide, by decide, by decide⟩

theorem witness_WaitInstructions :
    let w := { w0 with sr := [(4, 0xFF8)], hd := [(1, ⟨1, 0, 1⟩), (2, ⟨3, 0, 1⟩)] }
    let s := mapped (crew0 w)
    (∀ i, IssuesWave s i [] q0 (crew0 w) w) ∧ (w.s64 4).toNat < 2 ^ 56 ∧ (w.s64 4).toNat % 8 = 0 ∧
    s.translate 0 0 (w.s64 4).toNat Need.read = .ok 0xFF8 ∧ s.unowned 0xFF8 8 = true ∧ s.poisoned 0xFF8 8 = false ∧
    cmpHolds 0 (s.read64 0xFF8) (w.s64 6).toNat = true ∧ cmpHolds 0 (s.read64 0xFF8) (w.s64 4).toNat = false ∧
    (w.handle 0).code = 0 ∧ (w.handle 1).code = 1 ∧ 2 < (w.handle 2).code := by
  refine ⟨fun i => wave_of _ _ _ _ _ rfl rfl (by simp), by decide, by decide, by decide, by decide, by decide, by decide, by decide, rfl, rfl, by decide⟩

/-- The package whose kernel sets NOIRREV. -/
def noIrrev : State := { state0 (crew0 w0) with kernels := [(0, { Kernel.probe with noirrev := true })] }

/-- A write-queue entry of crew 1. -/
def entry0 : WEntry := ⟨1, 0x100, 0x100, [7], 2, 1, 0, 0, 0, false, none, none, 0x10000, 0, 0⟩

/-- The wave is its context's handler, with or without a record in hand. -/
def handling (inHand : Bool) : State := { state0 (crew0 w0) with
  ctxs := [(0, { State.reset.ctx 0 with st := .running, handler := some (1, 0), inHand := inHand })] }

theorem witness_TaskAndHandlerInstructions :
    (∀ i, IssuesWave (state0 (crew0 wAll)) i [] q0 (crew0 wAll) wAll) ∧ (wAll.strand 0).mask = wAll.lanes ∧ (w0.strand 0).mask ≠ w0.lanes ∧
    (crew0 w0).task = .versioned ∧ (∀ i b, IssuesWave (handling b) i [] q0 (crew0 w0) w0) ∧
    (handling true).isHandler q0 (crew0 w0) = true ∧ ((handling true).ctx 0).inHand = true ∧ ((handling false).ctx 0).inHand = false ∧
    (state0 (crew0 w0)).isHandler q0 (crew0 w0) = false ∧ sregHandler 0x010 = true := by
  refine ⟨fun i => wave_of _ _ _ _ _ rfl rfl (by simp), rfl, by decide, rfl, fun i b => wave_of _ _ _ _ _ rfl rfl (by simp), by decide, rfl, rfl, by decide, rfl⟩

theorem witness_SystemLaunches :
    let w := { w0 with sr := [(10, 0x1000), (12, 1)] }
    let cr := { crew0 w with task := .irrevocable }
    cr.task ≠ .versioned ∧ (∀ i, IssuesWave (state0 cr) i [] q0 cr w) ∧
    rangeCheck true (decide (1 ≤ (w.s 12).toNat) && decide ((w.s 12).toNat ≤ 2 ^ 20)) (sVal w 10 2) 4096 = none ∧
    rangeCheck true (decide (8 ≤ 8) && decide (8 ≤ 2 ^ 30) && 8 % 8 == 0) (sVal w 10 2) 8 = none := by
  refine ⟨by decide, fun i => wave_of _ _ _ _ _ rfl rfl (by simp), by decide, by decide⟩


/-- A write-queue entry of crew 1 keeps its version from being committed. -/
theorem witness_IrrevocableFirst :
    IssuesWave (state0 (crew0 w0)) (.tirrev f0) [] q0 (crew0 w0) w0 ∧ noIrrev.noirrev (crew0 w0) = true ∧
    (state0 (crew0 w0)).noirrev (crew0 w0) = false ∧ (crew0 w0).task = .versioned ∧ (state0 (crew0 w0)).taskEntries 1 = [] ∧
    ({ state0 (crew0 w0) with cores := [(0, { Machine.Core.empty with wq := [entry0] })] } : State).taskEntries 1 ≠ [] ∧
    (state0 (crew0 w0)).crew? 1 = some (crew0 w0) ∧ ({ crew0 w0 with task := .irrevocable } : Crew).task ≠ .versioned := by
  refine ⟨wave_of _ _ _ _ _ rfl rfl (by simp), rfl, rfl, rfl, rfl, by decide, rfl, by decide⟩

/-- ATOM, LR and SC at pod scope and STW, their lanes' addresses passing the checks. -/
theorem witness_IrrevocableFirst_access :
    let f := { f0 with d := 1, a := 2, c := 4, mod := 0x3010 }
    let g := { f0 with d := 1, kd := true, a := 2, ka := true, c := 4, kc := true, mod := 0x3002 }
    (∀ i, IssuesLanes (mapped (crew0 w0)) i false 0 (vNamed f.kd f.d f.agrp ++ f.memNamed 2 ++ vNamed f.kc f.c f.acgrp) q0 (crew0 w0) w0 0xF) ∧
    (∀ i, IssuesLanes (mapped (crew0 w0)) i false 0 [] q0 (crew0 w0) w0 0xF) ∧
    (∀ i, IssuesLanes (mapped (crew0 w0)) i false 0 (vNamed g.kd g.d (szGroup g.sz) ++ g.memNamed 2) q0 (crew0 w0) w0 0xF) ∧
    3 ≤ f.scope ∧ 3 ≤ g.scope ∧
    ChecksPass (mapped (crew0 w0)) (crew0 w0) w0 f ⟨false, f.uniform && f.kc, atBytes f.aty, atBytes f.aty, 0, Need.atomic, none, false⟩
      0xF (fun _ => (0, 0)) ∧
    ChecksPass (mapped (crew0 w0)) (crew0 w0) w0 g ⟨false, true, szBytes g.sz, 8, szBytes g.sz, Need.read, none, false⟩ 0xF (fun _ => (16, 16)) ∧
    ChecksPass (mapped (crew0 w0)) (crew0 w0) w0 g ⟨false, true, szBytes g.sz, 8, 0, Need.atomic, none, false⟩ 0xF (fun _ => (0, 0)) ∧
    ChecksPass (mapped (crew0 w0)) (crew0 w0) w0 g (Machine.Fields.devForm g g.uniform Need.write) 0xF (fun _ => (16, 16)) := by
  refine ⟨fun i => ⟨issues_of _ _ _ _ rfl rfl, by decide, by decide, ?_⟩, fun i => ⟨issues_of _ _ _ _ rfl rfl, by decide, by decide, by simp [Holds]⟩,
    fun i => ⟨issues_of _ _ _ _ rfl rfl, by decide, by decide, ?_⟩, by decide, by decide, ?_, ?_, ?_, ?_⟩
  all_goals first | (unfold Holds; decide) | (unfold ChecksPass; decide)

/-- An open barrier object at device address 0x20, PHASE 5, with a wave that has all its lanes. -/
def barDevice : State := { mapped (crew0 wBar) with
  kernels := [(0, { Kernel.probe with levels := [0x103, 0, 0, 0, 0] })]
  mem := [(0x20, 2), (0x24, 1), (0x2C, 5), (0x2F, 0x40)] }
where wBar : Wave := { wAll with sr := [(4, 0x20), (6, 3), (7, 5), (20, 1), (21, 1), (10, 0x1000), (12, 1), (13, 8)] }

/-- Barrier actions at LVL 3, PROOT, TLBINV, ICINV and QUIESCE in a versioned task. -/
theorem witness_IrrevocableFirst_others :
    let f := { f0 with a := 4, b := 6, ka := true, kb := true, mod := 3 }
    let w := barDevice.wBar
    (∀ i, IssuesWave barDevice i [] q0 (crew0 w) w) ∧ 3 ≤ f.lvl ∧
    barDevice.barObj q0 (crew0 w) w f.lvl (barAddr w f.a.toNat f.lvl) Need.atomic = .ok (.device 0x20) ∧
    barDevice.barObj q0 (crew0 w) w f.lvl (barAddr w f.a.toNat f.lvl) Need.read = .ok (.device 0x20) ∧
    0 < (w.s f.b.toNat).toNat ∧ (w.s f.b.toNat).toNat < 2 ^ 31 ∧ (w.strand 0).mask = w.lanes ∧ barDevice.barFree (.device 0x20) = true ∧
    (barDevice.barRead 1 (.device 0x20)).state = 1 ∧ (barDevice.barRead 1 (.device 0x20)).phase = (w.s 7).toNat % 2 ^ 30 ∧
    (let p (k : Nat) : Nat := (w.s (20 + k)).toNat
     tokenCheck (decide (1 ≤ p 0) && decide (p 0 ≤ 64) && decide (1 ≤ p 1) && decide (p 1 ≤ 65536))
        [(sVal w 10 2, 16), (sVal w 10 2, 16), (sVal w 22 2, 32)] = none) ∧
    rangeCheck true (decide (1 ≤ (w.s 12).toNat) && decide ((w.s 12).toNat ≤ 2 ^ 20)) (sVal w 10 2) 4096 = none ∧
    rangeCheck true (decide (8 ≤ (w.s 13).toNat) && decide ((w.s 13).toNat ≤ 2 ^ 30) && (w.s 13).toNat % 8 == 0) (sVal w 10 2) 8 = none := by
  refine ⟨fun i => wave_of _ _ _ _ _ rfl rfl (by simp), by decide, by decide, by decide, by decide, by decide, rfl, by decide, by decide,
    by decide, by decide, by decide, by decide⟩

/-- A gang of two other packages reached through port 0; a tick to come, and one that has come. -/
theorem witness_SnapAndGpw :
    let w := { w0 with sr := [(10, 1)] }
    let s := { mapped (crew0 w) with kernels := [(0, { Kernel.probe with graph := 0x100 })], mem := [(0x108, 0), (0x109, 2)] }
    let g := { state0 (crew0 w) with gang := [Config.package + 1, Config.package, Config.package + 2], ports := [(0, { Port.off with st := .up })] }
    (∀ i, IssuesWave s i [] q0 (crew0 w) w) ∧ (∀ i, IssuesWave g i [] q0 (crew0 w) w) ∧
    g.gang.filter (· ≠ Config.package) = [Config.package + 1, Config.package + 2] ∧ g.openPort = some 0 ∧
    g.ports.find? 0 = some { Port.off with st := .up } ∧ g.tabor.toNat < sVal w 10 2 ∧
    sVal w 10 2 ≤ ({ g with tabor := 1 } : State).tabor.toNat ∧
    (w.strand 0).rel = none ∧ s.releaseList 1 0 allLanes 7 = [] ∧ s.translate 0 0 0x108 Need.read = .ok 0x108 ∧
    leNat (s.homeBytes (View.ofCrew 1) 0x108 8) + 8 * 3 = 0x218 ∧ s.walkHeld 0 0 0x218 Need.write = false ∧
    s.translate 0 0 0x218 Need.write = .ok 0x218 ∧ (∀ kn, (state0 (crew0 w)).kernel? 0 = some kn → kn.graph = 0) := by
  refine ⟨fun i => wave_of _ _ _ _ _ rfl rfl (by simp), fun i => wave_of _ _ _ _ _ rfl rfl (by simp), by simp, rfl, rfl, by decide, by decide,
    rfl, by decide, by decide, by decide, by decide, by decide, ?_⟩
  intro kn h; cases h; rfl
/-- An operation of crew 1 in flight. -/
def op0 (i : Instr) : Op := newOp (state0 (crew0 w0)) q0 (crew0 w0) w0 i 0xF

/-- One element of four bytes at address `a`. -/
def elem0 (a : Nat) : Elem := ⟨0, 1, a, a, 4, 7, 0, [vKey 1 0], none, .pending⟩

/-- A package with one operation in flight, its addresses mapped. -/
def flying (o : Op) : State := { mapped (crew0 w0) with ops := [(5, o)], next := 6 }

theorem witness_AccessesPerform :
    (∀ i ∈ [Instr.sts { f0 with mod := 2 }, .lds { f0 with mod := 2 }, .st { f0 with mod := 2 }],
      let o := { op0 i with elems := [elem0 0xFFFC] }
      (flying o).op? 5 = some o ∧ o.elems[0]? = some (elem0 0xFFFC) ∧ (flying o).crew? o.crew = some (crew0 w0) ∧
        (flying o).wave? o.crew o.wave = some w0 ∧ (flying o).mayPerform 5 o 0 (elem0 0xFFFC) = true ∧
        (flying o).spadFree o.crew 0xFFFC 4 = true) ∧
    (let f := { op0 (.fence f0) with waits := [] }
     let o := { op0 (.st { f0 with mod := 2 }) with elems := [elem0 0] }
     ({ flying o with ops := [(4, f), (5, o)] } : State).mayPerform 5 o 0 (elem0 0) = false) := by
  refine ⟨?_, by decide⟩
  intro i hi
  simp only [List.mem_cons, List.not_mem_nil, or_false] at hi
  rcases hi with rfl | rfl | rfl <;> exact ⟨rfl, rfl, rfl, rfl, by decide, by decide⟩

theorem witness_OperationsEnd :
    let o := { op0 (.lds { f0 with mod := 2 }) with elems := [elem0 0], dsts := [vKey 1 0] }
    (flying o).op? 5 = some o ∧ (crew0 w0).attempt = o.attempt ∧ (∀ k ∈ (elem0 0).dst, k ∈ o.dsts) ∧ (elem0 0).dst.Nodup := by
  refine ⟨rfl, rfl, by decide, by decide⟩

theorem witness_QueuesDrain :
    let e := { entry0 with direct := true }
    let s := { state0 (crew0 w0) with
      cores := [(0, { Machine.Core.empty with wq := [{ e with pa := 0x101 }, e], inv := [(1, 1)] })],
      reds := [⟨Config.hbmBytes - 4, Config.hbmBytes - 4, 1, 0, 5, 1, none, 0, 0⟩], ops := [(5, op0 (.fence f0)), (6, op0 (.fencew f0))] }
    (s.core 0).wq[1]? = some e ∧ homeOf e.pa = .hbm ∧ s.unowned e.pa e.bytes.length = true ∧
    (∀ x ∈ (s.core 0).wq.take 1, e.pa + e.bytes.length ≤ x.pa ∨ x.pa + x.bytes.length ≤ e.pa) ∧ (s.core 0).inv[0]? = some (1, 1) ∧
    s.op? 5 = some (op0 (.fence f0)) ∧ (op0 (.fence f0)).waits.all (s.released (op0 (.fence f0)).lanes) = true ∧
    homeOf (Config.hbmBytes - 4) = .hbm ∧ s.unowned (Config.hbmBytes - 4) (atBytes 0) = true := by
  refine ⟨rfl, by decide, by decide, by decide, rfl, rfl, rfl, by decide, by decide⟩

/-- A copy of 512 bytes with one unit written, and its end. -/
theorem witness_EngineTurns :
    let ld := { op0 (.lds { f0 with mod := 2 }) with elems := [{ elem0 0 with st := .complete }] }
    let cp := { op0 (.cpy { f0 with mod := 0 }) with st := .active, len := 512, off := 256, av := 0, dv := 0x1000 }
    ld.elems.all Elem.done = true ∧ (flying (op0 (.cpy f0))).engineClear 5 (op0 (.cpy f0)) = true ∧ (op0 (.cpy f0)).st = .queued ∧
    (flying cp).unacked 5 = false ∧
    ({ flying cp with pend := [(9, ⟨⟨3, 0, 1, 9, 0, []⟩, none, 0, 0, 4, 5, noOp, 0, 0, 0, noOp⟩)] } : State).unacked 5 = true ∧
    isCopy cp.instr = true ∧ cp.off ≤ 256 * 1 ∧ 256 * 1 < cp.len ∧ ({ cp with off := 512 } : Op).len ≤ ({ cp with off := 512 } : Op).off ∧
    (match (flying cp).gather 5 cp 0 (cp.unitSources 256 512) with | .ok _ => true | _ => false) = true := by
  refine ⟨by decide, by decide, rfl, by decide, by decide, rfl, by decide, by decide, by decide, by decide⟩

/-- The gather/scatter engine's next line, and a step of MMAS. -/
theorem witness_EngineTurns_scatter_and_mmas :
    let sc := { op0 (.scat { f0 with mod := 0x5002 }) with lines := [1], elems := [{ elem0 0x100 with st := .performed }] }
    let s := { flying sc with owners := [(1, [5])] }
    let blk := (List.range 8).map (fun n => wTile.s (8 + n))
    let mm := { op0 (.mmas { f0 with a := 20, b := 21, c := 8 }) with st := .active, blk := blk, av := 0, bv := 0x2000 }
    sc.lines.find? (fun l => s.turnOf 5 l) = some 1 ∧ mm.off < ctlK (fbWord blk 0) / 32 ∧ ctlK (fbWord blk 0) = 64 := by
  refine ⟨by decide, by decide, by decide⟩

/-- A crew at a clause boundary whose strand is to run the clause at 0x10: one NOP. -/
def fetching (hw d : Dword) : State := { mapped (crew0 wF) with
  cur := none
  mem := ((List.range 16).map (fun i => (0x10 + i, (leBytes 16 (hw.toNat + 2 ^ 64 * d.toNat)).getD i 0))).filter (fun e => e.2 ≠ 0) }
where wF : Wave := { w0.modStrand 0 (fun st => { st with pc := 0x10 }) with clause := none }

set_option maxRecDepth 4000 in
theorem witness_ClauseFetchStarts :
    (match (fetching 0x7000000000000000 0).fetchClause (crew0 fetching.wF) 0x10 with | .ok _ ws _ => ws | _ => []) = [0] ∧
    (match (fetching 0x7000000000000001 0).fetchClause (crew0 fetching.wF) 0x10 with | .bad h _ => h.cls | _ => 99) = 7 ∧
    (match (fetching 0x7000000000000000 0).fetchClause (crew0 fetching.wF) 0xFF8 with | .fault c a _ => (c, a) | _ => (0, 0)) =
      (Cause.pageFault, 0x1000) ∧
    (fetching 0x7000000000000000 0).settleRestarts.crew? 1 = some (crew0 fetching.wF) ∧
    (fetching 0x7000000000000000 0).scheduled 0 ((crew0 fetching.wF).slot 0 % 4) = some (1, 0) ∧ fetching.wF.running = some 0 ∧
    (fetching.wF.strand 0).tend = false := by
  refine ⟨by decide, by decide, by decide, by decide, by decide, by decide, rfl⟩

theorem witness_ClauseFetchStarts_strands :
    ((w0.modStrand 0 (fun st => { st with resv := some ⟨0, 3⟩, since := 64 })).strand 0).resv.isSome = true ∧
    ({ (w0.modStrand 1 (fun _ => { w0.strand 0 with st := .runnable, age := 4096 })) with clause := none } : Wave).switchDue = some 0 ∧
    ({ (w0.modStrand 1 (fun _ => { w0.strand 0 with st := .runnable, age := 4095 })) with clause := none } : Wave).switchDue = none := by
  decide

/-- A strand that waits, woken or not. -/
def waiting (w : Wait) (woken : Bool) : State := state0 (crew0 (w0.modStrand 0 (fun st => { st with st := .waiting w, woken := woken })))

theorem witness_StrandsWake : (waiting .tend true).crewRuns (crew0 w0) = true ∧
    (∀ x : Wait, ((waveOf (waiting x true)).strand 0).woken = true ∧ ((waveOf (waiting x true)).strand 0).st = .waiting x) ∧
    (∀ x : Wait, ((waveOf (waiting x false)).strand 0).woken = false) ∧
    joinDeadline [⟨some 5, some 0⟩] = some 0 ∧
    (∀ x : Wait, (({ w0.strand 0 with st := .waiting x, expired := true } : Strand).expired = true)) ∧
    ({ w0 with hd := [(2, ⟨3, 0, 1⟩)] } : Wave).handle 2 ≠ ⟨0, 0, 0⟩ ∧
    (1, 0, 0, sKey 3) ∈ ({ state0 (crew0 w0) with waitDst := [(1, 0, 0, sKey 3)] } : State).waitDst ∧
    ∀ j, (1, 0, j, sKey 3) ∉ (state0 (crew0 w0)).waitDst := by
  refine ⟨by decide, fun x => ⟨rfl, rfl⟩, fun x => rfl, by decide, fun x => rfl, by decide, by decide, by simp [state0, State.reset]⟩

set_option maxRecDepth 20000 in
theorem witness_BlocksAndWavesReturn :
    let w := ({ w0 with seg := [(0, 0)] } : Wave).modStrand 0 (fun st => { st with st := .waiting (.rbacq 0 2) })
    let s := { state0 (crew0 w) with cores := [(0, { Machine.Core.empty with rbq := [(1, 0, 0)] })] }
    (s.core 0).rbq = [(1, 0, 0)] ∧ (1, 0, 0) ≠ restartReq 1 ∧ s.wave? 1 0 = some w ∧ (w.strand 0).st = .waiting (.rbacq 0 2) ∧
    (((List.range 2).map (fun i => 0 + i)).filter (fun b => (w.seg.find? b).isNone)).length = 1 ∧ 1 ≤ (s.segsFree 0).length ∧
    ({ w0 with segRet := [(9, [5])] } : Wave).segRet.find? (fun e => e.1 == 9) = some (9, [5]) ∧ (state0 (crew0 w0)).op? 5 = none ∧
    ((flying (op0 (.lds f0))).op? 5).isSome = true ∧ ({ w0 with lanes := 0 } : Wave).live = true ∧ (state0 (crew0 w0)).ops = [] := by
  refine ⟨rfl, by decide, rfl, rfl, by decide, by decide, by decide, rfl, rfl, rfl, rfl⟩

set_option maxRecDepth 20000 in
/-- No segment of the core is free. -/
theorem witness_BlocksAndWavesReturn_none :
    let w := (w0.modStrand 0 (fun st => { st with st := .waiting (.rbacq 14 2) }))
    let full := { w with seg := w.seg.del 15, segRet := (List.range Config.segments).map (fun g => (g, [5])) }
    ((state0 (crew0 full)).segsFree 0).length < 1 ∧
      (((List.range 2).map (fun i => 14 + i)).filter (fun b => (full.seg.find? b).isNone)).length = 1 := by decide

/-- A crew whose wave waits at TEND between clauses. -/
def atTend : State := state0 (crew0 { (w0.modStrand 0 (fun st => { st with st := .waiting .tend })) with clause := none })

theorem witness_TaskAndTrapEvents :
    (∃ cr, atTend.crew? 1 = some cr ∧ atTend.canCommit 1 cr = true ∧ cr.task = .versioned ∧ cr.liveWaves ≠ []) ∧
    atTend.kernel? 0 = some Kernel.probe ∧ Kernel.probe.walk = false ∧ (state0 (crew0 w0)).canCommit 1 (crew0 w0) = false ∧
    ({ state0 (crew0 w0) with ctxs := [(0, { State.reset.ctx 0 with trapRecs := [(0, rec0, true)] })] } : State).ctx 0 =
      { State.reset.ctx 0 with trapRecs := [(0, rec0, true)] } ∧ (state0 (crew0 w0)).recovering = false ∧
    (let s := { mapped (crew0 w0) with cores := [(0, { Machine.Core.empty with recs := [rec0] })] }
     (s.core 0).recs = [rec0] ∧ (s.ctx 0).trapW - (s.ctx 0).trapR < Config.trapSlots ∧
       (∀ k ∈ s.cores, ∀ q ∈ k.2.recs, q.ctx = rec0.ctx → rec0.opened ≤ q.opened) ∧ s.unowned 0 32 = true ∧
       s.translate 0 0 (s.ctx 0).trapSlot ⟨true, true, false⟩ = .ok 0 ∧ homeOf 0 = .hbm ∧
       (s.core 0).recs.find? (fun r => (s.recordSlot 0 r).isSome) = some rec0 ∧ s.recordSlot 0 rec0 = some 0 ∧
       (s.ctx 0).handler = none ∧ (s.core 0).heldTraps = []) ∧
    (let w := { w0 with clause := none }
     w.running = some 0 ∧ w.live = true ∧ w.lanes ≠ 0 ∧
       w.strands.all (fun e => match e.2.st with | .waiting _ => false | .stopped => false | _ => true) = true) := by
  refine ⟨⟨_, rfl, by decide, rfl, by decide⟩, rfl, rfl, by decide, rfl, rfl,
    ⟨rfl, by decide, by decide, by decide, by decide, by decide, by decide, by decide, by decide, by decide⟩, by decide, rfl, by decide, by decide⟩

/-- Entry 0 of the copy engine of core 0 holds a copy of wave 0; entry 1 is empty (R114, R115). -/
theorem witness_TaskAndTrapEvents_engine :
    let cp := op0 (.cpy f0)
    (flying cp).engOp 0 (EngSel.ofWord 0) = some (5, cp) ∧ ((flying cp).engWave 0 (EngSel.ofWord 0)).isSome = true ∧
    (flying cp).engOp 0 (EngSel.ofWord (1 * 64)) = none ∧ ((flying cp).engWave 0 (EngSel.ofWord (1 * 64))).isSome = true := by
  refine ⟨by decide, by decide, by decide, by decide⟩

/-- A context in a state. -/
def inState (c : CtxState) : State := { State.reset with ctxs := [(0, { State.reset.ctx 0 with st := c })] }

theorem witness_ContextRequests : (State.reset.ctx 1023).st = .absent ∧ (1023 : Nat) < 1024 ∧ 0x100 % 256 = 0 ∧
    (∀ c, ((inState c).ctx 0).st = c ∧ ((inState c).ctx 0).destroyHeld = false ∧ ((inState c).ctx 0).quarantine = [] ∧
      ((inState c).ctx 0).releases = [] ∧ (inState c).poolQ = [] ∧ (inState c).poolWait = [] ∧ (inState c).recovering = false) ∧ CtxState.live .running = true ∧ CtxState.live .absent = false ∧
    ({ State.reset with stage := 3 } : State).recovering = true ∧ (63 : Nat) ≤ 63 := by
  refine ⟨rfl, by decide, rfl, fun c => ⟨rfl, rfl, rfl, rfl, rfl, rfl, rfl⟩, rfl, rfl, rfl, by decide⟩

/-- A saved context with one image whose first unit is poisoned, one without images, and a held destroy (R105, R112). -/
theorem witness_SaveAndRestore :
    (({ inState .saved with ctxs := [(0, { State.reset.ctx 0 with st := .saved, destroyHeld := true })] } : State).ctx 0).destroyHeld = true ∧
    (∀ e ∈ (inState .running).crews, e.2.ctx = 0 → e.2.core ∉ [0] ∧ e.2.freezing = false) ∧
    (∀ i ∈ ((inState .saved).ctx 0).saves, (inState .saved).imageFault i [] = none) ∧
    (let i : Image := ⟨crew0 w0, 1, 0, 512, [], [], []⟩
     ({ inState .saved with poison := [0] } : State).imageFault i [0, 256] = some (0x41, 0)) ∧
    ((inState .restoring).ctx 0).st = .restoring ∧ ([] : List Nat).length = ((inState .restoring).ctx 0).saves.length ∧
    (inState .restoring).stopped = false := by
  refine ⟨rfl, by simp [inState, State.reset], by simp [inState, State.ctx, State.reset, Tab.rd, Tab.find?, Context.absent], by decide, rfl, rfl, rfl⟩

/-- Context 0 with queue 0 in some state, its ring at 0. -/
def queued (st : QState) (mem : Tab Byte) : State := { mapped (crew0 w0) with
  mem := mem
  ctxs := [(0, { State.reset.ctx 0 with st := .running, queues := [(0, { Queue.off with st := st, widx := 1 })] })] }

set_option exponentiation.threshold 600 in
set_option maxRecDepth 20000 in
/-- A command of each kind starts, one whose reserved bits are not 0 is refused, and a wait for a value that memory does not hold
is left (R119, R121). -/
theorem witness_QueueCommands :
    (queued .ready []).hasCtx 0 = true ∧ (∀ st ∈ [QState.disabled, .idle, .ready, .blocked, .halted], (((queued st []).ctx 0).queue 0).st = st ∧
      (((queued st []).ctx 0).queue 0).ridx ≠ (((queued st []).ctx 0).queue 0).widx ∧
      (((queued st []).ctx 0).queue 0).overrun = false) ∧ (queued .ready []).replays = [] ∧ (queued .ready []).admitted 0 = true ∧
    (queued .ready []).stopped = false ∧ (queued .ready []).recovering = false ∧
    (∀ k ∈ [(0 : Byte), 1, 2, 3, 4, 5], ∃ bs, (queued .ready [(0, k)]).readV 0 0 64 = some bs ∧
      (Packet.ofNat (leNat bs)).kind = k.toNat ∧ (Packet.ofNat (leNat bs)).bad = (k == 5) ∧
      (queued .ready []).mayStart (Packet.ofNat (leNat bs)) .none = true) ∧
    (match (queued .ready [(0, 3)]).startCommand 0 0 (Packet.ofNat 3) id false with | some (some _) => true | _ => false) = true ∧
    (match (queued .ready [(0, 2)]).startCommand 0 0 (Packet.ofNat (2 + 5 * 2 ^ 128)) id false with | some none => true | _ => false) = true := by
  refine ⟨by decide, by decide, rfl, by decide, rfl, rfl, ?_, by decide, by decide⟩
  intro k hk
  simp only [List.mem_cons, List.not_mem_nil, or_false] at hk
  rcases hk with rfl | rfl | rfl | rfl | rfl | rfl <;> exact ⟨_, rfl, by decide, by decide, by decide⟩

/-- A package with one kernel of context 0 and no crew. -/
def kerneled (kn : Kernel) : State := { mapped (crew0 w0) with crews := [], kernels := [(0, kn)] }

set_option maxRecDepth 20000 in
theorem witness_KernelEvents :
    let place := { Kernel.probe with unplaced := [(0, [0])], placed := [] }
    let steal := { Kernel.probe with unplaced := [(0, [1, 2])] }
    (match (kerneled place).placeCrew 0 0 0 0 0 0 with | some t => t.groupsKeep | none => false) = true ∧
    (kerneled steal).kernel? 0 = some steal ∧ steal.unplaced.rd [] 1 = [] ∧ steal.requeued.rd [] 1 = [] ∧ steal.unplaced.rd [] 0 ≠ [] ∧
    ((List.range 64).map (fun i => 64 * 1 + i)).any (fun c => (kerneled steal).roomFor steal c) = true ∧
    (kerneled { Kernel.probe with st := .waiting }).tabor.toNat = 0 ∧ (kerneled Kernel.probe).stopped = false ∧
    (kerneled { Kernel.probe with st := .retiring }).kernelQuiet { Kernel.probe with st := .retiring } = true ∧
    Kernel.probe.endCycle < ({ kerneled Kernel.probe with cycle := 1 } : State).cycle ∧
    Kernel.probe.endCycle = (kerneled Kernel.probe).cycle ∧ (kerneled Kernel.probe).recovering = false ∧
    (match (kerneled Kernel.probe).translate 0 0 0 Need.write with | .ok pa => pa | .error _ => 1) = 0 ∧ homeOf 0 = .hbm ∧
    (kerneled Kernel.probe).unowned 0 32 = true := by
  refine ⟨by decide, rfl, rfl, rfl, by decide, by decide, rfl, rfl, by decide, by decide, rfl, rfl, by decide, rfl, by decide⟩

/-- A table of two roles across two pages, the second of them not mapped, or an engine owning the first piece's line (R132). -/
theorem witness_KernelEvents_roles :
    let kn := { Kernel.probe with pinned := true, rolesAt := 0xFF8, roles := [5, 0, 6] }
    let s := kerneled kn
    s.kernel? 0 = some kn ∧ kn.pinned = true ∧ kn.st = .running ∧ 255 < Config.cores ∧
    s.rolesPieces kn (kn.roles.set 1 (2 ^ 31 + 255)) = [(0xFF8, [5, 0, 0, 0, 255, 0, 0, 0x80])] ∧
    (∀ p ∈ s.rolesPieces kn (kn.roles.set 1 (2 ^ 31 + 255)), s.unowned p.1 p.2.length = true ∧ homeOf p.1 = .hbm) ∧
    (s.rolesPieces kn (kn.roles.set 1 (2 ^ 31 + 255))).Pairwise (fun p q => p.1 + p.2.length ≤ q.1 ∨ q.1 + q.2.length ≤ p.1) ∧
    ({ s with owners := [(0xF, [5])] } : State).unowned 0xFF8 8 = false ∧
    (match s.translate 0 0 0x1000 Need.write with | .error e => e | .ok _ => 0) = Cause.pageFault := by
  refine ⟨rfl, rfl, rfl, by decide, by decide, by decide, by decide, by decide, by decide⟩

/-- Context 0 with one frame in quarantine, entered at epoch 0, and a walk that has read its leaf. -/
def paging : State := { mapped (crew0 w0) with
  walks := [⟨0, 0, 4096, 0, 0, 0, some ⟨0, 0, 4096, 4096, 8192, true, false, false⟩, false, none⟩]
  ctxs := [(0, { State.reset.ctx 0 with st := .running, quarantine := [(7, 0)] })] }

/-- The epoch is retired where no stamp of it is left, and is not while an operation of it is in flight (R100). -/
theorem witness_PagesAndTranslations : paging.hasCtx 0 = true ∧ (paging.ctx 0).releases = [] ∧
    paging.quarantined 0 < quarantineSize ∧ paging.recovering = false ∧ paging.poolWait = [] ∧ paging.stopped = false ∧
    ({ paging with stopped := true } : State).stopped = true ∧ paging.residents (·.ctx) 0 = [0] ∧ 255 < Config.cores ∧ ((flying (op0 (.lds f0))).op? 5).isSome = true ∧ (paging.ctx 0).quarantine = [(7, 0)] ∧
    ({ paging with crews := [], walks := [] } : State).retired 0 0 = true ∧ paging.retired 0 0 = false ∧ (paging.ctx 0).st.live = true ∧
    ((⟨0, 0, 0, 4, 0, 0, none, false, none⟩ : Walk)).leaf = none ∧ paging.unowned 0 8 = true ∧
    paging.walks[0]? = some ⟨0, 0, 4096, 0, 0, 0, some ⟨0, 0, 4096, 4096, 8192, true, false, false⟩, false, none⟩ ∧
    ((paging.walks.find? (fun w => w.die == 0 && w.ctx == 0 && w.va == 0)).getD ⟨0, 0, 0, 4, (paging.ctx 0).root, (paging.ctx 0).epoch, none, false, none⟩).leaf = none := by
  refine ⟨by decide, rfl, by decide, rfl, rfl, rfl, rfl, by decide, by decide, rfl, rfl, by decide, by decide, rfl, rfl, by decide, rfl, by decide⟩

theorem witness_HostAccesses :
    let e : Event := ⟨0, 0, 0, 0x71, 7⟩
    let s := { State.reset with events := [e], evBase := 4096, hostUp := true }
    s.hostReaches = true ∧ State.reset.hostReaches = false ∧ ({ s with stage := 3 } : State).hostReaches = false ∧ 1400 ≤ (1400 : Dword).toNat ∧ (2300 : Dword).toNat ≤ 2300 ∧ 2300 < (2301 : Dword).toNat ∧ (1399 : Dword).toNat < 1400 ∧
    (2301 : Dword).toNat < 2 ^ 32 ∧ 63 ≤ 63 ∧ 2 ^ 24 - 1 + ([1] : List Byte).length ≤ 2 ^ 24 ∧ (∀ fn off n, s.unowned (Config.apertureBase fn + off) n = true) ∧
    s.events.find? (fun e => s.ringOf e == none) = some e ∧ s.evBase ≠ 0 ∧ (s.evW + 2 ^ 32 - s.evR) % 2 ^ 32 < 4096 ∧
    s.unowned (s.evBase + 32 * (s.evW % 4096)) 32 = true ∧ homeOf (s.evBase + 32 * (s.evW % 4096)) = .hbm ∧
    3 ∉ State.reset.cxlLost := by
  refine ⟨rfl, rfl, rfl, by decide, by decide, by decide, by decide, by decide, by decide, by decide, ?_, by decide, by decide, by decide, by decide, by decide,
    by decide⟩
  intro fn off n; exact List.all_eq_true.2 (fun l _ => rfl)

/-- The ring of context 0 at 0 with its records at 0x2000, and at its first slot a copy of 256 bytes from 0x100 to 0x200. -/
def ringed : State := { State.reset with
  mem := [(0, 8), (5, 1), (9, 1), (17, 2)]
  tlb := [⟨0, 0, 0, 0x10000, 0, true, true, true⟩]
  ctxs := [(0, { State.reset.ctx 0 with st := .running, rings := [(0, ⟨0, 0, 0x2000, 4, 0, 0, 0, 0, [], [], [], 0, none, 16⟩)] })] }

/-- Kicked once (R271). -/
def kicked : State := ringed.kick 0 0 1 0 none

/-- A kicked ring whose request faulted. -/
def ringHalted : State := kicked.modCtx 0 (fun cx => { cx with rings := cx.rings.modify 0 (fun r => { r with halted := [(0, kicked.next - 1)] }) })

set_option maxRecDepth 8000 in
theorem witness_TransformRings : (State.reset.modCtx 5 (fun cx => { cx with st := .running })).hasCtx 5 = true ∧
    (∃ r o op, (kicked.ctx 0).rings.find? 0 = some r ∧ r.halted = [] ∧ r.ridx ≠ r.widx ∧ kicked.enginesBusy r.die < 4 ∧
      kicked.stopped = false ∧ (kicked.ctx 0).st ≠ .frozen ∧ r.busy.find? r.ridx = some o ∧ kicked.op? o = some op ∧ op.count ≠ 1 ∧
      (match kicked.gather o op r.die [.dev (r.req + 64 * (r.ridx % 2 ^ r.k)) 64] with
        | .ok tab => ({ op with cap := tabBytes tab true 0 64 } : Op).badField == none
        | _ => false) = true ∧
      (match kicked.translate r.die 0 (r.comp + 16 * (0 % 2 ^ r.k)) Need.write with | .ok pa => pa | .error _ => 1) = 0x2000) ∧
    homeOf 0x2000 = .hbm ∧ kicked.unowned 0x2000 16 = true ∧ (ringHalted.haltedOp 0 0).isSome = true := by
  refine ⟨by decide, ⟨_, _, _, rfl, rfl, by decide, by decide, rfl, by decide, rfl, rfl, by decide, by decide, by decide⟩, by decide, by decide, by decide⟩

/-- The bytes of memory that are not 0. -/
def listed (a : Nat) (bs : List Byte) : Tab Byte := ((List.range bs.length).map (fun i => (a + i, bs.getD i 0))).filter (fun e => e.2 ≠ 0)

set_option exponentiation.threshold 600 in
set_option maxRecDepth 20000 in
/-- TKSIZE with a map of two tokens merged into one. -/
theorem witness_UnitAndPoolTurns :
    let op := { op0 (.tksize f0) with st := .active, blk := [0, 0] }
    let s := { flying op with mem := listed 0 (MergeMap.make 0 0 1 1 [0, 0] [2]).bytes }
    s.op? 5 = some op ∧ s.crew? op.crew = some (crew0 w0) ∧
    (∀ e ∈ s.ops, s.onPod (podOf (crew0 w0).core) e.2 = true → e.2.st = .active → op.phys ≤ e.2.phys) ∧
    (match s.tokenMaps 5 op 0 with
      | .ok (tab, mp, p) => match s.gather 5 { op with buf := tab } 0 ((op.tokenRanges mp p).1.map (fun r => Src.dev r.1 r.2)) with
        | .ok _ => mp.size == [2]
        | _ => false
      | _ => false) = true := by
  refine ⟨rfl, rfl, ?_, by decide⟩
  intro e he _ _
  simp only [flying, List.mem_singleton] at he
  rw [he]

set_option maxRecDepth 20000 in
/-- PROOT.perm of one root without pages, and a pool page that waits for its epoch. -/
theorem witness_UnitAndPoolTurns_pages :
    let op := { op0 (.proot f0) with st := .active, dv := 0, av := 0x40, blk := [1, 1, 0x100, 0], lines := [0, 1] }
    let s := { flying op with mem := listed 0x100 (leBytes 32 (0x200 + 16 * 2 ^ 128)), owners := [(0, [5]), (1, [5])], poolQ := [(0x100, 3, 0, 0)] }
    (match s.rootStep 5 op 0 with
      | .ok r => (s.mappedLines op 0 r.touched).all (fun x => op.lines.contains x) && (s.mappedLines op 0 r.touched).all (fun x => s.turnOf 5 x) &&
          r.freed.isEmpty && !s.runsHeld 0 op.ctx r.out && (match s.writeRuns op 0 r.out with | .ok l => l.all (fun e => homeOf e.1 == .hbm) | _ => false)
      | _ => false) = true ∧
    s.unacked 5 = false ∧ s.poolWait = [] ∧ s.poolQ[0]? = some (0x100, 3, 0, 0) ∧ s.retired 0 0 = false ∧ ({ s with ops := [] } : State).retired 0 0 = true ∧
    (match s.translate 0 0 0x100 Need.read, s.translate 0 0 0x114 Need.atomic, s.translate 0 0 0 Need.write with
      | .ok a, .ok b, .ok _ => a == 0x100 && b == 0x114 | _, _, _ => false) = true ∧
    bitsOf (leNat (s.bytesAt 0x100 20)) 64 64 + 4 * (leNat (s.bytesAt 0x114 4) % bitsOf (leNat (s.bytesAt 0x100 20)) 128 32) = 0 ∧
    ({ s with owners := [] } : State).unowned 0x100 24 = true ∧ ({ s with owners := [] } : State).unowned 0 4 = true := by
  refine ⟨by decide, by decide, rfl, rfl, by decide, by decide, by decide, by decide, by decide, by decide⟩

theorem witness_ClaveFirings : State.reset.claveBusy = false ∧ (State.reset.fireClave 1 none).claveBusy = true ∧
    (let s := { State.reset with claveArmed := true, claveTick := 5, tabor := 5 }
     s.claveArmed = true ∧ s.claveTick ≠ 0 ∧ s.claveTick ≤ s.tabor.toNat ∧ ({ s with claveHost := some 0 } : State).claveHost = some s.cycle ∧
       s.claveHost ≠ some s.cycle) ∧ State.reset.tabor.toNat < 1 ∧ State.reset.claveArmed = false ∧
    ({ State.reset with hostUp := true } : State).hostReaches = true ∧ State.reset.hostReaches = false ∧
    State.reset.cycle = State.reset.claveSince ∧ ({ State.reset with cycle := 1 } : State).cycle ≠ State.reset.claveSince ∧
    State.reset.claveSince + 64 ≤ State.reset.cycle + 64 ∧
    (∀ b, ({ State.reset with claveTicks := [(0, b), (1, b)] } : State).claveTicks[0]? = some (0, b)) := by
  refine ⟨rfl, rfl, by decide, by decide, rfl, rfl, rfl, rfl, by decide, by decide, fun b => rfl⟩

/-- A package whose port 0 is in some state. -/
def ported (p : Port) : State := { State.reset with ports := [(0, p)] }

theorem witness_PortEvents : (∀ p, ((ported p).port 0) = p) ∧ ({ Port.off with st := .training } : Port).st = .training ∧
    (∀ st ∈ [PortState.up, .degraded, .retrying], ({ Port.off with st := st } : Port).works = true) ∧ 8 ≤ ({ Port.off with tries := 8 } : Port).tries := by
  refine ⟨fun p => rfl, rfl, by decide, by decide⟩

set_option maxRecDepth 100000 in
/-- A flit numbered 0 is the expected one after training; numbered 1 it is out of sequence; with a wrong CRC it fails its check. -/
theorem witness_FlitsPass :
    let up := { Port.off with st := .up }
    (ported up).port 0 = up ∧ up.works = true ∧ (flitHeader (makeFlit ⟨0, 4095, false, false, false, 4⟩ [1, 0, 0, 0])).seq = (up.rxSeq + 1) % 4096 ∧
    flitOk (makeFlit ⟨0, 4095, false, false, false, 4⟩ [1, 0, 0, 0]) = true ∧
    (flitHeader (makeFlit ⟨0, 4095, true, false, false, 0⟩ [])).idle = true ∧
    (flitHeader (makeFlit ⟨1, 4095, false, false, false, 4⟩ [1, 0, 0, 0])).seq ≠ (up.rxSeq + 1) % 4096 ∧
    flitOk [] = false ∧
    (let p := { up with buf := [(0, [])], resend := 1 }
     0 < p.resend ∧ p.buf[p.buf.length - p.resend]? = some (0, [])) ∧ ({ up with out := [5] } : Port).out ≠ [] ∧
    ({ up with st := .retrying } : Port).works = true ∧ 512 ≤ ({ up with buf := List.replicate 512 (0, []) } : Port).buf.length := by
  refine ⟨rfl, rfl, by decide, by decide, by decide, by decide, by decide, by decide, by decide, rfl, by simp⟩

/-- A package with one message received. -/
def mailed (m : Msg) : State := { flying { op0 (.st { f0 with mod := 2 }) with elems := [elem0 0] } with
  inbox := [m], master := Config.package + 1, gang := [Config.package]
  pend := [(9, ⟨⟨3, 0, 1, 9, 0, []⟩, some (1, 0, 0), 0, 0, 4, 5, 0, 0, 0, 0, noOp⟩)] }

/-- A message of each kind, and an operation that an answer completes. -/
theorem witness_MessagesActedOn :
    (∀ k ∈ [1, 3, 4, 6], (mailed ⟨k, 1, 0, 9, 0, []⟩).mailReady ⟨k, 1, 0, 9, 0, []⟩ 16 = true) ∧
    (∀ k, (mailed ⟨k, 1, 0, 9, 0, []⟩).mail 0 k = some ⟨k, 1, 0, 9, 0, []⟩ ∧
      ((mailed ⟨k, 1, 0, 9, 0, []⟩).readMail 0).pend.find? 9 = some ⟨⟨3, 0, 1, 9, 0, []⟩, some (1, 0, 0), 0, 0, 4, 5, 0, 0, 0, 0, noOp⟩ ∧
      (mailed ⟨k, 1, 0, 9, 0, []⟩).op? 5 = some { op0 (.st { f0 with mod := 2 }) with elems := [elem0 0] } ∧
      (mailed ⟨k, 1, 0, 9, 0, []⟩).gang ≠ []) ∧ (mailed ⟨7, 1, 0, 9, 0, []⟩).master ≠ Config.package ∧
      ¬(0 < (mailed ⟨9, 1, 0, 9, 0, []⟩).tabor.toNat) ∧ (0 < noOp) ∧ (4 + 3) / 4 = ([7] : List Word).length := by
  refine ⟨by decide, fun k => ⟨?_, rfl, rfl, by simp [mailed]⟩, by simp [mailed], by decide, by decide, by decide⟩
  simp [State.mail, mailed]

/-- Tabor messages at the master (t1 = 3 at its leaving, stamped 5) and at the package that asked (t3 = 7, t2 - t1 = 2, stamped 9);
gang messages and a Clave firing (R372, R373, R375). -/
theorem witness_MessagesActedOn_time :
    let toMaster : Msg := ⟨7, 1, 0, 9, 0, splitWords 4 3 ++ splitWords 2 5⟩
    let back : Msg := ⟨7, 1, 0, 9, 0, splitWords 2 7 ++ splitWords 2 2 ++ splitWords 2 9⟩
    (∀ m, (mailed m).mail 0 m.kind = some m) ∧ ({ mailed toMaster with master := Config.package } : State).master = Config.package ∧
    toMaster.dword 0 = BitVec.ofNat 64 3 ∧ toMaster.dword 2 = BitVec.ofNat 64 5 ∧ back.dword 0 = BitVec.ofNat 64 7 ∧
    back.dword 1 = BitVec.ofNat 64 5 - BitVec.ofNat 64 3 ∧ back.dword 2 = BitVec.ofNat 64 9 ∧
    (0 ≤ (5 : Dword).toInt - (3 : Dword).toInt ∧ (3 : Dword).toInt - (5 : Dword).toInt < 0) ∧
    (∀ b, (⟨8, 1, 0, 9, 0, gangWords 4 b 7⟩ : Msg).data = gangWords 4 b 7) ∧ 7 < 2 ^ 32 ∧
    (⟨9, 1, 0, 9, 0, splitWords 4 2⟩ : Msg).data = splitWords 4 2 ∧ ¬2 < State.reset.tabor.toNat ∧
    2 < ({ State.reset with tabor := 3 } : State).tabor.toNat ∧ State.reset.recovering = false ∧ (7 : Nat) ∈ [7, 8] ∧
    State.reset.tabor ≤ 5 ∧ 5 < ({ State.reset with tabor := 6 } : State).tabor := by
  refine ⟨fun m => by simp [State.mail, mailed], rfl, by decide, by decide, by decide, by decide, by decide, by decide, fun b => rfl, by decide,
    rfl, by decide, by decide, rfl, by decide, by decide, by decide⟩

theorem witness_PowerAndBoot : State.reset.pwrLim < 2001 ∧ State.reset.stopped = false ∧ supplyOk 585 = true ∧ supplyOk 715 = true ∧
    supplyOk 716 = false ∧ ({ State.reset with stopped := true } : State).stopped = true ∧ State.reset.throttled = false ∧
    State.reset.throttle.throttled = true ∧ State.reset.stage = 0 ∧ ({ State.reset with stage := 3 } : State).stage = 3 ∧
    ({ State.reset with stage := 2 } : State).stage = 2 ∧ (List.replicate 32 (0 : Byte)).length = 32 := by decide

/-- A crew that a vacate stopped at its boundary, its image written to mapped memory (R106 to R109). -/
theorem witness_SaveAndRestore_save :
    let cr := { crew0 { w0 with clause := none } with freezing := true }
    let s := { state0 cr with
      kernels := [(0, { Kernel.probe with save := true })], tlb := [⟨0, 0, 0, 0x1000000, 0, true, true, true⟩]
      ctxs := [(0, { State.reset.ctx 0 with st := .frozen, saveSize := 0x1000000 })] }
    (s.vacated 0).filter (fun e => s.savesOnVacate e.2) = [(1, cr)] ∧ s.crew? 1 = some cr ∧ cr.atBoundary = true ∧
    (s.freezeCrew 1).frozenCrew 1 cr = true ∧ (s.freezeCrew 1).crew? 1 = some cr ∧ (s.ctx 0).st = .frozen := by
  refine ⟨by decide, rfl, by decide, by decide, by decide, rfl⟩

/-- XFORM with A = v16, whose block the wave does not hold (R48, R325). -/
theorem witness_GuardAndBlocks_xform :
    let w := { wExp with seg := [(0, 0)] }
    let s := { state0 (crew0 w) with cores := expanded.cores }
    Issues s (.xform { f0 with a := 16 }) q0 (crew0 w) w ∧ w.active 0 false 0 ≠ 0 ∧ s.expCheck q0 (crew0 w) w [⟨0, 1⟩] = .ok [0] ∧
    w.holds 16 4 = false := by
  refine ⟨issues_of _ _ _ _ rfl rfl, by decide, by decide, by decide⟩

/-- Two lanes that read the same scratchpad bytes share what the first of them read; a lane alone does not (R220). -/
theorem witness_AccessesPerform_alike :
    (([elem0 0, elem0 8].filter (fun x => x.alike (elem0 0) true)).length ≤ 1) ∧
    (([elem0 0, elem0 0].filter (fun x => x.alike (elem0 0) true)).length = 2) := by decide

/-- A package 2 ns ahead runs at half rate: of two nanoseconds one is counted, and 1 ns is left (R372). -/
theorem test_half_rate :
    let s := ({ State.reset with ahead := 2 }.taborTick 1).taborTick 1
    s.tabor = 1 ∧ s.ahead = 1 := by decide

/-- .cas writes only where the old value is the comparand and the new one differs (R223). -/
theorem test_cas : atomWrites 8 5 5 5 = false ∧ atomWrites 8 5 5 6 = true ∧ atomWrites 8 4 5 6 = false := by decide

set_option maxRecDepth 20000 in
/-- All eight tiles in use: a name of the wave's own has one, another has none; likewise 256 slots (R280, R320). -/
theorem witness_TileBindingIssues_full :
    let k : Machine.Core := { Machine.Core.empty with
      tiles := (List.range 8).map (fun n => (n, ⟨false, [], [], true, []⟩)), exps := (List.range 256).map (fun n => (n, Exp.empty)) }
    let full := { state0 (crew0 { wTile with exps := [(0, 0)] }) with cores := [(0, k)] }
    let w := { wTile with exps := [(0, 0)] }
    (∀ i, IssuesWave full i [] q0 (crew0 w) w) ∧ full.tileRoom 0 w 0 = true ∧ full.tileRoom 0 w 1 = false ∧ tiled.tileRoom 0 wTile 1 = true ∧
    full.expRoom 0 w 0 = true ∧ full.expRoom 0 w 1 = false ∧ expanded.expRoom 0 wExp 2 = true ∧ ({ f0 with mod := 1 } : Fields).mb 0 2 ≠ 2 := by
  refine ⟨fun i => wave_of _ _ _ _ _ rfl rfl (by simp), rfl, by decide, by decide, rfl, by decide, by decide, by decide⟩

/-- CENUM of the crew; an E of 128 lanes and one above. -/
theorem witness_CarillonIssues_crew : ({ f0 with mod := 8 } : Fields).m 3 = true ∧ f0.m 3 = false ∧ wAll.sm.find? 0 = none ∧
    wAll.inChunk = false ∧ ∀ i, IssuesWave (state0 (crew0 wAll)) i [] q0 (crew0 wAll) wAll :=
  ⟨rfl, rfl, rfl, rfl, fun i => wave_of _ _ _ _ _ rfl rfl (by simp)⟩

/-- XEVAL of a register of KIND 1, of KIND 0, and one whose B the wave does not hold (R325, R48). -/
theorem witness_ExpansionIssues_eval :
    let none_ := { expanded with cores := [(0, { Machine.Core.empty with exps := [(0, Exp.empty), (1, Exp.empty)] })] }
    let w := { wExp with seg := [(0, 0)] }
    let s := { state0 (crew0 w) with cores := expanded.cores }
    (∀ i, IssuesLanes expanded i false 0 [] q0 (crew0 wExp) wExp 0xF) ∧ (expanded.exp 0 0).kind ≠ 0 ∧ wExp.holds 16 4 = true ∧
    wExp.holds 252 4 = true ∧ (∀ i, IssuesLanes none_ i false 0 [] q0 (crew0 wExp) wExp 0xF) ∧
    none_.expCheck q0 (crew0 wExp) wExp [⟨0, 0⟩] = .ok [0] ∧ (none_.exp 0 0).kind = 0 ∧
    Issues s (.xeval { f0 with b := 16 }) q0 (crew0 w) w ∧ w.active 0 false 0 ≠ 0 ∧ s.expCheck q0 (crew0 w) w [⟨0, 0⟩] = .ok [0] ∧
    (s.exp 0 0).kind ≠ 0 ∧ w.holds 16 4 = false := by
  refine ⟨fun i => ⟨issues_of _ _ _ _ rfl rfl, by decide, by decide, by simp [Holds]⟩, by decide, by decide, by decide,
    fun i => ⟨issues_of _ _ _ _ rfl rfl, by decide, by decide, by simp [Holds]⟩, by decide, by decide, issues_of _ _ _ _ rfl rfl,
    by decide, by decide, by decide, by decide⟩

/-- The header that JOIN reads is fetched through a translation that holds no walk (R90). -/
theorem witness_JoinsAndExit_fetch : joining.walkHeld 0 0 0x10 Need.fetch = false ∧
    (joining.dropLacking 0 0 0x10 Need.fetch).fetchWord (crew0 joining.wJoin) 0x10
      ((joining.dropLacking 0 0 0x10 Need.fetch).cachedClause (crew0 joining.wJoin) 0x10).head? = .ok 0x7000000000030000 := by decide

/-- GPW's graph record is read and its parameter written without a walk that an engine's line holds (R90, R139). -/
theorem witness_SnapAndGpw_walks :
    let w := { w0 with sr := [(10, 1)] }
    let s := { mapped (crew0 w) with kernels := [(0, { Kernel.probe with graph := 0x100 })], mem := [(0x108, 0), (0x109, 2)] }
    let s1 := s.dropLacking 0 0 0x108 Need.read
    s.walkHeld 0 0 0x108 Need.read = false ∧ s1.walkHeld 0 0 0x218 Need.write = false ∧ s1.translate 0 0 0x218 Need.write = .ok 0x218 := by
  decide

set_option maxRecDepth 20000 in
/-- A queued CPY whose destination needs no held walk; its second unit of 16 bytes as it is written into the scratchpad, and as it is
written to device memory with its lines owned and in turn, and not owned; an end and a unit before it (R251, R264). -/
theorem witness_EngineTurns_units :
    let at_ (h : BitVec 16) : Op := { op0 (.cpy { f0 with mod := h * 1024 }) with st := .active, len := 272, off := 256, av := 0, dv := 0x800 }
    let irr := { crew0 w0 with task := .irrevocable }
    let units (o : Op) : Option (Tab Byte) :=
      match ((flying o).gather 5 o 0 (o.unitSources 256 272)).bind (fun t => (flying o).readAhead 5 { o with buf := t } 0 256 272) with
      | .ok tab => some tab
      | _ => none
    let out (o : Op) (tab : Tab Byte) := o.unitOut tab 256 272 (fun _ => 0) (fun _ => 0)
    (flying (op0 (.cpy f0))).destHeld (op0 (.cpy f0)) 0 16 = false ∧ (units (at_ 0)).isSome = true ∧ (at_ 0).dir = 0 ∧ (at_ 1).dir ≠ 0 ∧
    (at_ 0).off < (at_ 0).len ∧ isTensor (at_ 0).instr = false ∧ irr.direct = true ∧
    (match units (at_ 1) with
      | some tab =>
        !(flying (at_ 1)).runsHeld 0 0 (out (at_ 1) tab) && (match (flying (at_ 1)).writeRuns (at_ 1) 0 (out (at_ 1) tab) with
          | .ok l => !(runLines l).all (fun x => (at_ 1).lines.contains x) && l.all (fun r => !(flying (at_ 1)).cutOff r.1 && homeOf r.1 == .hbm)
            && (runLines l).all (fun x => ({ flying (at_ 1) with owners := (runLines l).map (fun y => (y, [5])) } : State).turnOf 5 x)
          | _ => false)
      | none => false) = true ∧
    copyFields (at_ 0).instr = some f0 ∧ f0.kc = false ∧ (flying (at_ 0)).noBarrier 1 0 = true ∧ barred.noBarrier 1 65520 = false ∧
    271 < (at_ 0).len ∧ (at_ 0).len ≤ 272 := by
  refine ⟨by decide, by decide, by decide, by decide, by decide, by decide, by decide, by decide, rfl, rfl, by decide, by decide, by decide, by decide⟩

/-- The slot of a trap record is reached without a held walk (R90). -/
theorem witness_TaskAndTrapEvents_slot : (mapped (crew0 w0)).walkHeld 0 0 ((mapped (crew0 w0)).ctx 0).trapSlot ⟨true, true, false⟩ = false := by
  decide

/-- A destroyed context's frame enters an empty quarantine (R101); a save area off 256 bytes. -/
theorem witness_ContextRequests_destroy : (inState .saved).quarantined 0 < quarantineSize ∧ 0x180 % 256 ≠ 0 ∧ 63 < (64 : Nat) ∧
    (∀ c ∈ [CtxState.created, .loaded, .runnable, .saved, .lost], ((inState c).ctx 0).st = c) := by decide

/-- Vacates of core 0: the only crew of the context saves, or another crew stays on core 1, or the crew is requeued (R106, R107). -/
theorem witness_SaveAndRestore_vacate :
    let cr := crew0 { w0 with clause := none }
    let kept := { state0 cr with kernels := [(0, { Kernel.probe with save := true })] }
    let two := { kept with crews := [(1, cr), (2, { cr with core := 1 })] }
    let stop (s : State) : State := { s with crews := s.crews.mapV (fun _ c => if c.core = 0 then { c with freezing := true } else c) }
    (kept.ctx 0).st = .running ∧ kept.recovering = false ∧ (∀ e ∈ (stop kept).crews, e.2.freezing = true ∧ (stop kept).savesOnVacate e.2 = true) ∧
    (∃ e ∈ (stop two).crews, e.2.freezing = false) ∧ (∀ e ∈ (stop kept).vacated 0, (stop kept).savesOnVacate e.2 = true) ∧
    (state0 cr).crews = [(1, cr)] ∧ cr.ctx = 0 ∧ cr.core ∈ [0] ∧ (state0 cr).kernelFailed cr = false ∧ (state0 cr).savesOnVacate cr = false ∧
    cr.atBoundary = true ∧ (state0 cr).crew? 1 = some cr ∧ (state0 cr).kernel? cr.kernel = some Kernel.probe ∧ Kernel.probe.pinned = false := by
  refine ⟨by decide, by decide, by decide, ⟨_, List.mem_cons_of_mem _ List.mem_cons_self, by decide⟩, by decide, rfl, rfl, by decide, by decide,
    by decide, by decide, rfl, rfl, rfl⟩

/-- A command is read and started without a held walk (R90). -/
theorem witness_QueueCommands_walks : (queued .ready []).rangeHeld 0 0 Need.read 0 64 = false ∧
    (queued .ready []).commandHeld 0 (Packet.ofNat 0) = false := by decide

/-- A kernel's record of which the address is at another package, sent, and acknowledged (R134, R366). -/
theorem witness_KernelEvents_record :
    let far := { kerneled Kernel.probe with tlb := [⟨0, 0, 0, 4096, 2 ^ 50, true, true, true⟩], ports := [(0, { Port.off with st := .up })] }
    let sent := { Kernel.probe with st := .retiring, recording := some 9 }
    Kernel.probe.recording = none ∧ (kerneled Kernel.probe).walkHeld 0 0 0 Need.write = false ∧
    (kerneled Kernel.probe).rangeHeld 0 0 Need.write 0xFF8 12 = false ∧
    (match far.translate 0 0 0 Need.write with | .ok pa => decide (Config.hbmBytes ≤ pa) && far.unowned pa 32 | _ => false) = true ∧
    far.openPort ≠ none ∧ (kerneled sent).kernelQuiet sent = true ∧ (kerneled sent).pend.find? 9 = none ∧
    (({ kerneled sent with pend := [(9, ⟨⟨3, 0, 1, 9, 0, []⟩, none, 0, 0, 4, 5, 0, 0, 0, 0, noOp⟩)] } : State).pend.find? 9).isSome = true := by
  decide

/-- A walk that an instruction about to issue began and that has met an entry it cannot use; one that may go on; an operation whose energy
goes to its kernel (R356, R113, R135). -/
theorem witness_PagesAndTranslations_own : (⟨0, 0, 0, 4, 0, 0, none, true, some Cause.pageFault⟩ : Walk).fault ≠ none ∧
    (paging.walks[0]?).map (·.fault) = some none ∧ isRequest (op0 (.lds f0)) = false ∧
    (flying (op0 (.lds f0))).crew? (op0 (.lds f0)).crew = some (crew0 w0) := by decide

set_option maxRecDepth 8000 in
/-- A kick that needs no held walk, a ring with no request left, one whose engines are all busy, and a slot that has ended (R271 to R273). -/
theorem witness_TransformRings_waits : ringed.kickHeld 0 0 1 none = false ∧
    (∃ r, (ringed.ctx 0).rings.find? 0 = some r ∧ r.ridx = r.widx) ∧
    (∃ r, (ringHalted.ctx 0).rings.find? 0 = some r ∧ r.halted ≠ []) ∧
    4 ≤ ({ ringed with ops := (List.range 4).map (fun n => (n, { op0 (.transformRequestStart 0 0) with st := .active, entry := 0 })) } : State).enginesBusy 0 ∧
    kicked.walkHeld 0 0 0x2000 Need.write = false ∧
    (∃ r : Ring, r.ended.find? 0 = some (1, 0, 7, 0, 0)) := by
  refine ⟨by decide, ⟨_, rfl, rfl⟩, ⟨_, rfl, by decide⟩, by decide, by decide, ⟨⟨0, 0, 0, 4, 0, 0, 0, 0, [], [], [(0, (1, 0, 7, 0, 0))], 0, none, 0⟩, rfl⟩⟩

/-- The pool's descriptor, its word and the ring's slot are reached without a held walk (R90, R346). -/
theorem witness_UnitAndPoolTurns_walks : let s := mapped (crew0 w0)
    s.walkHeld 0 0 0x100 Need.read = false ∧ s.walkHeld 0 0 0x114 Need.atomic = false ∧ s.walkHeld 0 0 0 Need.write = false := by decide

/-- A time message that leaves in the next beat takes its stamp there (R372). -/
theorem witness_FlitsPass_time :
    let m : Msg := ⟨7, 0, 1, 9, 0, splitWords 4 0⟩
    ({ Port.off with st := .up, msgs := [m], out := m.words } : Port).msgs = [m] ∧ m.kind = 7 ∧
    ((m.words.set 4 (BitVec.ofNat 32 7)).set 5 (BitVec.ofNat 32 0)).length = m.words.length := by decide

/-- A write of a guarded line, 67 data words, and answers whose operation has ended or is an SC (R366, R265, R95). -/
theorem witness_MessagesActedOn_answers :
    let guarded : Msg := ⟨3, 1, 0, 9, 0, List.replicate 67 0⟩
    let sc := { op0 (.sc f0) with elems := [elem0 0] }
    guarded.data.length = 67 ∧ (mailed guarded).mailReady guarded 256 = true ∧ (mailed guarded).mail 0 3 = some guarded ∧
    ({ mailed guarded with ops := [] } : State).op? 5 = none ∧ (flying sc).op? 5 = some sc ∧ sc.instr = .sc f0 ∧ sc.elems[0]? = some (elem0 0) ∧
    (∀ f, (op0 (.st f0)).instr ≠ .sc f) ∧ (∀ f, (op0 (.st f0)).instr ≠ .atom f) ∧ (3 : Nat) ≠ 1 := by
  refine ⟨by decide, by decide, by decide, rfl, rfl, rfl, rfl, ?_, ?_, by decide⟩ <;> intro f h <;> cases h

/-- The bounds of the supply and of the junction (R384). -/
theorem witness_PowerAndBoot_bounds : (584 : Nat) < 585 ∧ 715 < (716 : Nat) ∧ (114 : Nat) < 115 ∧ supplyOk 584 = false := by decide

end Sys2Proof.Tests
end

section
/-!
An agent's write to this package's HBM: what memory becomes, what each byte reads as, and that the canonical form stays.
-/

namespace Sys2Proof.Machine

open Sys2Proof Sys2Proof.Safety

/-- What an agent writes to this package's HBM is in memory as one run of bytes; the invalidations, reservations and queues that
join the write (R86, R95, R120) leave memory alone. -/
theorem State.mem_agentWrite (s : State) (pa : Nat) (bs : List Byte) (h : homeOf pa = .hbm) :
    (s.agentWrite pa bs).mem = s.mem.wrBytes pa bs :=
  State.mem_commitBytes s none none pa bs h

theorem State.rd_mem_agentWrite (s : State) (pa : Nat) (bs : List Byte) (h : homeOf pa = .hbm) (a : Nat) :
    (s.agentWrite pa bs).mem.rd 0 a = if pa ≤ a ∧ a < pa + bs.length then bs.getD (a - pa) 0 else s.mem.rd 0 a := by
  rw [State.mem_agentWrite s pa bs h, Tab.rd_wrBytes]

theorem memoryCanonical_agentWrite (s : State) (pa : Nat) (bs : List Byte) (h : homeOf pa = .hbm) (hs : MemoryCanonical s) :
    MemoryCanonical (s.agentWrite pa bs) := by
  unfold MemoryCanonical Memory.wf at hs ⊢
  rw [State.mem_agentWrite s pa bs h]
  exact Tab.wf_wrBytes s.mem pa bs hs

/-- Settles O8: the write is one run of bytes in memory, and a run reads back, frames and keeps the canonical form. -/
theorem memoryReadsBack : Obligations.MemoryReadsBack := by
  unfold Obligations.MemoryReadsBack
  intro s pa bs h
  exact ⟨State.rd_mem_agentWrite s pa bs h, memoryCanonical_agentWrite s pa bs h⟩

end Sys2Proof.Machine
end

section
/-!
Encoding: the two directions of R60 to R67, the terminal instructions of a clause (R53), FS of a short-latency word (R58), and words
that the spec writes out.
-/

namespace Sys2Proof.Laws.Encoding

open Sys2Proof

/-- The encoder's and the decoder's tables agree on every instruction. -/
theorem statement_all (i : Instr) : Statement i :=
  Instr.casesOn (motive := Statement) i
    iadd iaddImm isub isubImm iadds iaddsImm imul imulImm imad imin iminImm imax imaxImm iand iandImm ior iorImm ixor ixorImm
    ishl ishlImm ishr ishrImm isra israImm irot irotImm iabs inot ipopc iclz ibrev ibfe ibfi icmp fadd faddImm fsub fsubImm
    fmul fmulImm ffma fmin fminImm fmax fmaxImm fabs fneg fcmp fclass fscale fround fsqrt frcp frsq fexp2 flog2 cvt cvtq cvtx
    mov movImm ldi sel movs bcast shfl shflImm vote ballot redux scanw bfly bfly4 cmul twid rdtime ld lds st sts atom atoms
    lr sc red gath scat confl fence fencew pref stw mma mmas mmsm aresc mmask azero ald ast mside cpy cpyt cpyg rcfence kick
    cenum cpred cmerge cexit cseal ccomp cres cabort acomp xord xordImm xclr xform xshift xm2l xlsh xeval xadm xld xst
    tkmatch tkmerge tkunmerge tksize nop yield bra brx ret call join joinw joinwImm exit trap rbacq rbrel rbqry binit bar
    bara barw barx barxImm barq htest hwait hcan hmov wwait sysr sysw eret tend tabrt tirrev tlbinv quiesce icinv engrd engwr
    snap gpw beam proot clauseFetch fairnessSwitch reservationExpiry strandWake joinwExpiry wwaitDeadline rbacqGrant
    segmentReturn waveRetire accessPerform writeQueueDrain invalidationApply fenceCompletion reductionApply engineSourceRead
    engineUnitWrite longLatencyCompletion mmasStep copyPerform copyUnitWrite shapeCacheDrop engqResume engqCancel engqRebuild
    taskCommit trapRecordDelivery hostTrapFinish contextCreate contextLoad contextAdmit crewPlace stealMessage vacate
    saveComplete contextRestore restoreLoad declareLost contextDestroy destroyPerform quarantineRetired queueEnable
    queueDisable queueResume doorbell noopCommand launchCommand waitCommand signalCommand replayCommand kernelStartTick
    kernelDrained kernelCancel registerWrite hostApertureAccess frameRelease frameFree quiescenceRequest pageWalk
    translationFill translationDrop transformKick transformRequestStart transformComplete transformResume transformCancel
    gOperationCompletion prootCompletion poolPageFree claveFireHost claveFireManagement claveTaborMatch snapTickFire
    claveLatchDone portEnable portDisable trainingDone trainingFailed laneLoss retryLimit flitSend flitReceive ackTimeout
    readRequest readResponse writeMessage atomicMessage endToEndAck wakeWrite taborSynchronisation taborSyncTimer
    gangStartOrAbort claveFiring pstatReplaysRead mctpCommand attestationRequest boot hostLinkChange powerLimitThrottle
    thermalThrottle throttleEnd emergencyStop computeRestart cxlDeviceLost eventDelivery eacctUpdate trapHandlerDesignation
    roleRebinding transformRingRegistration gangFormation

end Sys2Proof.Laws.Encoding

namespace Sys2Proof

open Sys2Proof.Machine Sys2Proof.Laws.Encoding

/-! ## Decoding by form -/

theorem wf_eq_encOk (i : Instr) (h : opcodeOf i ≠ none) : i.wf = encOk i := by
  unfold Instr.wf
  cases ho : opcodeOf i with
  | none => exact absurd ho h
  | some p => rfl

/-- The word of an instruction of the register form, from its own class, opcode and fields. -/
theorem encode_reg (i : Instr) (cls opc : Nat) (f : Fields) (ho : opcodeOf i = some (cls, opc)) (hf : fieldsOf i = some f) :
    encode i = some (cls, packFields opc f) := by
  simp only [encode, ho, hf]

/-- The word of an instruction of the immediate form. -/
theorem encode_imm (i : Instr) (cls opc : Nat) (f : ImmFields) (ho : opcodeOf i = some (cls, opc)) (hf : fieldsOf i = none)
    (hi : immOf i = some f) : encode i = some (cls, packImm opc f) := by
  simp only [encode, ho, hf, hi]

/-- A word whose class and opcode name a register form decodes to that form of its fields, if well formed (R60, R67). -/
theorem decodeWord_reg (cls : Nat) (w : Dword) (mk : Fields → Instr) (hc : cls < 9)
    (h : formOf cls (w.extractLsb' 56 8).toNat = some (.reg mk)) :
    decodeWord cls w = if (mk (readFields w)).wf then .ok (mk (readFields w)) else .error .badFields := by
  simp only [decodeWord, if_neg (Nat.not_le.2 hc), h]

/-- The same of an immediate form, whose bits 17 and 16 are 0 (R65). -/
theorem decodeWord_imm (cls : Nat) (w : Dword) (mk : ImmFields → Instr) (hc : cls < 9)
    (h : formOf cls (w.extractLsb' 56 8).toNat = some (.imm mk)) :
    decodeWord cls w = if w.getLsbD 17 || w.getLsbD 16 then .error .immediateClassBits
      else if (mk (readImm w)).wf then .ok (mk (readImm w)) else .error .badFields := by
  simp only [decodeWord, if_neg (Nat.not_le.2 hc), h]

/-- An accepted word is of a register form, whose fields it holds and which is well formed, or of an immediate form (R65, R67). -/
theorem decodeWord_ok (cls : Nat) (w : Dword) (i : Instr) (h : decodeWord cls w = .ok i) :
    (∃ mk, formOf cls (w.extractLsb' 56 8).toNat = some (.reg mk) ∧ i = mk (readFields w) ∧ i.wf = true) ∨
    (∃ mk, formOf cls (w.extractLsb' 56 8).toNat = some (.imm mk) ∧ (w.getLsbD 17 || w.getLsbD 16) = false ∧
      i = mk (readImm w) ∧ i.wf = true) := by
  by_cases hc : 9 ≤ cls
  · simp [decodeWord, hc] at h
  rw [Nat.not_le] at hc
  cases hf : formOf cls (w.extractLsb' 56 8).toNat with
  | none => simp only [decodeWord, if_neg (Nat.not_le.2 hc), hf, reduceCtorEq] at h
  | some form =>
    cases form with
    | reg mk =>
      rw [decodeWord_reg cls w mk hc hf] at h
      split at h
      next hw => cases h; exact .inl ⟨mk, rfl, rfl, hw⟩
      next => cases h
    | imm mk =>
      rw [decodeWord_imm cls w mk hc hf] at h
      split at h
      next => cases h
      next hk =>
        split at h
        next hw => cases h; exact .inr ⟨mk, rfl, by simpa using hk, rfl, hw⟩
        next => cases h

/-- A packed register form decodes to its instruction. -/
theorem decodeWord_packFields (cls opc : Nat) (mk : Fields → Instr) (f : Fields) (hc : cls < 9) (ho : opc < 256)
    (h : formOf cls opc = some (.reg mk)) (hw : (mk f).wf = true) : decodeWord cls (packFields opc f) = .ok (mk f) := by
  rw [decodeWord_reg cls _ mk hc (by rw [packFields_opcode opc ho]; exact h), readFields_pack, if_pos hw]

/-- A packed immediate form decodes to its instruction. -/
theorem decodeWord_packImm (cls opc : Nat) (mk : ImmFields → Instr) (f : ImmFields) (hc : cls < 9) (ho : opc < 256)
    (h : formOf cls opc = some (.imm mk)) (hw : (mk f).wf = true) : decodeWord cls (packImm opc f) = .ok (mk f) := by
  rw [decodeWord_imm cls _ mk hc (by rw [packImm_opcode opc ho]; exact h), packImm_kb, readImm_pack, if_neg Bool.false_ne_true,
    if_pos hw]

/-- A well-formed instruction with an opcode has an encoding, which decodes to it. -/
theorem encode_decodes (i : Instr) (hw : i.wf = true) (ho : opcodeOf i ≠ none) :
    ∃ cls w, encode i = some (cls, w) ∧ decodeWord cls w = .ok i := by
  obtain ⟨⟨cls, opc⟩, ho⟩ := Option.ne_none_iff_exists'.1 ho
  obtain ⟨hc, hlt, ⟨f, mk, hf, hform, rfl⟩ | ⟨f, mk, hf, hi, hform, rfl⟩⟩ := statement_all i cls opc ho
  · exact ⟨cls, _, encode_reg _ cls opc f ho hf, decodeWord_packFields cls opc mk f hc hlt hform hw⟩
  · exact ⟨cls, _, encode_imm _ cls opc f ho hf hi, decodeWord_packImm cls opc mk f hc hlt hform hw⟩

theorem opcodeOf_of_encode (i : Instr) (p : Nat × Dword) (h : encode i = some p) : opcodeOf i ≠ none := by
  intro ho
  simp [encode, ho] at h

/-- Settles O1: the tables agree on every instruction, and each form reads back the fields it packs. -/
theorem encodeDecode : Obligations.EncodeDecode := by
  unfold Obligations.EncodeDecode
  intro i hw
  refine ⟨fun ho => ?_, fun cls w he => ?_⟩
  · obtain ⟨cls, w, he, _⟩ := encode_decodes i hw ho
    exact ⟨cls, w, he⟩
  · obtain ⟨cls', w', he', hd⟩ := encode_decodes i hw (opcodeOf_of_encode i _ he)
    cases he.symm.trans he'
    exact hd

/-- Settles O2: the decoded form names the word's class and opcode, and packing the fields it read drops no bit. -/
theorem decodeEncode : Obligations.DecodeEncode := by
  unfold Obligations.DecodeEncode
  intro cls w i h
  obtain ⟨mk, hform, rfl, hw⟩ | ⟨mk, hform, hk, rfl, hw⟩ := decodeWord_ok cls w i h
  · obtain ⟨ho, hf⟩ := formOf_reg cls _ mk hform (readFields w)
    exact ⟨by rw [encode_reg _ _ _ _ ho hf, pack_readFields], hw⟩
  · obtain ⟨ho, hf, hi⟩ := formOf_imm cls _ mk hform (readImm w)
    exact ⟨by rw [encode_imm _ _ _ _ ho hf hi, pack_readImm w hk], hw⟩

/-! ## Clauses -/

/-- What an accepted clause has met: its words decode one by one, and the rules over them together hold (R52). -/
theorem decodeClause_ok (hw : Dword) (ws : List Dword) (h : Header) (is : List Instr) (hd : decodeClause hw ws = .ok (h, is)) :
    decodeWords h.cls ws = .ok is ∧ clauseError h is = none := by
  simp only [decodeClause] at hd
  split at hd
  next => cases hd
  next =>
    split at hd
    next => cases hd
    next js hj =>
      split at hd
      next => cases hd
      next hc => cases hd; exact ⟨hj, hc⟩

/-- In a clause without an error only the last instruction is terminal (R53). -/
theorem terminal_last (h : Header) (is : List Instr) (hc : clauseError h is = none) (n : Nat) (i : Instr) (hi : is[n]? = some i)
    (ht : terminal i = true) : n + 1 = is.length := by
  unfold clauseError at hc
  split at hc
  next => cases hc
  next =>
    split at hc
    next => cases hc
    next hd =>
      obtain ⟨hn, rfl⟩ := List.getElem?_eq_some_iff.1 hi
      by_contra hne
      have hlt : n < is.dropLast.length := by rw [List.length_dropLast]; omega
      exact hd (List.any_eq_true.2 ⟨is[n], List.getElem_dropLast hlt ▸ List.getElem_mem hlt, ht⟩)

/-- Settles O4: the list is the definition's, and a clause with a terminal word before its last has an error. -/
theorem terminalsEndTheClause : Obligations.TerminalsEndTheClause := by
  unfold Obligations.TerminalsEndTheClause
  refine ⟨fun i => by cases i <;> simp [terminal], fun hw ws h is hd => ?_⟩
  obtain ⟨hws, hc⟩ := decodeClause_ok hw ws h is hd
  exact ⟨decodeWords_length h.cls ws is hws, terminal_last h is hc⟩

/-! ## FS -/

/-- The check of a short-latency instruction of the register form reserves modifier bit 15 (R58, R63). -/
theorem encOk_short (i : Instr) (f : Fields) (hf : fieldsOf i = some f) (hs : longLatency i = false) :
    ∃ lane d a b c mask e, encOk i = chk lane f d a b c mask e ∧ mask.getLsbD 15 = false := by
  cases i with
  | iadd g | isub g | iadds g | imul g | imad g | imin g | imax g | iand g | ior g | ixor g | ishl g | ishr g | isra g
  | irot g | iabs g | inot g | ipopc g | iclz g | ibrev g | ibfe g | ibfi g | icmp g | fadd g | fsub g | fmul g | ffma g
  | fmin g | fmax g | fabs g | fneg g | fcmp g | fclass g | fscale g | fround g | fsqrt g | frcp g | frsq g | fexp2 g
  | flog2 g | cvt g | cvtq g | cvtx g | mov g | sel g | movs g | bcast g | shfl g | vote g | ballot g | redux g | scanw g
  | bfly g | bfly4 g | cmul g | twid g | rdtime g | nop g | yield g | brx g | ret g | join g | joinw g | exit g | rbacq g
  | rbrel g | rbqry g | binit g | bar g | bara g | barw g | barx g | barq g | htest g | hwait g | hcan g | hmov g | wwait g
  | sysr g | sysw g | eret g | tend g | tabrt g | tirrev g | engrd g | engwr g | snap g | gpw g =>
    cases hf
    exact ⟨_, _, _, _, _, _, _, rfl, rfl⟩
  | _ => simp [fieldsOf, longLatency, opcodeOf] at hf hs

/-- The flag an operation counts against is the one FS selects of the clause header's two (R58). -/
theorem newOp_flag (s : State) (q : Cursor) (cr : Crew) (w : Wave) (i : Instr) (lanes : LaneMask) (f : Fields) (cl : Clause)
    (hf : fieldsOf i = some f) (hc : w.clause = some cl) :
    (newOp s q cr w i lanes).flag = if f.mod.getLsbD 15 then cl.hdr.bflag else cl.hdr.aflag := by
  simp only [newOp, hc, flagOf, fsOf, hf, Option.elim_some, Fields.fs, Fields.m]

/-- Settles O5: the operation's flag is read from the header by FS, and the masks of short-latency entries leave bit 15 out. -/
theorem flagSelect : Obligations.FlagSelect := by
  unfold Obligations.FlagSelect
  refine ⟨fun s q cr w i f lanes cl _ hf hc => ?_, fun i f ho hf hs hb => ?_⟩
  · rw [newOp_flag s q cr w i lanes f cl hf hc]
    exact ⟨fun h => by rw [h, if_neg Bool.false_ne_true], fun h => by rw [h, if_pos rfl]⟩
  · obtain ⟨lane, d, a, b, c, mask, e, hk, hm⟩ := encOk_short i f hf hs
    rw [wf_eq_encOk i ho, hk]
    exact chk_bit15 lane f d a b c mask e hb hm

/-! ## Words -/

/-- Settles O3: each word is decoded. -/
theorem specWordsDecode : Obligations.SpecWordsDecode := by
  unfold Obligations.SpecWordsDecode
  exact ⟨by decide, by decide, by decide, by decide, by decide, by decide, by decide, by decide, by decide⟩

end Sys2Proof
end

section
/-!
One step: the turn it takes and what each kind of turn does (log 1), and the issue of the next word of a started clause (R54).
-/

namespace Sys2Proof.Machine

open Sys2Proof Host

/-! ## The turn -/

theorem State.turn_cons (s : State) (t : Turn) (l : List Turn) (h : s.agenda = t :: l) : s.turn = t := by
  simp only [State.turn, h]

theorem State.taken_cons (s : State) (t : Turn) (l : List Turn) (h : s.agenda = t :: l) : s.taken = { s with agenda := l } := by
  simp only [State.taken, h, List.tail_cons]

theorem State.turn_withFetchWord (s : State) (nbits w : Nat) : (s.withFetchWord nbits w).turn = .issue (s.next + 1) 0 :=
  State.turn_cons _ _ s.agenda rfl

theorem step_event (s : State) (i : Instr) (h : s.turn = .event i) : step s = exec i s.taken := by
  simp only [step, h]

theorem step_tick (s : State) (a b : Nat) (h : s.turn = .tick a b) : step s = .next (s.taken.tick a b) := by
  simp only [step, h]

theorem step_forget (s : State) (c n : Nat) (h : s.turn = .forget c n) : step s = .next (s.taken.forgetClause c n) := by
  simp only [step, h]

theorem step_hostRead (s : State) (fn bar off : Nat) (h : s.turn = .hostRead fn bar off) :
    step s = .next (s.taken.hostReadReg fn bar off) := by
  simp only [step, h]

theorem step_readError (s : State) (o n : Nat) (h : s.turn = .readError o n) : step s = .next (s.taken.readError o n) := by
  simp only [step, h]

theorem step_windowWrite (s : State) (h : s.turn = .windowWrite) : step s = .next s.taken.windowWrite := by
  simp only [step, h]

/-! ## Issue -/

/-- The state in which a wave's next instruction `i` runs: its rights dropped that it lacks, its word taken from the clause, whose
words `ds` are left. -/
def State.issuing (s : State) (c w : Nat) (wv : Wave) (cl : Clause) (i : Instr) (ds : List Dword) : State :=
  { (s.dropIssue c wv cl.strand i).modWave c w (fun x => { x with clause := some { cl with rest := ds } }) with
    cur := some ⟨c, w, cl.strand, false⟩ }

/-- A reservation that has not run out holds nothing back (R150). -/
theorem not_expired (st : Strand) (h : st.resv = none ∨ st.since < 64) : (st.resv.isSome && decide (64 ≤ st.since)) = false := by
  rcases h with h | h
  · simp [h]
  · simp [Nat.not_le.2 h]

/-- The next word of a started clause, with nothing to hold it, begins to issue. -/
theorem State.beginIssue_decoded (s : State) (c w : Nat) (cr : Crew) (wv : Wave) (cl : Clause) (d : Dword) (ds : List Dword)
    (i : Instr) (hc : (s.unstall c w).crew? c = some cr) (hw : (s.unstall c w).wave? c w = some wv) (hcl : wv.clause = some cl)
    (hr : cl.rest = d :: ds) (hs : (s.unstall c w).stopped = false)
    (he : (wv.strand cl.strand).resv = none ∨ (wv.strand cl.strand).since < 64) (hd : decodeWord cl.hdr.cls d = .ok i)
    (hh : (s.unstall c w).issueHeld cr wv cl.strand i = false) :
    s.beginIssue c w = some ((s.unstall c w).issuing c w wv cl i ds, d, i) := by
  simp only [State.beginIssue, hw, hcl, hs, not_expired _ he, Bool.or_false, Bool.false_eq_true, if_false, hr, hd, hc,
    Option.any_some, hh, State.issuing]

/-- A turn that issues runs what begins to issue, and finishes the issue where the run goes on. -/
theorem step_issue_next (s t : State) (c w : Nat) (s1 : State) (d : Dword) (i : Instr) (h : s.turn = .issue c w)
    (hb : s.taken.beginIssue c w = some (s1, d, i)) (ht : exec i s1 = .next t) : step s = .next (t.finishIssue d i) := by
  simp only [step, h, hb, ht]

theorem step_issue_fault (s : State) (c w : Nat) (s1 : State) (d : Dword) (i : Instr) (r : Fault) (h : s.turn = .issue c w)
    (hb : s.taken.beginIssue c w = some (s1, d, i)) (hr : exec i s1 = .fault r) : step s = .fault r := by
  simp only [step, h, hb, hr]

theorem step_issue_refused (s : State) (c w : Nat) (s1 : State) (d : Dword) (i : Instr) (r : Refusal) (h : s.turn = .issue c w)
    (hb : s.taken.beginIssue c w = some (s1, d, i)) (hr : exec i s1 = .refused r) : step s = .refused r := by
  simp only [step, h, hb, hr]

/-- Settles O6: each kind of turn by its own equation; an issue runs the decoded word in the state that `beginIssue` makes. -/
theorem stepRunsDecoded : Obligations.StepRunsDecoded := by
  unfold Obligations.StepRunsDecoded
  refine ⟨?_, step_event, step_tick, step_forget, step_hostRead, step_readError, step_windowWrite,
    fun s t l h => ⟨s.turn_cons t l h, s.taken_cons t l h⟩, State.turn_withFetchWord⟩
  intro s c w cr wv cl d ds i ht s0 hc hw hcl hr hs he hd hh s1
  have hb := State.beginIssue_decoded s.taken c w cr wv cl d ds i hc hw hcl hr hs he hd hh
  exact ⟨fun t => step_issue_next s t c w s1 d i ht hb, fun r => step_issue_fault s c w s1 d i r ht hb,
    fun r => step_issue_refused s c w s1 d i r ht hb⟩

end Sys2Proof.Machine
end

section
/-!
The end of elements and operations: an element's value reaches the registers its operation may still write (R82, R178), and an
operation that ends settles its future, its flag and its entry (R56, R246).
-/

namespace Sys2Proof.Machine

open Sys2Proof Sys2Proof.Safety Host

/-! ## An element's value -/

theorem splitWords_getElem (n v j : Nat) (h : j < (splitWords n v).length) : (splitWords n v)[j] = groupWord v j := by
  simp [splitWords, groupWord, Nat.shiftRight_eq_div_pow]

/-- Distinct keys paired with words: each key gets the word at its place, other keys keep what they had. -/
theorem lastOf_zip (ks : List Nat) (hn : ks.Nodup) (vs : List Word) (hl : ks.length = vs.length) (k : Nat) (d : Word) :
    lastOf (ks.zip vs) k d = if k ∈ ks then vs.getD (ks.idxOf k) 0 else d := by
  induction ks generalizing vs d with
  | nil => rfl
  | cons a ks ih =>
    cases vs with
    | nil => simp at hl
    | cons v vs =>
      obtain ⟨ha, hn⟩ := List.nodup_cons.1 hn
      rw [List.zip_cons_cons, lastOf_cons, ih hn vs (by simpa using hl)]
      by_cases hk : a = k
      · subst hk
        simp [ha]
      · simp [hk, Ne.symm hk, List.idxOf_cons_ne ks hk]

/-- The same where the words are those of one value. -/
theorem lastOf_zip_splitWords (ks : List Nat) (hn : ks.Nodup) (v k : Nat) (d : Word) :
    lastOf (ks.zip (splitWords ks.length v)) k d = if k ∈ ks then groupWord v (ks.idxOf k) else d := by
  have hl : (splitWords ks.length v).length = ks.length := by simp [splitWords]
  rw [lastOf_zip ks hn _ hl.symm]
  split
  next hk =>
    have hi : ks.idxOf k < (splitWords ks.length v).length := by rw [hl]; exact List.idxOf_lt_length_iff.2 hk
    rw [List.getD_eq_getElem _ _ hi, splitWords_getElem]
  next => rfl

/-- Writes of an operation of the wave's present attempt, to destinations it still has, all reach the wave. -/
theorem State.opWrite_owned (s : State) (o : Nat) (op : Op) (cr : Crew) (l : List (Nat × Word)) (ho : s.op? o = some op)
    (hc : s.crew? op.crew = some cr) (ha : cr.attempt = op.attempt) (hl : ∀ e ∈ l, e.1 ∈ op.dsts) :
    s.opWrite o l = s.modWave op.crew op.wave (fun wv => wv.setKeys l) := by
  have hf : l.filter (fun e => op.dsts.contains e.1) = l :=
    List.filter_eq_self.2 fun e he => List.contains_iff_mem.2 (hl e he)
  simp only [State.opWrite, ho, hc, ha, ne_eq, not_true_eq_false, if_false, hf]

theorem State.wave?_modElem (s : State) (o n : Nat) (f : Elem → Elem) (c w : Nat) :
    (s.modElem o n f).wave? c w = s.wave? c w := rfl

/-- Finishing an element is a write of its wave's registers and a change of its operation. -/
theorem State.finishElem_owned (s : State) (o n : Nat) (op : Op) (e : Elem) (cr : Crew) (v : Nat) (ho : s.op? o = some op)
    (hc : s.crew? op.crew = some cr) (ha : cr.attempt = op.attempt) (hd : ∀ k ∈ e.dst, k ∈ op.dsts) :
    s.finishElem o n e v = (s.modWave op.crew op.wave
      (fun wv => wv.setKeys (e.dst.zip (splitWords e.dst.length v)))).modElem o n (fun x => { x with st := .complete }) := by
  have hl : ∀ x ∈ e.dst.zip (splitWords e.dst.length v), x.1 ∈ op.dsts := fun x hx => hd _ (List.of_mem_zip hx).1
  rw [State.finishElem, State.opWrite_owned s o op cr _ ho hc ha hl]

/-! ## An operation's end -/

/-- What the future of operation `o` makes of a handle: one that is pending on it takes the code. -/
def Handle.settle (o code : Nat) (h : Handle) : Handle := if h.op = o ∧ (h.code = 1 ∨ h.code = 2) then { h with code := code } else h

/-- What it makes of a wave: its handles settled, and the strands that wait on one of them to wake (R246). -/
def Wave.settle (o code : Nat) (w : Wave) : Wave :=
  if w.hd.any (fun e => e.2.op == o && (e.2.code == 1 || e.2.code == 2)) then
    let hit := (w.hd.filter (fun e => e.2.op == o && (e.2.code == 1 || e.2.code == 2))).map (·.1)
    let w1 := { w with hd := w.hd.mapV (fun _ => Handle.settle o code) }
    if code = 3 ∨ code = 4 then
      { w1 with strands := w1.strands.mapV (fun _ st =>
          match st.st with
          | .waiting (.future h _) => if hit.contains h then { st with woken := true } else st
          | _ => st) }
    else w1
  else w

/-- A crew of settled waves. -/
def Crew.settle (o code : Nat) (cr : Crew) : Crew := { cr with waves := cr.waves.mapV (fun _ => Wave.settle o code) }

theorem State.crews_future (s : State) (o code : Nat) : (s.future o code).crews = s.crews.mapV (fun _ => Crew.settle o code) := rfl

theorem State.crew?_future (s : State) (o code c : Nat) :
    (s.future o code).crew? c = (s.crew? c).map (Crew.settle o code) := by
  rw [State.crew?, State.crews_future, Tab.find?_mapV, State.crew?]

theorem State.wave?_future (s : State) (o code c w : Nat) : (s.future o code).wave? c w = (s.wave? c w).map (Wave.settle o code) := by
  unfold State.wave?
  rw [State.crew?_future]
  cases s.crew? c with
  | none => rfl
  | some cr => exact Tab.find?_mapV cr.waves (fun _ => Wave.settle o code) w

/-- Settling leaves a wave's registers, predicates and flags. -/
theorem Wave.settle_regs (o code : Nat) (w : Wave) : (w.settle o code).vr = w.vr ∧ (w.settle o code).sr = w.sr ∧
    (w.settle o code).pr = w.pr ∧ (w.settle o code).fl = w.fl := by
  unfold Wave.settle
  split
  · dsimp only
    split <;> exact ⟨rfl, rfl, rfl, rfl⟩
  · exact ⟨rfl, rfl, rfl, rfl⟩

/-- Where a wave has a handle pending on the operation, the table's entries are settled; elsewhere none would change. -/
theorem Wave.settle_hd (o code : Nat) (w : Wave) : (w.settle o code).hd = if w.hd.any (fun e => e.2.op == o &&
    (e.2.code == 1 || e.2.code == 2)) = true then w.hd.mapV (fun _ => Handle.settle o code) else w.hd := by
  unfold Wave.settle
  split
  · dsimp only
    split <;> rfl
  · rfl

theorem Wave.find?_settle_hd (o code : Nat) (w : Wave) (h : Nat) :
    (w.settle o code).hd.find? h = (w.hd.find? h).map (Handle.settle o code) := by
  rw [Wave.settle_hd]
  split
  next => exact Tab.find?_mapV w.hd _ h
  next hn =>
    cases hf : w.hd.find? h with
    | none => rfl
    | some x =>
      have hx : ¬(x.op = o ∧ (x.code = 1 ∨ x.code = 2)) := fun hx =>
        hn (List.any_eq_true.2 ⟨(h, x), Tab.mem_of_find? hf, by simpa using hx⟩)
      rw [Option.map_some, Handle.settle, if_neg hx]

/-- A bound handle, settled. -/
theorem Wave.handle_settle (o code : Nat) (w : Wave) (h : Nat) (hb : w.handle h ≠ ⟨0, 0, 0⟩) :
    (w.settle o code).handle h = (w.handle h).settle o code := by
  unfold Wave.handle Tab.rd at hb ⊢
  rw [Wave.find?_settle_hd]
  cases hf : w.hd.find? h with
  | none => exact absurd (by rw [hf]; rfl) hb
  | some x => rfl

@[simp] theorem State.crews_dropOp (s : State) (o : Nat) : (s.dropOp o).crews = s.crews := by
  unfold State.dropOp
  split
  · rfl
  · dsimp only
    split
    · rfl
    · split <;> rfl

@[simp] theorem State.wave?_dropOp (s : State) (o c w : Nat) : (s.dropOp o).wave? c w = s.wave? c w := by
  unfold State.wave? State.crew?
  rw [State.crews_dropOp]

/-- An operation that is dropped is in flight no more. -/
theorem State.op?_dropOp_self (s : State) (o : Nat) : (s.dropOp o).op? o = none := by
  unfold State.dropOp
  split
  next h => exact h
  next =>
    dsimp only
    split
    · exact Tab.find?_del_same _ _
    · split <;> exact Tab.find?_del_same _ _

/-- A flag's count, one lower. -/
theorem State.flagDown_own (s : State) (op : Op) (cr : Crew) (hc : s.crew? op.crew = some cr) (ha : cr.attempt = op.attempt) :
    s.flagDown op = s.modWave op.crew op.wave (fun w => { w with fl := w.fl.wr 0 op.flag (w.flag op.flag - 1) }) := by
  simp only [State.flagDown, hc, ha, ne_eq, not_true_eq_false, if_false, Wave.flag]

/-- The wave of an operation of its present attempt, when the operation ends. -/
theorem State.wave?_endOp (s : State) (o : Nat) (op : Op) (cr : Crew) (w : Wave) (code : Nat) (ho : s.op? o = some op)
    (hc : s.crew? op.crew = some cr) (hw : s.wave? op.crew op.wave = some w) (ha : cr.attempt = op.attempt) :
    (s.endOp o code).wave? op.crew op.wave =
      some { w.settle o code with fl := w.fl.wr 0 op.flag (w.flag op.flag - 1) } := by
  have hcf : (s.future o code).crew? op.crew = some (cr.settle o code) := by
    rw [State.crew?_future, hc, Option.map_some]
  have hfl : (w.settle o code).fl = w.fl := (Wave.settle_regs o code w).2.2.2
  simp only [State.endOp, ho, State.wave?_dropOp, State.flagDown_own _ op _ hcf ha]
  rw [State.wave?_modWave, if_pos ⟨rfl, rfl⟩, State.wave?_future, hw, Option.map_some, Option.map_some, Wave.flag, hfl, Wave.flag]

theorem State.op?_endOp_self (s : State) (o code : Nat) : (s.endOp o code).op? o = none := by
  unfold State.endOp
  split
  next h => exact h
  next => exact State.op?_dropOp_self _ o

/-- Settles O41: an element's value is one write of its wave and one change of its operation; an end settles the wave's handles,
lowers its flag and drops the operation. -/
theorem operationsEnd : Obligations.OperationsEnd := by
  unfold Obligations.OperationsEnd
  constructor
  · intro s o n op e cr w v ho hc hw ha hd hn
    let l := e.dst.zip (splitWords e.dst.length v)
    have hone := State.onlyWave_modWave' s op.crew op.wave (fun wv => wv.setKeys l)
    rw [State.finishElem_owned s o n op e cr v ho hc ha hd]
    refine ⟨w.setKeys l, ?_, fun r m hr hm => ?_, fun r => ?_, ?_, hone.memory, hone.waves⟩
    · rw [State.wave?_modElem, State.wave?_modWave, if_pos ⟨rfl, rfl⟩, hw, Option.map_some]
    · rw [Wave.v_setKeys w l r m (by omega)]
      exact lastOf_zip_splitWords e.dst hn v (vKey r m) _
    · rw [Wave.s_setKeys w l r]
      exact lastOf_zip_splitWords e.dst hn v (sKey r) _
    · have ho' : (s.modWave op.crew op.wave (fun wv => wv.setKeys l)).op? o = some op := ho
      rw [State.modElem, State.op?_modOp, if_pos rfl, ho', Option.map_some]
  · intro s o op cr w code ho hc hw ha
    obtain ⟨hv, hsr, hp, _⟩ := Wave.settle_regs o code w
    refine ⟨State.op?_endOp_self s o code, fun a => by rw [State.mem_endOp], _, State.wave?_endOp s o op cr w code ho hc hw ha,
      Tab.rd_wr_same _ _ _ _, fun g hg => ?_, hv, hsr, hp, fun h hb => Wave.handle_settle o code w h hb⟩
    exact (Tab.rd_wr _ _ _ _ _).trans (if_neg hg)

end Sys2Proof.Machine
end

section
/-!
Clause fetch (R52, R54, R150): the state in which the scheduler is asked, what a fetched clause makes of its wave, and the two turns that
concern a running strand's time, the end of its reservation (R95) and the fairness switch (R149).
-/

namespace Sys2Proof.Machine

open Sys2Proof Sys2Proof.Safety Host

/-! ## Walks and dropped translations leave crews and memory -/

theorem State.crews_dropPages (s : State) (die x : Nat) (n : Need) (va len : Nat) : (s.dropPages die x n va len).crews = s.crews := by
  unfold State.dropPages
  generalize List.range _ = l
  induction l generalizing s with
  | nil => rfl
  | cons a l ih => exact (ih _).trans rfl

theorem State.mem_dropPages (s : State) (die x : Nat) (n : Need) (va len : Nat) : (s.dropPages die x n va len).mem = s.mem := by
  unfold State.dropPages
  apply mem_foldl
  exact fun _ _ => rfl

theorem State.wave?_dropFetch (s : State) (cr : Crew) (addr : Nat) (h : Option Header) (c w : Nat) :
    (s.dropFetch cr addr h).wave? c w = s.wave? c w := by
  unfold State.wave? State.crew? State.dropFetch State.endWalks
  rw [State.crews_dropPages]

theorem State.mem_dropFetch (s : State) (cr : Crew) (addr : Nat) (h : Option Header) : (s.dropFetch cr addr h).mem = s.mem :=
  State.mem_dropPages _ _ _ _ _ _

/-! ## The wave that starts -/

theorem Wave.strand_modStrand_self (w : Wave) (k : Nat) (f : Strand → Strand) : (w.modStrand k f).strand k = f (w.strand k) := by
  simp only [Wave.strand, Wave.modStrand, Tab.rd_put, if_true]

/-- Letting a slot go first changes only what a wave that has given way keeps of it (R148). -/
theorem Wave.saw_rest (wv : Wave) (slot : Nat) : { wv.saw slot with givenWay := wv.givenWay } = wv := by
  unfold Wave.saw
  split
  · rfl
  · split <;> rfl

/-- What starting a clause makes of the waves of a crew (R148): those of the starter's scheduler let its slot go first. -/
def Crew.saw (core slot : Nat) (q : Crew) : Crew :=
  if q.core = core then { q with waves := q.waves.mapV (fun i wv => if q.slot i % 4 = slot % 4 then wv.saw slot else wv) } else q

/-- A wave of such a crew is as before but for what it keeps of giving way. -/
theorem Crew.find?_saw (core slot : Nat) (q : Crew) (w : Nat) (wv : Wave) (h : q.waves.find? w = some wv) :
    ∃ x, (q.saw core slot).waves.find? w = some x ∧ { x with givenWay := wv.givenWay } = wv := by
  unfold Crew.saw
  split
  · refine ⟨_, (Tab.find?_mapV q.waves (fun i wv => if q.slot i % 4 = slot % 4 then wv.saw slot else wv) w).trans (by rw [h, Option.map_some]), ?_⟩
    split
    · exact Wave.saw_rest wv slot
    · rfl
  · exact ⟨wv, h, rfl⟩

/-- The wave that starts a clause no longer gives way and is otherwise as before. -/
theorem State.wave?_started (s : State) (cr : Crew) (c w : Nat) (wv : Wave) (h : s.wave? c w = some wv) :
    (s.started cr c w).wave? c w = some { wv with givenWay := none } := by
  obtain ⟨q, hq, hw⟩ := Option.bind_eq_some_iff.1 h
  obtain ⟨x, hx, he⟩ := Crew.find?_saw cr.core (cr.slot w) q w wv hw
  have hs : State.wave? { s with crews := s.crews.mapV (fun _ => Crew.saw cr.core (cr.slot w)) } c w = some x := by
    simp only [State.wave?, State.crew?, Tab.find?_mapV] at hq ⊢
    rw [hq, Option.map_some, Option.bind_some, hx]
  have hg : { x with givenWay := none } = { wv with givenWay := none } := by rw [← he]
  refine Eq.trans (State.wave?_modWave _ c c w w _) ?_
  rw [if_pos ⟨rfl, rfl⟩, ← hg]
  exact congrArg (Option.map _) hs

theorem State.mem_started (s : State) (cr : Crew) (c w : Nat) : (s.started cr c w).mem = s.mem := rfl

/-- The machine once a clause's words are read and its wave has started it, before the flags it waits on acquire (R52, R54, R360). -/
def State.startClause (s : State) (cr : Crew) (c w k a : Nat) (h : Header) (ws : List Dword) : State :=
  (((s.dropFetch cr a (some h)).started cr c w).modCore cr.core (fun q => q.cache cr.ctx a (packHeader h :: ws))).modWave c w
    (fun x => Wave.modStrand { x with clause := some ⟨a, h, ws, k⟩ } k (fun st => { st with pc := a + 8 * (h.cnt + 2) }))

theorem State.mem_startClause (s : State) (cr : Crew) (c w k a : Nat) (h : Header) (ws : List Dword) :
    (s.startClause cr c w k a h ws).mem = s.mem := by
  unfold State.startClause
  rw [State.mem_modWave, State.mem_modCore, State.mem_started, State.mem_dropFetch]

/-- The started wave: its clause in progress, its strand's pc at the clause after. -/
theorem State.wave?_startClause (s : State) (cr : Crew) (c w k a : Nat) (h : Header) (ws : List Dword) (wv : Wave)
    (hw : s.wave? c w = some wv) : (s.startClause cr c w k a h ws).wave? c w =
      some (Wave.modStrand { wv with givenWay := none, clause := some ⟨a, h, ws, k⟩ } k (fun st => { st with pc := a + 8 * (h.cnt + 2) })) := by
  have h1 : (s.dropFetch cr a (some h)).wave? c w = some wv := by rw [State.wave?_dropFetch, hw]
  refine (State.wave?_modWave _ c c w w _).trans ?_
  rw [if_pos ⟨rfl, rfl⟩]
  exact congrArg (Option.map _) (State.wave?_started _ cr c w wv h1)

/-! ## The turn -/

/-- The state in which a core's scheduler is asked: every wave of the core brought up to date (R143). -/
def State.settleCore (s : State) (core : Nat) : State :=
  (s.crewsOn core).foldl (fun (s : State) e => (e.2.waves.map (·.1)).foldl (fun (s : State) x => s.settleWave e.1 x) s) s

/-- What a clause fetch by running strand `k` of the wave that the scheduler takes comes to. -/
def State.fetched (s : State) (cr : Crew) (c w k a : Nat) : State :=
  match s.fetchClause cr a with
  | .fault cause addr h => (s.dropFetch cr a h).trap c w k cause addr ((h.map (fun (x : Header) => x.cls)).getD 0)
  | .bad h _ => (s.dropFetch cr a (some h)).trap c w k Cause.illegalEncoding a h.cls
  | .ok h ws _ => (s.startClause cr c w k a h ws).acquireFlags c w h

/-- The wave that its scheduler takes fetches at its running strand's pc. -/
theorem exec_clauseFetch_scheduled (s : State) (c w : Nat) (cr0 cr : Crew) (wv : Wave) (k : Nat)
    (h0 : s.settleRestarts.crew? c = some cr0) (hcr : (s.settleRestarts.settleCore cr0.core).crew? c = some cr)
    (hw : cr.waves.find? w = some wv)
    (hs : (s.settleRestarts.settleCore cr0.core).scheduled cr.core (cr.slot w % 4) = some (c, w))
    (hk : wv.running = some k) (ht : (wv.strand k).tend = false) :
    exec (.clauseFetch c w) s = .next ((s.settleRestarts.settleCore cr0.core).fetched cr c w k (wv.strand k).pc) := by
  unfold State.settleCore at hcr hs ⊢
  show execClauseFetch c w s = _
  simp only [execClauseFetch, h0, hcr, hw, hs, hk, ht, ne_eq, not_true_eq_false, Bool.false_eq_true, if_false, State.fetched]
  generalize List.foldl _ _ _ = u
  cases u.fetchClause cr (wv.strand k).pc <;> rfl

theorem exec_reservationExpiry_due (s : State) (c w k : Nat) (wv : Wave) (hw : s.wave? c w = some wv)
    (hr : (wv.strand k).resv.isSome = true) (hn : 64 ≤ (wv.strand k).since) :
    exec (.reservationExpiry c w k) s = .next (s.modStrand c w k (fun st => { st with resv := none, since := 0 })) := by
  show execReservationExpiry c w k s = _
  simp only [execReservationExpiry, hw, hr, hn, decide_true, Bool.and_true, if_true]

theorem exec_fairnessSwitch_due (s : State) (c w k : Nat) (wv : Wave) (hw : s.wave? c w = some wv) (hd : wv.switchDue = some k) :
    exec (.fairnessSwitch c w) s = .next ((s.modStrand c w k (fun st => { st with st := .runnable, age := 0 })).choose c w) := by
  show execFairnessSwitch c w s = _
  simp only [execFairnessSwitch, hw, Option.bind_some, hd]

/-- Settles O44: the scheduled wave's fetch by what the clause read is, then the two turns of a running strand. -/
theorem clauseFetchStarts : Obligations.ClauseFetchStarts := by
  unfold Obligations.ClauseFetchStarts
  refine ⟨?_, fun s c w k wv hw hr hn => ?_, exec_fairnessSwitch_due⟩
  · intro s s1 c w cr0 cr wv k h0 hs1 hcr hw hs hk ht
    change s1 = s.settleRestarts.settleCore cr0.core at hs1
    subst hs1
    have hexec := exec_clauseFetch_scheduled s c w cr0 cr wv k h0 hcr hw hs hk ht
    have hwv : (s.settleRestarts.settleCore cr0.core).wave? c w = some wv := Option.bind_eq_some_iff.2 ⟨cr, hcr, hw⟩
    refine ⟨fun cause a h hf => ?_, fun h is hf => ?_, fun h ws is hf => ?_⟩
    · exact ⟨(h.map Header.cls).getD 0, hexec.trans (by simp only [State.fetched, hf])⟩
    · exact hexec.trans (by simp only [State.fetched, hf])
    · refine ⟨_, _, hexec.trans (by simp only [State.fetched, hf]), State.wave?_startClause _ cr c w k _ h ws wv hwv, rfl, ?_,
        State.mem_startClause _ cr c w k _ h ws, rfl, rfl⟩
      rw [Wave.strand_modStrand_self]
  · refine ⟨_, exec_reservationExpiry_due s c w k wv hw hr hn, State.onlyWave_modWave' s c w _, ?_⟩
    rw [State.modStrand, State.wave?_modWave, if_pos ⟨rfl, rfl⟩, hw, Option.map_some]

end Sys2Proof.Machine
end

section
/-!
Lane-guarded instructions (R62, R48): each is the guarded issue of `State.laned` over the v registers it names, so an empty lane set has no
effect and a register in a block not held traps.
-/

namespace Sys2Proof.Machine

open Sys2Proof Sys2Proof.Safety Host

/-- Instruction `i` issues under the guard `pn`, `pred`, and holds the v register groups `vs` to R48. -/
def LaneGuarded (i : Instr) (pn : Bool) (pred : BitVec 3) (vs : List (Nat × Nat)) : Prop :=
  ∀ s, ∃ us body, (∀ g ∈ vs, g ∈ us) ∧ exec i s = s.laned i pn pred us body

/-- With no active lane such an instruction has no effect (R62). -/
theorem LaneGuarded.exec_empty {i : Instr} {pn : Bool} {pred : BitVec 3} {vs : List (Nat × Nat)} (hg : LaneGuarded i pn pred vs)
    (s : State) (q : Cursor) (cr : Crew) (w : Wave) (h : Issues s i q cr w) (ha : w.active q.strand pn pred.toNat = 0) :
    exec i s = .next s := by
  obtain ⟨us, body, _, he⟩ := hg s
  rw [he, State.laned_empty s i pn pred us q cr w body h ha]

/-- One that names a group the wave does not hold takes the protection trap and does nothing else (R48). -/
theorem LaneGuarded.exec_notHeld {i : Instr} {pn : Bool} {pred : BitVec 3} {vs : List (Nat × Nat)} (hg : LaneGuarded i pn pred vs)
    (s : State) (q : Cursor) (cr : Crew) (w : Wave) (g : Nat × Nat) (h : Issues s i q cr w)
    (ha : w.active q.strand pn pred.toNat ≠ 0) (hm : g ∈ vs) (hh : w.holds g.1 g.2 = false) :
    exec i s = .next (s.trap q.crew q.wave q.strand Cause.protection w.clauseAddr w.clauseCls) := by
  obtain ⟨us, body, hs, he⟩ := hg s
  rw [he, State.laned_notHeld s i pn pred us q cr w body g h ha (hs g hm) hh]

/-! ## Which instructions are lane-guarded -/

/-- The register forms whose guard R62 states, in the order of the spec's classes. -/
def guardedForms : List (Fields → Instr) :=
  [Instr.iadd, .isub, .iadds, .imul, .imad, .imin, .imax, .iand, .ior, .ixor, .ishl, .ishr, .isra, .irot, .iabs, .inot,
    .ipopc, .iclz, .ibrev, .ibfe, .ibfi, .icmp, .fadd, .fsub, .fmul, .ffma, .fmin, .fmax, .fabs, .fneg, .fcmp, .fclass, .fscale,
    .fround, .fsqrt, .frcp, .frsq, .fexp2, .flog2, .cvt, .cvtq, .cvtx, .mov, .sel, .movs, .bcast, .shfl, .vote, .ballot, .redux,
    .scanw, .bfly, .bfly4, .cmul, .twid, .rdtime] ++ [Instr.ld, .lds, .st, .sts, .atom, .atoms, .lr, .sc, .red, .gath, .scat,
    .confl, .pref, .stw, .xform, .xeval, .xadm, .brx, .ret, .exit]

/-- The immediate forms. -/
def guardedFormsImm : List (ImmFields → Instr) :=
  [.iaddImm, .isubImm, .iaddsImm, .imulImm, .iminImm, .imaxImm, .iandImm, .iorImm, .ixorImm, .ishlImm, .ishrImm,
    .israImm, .irotImm, .faddImm, .fsubImm, .fmulImm, .fminImm, .fmaxImm, .movImm, .ldi, .shflImm, .bra, .call, .trap]

/-- The meaning of each of them, and of each instruction that `laneNames` lists, is `State.laned` by definition: the groups it holds to
R48 are those listed. -/
theorem laneGuarded_forms : (∀ mk ∈ guardedForms, ∀ f, LaneGuarded (mk f) f.pn f.pred []) ∧
    ∀ x ∈ laneNames, ∀ f, LaneGuarded (x.1 f) f.pn f.pred (x.2 f) := by
  simp only [guardedForms, laneNames, List.forall_mem_append, List.forall_mem_map, List.forall_mem_cons, List.not_mem_nil,
    IsEmpty.forall_iff, implies_true, and_true]
  and_intros
  all_goals
    intro f s
    dsimp only [exec, State.laneOp, State.predOp, State.access, intBin, intShift, intUn, fltBin, fltUn, approx,
      execIadd, execIsub, execIadds, execImul, execImad, execImin, execImax, execIand, execIor, execIxor, execIshl, execIshr,
      execIsra, execIrot, execIabs, execInot, execIpopc, execIclz, execIbrev, execIbfe, execIbfi, execIcmp, execFadd, execFsub,
      execFmul, execFfma, execFmin, execFmax, execFabs, execFneg, execFcmp, execFclass, execFscale, execFround, execFsqrt,
      execFrcp, execFrsq, execFexp2, execFlog2, execCvt, execCvtq, execCvtx, execMov, execSel, execMovs, execBcast, execShfl,
      execVote, execBallot, execRedux, execScanw, execBfly, execBfly4, execCmul, execTwid, execRdtime, execLd, execLds, execSt,
      execSts, execAtom, execAtoms, execLr, execSc, execRed, execGath, execScat, execConfl, execPref, execStw, execXform,
      execXeval, execXadm, execBrx, execRet, execExit]
    exact ⟨_, _, fun _ hg => by simp_all only [List.not_mem_nil, List.append_nil], rfl⟩

/-- The same of the immediate forms. -/
theorem laneGuarded_formsImm : (∀ mk ∈ guardedFormsImm, ∀ f, LaneGuarded (mk f) f.pn f.pred []) ∧
    ∀ x ∈ laneNamesImm, ∀ f, LaneGuarded (x.1 f) f.pn f.pred (x.2 f) := by
  simp only [guardedFormsImm, laneNamesImm, List.forall_mem_append, List.forall_mem_map, List.forall_mem_cons, List.not_mem_nil,
    IsEmpty.forall_iff, implies_true, and_true]
  and_intros
  all_goals
    intro f s
    dsimp only [exec, State.laneOp, intImm, fltImm,
      execIaddImm, execIsubImm, execIaddsImm, execImulImm, execIminImm, execImaxImm, execIandImm, execIorImm, execIxorImm,
      execIshlImm, execIshrImm, execIsraImm, execIrotImm, execFaddImm, execFsubImm, execFmulImm, execFminImm, execFmaxImm,
      execMovImm, execLdi, execShflImm, execBra, execCall, execTrap]
    exact ⟨_, _, fun _ hg => by simp_all only [List.not_mem_nil, List.append_nil], rfl⟩

/-! ## XFORM and XEVAL -/

/-- The issuing instruction's trap at its clause header. -/
theorem State.trapHdr_issuing (s : State) (q : Cursor) (cr : Crew) (w : Wave) (cause : Nat) (h : s.curWave = some (q, cr, w)) :
    s.trapHdr cause = s.trap q.crew q.wave q.strand cause w.clauseAddr w.clauseCls := by
  simp only [State.trapHdr, State.trapAt, h]

/-- A lane-guarded instruction that names no v register itself goes to its body for its active lanes. -/
theorem State.laned_noNames (s : State) (i : Instr) (pn : Bool) (pred : BitVec 3) (q : Cursor) (cr : Crew) (w : Wave)
    (body : Cursor → Crew → Wave → LaneMask → State) (h : Issues s i q cr w) (ha : w.active q.strand pn pred.toNat ≠ 0) :
    s.laned i pn pred [] body = .next (body q cr w (w.active q.strand pn pred.toNat)) :=
  State.laned_acts s i pn pred [] q cr w _ body ⟨h, rfl, ha, List.forall_mem_nil _⟩

/-- XFORM whose register checks hold traps on sources the wave does not hold (R48, R325, R328). -/
theorem exec_xform_notHeld (f : Fields) (s : State) (q : Cursor) (cr : Crew) (w : Wave) (l : List Nat) (h : Issues s (.xform f) q cr w)
    (ha : w.active q.strand f.pn f.pred.toNat ≠ 0) (hl : s.expCheck q cr w [⟨f.d.toNat, 1⟩] = .ok l)
    (hh : w.holds f.a.toNat 4 = false) :
    exec (.xform f) s = .next (s.trap q.crew q.wave q.strand Cause.protection w.clauseAddr w.clauseCls) := by
  show execXform f s = _
  rw [execXform, State.laned_noNames s (.xform f) f.pn f.pred q cr w _ h ha]
  simp only [hl, hh, Bool.not_false, if_true, State.trapHdr_issuing s q cr w _ h.1]

/-- XEVAL of a register that holds an expansion traps on targets or results the wave does not hold (R48, R325, R330). -/
theorem exec_xeval_notHeld (f : Fields) (s : State) (q : Cursor) (cr : Crew) (w : Wave) (l : List Nat) (h : Issues s (.xeval f) q cr w)
    (ha : w.active q.strand f.pn f.pred.toNat ≠ 0) (hl : s.expCheck q cr w [⟨f.a.toNat, 0⟩] = .ok l)
    (hk : (s.exp cr.core (l.getD 0 0)).kind ≠ 0) (hh : w.holds f.d.toNat 4 = false ∨ w.holds f.b.toNat 4 = false) :
    exec (.xeval f) s = .next (s.trap q.crew q.wave q.strand Cause.protection w.clauseAddr w.clauseCls) := by
  show execXeval f s = _
  rw [execXeval, State.laned_noNames s (.xeval f) f.pn f.pred q cr w _ h ha]
  have hany : (!w.holds f.d.toNat 4 || !w.holds f.b.toNat 4) = true := by
    rcases hh with hh | hh <;> simp [hh]
  simp only [hl, if_neg hk, hany, if_true, State.trapHdr_issuing s q cr w _ h.1]

/-- Settles O11: the guard and the block check are `State.laned`'s; XFORM and XEVAL check their blocks in their bodies. -/
theorem guardAndBlocks : Obligations.GuardAndBlocks := by
  unfold Obligations.GuardAndBlocks
  refine ⟨⟨fun mk hm f => ?_, fun mk hm f => ?_⟩, fun x hx f s q cr w g h ha hg => ?_, fun x hx f s q cr w g h ha hg => ?_,
    exec_xform_notHeld, exec_xeval_notHeld⟩
  · exact (laneGuarded_forms.1 mk hm f).exec_empty
  · exact (laneGuarded_formsImm.1 mk hm f).exec_empty
  · exact (laneGuarded_forms.2 x hx f).exec_notHeld s q cr w g h ha hg
  · exact (laneGuarded_formsImm.2 x hx f).exec_notHeld s q cr w g h ha hg

end Sys2Proof.Machine
end

section
/-!
The engines' turns: a copy from its performance through its units to its end (R251, R252, R267), source reads, a scatter's lines and
the chunks of an MMAS (R56, R91, R262, R283, R289).
-/

namespace Sys2Proof.Machine

open Sys2Proof Sys2Proof.Safety Host

/-! ## A table of bytes written run by run -/

/-- Writing the runs of a table is writing its entries one by one. -/
theorem foldl_runs (t m : Tab Byte) :
    (runs t).foldl (fun (m : Tab Byte) r => m.wrBytes r.1 r.2) m = t.foldl (fun (m : Tab Byte) e => m.wr 0 e.1 e.2) m := by
  induction t generalizing m with
  | nil => rfl
  | cons e t ih =>
    obtain ⟨a, b⟩ := e
    rw [List.foldl_cons, ← ih, runs]
    cases runs t with
    | nil => rfl
    | cons r l =>
      dsimp only
      split
      next h => rw [List.foldl_cons, List.foldl_cons, h.1]; rfl
      next => rfl

/-- Writing the entries of a table with rising keys lays it over what was there. -/
theorem rd_foldl_wr (t m : Tab Byte) (h : t.Rising = true) (a : Nat) :
    (t.foldl (fun (m : Tab Byte) e => m.wr 0 e.1 e.2) m).rd 0 a = (t.find? a).getD (m.rd 0 a) := by
  rw [Tab.rising_iff] at h
  induction t generalizing m with
  | nil => rfl
  | cons e t ih =>
    obtain ⟨hlt, ht⟩ := List.pairwise_cons.1 h
    rw [List.foldl_cons, ih _ ht, Tab.rd_wr]
    obtain ⟨k, v⟩ := e
    by_cases ha : a = k
    · subst ha
      have hn : Tab.find? t a = none := Option.eq_none_iff_forall_not_mem.2 fun x hx =>
        absurd (hlt _ (Tab.mem_of_find? hx)) (by simp)
      simp [Tab.find?, hn]
    · simp [Tab.find?, ha]

theorem foldl_rising {α : Type} (f : Tab Byte → α → Tab Byte) (hf : ∀ t x, t.Rising = true → (f t x).Rising = true) (l : List α)
    (t : Tab Byte) (h : t.Rising = true) : (l.foldl f t).Rising = true := by
  induction l generalizing t with
  | nil => exact h
  | cons a l ih => exact ih _ (hf t a h)

theorem rising_putBytes (t : Tab Byte) (pa : Nat) (bs : List Byte) (h : t.Rising = true) : (putBytes t pa bs).Rising = true :=
  foldl_rising (fun (t : Tab Byte) i => t.put (pa + i) (bs.getD i 0)) (fun t i ht => Tab.rising_put t (pa + i) (bs.getD i 0) ht) _ t h

/-- What a unit writes is a table with rising keys. -/
theorem Op.rising_unitOut (op : Op) (t : Tab Byte) (lo hi : Nat) (old free : Nat → Byte) : (op.unitOut t lo hi old free).Rising = true := by
  unfold Op.unitOut
  dsimp only
  split
  · exact foldl_rising _ (fun w _ hw => Tab.rising_put w _ _ hw) _ _ rfl
  · split
    · refine foldl_rising _ (fun w e hw => ?_) _ _ rfl
      split
      · exact hw
      · split
        · exact Tab.rising_put w _ _ hw
        · exact rising_putBytes w _ _ hw
    · split
      · exact foldl_rising _ (fun w _ hw => Tab.rising_put w _ _ hw) _ _ rfl
      · exact foldl_rising _ (fun w _ hw => Tab.rising_put w _ _ hw) _ _ rfl

/-- Consecutive keys put in order find their values. -/
theorem find?_foldl_put_range (n d a : Nat) (v : Nat → Byte) :
    ((List.range n).foldl (fun (w : Tab Byte) i => w.put (d + i) (v i)) []).find? a =
      if d ≤ a ∧ a < d + n then some (v (a - d)) else none := by
  induction n with
  | zero =>
    rw [if_neg (by omega)]
    rfl
  | succ n ih =>
    rw [List.range_succ, List.foldl_append, List.foldl_cons, List.foldl_nil, Tab.find?_put, ih]
    by_cases ha : a = d + n
    · rw [if_pos ha, if_pos (by omega), ha, Nat.add_sub_cancel_left]
    · rw [if_neg ha]
      exact if_congr (by omega) rfl rfl

/-- CPY's bytes are its source's (R267). -/
theorem Op.find?_unitOut_cpy (op : Op) (f : Fields) (t : Tab Byte) (lo hi : Nat) (old free : Nat → Byte) (a : Nat)
    (hi' : op.instr = .cpy f) (h : lo ≤ hi) : (op.unitOut t lo hi old free).find? a =
      if op.dv + lo ≤ a ∧ a < op.dv + hi then some (t.rd 0 (srcKey (f.hint != 1) (op.av + (a - op.dv)))) else none := by
  have hd : op.dir = f.hint := by rw [Op.dir, hi']; rfl
  have ht : isTensor op.instr = false := by rw [hi']; rfl
  rw [Op.unitOut, ht, hd]
  refine (find?_foldl_put_range (hi - lo) (op.dv + lo) a (fun i => t.rd 0 (srcKey (f.hint != 1) (op.av + lo + i)))).trans ?_
  by_cases hr : op.dv + lo ≤ a ∧ a < op.dv + hi
  · rw [if_pos (by omega), if_pos hr, show op.av + lo + (a - (op.dv + lo)) = op.av + (a - op.dv) by omega]
  · rw [if_neg (by omega), if_neg hr]

/-- A crew whose scratchpad has taken runs of bytes. -/
def Crew.written (cr : Crew) (l : List (Nat × List Byte)) : Crew :=
  { cr with sp := l.foldl (fun (m : Tab Byte) r => m.wrBytes r.1 r.2) cr.sp }

theorem State.crew?_foldl_spadWrite (s : State) (c : Nat) (l : List (Nat × List Byte)) :
    (l.foldl (fun (s : State) r => s.spadWrite c r.1 r.2) s).crew? c = (s.crew? c).map (fun cr => cr.written l) := by
  induction l generalizing s with
  | nil => exact (congrFun Option.map_id (s.crew? c)).symm
  | cons r l ih =>
    rw [List.foldl_cons, ih, State.spadWrite, State.crew?_modCrew, if_pos rfl, Option.map_map]
    rfl

/-! ## A copy's unit -/

/-- The end of the unit at a copy's offset. -/
def Op.unitEnd (op : Op) : Nat := min (op.off + 256) op.len

/-- What a device byte holds before a unit writes half of it. -/
def State.oldByte (s : State) (op : Op) (die va : Nat) : Byte :=
  match s.translate die op.ctx va Need.write with
  | .ok pa => s.homeByte (View.ofCrew op.crew) pa
  | .error _ => 0

/-- What the unit at a copy's offset writes, from the bytes read. -/
def State.unitBytes (s : State) (op : Op) (die : Nat) (tab : Tab Byte) : Tab Byte :=
  op.unitOut tab op.off op.unitEnd (s.oldByte op die) (fun x => (Config.freeWord (s.fresh + x)).extractLsb' 0 8)

/-- The state that a unit writes into: its free bytes drawn, and the translations its sources lack dropped. -/
def State.unitStart (s : State) (op : Op) (die : Nat) : State :=
  ({ s with fresh := s.fresh + 512 } : State).dropSources die op.ctx (op.unitSources op.off op.unitEnd)

/-- What becomes of a unit `out` that is read and may be written (the last part of COPY_UNIT_WRITE), with `s0` the state it writes into. -/
def State.placeUnit (s s0 : State) (o : Nat) (op : Op) (cr : Crew) (tab out : Tab Byte) : Outcome State Fault Refusal :=
  if op.dir = 0 then .next (((runs out).foldl (fun (s : State) r => s.spadWrite op.crew r.1 r.2) s0).unitWritten o op op.unitEnd 0 tab)
  else if s.runsHeld (dieOf cr.core) op.ctx out then hold s
  else match s0.writeRuns op (dieOf cr.core) out with
    | .error e => .next ((s0.dropRuns (dieOf cr.core) op.ctx out).evFault o op cr.core e.1 e.2)
    | .ok l =>
      if !((runLines l).all (fun x => op.lines.contains x)) then .next (s.ownMore o cr.core op (runLines l))
      else if !((runLines l).all (fun x => s.turnOf o x)) then hold s
      else match if cr.direct then ((runs out).zip l).find? (fun w => s.cutOff w.2.1) else none with
        | some w => .next ((s.event 6 0x61 0 0).evFault o op cr.core Cause.memoryPoison w.1.1)
        | none =>
          let s1 := (s0.dropRuns (dieOf cr.core) op.ctx out).engineWrite o op 3 (outPages out l) l
          if !((s1.op? o).any (fun op => op.st == .active)) then .next s1
          else .next (((doneLines op l (decide (op.len ≤ op.unitEnd))).foldl (fun (s : State) x => s.release o x) s1).unitWritten o op
            op.unitEnd (runsScope l) tab)

section

variable {s s0 : State} {o : Nat} {op : Op} {cr : Crew} {tab out : Tab Byte} {l : List (Nat × List Byte)}

/-- Into the scratchpad a unit is written at once. -/
theorem State.placeUnit_spad (hd : op.dir = 0) : s.placeUnit s0 o op cr tab out =
    .next (((runs out).foldl (fun (s : State) r => s.spadWrite op.crew r.1 r.2) s0).unitWritten o op op.unitEnd 0 tab) :=
  if_pos hd

/-- Into device memory a unit first owns its lines. -/
theorem State.placeUnit_own (hd : op.dir ≠ 0) (hh : s.runsHeld (dieOf cr.core) op.ctx out = false)
    (hl : s0.writeRuns op (dieOf cr.core) out = .ok l) (ho : (runLines l).all (fun x => op.lines.contains x) = false) :
    s.placeUnit s0 o op cr tab out = .next (s.ownMore o cr.core op (runLines l)) := by
  simp only [State.placeUnit, if_neg hd, hh, hl, ho, Bool.not_false, Bool.false_eq_true, if_false, if_true]

/-- In its turn, with no frame cut off, the unit is written, and its finished lines are released. -/
theorem State.placeUnit_write (hd : op.dir ≠ 0) (hh : s.runsHeld (dieOf cr.core) op.ctx out = false)
    (hl : s0.writeRuns op (dieOf cr.core) out = .ok l) (ho : (runLines l).all (fun x => op.lines.contains x) = true)
    (ht : (runLines l).all (fun x => s.turnOf o x) = true) (hc : cr.direct = true → ∀ r ∈ l, s.cutOff r.1 = false) :
    s.placeUnit s0 o op cr tab out = .next (let s1 := (s0.dropRuns (dieOf cr.core) op.ctx out).engineWrite o op 3 (outPages out l) l
      if (s1.op? o).any (fun op => op.st == .active) then
        ((doneLines op l (decide (op.len ≤ op.unitEnd))).foldl (fun (s : State) x => s.release o x) s1).unitWritten o op op.unitEnd
          (runsScope l) tab
      else s1) := by
  have hf : (if cr.direct then ((runs out).zip l).find? (fun w => s.cutOff w.2.1) else none) = none := by
    split
    next hdir =>
      exact List.find?_eq_none.2 fun w hw => by simp [hc hdir _ (List.of_mem_zip hw).2]
    next => rfl
  simp only [State.placeUnit, if_neg hd, hh, hl, ho, ht, hf, Bool.not_true, Bool.false_eq_true, if_false]
  cases Option.any (fun op => op.st == .active) (State.op? _ o) <;> rfl

end

/-- An active copy has read the unit at its offset, and neither its blocks nor its named barrier stand against the write. -/
structure CopyUnit (s : State) (o : Nat) (op : Op) (cr : Crew) (tab : Tab Byte) : Prop where
  found : s.op? o = some op
  crew : s.crew? op.crew = some cr
  copy : isCopy op.instr = true
  active : op.st = .active
  left : op.off < op.len
  read : (s.gather o op (dieOf cr.core) (op.unitSources op.off op.unitEnd)).bind
    (fun t => s.readAhead o { op with buf := t } (dieOf cr.core) op.off op.unitEnd) = .ok tab
  blocks : isTensor op.instr = true → op.dir = 0 → op.checkBlocks tab op.off op.unitEnd = none
  barrier : ∀ f, copyFields op.instr = some f → f.kc = true → s.noBarrier op.crew op.cv = false

section

variable {s : State} {o : Nat} {op : Op} {cr : Crew} {tab : Tab Byte}

theorem CopyUnit.ready (h : CopyUnit s o op cr tab) : (!isCopy op.instr || !(op.st == .active)) = false := by
  simp [h.copy, h.active]

theorem CopyUnit.unblocked (h : CopyUnit s o op cr tab) :
    (if isTensor op.instr && op.dir == 0 then op.checkBlocks tab op.off op.unitEnd else none) = none := by
  split
  next ht =>
    obtain ⟨ht, hd⟩ : isTensor op.instr = true ∧ op.dir = 0 := by simpa using ht
    exact h.blocks ht hd
  next => rfl

theorem CopyUnit.unbarred (h : CopyUnit s o op cr tab) :
    ((copyFields op.instr).any (fun f => f.kc) && s.noBarrier op.crew op.cv) = false := by
  cases hf : copyFields op.instr with
  | none => rfl
  | some f =>
    cases hc : f.kc with
    | false => simp [hc]
    | true => simp [h.barrier f hf hc]

theorem CopyUnit.exec_eq (h : CopyUnit s o op cr tab) : exec (.copyUnitWrite o) s =
    s.placeUnit (s.unitStart op (dieOf cr.core)) o op cr tab (s.unitBytes op (dieOf cr.core) tab) := by
  have hr := h.read
  have hb := h.unblocked
  rw [Op.unitEnd] at hr hb
  simp only [exec, execCopyUnitWrite, h.found, h.crew, h.ready, if_neg (Nat.not_le.2 h.left), hr, hb, h.unbarred]
  rfl

end

/-! ## What the bookkeeping of lines and translations leaves -/

/-- A fold of updates that leave one part of the state alone leaves it alone. -/
theorem foldl_keeps {α β : Type} (g : State → β) (f : State → α → State) (h : ∀ s x, g (f s x) = g s) (l : List α) (s : State) :
    g (l.foldl f s) = g s := by
  induction l generalizing s with
  | nil => rfl
  | cons a l ih => rw [List.foldl_cons, ih, h]

@[simp] theorem State.ops_invalidateSharers (s : State) (line : Nat) (writer : Option Nat) :
    (s.invalidateSharers line writer).ops = s.ops := by
  unfold State.invalidateSharers
  exact foldl_keeps State.ops (fun (s : State) c => s.modCore c (fun k => k.invalidate line)) (fun _ _ => rfl) _ s

theorem State.ops_dropCopy (s : State) (core line : Nat) : (s.dropCopy core line).ops = s.ops := rfl

theorem State.mem_dropCopy (s : State) (core line : Nat) : (s.dropCopy core line).mem = s.mem := rfl

/-- Owning lines notes them in the operation. -/
theorem State.ops_own (s : State) (o core : Nat) (lines : List Nat) :
    (s.own o core lines).ops = s.ops.modify o (fun op => { op with lines := op.lines ++ lines }) := by
  unfold State.own
  refine (foldl_keeps State.ops _ (fun s l => ?_) _ _).trans rfl
  rw [State.ops_dropCopy, State.ops_invalidateSharers]

theorem State.mem_own (s : State) (o core : Nat) (lines : List Nat) : (s.own o core lines).mem = s.mem := by
  unfold State.own
  refine (foldl_keeps State.mem _ (fun s l => ?_) _ _).trans rfl
  rw [State.mem_dropCopy, State.mem_invalidateSharers]

theorem State.dropPages_keeps {β : Type} (g : State → β) (h : ∀ (s : State) t, g { s with tlb := t } = g s) (s : State) (die x : Nat)
    (n : Need) (va len : Nat) : g (s.dropPages die x n va len) = g s :=
  foldl_keeps g _ (fun s _ => h s _) _ s

/-- Dropping the translations of sources keeps whatever does not read the translation caches. -/
theorem State.dropSources_keeps {β : Type} (g : State → β) (h : ∀ (s : State) t, g { s with tlb := t } = g s) (s : State) (die x : Nat)
    (l : List Src) : g (s.dropSources die x l) = g s := by
  refine foldl_keeps g _ (fun s r => ?_) l s
  cases r with
  | sp a n => rfl
  | dev va n => exact State.dropPages_keeps g h s die x Need.read va n

/-! ## A unit in the scratchpad -/

theorem State.mem_unitStart (s : State) (op : Op) (die : Nat) : (s.unitStart op die).mem = s.mem :=
  State.dropSources_keeps State.mem (fun _ _ => rfl) { s with fresh := s.fresh + 512 } die op.ctx _

theorem State.ops_unitStart (s : State) (op : Op) (die : Nat) : (s.unitStart op die).ops = s.ops :=
  State.dropSources_keeps State.ops (fun _ _ => rfl) { s with fresh := s.fresh + 512 } die op.ctx _

theorem State.crew?_unitStart (s : State) (op : Op) (die c : Nat) : (s.unitStart op die).crew? c = s.crew? c :=
  State.dropSources_keeps (State.crew? · c) (fun _ _ => rfl) { s with fresh := s.fresh + 512 } die op.ctx _

/-- Writing a unit's runs into the scratchpad lays its bytes over what was there, and changes neither memory nor the copy. -/
theorem CopyUnit.spad {s : State} {o : Nat} {op : Op} {cr : Crew} {tab : Tab Byte} (h : CopyUnit s o op cr tab) :
    let out := s.unitBytes op (dieOf cr.core) tab
    let s1 := (runs out).foldl (fun (s : State) r => s.spadWrite op.crew r.1 r.2) (s.unitStart op (dieOf cr.core))
    SameMemory s s1 ∧ s1.op? o = some op ∧ s1.crew? op.crew = some (cr.written (runs out)) ∧
      ∀ a, (cr.written (runs out)).sp.rd 0 a = (out.find? a).getD (cr.sp.rd 0 a) := by
  intro out s1
  have hm : s1.mem = s.mem :=
    (foldl_keeps State.mem (fun (s : State) (r : Nat × List Byte) => s.spadWrite op.crew r.1 r.2) (fun _ _ => rfl) _ _).trans
      (State.mem_unitStart ..)
  have hops : s1.ops = s.ops :=
    (foldl_keeps State.ops (fun (s : State) (r : Nat × List Byte) => s.spadWrite op.crew r.1 r.2) (fun _ _ => rfl) _ _).trans
      (State.ops_unitStart ..)
  refine ⟨fun a => by rw [hm], ?_, ?_, fun a => ?_⟩
  · rw [State.op?, hops]
    exact h.found
  · rw [State.crew?_foldl_spadWrite, State.crew?_unitStart, h.crew]
    rfl
  · rw [Crew.written, foldl_runs]
    exact rd_foldl_wr out cr.sp (Op.rising_unitOut ..) a

/-! ## Performing a copy -/

/-- A copy that becomes active has its length; its destinations and memory stand. -/
theorem State.op?_activate (s : State) (o : Nat) (op : Op) (cr : Crew) (len : Nat) :
    ∃ p, (s.activate o op cr len).op? o = some p ∧ p.st = .active ∧ p.len = len ∧ p.dsts = op.dsts := by
  unfold State.activate
  dsimp only
  rw [State.op?, State.ops_own, Tab.find?_modify, if_pos rfl]
  split <;> exact ⟨_, congrArg (Option.map _) (Tab.find?_put_same s.ops o _), rfl, rfl, rfl⟩

theorem State.mem_activate (s : State) (o : Nat) (op : Op) (cr : Crew) (len : Nat) : (s.activate o op cr len).mem = s.mem := by
  unfold State.activate
  dsimp only
  rw [State.mem_own]
  split <;> rfl

/-- A queued CPY with no fence before it and no walk of its destination in hand is performed. -/
theorem exec_copyPerform_cpy (s : State) (o v : Nat) (op : Op) (cr : Crew) (f : Fields) (ho : s.op? o = some op)
    (hc : s.crew? op.crew = some cr) (hi : op.instr = .cpy f) (hq : op.st = .queued) (he : s.engineClear o op = true)
    (hd : s.destHeld op (dieOf cr.core) ((op.blk.getD 0 0).toNat) = false) :
    exec (.copyPerform o v) s = .next (s.activate o op cr ((op.blk.getD 0 0).toNat)) := by
  have ht : isTensor op.instr = false := by rw [hi]; rfl
  have hg : (!isCopy op.instr || !(op.st == .queued) || !s.engineClear o op || s.recordHeld o op) = false := by
    have hr : s.recordHeld o op = false := by rw [State.recordHeld, ht, Bool.false_and]
    rw [hr, he, hq, show isCopy op.instr = true by rw [hi]; rfl]
    rfl
  simp only [exec, execCopyPerform, ho, hc, hg, ht, hd, Bool.not_false, Bool.false_eq_true, if_false, if_true]

/-! ## Ends and further turns -/

theorem isCopy_iff {i : Instr} : isCopy i = true ↔ ∃ f, i = .cpy f ∨ i = .cpyt f ∨ i = .cpyg f := by
  constructor
  · intro h
    unfold isCopy at h
    split at h
    · exact ⟨_, .inl rfl⟩
    · exact ⟨_, .inr (.inl rfl)⟩
    · exact ⟨_, .inr (.inr rfl)⟩
    · cases h
  · rintro ⟨f, rfl | rfl | rfl⟩ <;> rfl

/-- A load or store ends once its elements are all complete. -/
theorem exec_completion_access (s : State) (o : Nat) (op : Op) (f : Fields) (ho : s.op? o = some op)
    (hi : op.instr = .ld f ∨ op.instr = .lds f ∨ op.instr = .st f ∨ op.instr = .sts f) (hd : op.elems.all Elem.done = true) :
    exec (.longLatencyCompletion o) s = .next (s.endOp o 3) := by
  rcases hi with hi | hi | hi | hi <;>
    simp [exec, execLongLatencyCompletion, ho, State.completeOp, hi, opcodeOf, State.completeAccess, hd]

/-- A copy with every byte written ends, once other packages have acknowledged what was sent to them. -/
theorem exec_copyUnitWrite_end (s : State) (o : Nat) (op : Op) (cr : Crew) (ho : s.op? o = some op)
    (hc : s.crew? op.crew = some cr) (hi : isCopy op.instr = true) (ha : op.st = .active) (hl : op.len ≤ op.off) :
    exec (.copyUnitWrite o) s = .next (if s.unacked o then s else s.endCopy o op) := by
  simp only [exec, execCopyUnitWrite, ho, hc, hi, ha, if_pos hl]
  cases s.unacked o <;> rfl

theorem exec_engineSourceRead_copy (s : State) (o u : Nat) (op : Op) (cr : Crew) (tab : Tab Byte) (ho : s.op? o = some op)
    (hc : s.crew? op.crew = some cr) (hi : isCopy op.instr = true) (ha : op.st = .active) (hlo : op.off ≤ 256 * u)
    (hhi : 256 * u < op.len)
    (hg : s.gather o op (dieOf cr.core) (op.unitSources (256 * u) (min (256 * u + 256) op.len)) = .ok tab) :
    exec (.engineSourceRead o u) s = .next ((s.dropSources (dieOf cr.core) op.ctx
      (op.unitSources (256 * u) (min (256 * u + 256) op.len))).modOp o (fun op => { op with buf := tab })) := by
  have hs : s.sourceRead o u op = s.copySourceRead o op u := by
    obtain ⟨f, hf | hf | hf⟩ := isCopy_iff.1 hi <;> rw [State.sourceRead, hf]
  simp [exec, execEngineSourceRead, ho, hs, State.copySourceRead, hc, ha, hg, Nat.not_le.2 hhi, Nat.not_lt.2 hlo]

/-! ## A write at a home in HBM, and the words a unit leaves -/

theorem State.mem_commitFor (s : State) (g : Origin) (writer : Option Nat) (who : Option (Nat × Nat × Nat)) (pa : Nat) (bs : List Byte)
    (h : homeOf pa = .hbm) : (s.commitFor g writer who pa bs).mem = s.mem.wrBytes pa bs := by
  unfold State.commitFor State.clearOthers
  simp only [h, State.mem_recheckQueues, State.mem_clearResv]
  exact mem_foldl _ (fun s x => State.mem_invalidateSharers s x writer) _ _

/-- An engine that works for a crew outside a version writes its bytes into memory. -/
theorem State.mem_storeEngineAt (s : State) (o : Nat) (op : Op) (vas : Tab Nat) (cls pa : Nat) (bs : List Byte) (cr : Crew)
    (hc : s.crew? op.crew = some cr) (hd : cr.direct = true) (h : homeOf pa = .hbm) :
    (s.storeEngineAt o op vas cls pa bs).mem = s.mem.wrBytes pa bs := by
  simp only [State.storeEngineAt, State.storeHomeFor, hc, hd, Bool.or_true, if_true]
  exact State.mem_commitFor s _ _ _ pa bs h

/-- What a written unit makes of its copy. -/
def Op.wrote (op : Op) (hi scope : Nat) (t : Tab Byte) : Op := { op with off := hi, buf := t, count := max op.count scope }

theorem State.op?_modOp_self (s : State) (o : Nat) (op : Op) (g : Op → Op) (ho : s.op? o = some op) :
    (s.modOp o g).op? o = some (g op) := by
  rw [State.op?_modOp, if_pos rfl, ho]
  rfl

theorem State.modOp_const (s : State) (o : Nat) (op : Op) (g : Op → Op) (ho : s.op? o = some op) :
    s.modOp o g = s.modOp o (fun _ => g op) := by
  simp only [State.modOp, Tab.modify, show s.ops.find? o = some op from ho]

/-- With bytes left, a unit credits its named barrier and no more. -/
theorem State.unitWritten_more (s : State) (o : Nat) (op : Op) (f : Fields) (hi sc : Nat) (tab : Tab Byte) (ho : s.op? o = some op)
    (hf : copyFields op.instr = some f) (hl : hi < op.len) : s.unitWritten o op hi sc tab =
      if f.kc then (s.modOp o (fun _ => op.wrote hi sc tab)).credit op.crew op.cv (hi - op.off)
      else s.modOp o (fun _ => op.wrote hi sc tab) := by
  rw [← State.modOp_const s o op (Op.wrote · hi sc tab) ho]
  simp only [State.unitWritten, hf, if_neg (Nat.not_le.2 hl)]
  rfl

/-- After the last unit a copy that feeds no barrier ends, once its sends are acknowledged. -/
theorem State.unitWritten_last (s : State) (o : Nat) (op : Op) (f : Fields) (hi sc : Nat) (tab : Tab Byte) (ho : s.op? o = some op)
    (hf : copyFields op.instr = some f) (hl : op.len ≤ hi) (hk : f.kc = false) : s.unitWritten o op hi sc tab =
      if (s.modOp o (fun _ => op.wrote hi sc tab)).unacked o then s.modOp o (fun _ => op.wrote hi sc tab)
      else (s.modOp o (fun _ => op.wrote hi sc tab)).endCopy o (op.wrote hi sc tab) := by
  have h := State.op?_modOp_self s o op (Op.wrote · hi sc tab) ho
  rw [← State.modOp_const s o op (Op.wrote · hi sc tab) ho]
  unfold Op.wrote at *
  simp only [State.unitWritten, hf, hk, if_pos hl, Bool.false_eq_true, if_false, h]

/-- A plain scatter writes the elements of a line whose turn it is. -/
theorem exec_engineUnitWrite_scat (s : State) (o : Nat) (op : Op) (f : Fields) (ho : s.op? o = some op) (hi : op.instr = .scat f)
    (hf : f.aop = 0) : exec (.engineUnitWrite o) s = .next (s.scatterUnit o op) := by
  simp only [exec, execEngineUnitWrite, ho, State.unitWrite, hi, if_pos hf]

/-! ## A chunk of an MMAS -/

/-- The live blocks of an MMAS with those of its next chunk. -/
def State.chunkLive (s : State) (op : Op) : Nat :=
  op.count + liveBlocks (s.spadByte op) (ctlK (fbWord op.blk 0)) (fbWord op.blk 3) (fbWord op.blk 4) op.off

/-- The tile after a chunk: the chunk's product, and the step with its live blocks in the side word. -/
def Op.chunkTile (op : Op) (live : Nat) (a b : List (List (List (Except Nat FNum)))) (t : Tile) : Tile :=
  { productTile t t.int (· == op.off) a b with side := t.side.wr 0 0 (sideWord 1 (op.off + 1) op.flag live) }

theorem exec_mmasStep_chunk (s : State) (o : Nat) (op : Op) (cr : Crew) (f : Fields) (a b : List (List (List (Except Nat FNum))))
    (ho : s.op? o = some op) (hc : s.crew? op.crew = some cr) (hi : op.instr = .mmas f) (hs : op.st = .active)
    (hk : op.off < ctlK (fbWord op.blk 0) / 32) (ha : (opA true op.av op.blk).rows (s.spadByte op) = .ok a)
    (hb : (opB true op.bv op.blk).rows (s.spadByte op) = .ok b) : exec (.mmasStep o) s =
      .next ((s.modOp o (fun op' => { op' with off := op'.off + 1, count := s.chunkLive op })).modTile cr.core op.phys
        (op.chunkTile (s.chunkLive op) a b)) := by
  have hg : (!(op.st == .active) || decide (ctlK (fbWord op.blk 0) / 32 ≤ op.off)) = false := by simp [hs, Nat.not_le.2 hk]
  simp only [exec, execMmasStep, ho, hc, hi, hg, ha, hb]
  rfl

theorem State.tile_modTile (s : State) (core p : Nat) (t : Tile) (g : Tile → Tile) (h : (s.core core).tiles.find? p = some t) :
    (s.modTile core p g).tile core p = g t := by
  rw [State.tile, State.modTile, State.core_modCore_self, Tab.rd, Tab.find?_modify, if_pos rfl, h]
  rfl

theorem State.onlyCore_modCore (s : State) (c : Nat) (g : Machine.Core → Machine.Core) : OnlyCore s (s.modCore c g) c :=
  ⟨rfl, fun _ => rfl, fun d hd => by simp [State.modCore, State.core, Tab.rd_put, hd]⟩

/-! ## The obligation -/

/-- Settles O43: each turn by the lemma of its event; a scratchpad unit by what writing its runs leaves of the scratchpad. -/
theorem engineTurns : Obligations.EngineTurns := by
  unfold Obligations.EngineTurns
  refine ⟨⟨exec_completion_access, ?_, ?_, ?_, ?_, ?_, ?_, ?_, ?_, ?_⟩, ?_⟩
  · intro s o v op cr f ho hc hi hq he hd
    obtain ⟨p, hp, hst, hlen, hdsts⟩ := State.op?_activate s o op cr (op.blk.getD 0 0).toNat
    exact ⟨_, exec_copyPerform_cpy s o v op cr f ho hc hi hq he hd, p, hp, hst, hlen, hdsts, fun a => by rw [State.mem_activate]⟩
  · intro s o op cr ho hc hi ha hl
    rw [exec_copyUnitWrite_end s o op cr ho hc hi ha hl]
    exact ⟨fun h => by rw [h]; rfl, fun h => by rw [h]; rfl⟩
  · intro s o op cr tab ho hc hi ha hl hi' die src old out s0 hr hb hk
    have h : CopyUnit s o op cr tab := ⟨ho, hc, hi, ha, hl, hr, hb, hk⟩
    rw [h.exec_eq]
    refine ⟨fun hd => ?_, fun l hd hh hl => ⟨State.placeUnit_own hd hh hl, State.placeUnit_write hd hh hl⟩⟩
    obtain ⟨hm, hop, hcr, hsp⟩ := h.spad
    exact ⟨_, _, State.placeUnit_spad hd, hm, hop, hcr, rfl, hsp⟩
  · exact fun op f tab lo hi old free a hi' h => Op.find?_unitOut_cpy op f tab lo hi old free a hi' h
  · intro s o op vas cls pa bs cr hc hd hh a
    rw [State.mem_storeEngineAt s o op vas cls pa bs cr hc hd hh, Tab.rd_wrBytes]
  · intro s o op f hi sc tab ho hf
    exact ⟨State.op?_modOp_self s o op _ ho, State.unitWritten_more s o op f hi sc tab ho hf,
      State.unitWritten_last s o op f hi sc tab ho hf⟩
  · exact fun s o u op cr tab ho hc hi ha hlo hhi hg => exec_engineSourceRead_copy s o u op cr tab ho hc hi ha hlo hhi hg
  · exact fun s core idx => ⟨_, rfl, State.onlyCore_modCore s core _, by rw [State.core_modCore_self]⟩
  · intro s o op f line ho hi hf hl
    rw [exec_engineUnitWrite_scat s o op f ho hi hf, State.scatterUnit, hl] <;> rfl
  · intro s o op cr f a b ho hc hi hs hk ha hb
    exact ⟨_, exec_mmasStep_chunk s o op cr f a b ho hc hi hs hk ha hb, State.op?_modOp_self s o op _ ho, fun _ => rfl, rfl,
      fun tl ht => State.tile_modTile _ _ _ tl _ ht⟩

end Sys2Proof.Machine
end

section
/-!
SUPPORT. Which operations leave memory alone: everything but a write at a home, the commit of a version and what rests on them.
-/

namespace Sys2Proof.Machine

open Sys2Proof Sys2Proof.Safety Host

/-! ## Branches -/

@[simp] theorem State.mem_ite (p : Prop) [Decidable p] (a b : State) : (if p then a else b).mem = if p then a.mem else b.mem :=
  apply_ite State.mem p a b

/-! ## Crews, waves and traps -/

@[simp] theorem State.mem_waitFor (s : State) (c w k : Nat) (keys : List Nat) : (s.waitFor c w k keys).mem = s.mem := rfl
@[simp] theorem State.mem_waitWrite (s : State) (c w k : Nat) (l : List (Nat × Word)) : (s.waitWrite c w k l).mem = s.mem := rfl

@[simp] theorem State.mem_opWrite (s : State) (o : Nat) (l : List (Nat × Word)) : (s.opWrite o l).mem = s.mem := by
  fun_cases State.opWrite s o l <;> rfl

@[simp] theorem State.mem_modCurStrand (s : State) (f : Strand → Strand) : (s.modCurStrand f).mem = s.mem := by
  fun_cases State.modCurStrand s f <;> rfl

@[simp] theorem State.mem_choose (s : State) (c w : Nat) : (s.choose c w).mem = s.mem := by
  fun_cases State.choose s c w <;> rfl

@[simp] theorem State.mem_enterWait (s : State) (c w k : Nat) (wt : Wait) (hdr : Nat) : (s.enterWait c w k wt hdr).mem = s.mem := by
  simp [State.enterWait]

@[simp] theorem State.mem_releaseUnits (s : State) (c w : Nat) (pt pe : Nat → Bool) : (s.releaseUnits c w pt pe).mem = s.mem := by
  fun_cases State.releaseUnits s c w pt pe <;> rfl

@[simp] theorem State.mem_trapAt (s : State) (cause addr : Nat) : (s.trapAt cause addr).mem = s.mem := by
  fun_cases State.trapAt s cause addr <;> simp

@[simp] theorem State.mem_trapHdr (s : State) (cause : Nat) : (s.trapHdr cause).mem = s.mem := by
  fun_cases State.trapHdr s cause <;> simp

@[simp] theorem State.mem_trapOp (s : State) (op : Op) (cause addr : Nat) : (s.trapOp op cause addr).mem = s.mem := by
  fun_cases State.trapOp s op cause addr <;> simp

@[simp] theorem State.mem_rewave (s : State) (c : Nat) : (s.rewave c).mem = s.mem := by
  unfold State.rewave
  split
  · rfl
  · split
    · rfl
    · rw [State.mem_modCrew, mem_foldl _ (fun _ _ => by rfl)]
      rfl

@[simp] theorem State.mem_settleRestart (s : State) (c : Nat) : (s.settleRestart c).mem = s.mem := by
  unfold State.settleRestart
  (repeat' split) <;> simp -implicitDefEqProofs [mem_foldl]

@[simp] theorem State.mem_settleCtx (s : State) (x : Nat) : (s.settleCtx x).mem = s.mem := by
  fun_cases State.settleCtx s x <;> rfl

@[simp] theorem State.mem_removeCrew (s : State) (c : Nat) : (s.removeCrew c).mem = s.mem := by
  unfold State.removeCrew
  (repeat' split) <;> simp -implicitDefEqProofs [mem_foldl]

@[simp] theorem State.mem_settleFailed (s : State) (c : Nat) : (s.settleFailed c).mem = s.mem := by
  fun_cases State.settleFailed s c <;> simp

@[simp] theorem State.mem_ejectCrew (s : State) (c : Nat) : (s.ejectCrew c).mem = s.mem := by
  unfold State.ejectCrew
  (repeat' split) <;> simp

@[simp] theorem State.mem_settleRestarts (s : State) : s.settleRestarts.mem = s.mem := by
  simp -implicitDefEqProofs [State.settleRestarts, mem_foldl]

@[simp] theorem State.mem_restartTask (s : State) (c : Nat) : (s.restartTask c).mem = s.mem := by
  unfold State.restartTask
  (repeat' split) <;> simp

@[simp] theorem State.mem_dropImages (s : State) (x : Nat) (p : Image → Bool) : (s.dropImages x p).mem = s.mem := by
  simp -implicitDefEqProofs [State.dropImages, mem_foldl]

@[simp] theorem State.mem_failKernel (s : State) (k status cause detail : Nat) :
    (s.failKernel k status cause detail).mem = s.mem := by
  unfold State.failKernel
  (repeat' split) <;> simp -implicitDefEqProofs [mem_foldl]

@[simp] theorem State.mem_killKernel (s : State) (k cause detail : Nat) : (s.killKernel k cause detail).mem = s.mem := by
  fun_cases State.killKernel s k cause detail <;> simp

@[simp] theorem State.mem_restartStopped (s : State) (x c : Nat) : (s.restartStopped x c).mem = s.mem := by
  simp [State.restartStopped]

@[simp] theorem State.mem_finishRecord (s : State) (x : Nat) (kill : Bool) : (s.finishRecord x kill).mem = s.mem := by
  unfold State.finishRecord
  split <;> simp -implicitDefEqProofs [mem_foldl]

/-! ## Homes, tables and versions -/

@[simp] theorem State.mem_endWalks (s : State) (die : Nat) : (s.endWalks die).mem = s.mem := rfl
@[simp] theorem State.mem_dropLacking (s : State) (die x va : Nat) (n : Need) : (s.dropLacking die x va n).mem = s.mem := rfl

@[simp] theorem State.mem_poisonTask (s : State) (g : Origin) (va : Nat) : (s.poisonTask g va).mem = s.mem := by
  fun_cases State.poisonTask s g va <;> simp

@[simp] theorem State.mem_farQueues (s : State) : s.farQueues.mem = s.mem := by
  simp [State.farQueues]

@[simp] theorem State.mem_clearOthers (s : State) (who : Option (Nat × Nat × Nat)) (pa n : Nat) :
    (s.clearOthers who pa n).mem = s.mem := rfl

@[simp] theorem State.mem_setMarks (s : State) (c w : Nat) (m : LaneMask) : (s.setMarks c w m).mem = s.mem := by
  fun_cases State.setMarks s c w m <;> rfl

@[simp] theorem State.mem_spadWrite (s : State) (c lo : Nat) (bs : List Byte) : (s.spadWrite c lo bs).mem = s.mem := rfl

/-! ## Flags -/

@[simp] theorem State.mem_acquire (s : State) (c w sc : Nat) : (s.acquire c w sc).mem = s.mem := by
  unfold State.acquire
  split <;> simp

@[simp] theorem State.mem_acquireFlags (s : State) (c w : Nat) (h : Header) : (s.acquireFlags c w h).mem = s.mem := by
  fun_cases State.acquireFlags s c w h <;> simp -implicitDefEqProofs [mem_foldl]

@[simp] theorem State.mem_noteAcquire (s : State) (op : Op) (sc : Nat) : (s.noteAcquire op sc).mem = s.mem := by
  fun_cases State.noteAcquire s op sc <;> rfl

@[simp] theorem State.mem_noteFuture (s : State) (op : Op) (o sc : Nat) : (s.noteFuture op o sc).mem = s.mem := by
  simp [State.noteFuture]

@[simp] theorem State.mem_bindHandle (s : State) (c w h o scope : Nat) : (s.bindHandle c w h o scope).mem = s.mem := rfl

@[simp] theorem State.mem_launchH (s : State) (op : Op) (scope : Nat) : (s.launchH op scope).mem = s.mem := by
  fun_cases State.launchH s op scope <;> rfl

/-! ## Strands -/

@[simp] theorem State.mem_dropLr (s : State) (c w k : Nat) : (s.dropLr c w k).mem = s.mem := rfl
@[simp] theorem State.mem_absorbStrand (s : State) (c w k i : Nat) : (s.absorbStrand c w k i).mem = s.mem := rfl

@[simp] theorem State.mem_settleStrands (s : State) (c w k hdr : Nat) : (s.settleStrands c w k hdr).mem = s.mem := by
  unfold State.settleStrands
  dsimp only
  (repeat' split) <;> simp -implicitDefEqProofs [mem_foldl]

@[simp] theorem State.mem_branch (s : State) (dests : List (Nat × Nat)) : (s.branch dests).mem = s.mem := by
  fun_cases State.branch s dests <;> simp

@[simp] theorem State.mem_retry (s : State) : s.retry.mem = s.mem := rfl

/-! ## Barriers -/

@[simp] theorem State.mem_wakeBarrier (s : State) (o : BarObj) : (s.wakeBarrier o).mem = s.mem := rfl

@[simp] theorem State.mem_farWakes (s : State) : s.farWakes.mem = s.mem := by
  simp only [State.farWakes]
  rw [mem_foldl _ (fun _ _ => by simp), mem_foldl _ (fun _ _ => by simp)]

@[simp] theorem State.mem_tellSaved (s : State) (hit : Crew → Strand → Bool) (broken : Bool) :
    (s.tellSaved hit broken).mem = s.mem := by simp [State.tellSaved]

@[simp] theorem State.mem_breakWaiters (s : State) (o : BarObj) : (s.breakWaiters o).mem = s.mem := by
  unfold State.breakWaiters
  split <;> simp -implicitDefEqProofs [mem_foldl]

@[simp] theorem State.mem_crewBarrierStep (s : State) (c : Nat) : (s.crewBarrierStep c).mem = s.mem := by
  fun_cases State.crewBarrierStep s c <;> rfl

@[simp] theorem State.mem_barMarks (s : State) (q : Cursor) (o : BarObj) : (s.barMarks q o).mem = s.mem := by
  fun_cases State.barMarks s q o <;> simp

@[simp] theorem State.mem_waitPhase (s : State) (q : Cursor) (o : BarObj) (sc p : Nat) : (s.waitPhase q o sc p).mem = s.mem := by
  fun_cases State.waitPhase s q o sc p <;> simp

@[simp] theorem State.mem_mergeAll (s : State) (q : Cursor) (w : Wave) : (s.mergeAll q w).2.mem = s.mem :=
  (mem_foldl _ (fun _ _ => by simp) _ _).trans rfl

@[simp] theorem State.mem_evalWakes (s : State) (pa n : Nat) : (s.evalWakes pa n).mem = s.mem := by
  simp [State.evalWakes]

/-! ## Requests to other packages -/

@[simp] theorem State.mem_request (s : State) (kind dst addr : Nat) (data : List Word) (o e core epoch ctx va : Nat) :
    (s.request kind dst addr data o e core epoch ctx va).mem = s.mem := by
  fun_cases State.request s kind dst addr data o e core epoch ctx va <;> simp

@[simp] theorem State.mem_tagPend (s : State) (no entry : Nat) : (s.tagPend no entry).mem = s.mem := rfl

/-! ## Accesses -/

@[simp] theorem State.mem_dropLackingAll (s : State) (cr : Crew) (m : Form) (es : List Elem) :
    (s.dropLackingAll cr m es).mem = s.mem := by
  simp -implicitDefEqProofs [State.dropLackingAll, mem_foldl]

@[simp] theorem State.mem_dropLackingLanes (s : State) (cr : Crew) (w : Wave) (f : Fields) (m : Form) (act : LaneMask) :
    (s.dropLackingLanes cr w f m act).mem = s.mem := by
  simp -implicitDefEqProofs [State.dropLackingLanes, mem_foldl]

@[simp] theorem State.mem_finishElem (s : State) (o n : Nat) (e : Elem) (v : Nat) : (s.finishElem o n e v).mem = s.mem := by
  simp [State.finishElem]

@[simp] theorem State.mem_finishLoad (s : State) (o n : Nat) (op : Op) (e : Elem) (sz v : Nat) :
    (s.finishLoad o n op e sz v).mem = s.mem := by simp [State.finishLoad]

@[simp] theorem State.mem_fill (s : State) (c : Nat) (cr : Crew) (v : View) (enumd : Option (Nat × Nat)) (line sc : Nat) :
    (s.fill c cr v enumd line sc).mem = s.mem := rfl

@[simp] theorem State.mem_draw (s : State) : s.draw.2.mem = s.mem := rfl
@[simp] theorem State.mem_hostRead (s : State) (pa n : Nat) : (s.hostRead pa n).2.mem = s.mem := rfl
/-- An access served at home leaves memory alone where what is done with its value does. -/
theorem State.mem_serveHome (s : State) (o n : Nat) (op : Op) (cr : Crew) (w : Wave) (e : Elem) (sc : Nat) (keep : Bool)
    (k : State → Nat → State) (h : ∀ s v, (k s v).mem = s.mem) : (s.serveHome o n op cr w e sc keep k).mem = s.mem := by
  unfold State.serveHome
  (repeat' split) <;> simp [h]

@[simp] theorem State.mem_storeLocal (s : State) (o n : Nat) (op : Op) (cr : Crew) (e : Elem) (sc v : Nat) (wide : Bool) :
    (s.storeLocal o n op cr e sc v wide).mem = s.mem := rfl

theorem State.mem_load (s : State) (o n : Nat) (op : Op) (cr : Crew) (w : Wave) (e : Elem) (sc : Nat) (st atHome : Bool)
    (k : State → Nat → State) (h : ∀ s v, (k s v).mem = s.mem) : (s.load o n op cr w e sc st atHome k).mem = s.mem := by
  unfold State.load
  (repeat' split) <;> simp [h, State.mem_serveHome]

@[simp] theorem State.mem_reserve (s : State) (op : Op) (e : Elem) (sc : Nat) : (s.reserve op e sc).mem = s.mem := by
  simp [State.reserve]

@[simp] theorem State.mem_loadReserved (s : State) (o n : Nat) (op : Op) (cr : Crew) (w : Wave) (e : Elem) (sc : Nat) :
    (s.loadReserved o n op cr w e sc).mem = s.mem :=
  State.mem_load _ _ _ _ _ _ _ _ _ _ _ (fun _ _ => by simp)

@[simp] theorem State.mem_release (s : State) (o line : Nat) : (s.release o line).mem = s.mem := rfl

/-! ## Control -/

theorem State.mem_jump (s : State) (q : Cursor) (w : Wave) (act : LaneMask) (t : Nat → Nat) (first : State → State)
    (h : ∀ s, (first s).mem = s.mem) : (s.jump q w act t first).mem = s.mem := by
  fun_cases State.jump s q w act t first <;> simp [h]

@[simp] theorem State.mem_joinWait (s : State) (q : Cursor) (cr : Crew) (w : Wave) (m : JoinMember) :
    (s.joinWait q cr w m).mem = s.mem := by
  unfold State.joinWait
  dsimp only
  (repeat' split) <;> simp

@[simp] theorem State.mem_discardResults (s : State) (c w : Nat) : (s.discardResults c w).mem = s.mem := rfl

@[simp] theorem State.mem_endWave (s : State) (c w : Nat) : (s.endWave c w).mem = s.mem := by
  unfold State.endWave
  split <;> simp

@[simp] theorem State.mem_giveWay (s : State) (c w k : Nat) : (s.giveWay c w k).mem = s.mem := by
  simp [State.giveWay]

@[simp] theorem State.mem_grantRestart (s : State) (core c : Nat) (rest : List (Nat × Nat × Nat)) :
    (s.grantRestart core c rest).mem = s.mem := by
  unfold State.grantRestart
  (repeat' split) <;> simp

/-! ## Issue -/

@[simp] theorem State.mem_stallOnce (s : State) (c w : Nat) : (s.stallOnce c w).mem = s.mem := by
  fun_cases State.stallOnce s c w <;> simp

@[simp] theorem State.mem_unstall (s : State) (c w : Nat) : (s.unstall c w).mem = s.mem := by
  fun_cases State.unstall s c w <;> rfl

@[simp] theorem State.mem_settleWave (s : State) (c w : Nat) : (s.settleWave c w).mem = s.mem := by
  unfold State.settleWave
  dsimp only
  (repeat' split) <;> simp -implicitDefEqProofs [mem_foldl]

@[simp] theorem State.mem_tendWait (s : State) (c w k hdr cls : Nat) : (s.tendWait c w k hdr cls).mem = s.mem := by
  fun_cases State.tendWait s c w k hdr cls <;> simp

@[simp] theorem State.mem_forgetClause (s : State) (core n : Nat) : (s.forgetClause core n).mem = s.mem := rfl

@[simp] theorem State.mem_dropIssue (s : State) (c : Nat) (wv : Wave) (k : Nat) (i : Instr) :
    (s.dropIssue c wv k i).mem = s.mem := by
  fun_cases State.dropIssue s c wv k i <;> simp -implicitDefEqProofs [mem_foldl]

theorem State.mem_beginIssue (s t : State) (c w : Nat) (d : Dword) (i : Instr) (h : s.beginIssue c w = some (t, d, i)) :
    t.mem = s.mem := by
  unfold State.beginIssue at h
  dsimp only at h
  (repeat' split at h) <;> cases h
  simp

@[simp] theorem State.mem_countIssue (s : State) (q : Cursor) : (s.countIssue q).mem = s.mem := rfl

@[simp] theorem State.mem_endClause (s : State) (q : Cursor) (cl : Clause) : (s.endClause q cl).mem = s.mem := by
  unfold State.endClause
  dsimp only
  (repeat' split) <;> simp

@[simp] theorem State.mem_finishIssue (s : State) (d : Dword) (i : Instr) : (s.finishIssue d i).mem = s.mem := by
  unfold State.finishIssue
  (repeat' split) <;> simp

@[simp] theorem State.mem_taborTick (s : State) (ns : Nat) : (s.taborTick ns).mem = s.mem := rfl

@[simp] theorem State.mem_tick (s : State) (cycles ns : Nat) : (s.tick cycles ns).mem = s.mem := by
  simp -implicitDefEqProofs [State.tick, mem_foldl]

/-! ## Memory instructions -/

@[simp] theorem State.mem_launchAccess (i : Instr) (q : Cursor) (cr : Crew) (w : Wave) (act : LaneMask) (es : List Elem) (s : State) :
    (launchAccess i q cr w act es s).mem = s.mem := rfl

theorem State.mem_onSpad (s : State) (op : Op) (e : Elem) (k : State → Nat → State) (h : ∀ s v, (k s v).mem = s.mem) :
    (s.onSpad op e k).mem = s.mem := by
  fun_cases State.onSpad s op e k <;> simp [h]

@[simp] theorem State.mem_readError (s : State) (o n : Nat) : (s.readError o n).mem = s.mem := by
  fun_cases State.readError s o n <;> simp

@[simp] theorem State.mem_drainAway (s : State) (core p : Nat) (e : WEntry) : (s.drainAway core p e).mem = s.mem := by
  fun_cases State.drainAway s core p e <;> simp

@[simp] theorem State.mem_completeAccess (s : State) (o : Nat) (op : Op) : (s.completeAccess o op).mem = s.mem := by
  fun_cases State.completeAccess s o op <;> simp

/-! ## Copies -/

@[simp] theorem State.mem_dropSources (s : State) (die x : Nat) (l : List Src) : (s.dropSources die x l).mem = s.mem := by
  unfold State.dropSources
  exact mem_foldl _ (fun _ _ => by split <;> simp [State.mem_dropPages]) _ _

@[simp] theorem State.mem_askRemote (s : State) (o : Nat) (op : Op) (pkg pa va n : Nat) :
    (s.askRemote o op pkg pa va n).mem = s.mem := by simp [State.askRemote]

@[simp] theorem State.mem_dropRuns (s : State) (die x : Nat) (t : Tab Byte) : (s.dropRuns die x t).mem = s.mem := by
  simp -implicitDefEqProofs [State.dropRuns, mem_foldl]

@[simp] theorem State.mem_dropFaulted (s : State) (die x cause a : Nat) : (s.dropFaulted die x cause a).mem = s.mem := by
  simp [State.dropFaulted]

@[simp] theorem State.mem_mend (s : State) (c line : Nat) : (s.mend c line).mem = s.mem := by
  simp [State.mend]

@[simp] theorem State.mem_ownMore (s : State) (o core : Nat) (op : Op) (lines : List Nat) :
    (s.ownMore o core op lines).mem = s.mem := by simp [State.ownMore, State.mem_own]

@[simp] theorem State.mem_issueCopy (s : State) (i : Instr) (f : Fields) (q : Cursor) (cr : Crew) (w : Wave) (na nd nb : Nat) :
    (s.issueCopy i f q cr w na nd nb).mem = s.mem := by simp [State.issueCopy]

@[simp] theorem State.mem_performFault (s : State) (o : Nat) (op : Op) (core cause addr : Nat) :
    (s.performFault o op core cause addr).mem = s.mem := rfl

@[simp] theorem State.mem_endCopy (s : State) (o : Nat) (op : Op) : (s.endCopy o op).mem = s.mem := by
  simp [State.endCopy]

@[simp] theorem State.mem_copySourceRead (s : State) (o : Nat) (op : Op) (unit : Nat) :
    (s.copySourceRead o op unit).mem = s.mem := by
  unfold State.copySourceRead
  dsimp only
  (repeat' split) <;> simp

@[simp] theorem State.mem_completeRcfence (s : State) (o : Nat) (op : Op) (f : Fields) : (s.completeRcfence o op f).mem = s.mem := by
  fun_cases State.completeRcfence s o op f <;> simp

/-! ## Matrix -/

@[simp] theorem State.mem_modTile (s : State) (core p : Nat) (f : Tile → Tile) : (s.modTile core p f).mem = s.mem := rfl

@[simp] theorem State.mem_bindTile (s : State) (c w name : Nat) (int : Bool) : (s.bindTile c w name int).1.mem = s.mem := by
  fun_cases State.bindTile s c w name int <;> rfl

@[simp] theorem State.mem_checkTrap (s : State) (e : Nat × Option Nat) : (s.checkTrap e).mem = s.mem := by
  fun_cases State.checkTrap s e <;> simp

theorem State.mem_rowCheck (s : State) (cr : Crew) (a n al : Nat) (k : State) (h : k.mem = s.mem) :
    (s.rowCheck cr a n al k).mem = s.mem := by
  fun_cases State.rowCheck s cr a n al k <;> simp [h]

@[simp] theorem State.mem_performMatrix (s : State) (o : Nat) (op : Op) : (s.performMatrix o op).mem = s.mem := by
  unfold State.performMatrix
  (repeat' split) <;> simp [State.mem_own]

@[simp] theorem State.mem_stopMmas (s : State) (core o : Nat) (op : Op) : (s.stopMmas core o op).mem = s.mem := rfl

@[simp] theorem State.mem_setSide0 (s : State) (op : Op) (cr : Crew) (w : Wave) (f : Fields) :
    (s.setSide0 op cr w f).mem = s.mem := by
  unfold State.setSide0
  dsimp only
  (repeat' split) <;> simp

@[simp] theorem State.mem_sideEffect (s : State) (o : Nat) (op : Op) (cr : Crew) (f : Fields) :
    (s.sideEffect o op cr f).mem = s.mem := by fun_cases State.sideEffect s o op cr f <;> simp

@[simp] theorem State.mem_completeMatrix (s : State) (o : Nat) (op : Op) : (s.completeMatrix o op).mem = s.mem := by
  unfold State.completeMatrix
  dsimp only
  (repeat' split) <;> simp -implicitDefEqProofs [mem_foldl]

@[simp] theorem State.mem_matrixSourceRead (s : State) (o : Nat) (op : Op) (unit : Nat) :
    (s.matrixSourceRead o op unit).mem = s.mem := by
  fun_cases State.matrixSourceRead s o op unit <;> simp

/-! ## Expansions -/

@[simp] theorem State.mem_modExp (s : State) (core p : Nat) (f : Exp → Exp) : (s.modExp core p f).mem = s.mem := rfl

@[simp] theorem State.mem_bindExp (s : State) (c w name : Nat) : (s.bindExp c w name).1.mem = s.mem := by
  fun_cases State.bindExp s c w name <;> rfl

@[simp] theorem State.mem_performExpansion (s : State) (o : Nat) (op : Op) : (s.performExpansion o op).mem = s.mem := by
  unfold State.performExpansion
  (repeat' split) <;> simp [State.mem_own]

@[simp] theorem State.mem_loadRecord (s : State) (o : Nat) (op : Op) (cr : Crew) (spad : Bool) :
    (s.loadRecord o op cr spad).mem = s.mem := by
  unfold State.loadRecord
  dsimp only
  (repeat' split) <;> simp

@[simp] theorem State.mem_completeExpansion (s : State) (o : Nat) (op : Op) : (s.completeExpansion o op).mem = s.mem := by
  unfold State.completeExpansion
  (repeat' split) <;> simp

@[simp] theorem State.mem_expansionSourceRead (s : State) (o : Nat) (op : Op) (unit : Nat) :
    (s.expansionSourceRead o op unit).mem = s.mem := by
  fun_cases State.expansionSourceRead s o op unit <;> simp

/-! ## Carillon -/

@[simp] theorem State.mem_dropLanes (s : State) (c : Nat) (lanes : List (Nat × Nat)) : (s.dropLanes c lanes).mem = s.mem := by
  fun_cases State.dropLanes s c lanes <;> rfl

@[simp] theorem State.mem_dropSegs (s : State) (c : Nat) (l : List Nat) : (s.dropSegs c l).mem = s.mem := by
  simp [State.dropSegs]

@[simp] theorem State.mem_endAll (s : State) (l : List (Nat × Op)) : (s.endAll l).mem = s.mem := by
  simp -implicitDefEqProofs [State.endAll, mem_foldl]

@[simp] theorem State.mem_modChunk (s : State) (c w r : Nat) (f : Chunk → Chunk) : (s.modChunk c w r f).mem = s.mem := rfl
/-- Traps of the parts of an instruction leave memory alone. -/
theorem mem_trapParts (l : List (Nat × Op)) (cause : Nat) (s : State) :
    (l.foldl (fun (s : State) p => s.trapOp p.2 cause p.2.hdr) s).mem = s.mem :=
  mem_foldl _ (fun _ _ => by simp) l s

@[simp] theorem State.mem_openChunk (s : State) (c : Nat) (cr : Crew) (parts : List (Nat × Op)) (crewMode : Bool) :
    (s.openChunk c cr parts crewMode).mem = s.mem := by
  unfold State.openChunk
  split
  · rfl
  dsimp only
  split
  all_goals
    split
    · exact mem_trapParts _ _ s
    split
    · exact mem_trapParts _ _ s
    split
    · exact mem_trapParts _ _ s
    split
    · exact mem_trapParts _ _ s
    · rw [State.mem_endAll, mem_foldl _ (fun _ _ => by split <;> simp)]
      simp

theorem State.mem_absorb (s t : State) (c n : Nat) (cr : Crew) (ws : List (Nat × Nat)) (h : s.absorb c cr ws = some (t, n)) :
    t.mem = s.mem := by
  unfold State.absorb at h
  dsimp only at h
  split at h
  · cases h
  · simp only [Option.some.injEq, Prod.mk.injEq] at h
    rw [← h.1, State.mem_dropLanes, mem_foldl _ (fun _ _ => by simp), State.mem_modCrew]

@[simp] theorem State.mem_mergeLanes (s : State) (c : Nat) (cr : Crew) (parts : List (Nat × Op)) :
    (s.mergeLanes c cr parts).mem = s.mem := by
  unfold State.mergeLanes
  dsimp only
  split
  · rfl
  · split
    · split <;> simp
    next r hr =>
      rw [State.mem_endAll, mem_foldl _ (fun _ _ => by simp)]
      split at hr
      · cases hr
        rfl
      · exact State.mem_absorb s _ c _ cr _ hr

@[simp] theorem State.mem_exitChunk (s : State) (c : Nat) (cr : Crew) (parts : List (Nat × Op)) :
    (s.exitChunk c cr parts).mem = s.mem := by
  unfold State.exitChunk
  split <;> simp -implicitDefEqProofs [mem_foldl]

@[simp] theorem State.mem_abortChunk (s : State) (c : Nat) (cr : Crew) (parts : List (Nat × Op)) :
    (s.abortChunk c cr parts).mem = s.mem := by
  simp only [State.abortChunk]
  split
  · rfl
  · rw [State.mem_endAll, mem_foldl _ (fun _ _ => by rfl), State.mem_dropLanes, State.mem_dropSegs]

@[simp] theorem State.mem_performCarillon (s : State) (o : Nat) (op : Op) : (s.performCarillon o op).mem = s.mem := by
  fun_cases State.performCarillon s o op <;> rfl

@[simp] theorem State.mem_completeCarillon (s : State) (o : Nat) (op : Op) : (s.completeCarillon o op).mem = s.mem := by
  unfold State.completeCarillon
  (repeat' split) <;> simp -implicitDefEqProofs [mem_foldl]

@[simp] theorem State.mem_carillonSourceRead (s : State) (o : Nat) (op : Op) (unit : Nat) :
    (s.carillonSourceRead o op unit).mem = s.mem := by
  fun_cases State.carillonSourceRead s o op unit <;> rfl

/-! ## Token merging -/

@[simp] theorem State.mem_issueToken (s : State) (i : Instr) (f : Fields) (q : Cursor) (cr : Crew) (w : Wave) (nd nb scope : Nat) :
    (s.issueToken i f q cr w nd nb scope).mem = s.mem := by simp [State.issueToken]

@[simp] theorem State.mem_performToken (s : State) (o : Nat) (op : Op) : (s.performToken o op).mem = s.mem := by
  unfold State.performToken
  dsimp only
  (repeat' split) <;> simp [State.mem_own]

@[simp] theorem State.mem_outputsDone (s : State) (o : Nat) (op : Op) (scope : Nat) : (s.outputsDone o op scope).mem = s.mem := by
  simp [State.outputsDone]

@[simp] theorem State.mem_tokenSourceRead (s : State) (o : Nat) (op : Op) (unit : Nat) :
    (s.tokenSourceRead o op unit).mem = s.mem := by
  fun_cases State.tokenSourceRead s o op unit <;> simp

/-! ## Beam and PROOT -/

@[simp] theorem State.mem_settlePool (s : State) (x : Nat) : (s.settlePool x).mem = s.mem := rfl
@[simp] theorem State.mem_settleQuarantine (s0 : State) (x : Nat) : (s0.settleQuarantine x).mem = s0.mem := rfl

@[simp] theorem State.mem_issueBeam (s : State) (i : Instr) (f : Fields) (q : Cursor) (cr : Crew) (w : Wave) (nb : Nat) :
    (s.issueBeam i f q cr w nb).mem = s.mem := by simp [State.issueBeam]

@[simp] theorem State.mem_performBeam (s : State) (o : Nat) (op : Op) : (s.performBeam o op).mem = s.mem := by
  unfold State.performBeam
  dsimp only
  (repeat' split) <;> simp [State.mem_own]

@[simp] theorem State.mem_beamSourceRead (s : State) (o : Nat) (op : Op) (unit : Nat) :
    (s.beamSourceRead o op unit).mem = s.mem := by
  fun_cases State.beamSourceRead s o op unit <;> simp

/-! ## System instructions -/

@[simp] theorem State.mem_dropDie (s : State) (o : Nat) (op : Op) (va : Bool) (die : Nat) : (s.dropDie o op va die).mem = s.mem := by
  simp [State.dropDie]

@[simp] theorem State.mem_dropCode (s : State) (o : Nat) (op : Op) (va : Bool) (core : Nat) :
    (s.dropCode o op va core).mem = s.mem := rfl

@[simp] theorem State.mem_performInv (s : State) (o : Nat) (op : Op) (at_ : Nat) : (s.performInv o op at_).mem = s.mem := by
  fun_cases State.performInv s o op at_ <;> simp

@[simp] theorem State.mem_completeInv (s : State) (o : Nat) (op : Op) : (s.completeInv o op).mem = s.mem := by
  have rows (l : List Nat) := mem_foldl (fun (s : State) d => match s.op? o with | some op => s.performInv o op d | none => s)
    (fun _ _ => by split <;> simp) l s
  unfold State.completeInv
  dsimp only
  repeat' split
  · rfl
  · exact (State.mem_endOp _ _ _).trans (rows _)
  · exact rows _
  · rfl
  · exact (State.mem_endOp _ _ _).trans (rows _)
  · exact rows _
  · exact State.mem_endOp _ _ _
  · rfl
  · rfl

@[simp] theorem State.mem_engResume (s : State) (o : Nat) (op : Op) : (s.engResume o op).mem = s.mem := by
  fun_cases State.engResume s o op <;> rfl

@[simp] theorem State.mem_engRebuild (s : State) (x : Nat) (e : EngSel) (v hdr : Nat) : (s.engRebuild x e v hdr).mem = s.mem := by
  unfold State.engRebuild
  (repeat' split) <;> simp

@[simp] theorem State.mem_engOffset (s : State) (x : Nat) (e : EngSel) (v : Nat) : (s.engOffset x e v).mem = s.mem := by
  fun_cases State.engOffset s x e v <;> rfl

@[simp] theorem State.mem_fireClave (s : State) (by_ : Nat) (late : Option Bool) : (s.fireClave by_ late).mem = s.mem := by
  simp [State.fireClave]

/-! ## Pages -/

@[simp] theorem State.mem_releaseFrame (s : State) (x frame : Nat) : (s.releaseFrame x frame).mem = s.mem := rfl
@[simp] theorem State.mem_fillTlb (s : State) (t : Tlb) (victim : Nat) : (s.fillTlb t victim).mem = s.mem := rfl

/-! ## Tasks -/

@[simp] theorem State.mem_settleKernel (s : State) (k : Nat) : (s.settleKernel k).mem = s.mem := by
  fun_cases State.settleKernel s k <;> rfl

@[simp] theorem State.mem_endCrew (s : State) (c : Nat) : (s.endCrew c).mem = s.mem := by
  fun_cases State.endCrew s c <;> simp

@[simp] theorem State.mem_dropSegments (s : State) (c : Nat) : (s.dropSegments c).mem = s.mem := by
  fun_cases State.dropSegments s c <;> rfl

@[simp] theorem State.mem_nextTask (s : State) (c idx : Nat) : (s.nextTask c idx).mem = s.mem := rfl

@[simp] theorem State.mem_deliverNext (s : State) (x : Nat) : (s.deliverNext x).mem = s.mem := by
  fun_cases State.deliverNext s x <;> rfl

@[simp] theorem State.mem_designate (s : State) (x c w k hdr : Nat) : (s.designate x c w k hdr).mem = s.mem := by
  simp [State.designate]

/-! ## Queues -/

@[simp] theorem State.mem_modQueue (s : State) (x q : Nat) (f : Queue → Queue) : (s.modQueue x q f).mem = s.mem := rfl

@[simp] theorem State.mem_sendAbort (s : State) (tick : Nat) : (s.sendAbort tick).mem = s.mem := by
  simp -implicitDefEqProofs [State.sendAbort, mem_foldl]

@[simp] theorem State.mem_startKernel (s : State) (k : Nat) : (s.startKernel k).mem = s.mem := by
  simp [State.startKernel]

@[simp] theorem State.mem_launchRecord (s : State) (x queue rec : Nat) (readable graphNode : Bool) :
    (s.launchRecord x queue rec readable graphNode).2.mem = s.mem := by
  unfold State.launchRecord
  dsimp only
  (repeat' split) <;> simp

@[simp] theorem State.mem_haltQueue (s : State) (x q : Nat) : (s.haltQueue x q).mem = s.mem := rfl
@[simp] theorem State.mem_advanceQueue (s : State) (x q : Nat) (c : CmdRef) : (s.advanceQueue x q c).mem = s.mem := rfl

@[simp] theorem State.mem_enableQueue (s : State) (x q : Nat) : (s.enableQueue x q).mem = s.mem := by
  simp [State.enableQueue]

@[simp] theorem State.mem_disableQueue (s : State) (x q : Nat) : (s.disableQueue x q).mem = s.mem := by
  simp [State.disableQueue]

@[simp] theorem State.mem_resumeQueue (s : State) (x q : Nat) : (s.resumeQueue x q).mem = s.mem := by
  simp [State.resumeQueue]

@[simp] theorem State.mem_ringDoorbell (s : State) (x q : Nat) : (s.ringDoorbell x q).mem = s.mem := by
  simp [State.ringDoorbell]

/-! ## Placement -/

@[simp] theorem State.mem_seat (s : State) (k : Nat) (kn : Kernel) (core base c task : Nat) (re : Option (Tab Nat)) :
    (s.seat k kn core base c task re).mem = s.mem := rfl

@[simp] theorem State.mem_designateNamed (s : State) (n : Nat) (kn : Kernel) (c : Nat) : (s.designateNamed n kn c).mem = s.mem := by
  fun_cases State.designateNamed s n kn c <;> simp

@[simp] theorem State.mem_putCrew (s : State) (k : Nat) (kn : Kernel) (owner core base c tile : Nat) :
    (s.putCrew k kn owner core base c tile).mem = s.mem := by simp [State.putCrew]

theorem State.mem_placeCrew (s t : State) (k owner core base c tile : Nat) (h : s.placeCrew k owner core base c tile = some t) :
    t.mem = s.mem := by
  unfold State.placeCrew at h
  (repeat' split at h) <;> cases h
  simp

@[simp] theorem State.mem_requeueCrew (s : State) (c : Nat) : (s.requeueCrew c).mem = s.mem := by
  unfold State.requeueCrew
  (repeat' split) <;> simp

/-! ## Contexts -/

@[simp] theorem State.mem_loseContext (s : State) (x : Nat) : (s.loseContext x).mem = s.mem := by
  simp -implicitDefEqProofs [State.loseContext, mem_foldl]

@[simp] theorem State.mem_destroy (s : State) (x : Nat) (frames : List Nat) : (s.destroy x frames).mem = s.mem := by
  simp -implicitDefEqProofs [State.destroy, mem_foldl]

@[simp] theorem State.mem_requeueVacated (s : State) (x : Nat) : (s.requeueVacated x).mem = s.mem := by
  simp -implicitDefEqProofs [State.requeueVacated, mem_foldl]

@[simp] theorem State.mem_unbindRoles (s : State) (x : Nat) (cores : List Nat) : (s.unbindRoles x cores).mem = s.mem := rfl

@[simp] theorem State.mem_freezeOp (s : State) (o : Nat) : (s.freezeOp o).mem = s.mem := by
  fun_cases State.freezeOp s o <;> simp

@[simp] theorem State.mem_freezeCrew (s : State) (c : Nat) : (s.freezeCrew c).mem = s.mem := by
  simp -implicitDefEqProofs [State.freezeCrew, mem_foldl]

@[simp] theorem State.mem_readEntries (s : State) (x : Nat) (i : Image) (g base : Nat) (entries : List (List Byte)) :
    (s.readEntries x i g base entries).mem = s.mem := by
  simp only [State.readEntries]
  rw [mem_foldl _ (fun _ _ => by split <;> simp), mem_foldl _ (fun _ _ => by rfl)]

@[simp] theorem State.mem_readImage (s : State) (x : Nat) (i : Image) (bs : List Byte) : (s.readImage x i bs).mem = s.mem := by
  simp -implicitDefEqProofs [State.readImage, mem_foldl]

@[simp] theorem State.mem_renumber (s : State) (c core : Nat) : (s.renumber c core).mem = s.mem := by
  simp only [State.renumber]
  rw [mem_foldl _ (fun _ _ => by split <;> rfl)]

@[simp] theorem State.mem_reissueOps (s : State) (c : Nat) (old : Crew) (core : Nat) (tiles : Tab Nat) :
    (s.reissueOps c old core tiles).mem = s.mem := by
  refine mem_foldl _ (fun s o => ?_) _ s
  (repeat' split) <;> rfl

@[simp] theorem State.mem_applyNews (s : State) (c : Nat) (n : Nat × Nat × Bool) : (s.applyNews c n).mem = s.mem := by
  fun_cases State.applyNews s c n <;> simp

@[simp] theorem State.mem_recheckWaits (s : State) (c : Nat) (news : List (Nat × Nat × Bool)) :
    (s.recheckWaits c news).mem = s.mem := by
  have told : (news.foldl (fun (s : State) n => s.applyNews c n) s).mem = s.mem := mem_foldl _ (fun _ _ => by simp) _ _
  unfold State.recheckWaits
  dsimp only
  split
  · exact told
  · refine (mem_foldl _ (fun _ _ => mem_foldl _ (fun _ _ => ?_) _ _) _ _).trans told
    (repeat' split) <;> simp

theorem State.mem_loadCrew (s t : State) (i : Image) (core : Nat) (h : s.loadCrew i core = some t) : t.mem = s.mem := by
  unfold State.loadCrew at h
  dsimp only at h
  (repeat' split at h) <;> cases h
  simp

/-! ## Transform rings -/

@[simp] theorem State.mem_newRequest (s : State) (x q idx core : Nat) (r : Ring) (crew : Option Nat) (excess : Bool) :
    (s.newRequest x q idx core r crew excess).mem = s.mem := by
  simp only [State.newRequest]
  split <;> simp [State.mem_own]

@[simp] theorem State.mem_kick (s : State) (x q val core : Nat) (crew : Option Nat) : (s.kick x q val core crew).mem = s.mem := by
  unfold State.kick
  split
  · rfl
  · exact (mem_foldl _ (fun _ _ => by simp) _ _).trans (State.mem_modCtx s x _)

@[simp] theorem State.mem_completeKick (s : State) (o : Nat) (op : Op) (f : Fields) : (s.completeKick o op f).mem = s.mem := by
  fun_cases State.completeKick s o op f <;> simp

@[simp] theorem State.mem_haltRing (s : State) (o : Nat) (op : Op) (r : Ring) (cause addr : Nat) :
    (s.haltRing o op r cause addr).mem = s.mem := by simp [State.haltRing]

@[simp] theorem State.mem_closeRequest (s : State) (o : Nat) (op : Op) (status detail : Nat) :
    (s.closeRequest o op status detail).mem = s.mem := by simp [State.closeRequest]

@[simp] theorem State.mem_askOrHalt (s : State) (o : Nat) (op : Op) (r : Ring) (pkg pa va n : Nat) :
    (s.askOrHalt o op r pkg pa va n).mem = s.mem := by simp [State.askOrHalt]

@[simp] theorem State.mem_unhalt (s : State) (x q cmd : Nat) : (s.unhalt x q cmd).mem = s.mem := rfl

@[simp] theorem State.mem_resumeRing (s : State) (x q : Nat) : (s.resumeRing x q).mem = s.mem := by
  fun_cases State.resumeRing s x q <;> rfl

@[simp] theorem State.mem_cancelRing (s : State) (x q : Nat) : (s.cancelRing x q).mem = s.mem := by
  fun_cases State.cancelRing s x q <;> simp

/-! ## Engines -/

@[simp] theorem State.mem_sourceRead (s : State) (o unit : Nat) (op : Op) : (s.sourceRead o unit op).mem = s.mem := by
  fun_cases State.sourceRead s o unit op <;> simp

/-! ## Links -/

@[simp] theorem State.mem_lostMessage (s : State) (m : Msg) : (s.lostMessage m).mem = s.mem := by
  unfold State.lostMessage
  dsimp only
  (repeat' split) <;> simp

@[simp] theorem State.mem_requeueMsgs (s : State) (p : Nat) (trains : Bool) : (s.requeueMsgs p trains).mem = s.mem := by
  unfold State.requeueMsgs
  dsimp only
  (repeat' split) <;> simp -implicitDefEqProofs [mem_foldl]

@[simp] theorem State.mem_train (s : State) (p : Nat) : (s.train p).mem = s.mem := by
  simp [State.train]

@[simp] theorem State.mem_answer (s : State) (kind : Nat) (m : Msg) (data : List Word) : (s.answer kind m data).mem = s.mem := by
  simp [State.answer]

@[simp] theorem State.mem_takeMsg (s : State) (p : Nat) (m : Msg) : (s.takeMsg p m).mem = s.mem := by
  simp [State.takeMsg]

@[simp] theorem State.mem_takeMsgs (s : State) (p n : Nat) : (s.takeMsgs p n).mem = s.mem := by
  induction n generalizing s with
  | zero => rfl
  | succ n ih =>
    simp only [State.takeMsgs]
    (repeat' split) <;> simp [ih]

@[simp] theorem State.mem_readMail (s : State) (idx : Nat) : (s.readMail idx).mem = s.mem := rfl

@[simp] theorem State.mem_remoteValue (s : State) (o n : Nat) (op : Op) (e : Elem) (v : Nat) :
    (s.remoteValue o n op e v).mem = s.mem := by
  unfold State.remoteValue
  (repeat' split) <;> simp

@[simp] theorem State.mem_keepTag (s : State) (pa : Nat) (bs : List Byte) : (s.keepTag pa bs).mem = s.mem := rfl

@[simp] theorem State.mem_adjust (s : State) (there back : Dword) : (s.adjust there back).mem = s.mem := by
  simp [State.adjust]

@[simp] theorem State.mem_takeCount (s : State) (count : Dword) : (s.takeCount count).mem = s.mem := by
  simp [State.takeCount]

/-! ## The host -/

@[simp] theorem State.mem_refuseWrite (s : State) : s.refuseWrite.mem = s.mem := rfl

@[simp] theorem State.mem_writeQueue (s : State) (x q reg val : Nat) : (s.writeQueue x q reg val).mem = s.mem := by
  unfold State.writeQueue
  split <;> simp

@[simp] theorem State.mem_writeWindow (s : State) (x off : Nat) (val : Dword) (core : Nat) :
    (s.writeWindow x off val core).mem = s.mem := by
  fun_cases State.writeWindow s x off val core <;> simp

@[simp] theorem State.mem_restartDies (s : State) (val celsius millivolts : Nat) :
    (s.restartDies val celsius millivolts).mem = s.mem := by simp [State.restartDies]

@[simp] theorem State.mem_writeGlobal (s : State) (mgmt : Bool) (off : Nat) (val : Dword) :
    (s.writeGlobal mgmt off val).mem = s.mem := by
  unfold State.writeGlobal
  dsimp only
  (repeat' split) <;> simp

@[simp] theorem State.mem_readClears (s : State) (bar off : Nat) : (s.readClears bar off).mem = s.mem := by
  simp [State.readClears]

@[simp] theorem State.mem_hostReadReg (s : State) (fn bar offset : Nat) : (s.hostReadReg fn bar offset).mem = s.mem := by
  simp [State.hostReadReg]

@[simp] theorem State.mem_writeReg (s : State) (fn bar offset : Nat) (val : Dword) : (s.writeReg fn bar offset val).mem = s.mem := by
  fun_cases State.writeReg s fn bar offset val <;> simp

@[simp] theorem State.mem_windowWrite (s : State) : s.windowWrite.mem = s.mem := by
  unfold State.windowWrite
  split <;> simp

@[simp] theorem State.mem_mgmtWrite (s : State) (bar off : Nat) (val : Dword) : (s.mgmtWrite bar off val).mem = s.mem := by
  fun_cases State.mgmtWrite s bar off val <;> simp

@[simp] theorem State.mem_spend (s : State) (die energy : Nat) : (s.spend die energy).mem = s.mem := rfl

/-- A live context's energy counts up (R113): the model's update of a context, written out. -/
def State.chargeCtx (s : State) (x n : Nat) : State :=
  if (s.ctx x).st.live then s.modCtx x (fun cx => { cx with eacct := (cx.eacct + n) % 2 ^ 64 }) else s

@[simp] theorem State.mem_chargeCtx (s : State) (x n : Nat) : (s.chargeCtx x n).mem = s.mem := by
  simp [State.chargeCtx]

@[simp] theorem State.mem_attributeKernel (s : State) (k energy : Nat) : (s.attributeKernel k energy).mem = s.mem := rfl

/-! ## Power -/

@[simp] theorem State.mem_lowerClock (s : State) : s.lowerClock.mem = s.mem := by simp only [State.lowerClock]

@[simp] theorem State.mem_throttle (s : State) : s.throttle.mem = s.mem := by simp [State.throttle]
@[simp] theorem State.mem_stopDies (s : State) : s.stopDies.mem = s.mem := rfl

@[simp] theorem State.mem_stopContext (s : State) (x : Nat) : (s.stopContext x).mem = s.mem := by
  simp [State.stopContext]

/-! ## Waits -/

@[simp] theorem State.mem_resume (s : State) (c w k : Nat) : (s.resume c w k).mem = s.mem := by
  simp [State.resume]

/-! ## Steps -/

@[simp] theorem State.mem_taken (s : State) : s.taken.mem = s.mem := rfl

end Sys2Proof.Machine
end

section
/-!
SUPPORT. Every operation that writes memory keeps its canonical form: all of them write runs of bytes.
-/

namespace Sys2Proof.Machine

open Sys2Proof Sys2Proof.Safety Host

/-! ## Writes at a home -/

@[simp] theorem Memory.wf_ite (p : Prop) [Decidable p] (m n : Tab Byte) :
    Memory.wf (if p then m else n) = if p then Memory.wf m else Memory.wf n :=
  apply_ite Memory.wf p m n

/-- A run of bytes keeps memory in its canonical form. -/
@[simp] theorem Memory.wf_wrBytes (m : Tab Byte) (pa : Nat) (bs : List Byte) (h : Memory.wf m = true) : Memory.wf (m.wrBytes pa bs) = true :=
  Tab.wf_wrBytes m pa bs h

/-- A fold of updates that keep the canonical form keeps it. -/
theorem wf_foldl {α : Type} (f : State → α → State) (hf : ∀ s x, Memory.wf s.mem = true → Memory.wf (f s x).mem = true) (l : List α)
    (s : State) (h : Memory.wf s.mem = true) : Memory.wf (l.foldl f s).mem = true := by
  induction l generalizing s with
  | nil => exact h
  | cons a l ih => exact ih _ (hf s a h)

@[simp] theorem State.wf_commitFor (s : State) (g : Origin) (writer : Option Nat) (who : Option (Nat × Nat × Nat)) (pa : Nat) (bs : List Byte)
    (h : Memory.wf s.mem = true) : Memory.wf (s.commitFor g writer who pa bs).mem = true := by
  cases hp : homeOf pa with
  | hbm => rw [State.mem_commitFor s g writer who pa bs hp]; exact Memory.wf_wrBytes _ _ _ h
  | remote p => simpa only [State.commitFor, hp, State.mem_sendFor]
  | host => simpa only [State.commitFor, hp, State.mem_hostStore]
  | cxl => simpa only [State.commitFor, hp]

@[simp] theorem State.wf_commitBytes (s : State) (writer : Option Nat) (who : Option (Nat × Nat × Nat)) (pa : Nat) (bs : List Byte)
    (h : Memory.wf s.mem = true) : Memory.wf (s.commitBytes writer who pa bs).mem = true :=
  State.wf_commitFor s _ writer who pa bs h

@[simp] theorem State.wf_agentWrite (s : State) (pa : Nat) (bs : List Byte) (h : Memory.wf s.mem = true) :
    Memory.wf (s.agentWrite pa bs).mem = true :=
  State.wf_commitBytes s none none pa bs h

@[simp] theorem State.wf_ctxWrite (s : State) (x epoch pa : Nat) (bs : List Byte) (h : Memory.wf s.mem = true) :
    Memory.wf (s.ctxWrite x epoch pa bs).mem = true :=
  State.wf_commitFor s _ none none pa bs h

/-! ## Versions (R97, R170) -/

@[simp] theorem State.wf_commitVersion (s : State) (c : Nat) (h : Memory.wf s.mem = true) : Memory.wf (s.commitVersion c).mem = true := by
  unfold State.commitVersion
  split
  · exact h
  · exact wf_foldl _ (fun s _ hs => State.wf_commitFor s _ _ _ _ _ hs) _ s h

/-- The version is committed, the task irrevocable (R98). -/
theorem State.wf_irrevoked (s : State) (c : Nat) (h : Memory.wf s.mem = true) : Memory.wf (irrevoked s c).mem = true :=
  State.wf_commitVersion s c h

@[simp] theorem State.wf_storeHomeFor (s : State) (g : State → Crew → Origin) (self : Option (Nat × Nat × Nat)) (c : Nat) (direct : Bool)
    (seg : Option Nat) (who : Nat × Nat × Nat) (hdr cls pa : Nat) (bs : List Byte) (h : Memory.wf s.mem = true) :
    Memory.wf (s.storeHomeFor g self c direct seg who hdr cls pa bs).mem = true := by
  unfold State.storeHomeFor
  dsimp only
  (repeat' split) <;> simp [h]

@[simp] theorem State.wf_storeHome (s : State) (c : Nat) (direct : Bool) (seg : Option Nat) (who : Nat × Nat × Nat) (hdr cls va pa : Nat)
    (bs : List Byte) (h : Memory.wf s.mem = true) : Memory.wf (s.storeHome c direct seg who hdr cls va pa bs).mem = true :=
  State.wf_storeHomeFor s _ _ c direct seg who hdr cls pa bs h

@[simp] theorem State.wf_storeEngine (s : State) (o : Nat) (op : Op) (direct : Bool) (seg : Option Nat) (cls pa : Nat) (bs : List Byte)
    (h : Memory.wf s.mem = true) : Memory.wf (s.storeEngine o op direct seg cls pa bs).mem = true :=
  State.wf_storeHomeFor s _ _ op.crew direct seg _ op.hdr cls pa bs h

@[simp] theorem State.wf_storeEngineAt (s : State) (o : Nat) (op : Op) (vas : Tab Nat) (cls pa : Nat) (bs : List Byte)
    (h : Memory.wf s.mem = true) : Memory.wf (s.storeEngineAt o op vas cls pa bs).mem = true :=
  State.wf_storeHomeFor s _ _ op.crew false none _ op.hdr cls pa bs h

@[simp] theorem State.wf_holdRed (s : State) (c : Nat) (seg : Option Nat) (who : Nat × Nat × Nat) (hdr cls : Nat) (r : RedEntry)
    (h : Memory.wf s.mem = true) : Memory.wf (s.holdRed c seg who hdr cls r).1.mem = true := by
  unfold State.holdRed
  dsimp only
  (repeat' split) <;> simp [h]

/-- What an instruction does in an irrevocable task keeps the form, so doing it irrevocably does (R98, R181). -/
theorem State.wf_irrevocably (s : State) (body : State → State) (hb : ∀ s, Memory.wf s.mem = true → Memory.wf (body s).mem = true)
    (h : Memory.wf s.mem = true) : Memory.wf (s.irrevocably body).mem = true := by
  unfold State.irrevocably
  split
  · exact h
  · split
    · exact hb s h
    split
    · rwa [State.mem_trapHdr]
    split
    · rwa [State.mem_retry]
    · exact hb _ (State.wf_irrevoked s _ h)

/-! ## Barriers (R236 to R239) -/

/-- What follows the release of older accesses keeps the form, so waiting for them does (R99). -/
theorem State.wf_afterRelease (s : State) (sc : Nat) (body : State → State)
    (hb : ∀ s, Memory.wf s.mem = true → Memory.wf (body s).mem = true) (h : Memory.wf s.mem = true) :
    Memory.wf (s.afterRelease sc body).mem = true := by
  fun_cases State.afterRelease s sc body
  · exact h
  · exact hb _ (by rwa [State.mem_modCurStrand])
  · rwa [State.mem_retry, State.mem_modCurStrand]

theorem State.wf_onBarrier (s : State) (o : BarObj) (addr : Nat) (body : Bar → State → State)
    (hb : ∀ b s, Memory.wf s.mem = true → Memory.wf (body b s).mem = true) (h : Memory.wf s.mem = true) :
    Memory.wf (s.onBarrier o addr body).mem = true := by
  unfold State.onBarrier
  split
  · exact h
  · split
    · rwa [State.mem_retry]
    · dsimp only
      split
      · rwa [State.mem_trapAt]
      · exact hb _ _ (by rwa [State.mem_barMarks])

@[simp] theorem State.wf_barWrite (s : State) (c : Nat) (who : Nat × Nat × Nat) (o : BarObj) (b : Bar) (h : Memory.wf s.mem = true) :
    Memory.wf (s.barWrite c who o b).mem = true := by
  fun_cases State.barWrite s c who o b <;> simp [h]

@[simp] theorem State.wf_credit (s : State) (c a n : Nat) (h : Memory.wf s.mem = true) : Memory.wf (s.credit c a n).mem = true := by
  unfold State.credit
  dsimp only
  (repeat' split) <;> simp [h]

@[simp] theorem State.wf_breakBarrier (s : State) (c a : Nat) (h : Memory.wf s.mem = true) : Memory.wf (s.breakBarrier c a).mem = true := by
  unfold State.breakBarrier
  dsimp only
  split <;> simp [h]

@[simp] theorem State.wf_arrive (s : State) (q : Cursor) (o : BarObj) (b : Bar) (n : Nat) (h : Memory.wf s.mem = true) :
    Memory.wf (s.arrive q o b n).mem = true := by
  unfold State.arrive
  dsimp only
  (repeat' split) <;> simp [h]

theorem State.wf_barIrrevocably (s : State) (lvl : Nat) (body : State → State)
    (hb : ∀ s, Memory.wf s.mem = true → Memory.wf (body s).mem = true) (h : Memory.wf s.mem = true) :
    Memory.wf (s.barIrrevocably lvl body).mem = true := by
  unfold State.barIrrevocably
  split
  · exact State.wf_irrevocably s body hb h
  · exact hb s h

theorem State.wf_converge (s : State) (i : Instr) (lvl addr sc : Nat) (act : Cursor → State → State)
    (ha : ∀ q s, Memory.wf s.mem = true → Memory.wf (act q s).mem = true) (h : Memory.wf s.mem = true) :
    Memory.wf (s.converge i lvl addr sc act).mem = true := by
  unfold State.converge
  split
  · exact h
  · dsimp only
    split
    · exact State.wf_barIrrevocably s lvl _ (fun s hs => State.wf_afterRelease s sc _ (fun s hs => ha _ s hs) hs) h
    split
    · refine State.wf_barIrrevocably s lvl _ (fun s hs => State.wf_afterRelease s sc _ (fun s hs => ?_) hs) h
      split
      · exact hs
      · exact ha _ _ (by rwa [State.mem_mergeAll])
    · simpa

/-! ## Accesses (R82, R93, R95) -/

@[simp] theorem State.wf_atomic (s : State) (o n : Nat) (op : Op) (cr : Crew) (w : Wave) (e : Elem) (sc aop ty : Nat)
    (h : Memory.wf s.mem = true) : Memory.wf (s.atomic o n op cr w e sc aop ty).mem = true := by
  unfold State.atomic
  split
  · rwa [State.mem_load _ _ _ _ _ _ _ _ _ _ _ (fun _ _ => by simp)]
  · dsimp only
    (repeat' split) <;> simp [h, State.mem_dropCopy]

@[simp] theorem State.wf_storeConditional (s : State) (o n : Nat) (op : Op) (cr : Crew) (w : Wave) (e : Elem) (sc : Nat)
    (h : Memory.wf s.mem = true) : Memory.wf (s.storeConditional o n op cr w e sc).mem = true := by
  unfold State.storeConditional
  dsimp only
  (repeat' split) <;> simp [h, State.mem_dropCopy]

@[simp] theorem State.wf_wakeStore (s : State) (writer : Option Nat) (who : Option (Nat × Nat × Nat)) (pa : Nat) (bs : List Byte)
    (h : Memory.wf s.mem = true) : Memory.wf (s.wakeStore writer who pa bs State.evalWakes).mem = true := by
  simp [State.wakeStore, h]

@[simp] theorem State.wf_reduce (s : State) (o n : Nat) (op : Op) (e : Elem) (aop ty : Nat) (h : Memory.wf s.mem = true) :
    Memory.wf (s.reduce o n op e aop ty).mem = true := by
  simp [State.reduce, h]

@[simp] theorem State.wf_scatter (s : State) (o : Nat) (op : Op) (core : Nat) (h : Memory.wf s.mem = true) :
    Memory.wf (s.scatter o op core).mem = true := by
  refine wf_foldl _ (fun s n hs => ?_) _ _ (by simpa [State.mem_own] using h)
  dsimp only
  (repeat' split) <;> simp [hs]

@[simp] theorem State.wf_performAccess (s : State) (o n : Nat) (atHome : Bool) (h : Memory.wf s.mem = true) :
    Memory.wf (s.performAccess o n atHome).mem = true := by
  unfold State.performAccess
  split
  · exact h
  split
  · split
    · exact h
    split
    case h_1 => rwa [State.mem_load _ _ _ _ _ _ _ _ _ _ _ (fun _ _ => by simp)]
    case h_2 => rwa [State.mem_onSpad _ _ _ _ (fun _ _ => by simp)]
    case h_4 => rwa [State.mem_onSpad _ _ _ _ (fun _ _ => by simp)]
    case h_6 => rwa [State.mem_onSpad _ _ _ _ (fun _ _ => by simp)]
    all_goals (repeat' split) <;> simp [h, State.mem_dropCopy]
  · exact h

@[simp] theorem State.wf_agentWake (s : State) (x epoch pa va : Nat) (bs : List Byte) (h : Memory.wf s.mem = true) :
    Memory.wf (s.agentWake x epoch pa va bs).mem = true := by
  fun_cases State.agentWake s x epoch pa va bs <;> simp [h]

/-! ## Engines (R91, R251, R265) -/

@[simp] theorem State.wf_scatterUnit (s : State) (o : Nat) (op : Op) (h : Memory.wf s.mem = true) :
    Memory.wf (s.scatterUnit o op).mem = true := by
  unfold State.scatterUnit
  split
  · exact h
  · rw [State.mem_release]
    refine wf_foldl _ (fun s n hs => ?_) _ s h
    split <;> simp [hs]

@[simp] theorem State.wf_engineWrite (s : State) (o : Nat) (op : Op) (cls : Nat) (vas : Tab Nat) (l : List (Nat × List Byte))
    (h : Memory.wf s.mem = true) : Memory.wf (s.engineWrite o op cls vas l).mem = true := by
  refine wf_foldl _ (fun s r hs => ?_) l s h
  dsimp only
  split <;> simp [hs]

@[simp] theorem State.wf_unitWritten (s : State) (o : Nat) (op : Op) (hi scope : Nat) (t : Tab Byte) (h : Memory.wf s.mem = true) :
    Memory.wf (s.unitWritten o op hi scope t).mem = true := by
  unfold State.unitWritten
  dsimp only
  (repeat' split) <;> simp [h]

@[simp] theorem State.wf_cancelCopy (s : State) (o : Nat) (op : Op) (h : Memory.wf s.mem = true) :
    Memory.wf (s.cancelCopy o op).mem = true := by
  unfold State.cancelCopy
  dsimp only
  split <;> simp [h]

@[simp] theorem State.wf_astUnit (s : State) (o : Nat) (op : Op) (f : Fields) (h : Memory.wf s.mem = true) :
    Memory.wf (s.astUnit o op f).mem = true := by
  unfold State.astUnit
  dsimp only
  (repeat' split) <;> simp -implicitDefEqProofs [h, mem_foldl]

@[simp] theorem State.wf_xstUnit (s : State) (o : Nat) (op : Op) (f : Fields) (h : Memory.wf s.mem = true) :
    Memory.wf (s.xstUnit o op f).mem = true := by
  unfold State.xstUnit
  dsimp only
  (repeat' split) <;> simp -implicitDefEqProofs [h, mem_foldl]

@[simp] theorem State.wf_commitChain (s : State) (c : Nat) (l : List Nat) (h : Memory.wf s.mem = true) :
    Memory.wf (s.commitChain c l).mem = true := by
  unfold State.commitChain
  split
  · exact h
  · dsimp only
    split
    · exact wf_foldl _ (fun s _ hs => State.wf_commitFor s _ _ _ _ _ hs) _ _ (by rwa [State.mem_dropSegs])
    · rwa [mem_foldl _ (fun _ _ => by rfl), State.mem_modCrew, State.mem_dropSegs]

@[simp] theorem State.wf_resolveStep (s : State) (o : Nat) (op : Op) (cr : Crew) (h : Memory.wf s.mem = true) :
    Memory.wf (s.resolveStep o op cr).mem = true := by
  unfold State.resolveStep
  (repeat' split) <;> simp [h]

@[simp] theorem State.wf_completeBeam (s : State) (o : Nat) (op : Op) (h : Memory.wf s.mem = true) :
    Memory.wf (s.completeBeam o op).mem = true := by
  unfold State.completeBeam
  dsimp only
  (repeat' split) <;> simp [h, State.mem_dropPages]

@[simp] theorem State.wf_engCancel (s : State) (o : Nat) (op : Op) (h : Memory.wf s.mem = true) : Memory.wf (s.engCancel o op).mem = true := by
  unfold State.engCancel
  (repeat' split) <;> simp [h]

@[simp] theorem State.wf_engCommand (s : State) (x : Nat) (e : EngSel) (v hdr : Nat) (h : Memory.wf s.mem = true) :
    Memory.wf (s.engCommand x e v hdr).mem = true := by
  fun_cases State.engCommand s x e v hdr <;> simp [h]

@[simp] theorem State.wf_engWrite (s : State) (x : Nat) (e : EngSel) (n v hdr : Nat) (h : Memory.wf s.mem = true) :
    Memory.wf (s.engWrite x e n v hdr).mem = true := by
  unfold State.engWrite
  (repeat' split) <;> simp [h]

/-! ## Records, commands and images -/

@[simp] theorem State.wf_deliver (s : State) (core : Nat) (r : TrapRec) (pa : Nat) (h : Memory.wf s.mem = true) :
    Memory.wf (s.deliver core r pa).mem = true := by
  unfold State.deliver
  dsimp only
  split <;> simp [h]

theorem State.wf_saveCrew (s t : State) (c : Nat) (cr : Crew) (ht : s.saveCrew c cr = some t) (h : Memory.wf s.mem = true) :
    Memory.wf t.mem = true := by
  unfold State.saveCrew at ht
  dsimp only at ht
  (repeat' split at ht) <;> cases ht
  exact wf_foldl _ (fun s _ hs => State.wf_ctxWrite s _ _ _ _ hs) _ _ h

@[simp] theorem State.wf_requestUnit (s : State) (o : Nat) (op : Op) (h : Memory.wf s.mem = true) :
    Memory.wf (s.requestUnit o op).mem = true := by
  fun_cases State.requestUnit s o op
  case case9 =>
    rw [State.mem_endRequest]
    dsimp +zetaDelta only
    split <;> simpa
  case case10 =>
    rw [State.mem_haltRing]
    dsimp +zetaDelta only
    split <;> simpa
  all_goals simp -implicitDefEqProofs +zetaDelta [h, mem_foldl]

@[simp] theorem State.wf_requestWake (s : State) (x q slot : Nat) (r : Ring) (wake epoch : Nat) (h : Memory.wf s.mem = true) :
    Memory.wf (s.requestWake x q slot r wake epoch).mem = true := by
  unfold State.requestWake
  dsimp only
  (repeat' split) <;> simp [h]

/-! ## Commands of a queue (R120, R121, R138) -/

@[simp] theorem State.wf_signalWrite (s : State) (x addr value : Nat) (h : Memory.wf s.mem = true) :
    Memory.wf (s.signalWrite x addr value).2.mem = true := by
  unfold State.signalWrite
  split <;> simp [h]

theorem State.mem_startReplay (s : State) (x queue graph : Nat) (r : CmdRef × State) (hr : s.startReplay x queue graph = some (some r)) :
    r.2.mem = s.mem := by
  unfold State.startReplay at hr
  dsimp only at hr
  (repeat' split at hr) <;> cases hr
  rfl

theorem State.wf_startCommand (s : State) (x queue : Nat) (p : Packet) (patch : Nat → Nat) (graphNode : Bool) (r : CmdRef × State)
    (hr : s.startCommand x queue p patch graphNode = some (some r)) (h : Memory.wf s.mem = true) : Memory.wf r.2.mem = true := by
  unfold State.startCommand at hr
  dsimp only at hr
  repeat' split at hr
  all_goals cases hr
  · exact h
  · rwa [State.mem_launchRecord]
  · exact h
  · exact State.wf_signalWrite s x _ _ h
  next hs => rwa [State.mem_startReplay s x queue _ r hs]

@[simp] theorem State.wf_queueHead (s : State) (x q kind : Nat) (h : Memory.wf s.mem = true) :
    Memory.wf (s.queueHead x q kind).mem = true := by
  fun_cases State.queueHead s x q kind
  case case11 hs =>
    rw [State.mem_advanceQueue]
    exact State.wf_startCommand s x q _ _ _ _ hs h
  all_goals simp [h]

@[simp] theorem State.wf_replayNode (s : State) (r : Nat) (h : Memory.wf s.mem = true) : Memory.wf (s.replayNode r).mem = true := by
  fun_cases State.replayNode s r
  case case5 hs => exact State.wf_startCommand s _ _ _ _ _ _ hs h
  all_goals simp [h]

/-! ## Operations -/

@[simp] theorem State.wf_performOp (s : State) (o n : Nat) (atHome : Bool) (op : Op) (h : Memory.wf s.mem = true) :
    Memory.wf (s.performOp o n atHome op).mem = true := by
  unfold State.performOp
  (repeat' split) <;> simp [h]

@[simp] theorem State.wf_completeOp (s : State) (o : Nat) (op : Op) (h : Memory.wf s.mem = true) :
    Memory.wf (s.completeOp o op).mem = true := by
  unfold State.completeOp
  (repeat' split) <;> simp [h]

@[simp] theorem State.wf_unitWrite (s : State) (o : Nat) (op : Op) (h : Memory.wf s.mem = true) :
    Memory.wf (s.unitWrite o op).mem = true := by
  unfold State.unitWrite
  (repeat' split) <;> simp [h]

/-! ## Outcomes -/

/-- The next state, where there is one, has its memory in its canonical form. -/
def NextWf (r : Outcome State Fault Refusal) : Prop := ∀ t, r = .next t → Memory.wf t.mem = true

@[simp] theorem nextWf_next (s : State) : NextWf (.next s) ↔ Memory.wf s.mem = true := by
  simp [NextWf]

@[simp] theorem nextWf_hold (s : State) : NextWf (hold s) ↔ Memory.wf s.mem = true :=
  nextWf_next s

@[simp] theorem nextWf_granted (s : State) : NextWf s.granted ↔ Memory.wf s.mem = true :=
  nextWf_next _

@[simp] theorem nextWf_wrongState (s : State) : NextWf s.wrongState ↔ Memory.wf s.mem = true :=
  nextWf_next _

/-- What a lane-guarded instruction does keeps the form, so the instruction does (R62). -/
theorem nextWf_laned (s : State) (i : Instr) (pn : Bool) (pred : BitVec 3) (vs : List (Nat × Nat))
    (body : Cursor → Crew → Wave → LaneMask → State) (hb : ∀ q cr w act, Memory.wf (body q cr w act).mem = true)
    (h : Memory.wf s.mem = true) : NextWf (s.laned i pn pred vs body) := by
  unfold State.laned
  dsimp only
  (repeat' split) <;> simp [h, hb]

theorem nextWf_waved (s : State) (i : Instr) (vs : List (Nat × Nat)) (body : Cursor → Crew → Wave → State)
    (hb : ∀ q cr w, Memory.wf (body q cr w).mem = true) (h : Memory.wf s.mem = true) : NextWf (s.waved i vs body) := by
  unfold State.waved
  (repeat' split) <;> simp [h, hb]

@[simp] theorem nextWf_laneOp (s : State) (i : Instr) (pn : Bool) (pred : BitVec 3) (kd : Bool) (d : BitVec 8) (n : Nat)
    (vs : List (Nat × Nat)) (val : Wave → LaneMask → Nat → Nat) (h : Memory.wf s.mem = true) :
    NextWf (s.laneOp i pn pred kd d n vs val) :=
  nextWf_laned s i pn pred _ _ (fun _ _ _ _ => h) h

@[simp] theorem nextWf_predOp (s : State) (i : Instr) (pn : Bool) (pred : BitVec 3) (d : BitVec 8) (vs : List (Nat × Nat))
    (val : Wave → LaneMask → Nat → Bool) (h : Memory.wf s.mem = true) : NextWf (s.predOp i pn pred d vs val) :=
  nextWf_laned s i pn pred _ _ (fun _ _ _ _ => h) h

/-- What an access does with its elements keeps the form, so the access does. -/
theorem nextWf_access (s : State) (i : Instr) (f : Fields) (vs : List (Nat × Nat)) (form : Crew → Wave → Machine.Form)
    (dst : Wave → Nat → List Nat) (data data2 : Wave → Nat → Nat)
    (go : Cursor → Crew → Wave → LaneMask → List Elem → State → State)
    (hg : ∀ q cr w act es s, Memory.wf s.mem = true → Memory.wf (go q cr w act es s).mem = true) (h : Memory.wf s.mem = true) :
    NextWf (s.access i f vs form dst data data2 go) := by
  refine nextWf_laned s i _ _ _ _ (fun q cr w act => ?_) h
  dsimp only
  split
  · simp [h]
  · exact hg _ _ _ _ _ _ (by simp [h])

theorem nextWf_wholeWave (s : State) (i : Instr) (body : Cursor → Crew → Wave → State)
    (hb : ∀ q cr w, Memory.wf (body q cr w).mem = true) (h : Memory.wf s.mem = true) : NextWf (s.wholeWave i body) := by
  refine nextWf_waved s i _ _ (fun q cr w => ?_) h
  split <;> simp [h, hb]

theorem nextWf_matrixIssue (s : State) (i : Instr) (name : Nat) (needs : Bool) (body : Cursor → Crew → Wave → Nat → State)
    (hb : ∀ q cr w p, Memory.wf (body q cr w p).mem = true) (h : Memory.wf s.mem = true) : NextWf (s.matrixIssue i name needs body) := by
  refine nextWf_waved s i _ _ (fun q cr w => ?_) h
  (repeat' split) <;> simp [h, hb]

@[simp] theorem nextWf_productIssue (s : State) (i : Instr) (f : Fields) (kind : MxKind) (h : Memory.wf s.mem = true) :
    NextWf (s.productIssue i f kind) := by
  refine nextWf_matrixIssue s i _ _ _ (fun q cr w p => ?_) h
  dsimp only
  split <;> simp [h]

@[simp] theorem nextWf_translateIssue (s : State) (i : Instr) (f : Fields) (kd ka : Nat) (h : Memory.wf s.mem = true) :
    NextWf (s.translateIssue i f kd ka) := by
  refine nextWf_waved s i _ _ (fun q cr w => ?_) h
  split <;> simp [h]

/-- Arriving at a barrier and waiting for its phase keeps the form (R236, R240). -/
@[simp] theorem nextWf_barAndWait (i : Instr) (lvl : Nat) (a : BitVec 8) (n : Wave → Option Nat) (s : State) (h : Memory.wf s.mem = true) :
    NextWf (barAndWait i lvl a n s) := by
  refine nextWf_waved s i _ _ (fun q cr w => ?_) h
  dsimp only
  split
  · simp [h]
  · refine State.wf_converge s i lvl _ _ _ (fun q s hs => ?_) h
    split
    · simp [hs]
    · refine State.wf_onBarrier s _ _ _ (fun b s hs => ?_) hs
      split <;> simp [hs]

end Sys2Proof.Machine
end

section
/-!
Memory's canonical form under every instruction and event, and so under every step.
-/

namespace Sys2Proof.Machine

open Sys2Proof Sys2Proof.Safety Host

/-! ## Barriers and futures -/

@[simp] theorem nextWf_execBinit (f : Fields) (s : State) (h : Memory.wf s.mem = true) : NextWf (execBinit f s) := by
  refine nextWf_waved _ _ _ _ (fun q cr w => ?_) h
  dsimp only
  split
  · simp [h]
  split
  · simp [h]
  · refine State.wf_barIrrevocably s _ _ (fun s hs => ?_) h
    split <;> simp [hs]

@[simp] theorem nextWf_execBara (f : Fields) (s : State) (h : Memory.wf s.mem = true) : NextWf (execBara f s) := by
  refine nextWf_waved _ _ _ _ (fun q cr w => ?_) h
  dsimp only
  split
  · simp [h]
  split
  · simp [h]
  · refine State.wf_barIrrevocably s _ _ (fun s hs => State.wf_afterRelease s _ _ (fun s hs => ?_) hs) h
    refine State.wf_onBarrier s _ _ _ (fun b s hs => ?_) hs
    split <;> simp [hs]

@[simp] theorem nextWf_execBarw (f : Fields) (s : State) (h : Memory.wf s.mem = true) : NextWf (execBarw f s) := by
  refine nextWf_waved _ _ _ _ (fun q cr w => ?_) h
  dsimp only
  split
  · simp [h]
  next o _ =>
    have act (q : Cursor) (sc addr : Nat) (p : State → Nat) (s : State) (hs : Memory.wf s.mem = true) :
        Memory.wf (s.onBarrier o addr (fun b s =>
          if b.state = 1 ∧ b.phase = p s then s.barIrrevocably f.lvl (fun s' => s'.waitPhase q o sc (p s))
          else s.waitPhase q o sc (p s))).mem = true := by
      refine State.wf_onBarrier s o _ _ (fun b s hs => ?_) hs
      split
      · exact State.wf_barIrrevocably s _ _ (fun s hs => by simp [hs]) hs
      · simp [hs]
    split
    · exact act _ _ _ _ s h
    split
    · exact act _ _ _ _ _ (by simp [h])
    · simp [h]

@[simp] theorem nextWf_execBarq (f : Fields) (s : State) (h : Memory.wf s.mem = true) : NextWf (execBarq f s) := by
  refine nextWf_waved _ _ _ _ (fun q cr w => ?_) h
  dsimp only
  split
  · simp [h]
  · exact State.wf_onBarrier s _ _ _ (fun b s hs => hs) h

@[simp] theorem nextWf_execWwait (f : Fields) (s : State) (h : Memory.wf s.mem = true) : NextWf (execWwait f s) := by
  refine nextWf_waved _ _ _ _ (fun q cr w => ?_) h
  dsimp only
  (repeat' split) <;> simp [h]

@[simp] theorem nextWf_execHtest (f : Fields) (s : State) (h : Memory.wf s.mem = true) : NextWf (execHtest f s) :=
  nextWf_waved _ _ _ _ (fun _ _ _ => by simp [h]) h

@[simp] theorem nextWf_execHwait (f : Fields) (s : State) (h : Memory.wf s.mem = true) : NextWf (execHwait f s) :=
  nextWf_waved _ _ _ _ (fun _ _ _ => by simp [h]) h

@[simp] theorem nextWf_execHmov (f : Fields) (s : State) (h : Memory.wf s.mem = true) : NextWf (execHmov f s) :=
  nextWf_waved _ _ _ _ (fun _ _ _ => by simp [h]) h

/-! ## Vector instructions -/

@[simp] theorem nextWf_execCvtq (f : Fields) (s : State) (h : Memory.wf s.mem = true) : NextWf (execCvtq f s) :=
  nextWf_laned _ _ _ _ _ _ (fun _ _ _ _ => by simp [h]) h

@[simp] theorem nextWf_execBallot (f : Fields) (s : State) (h : Memory.wf s.mem = true) : NextWf (execBallot f s) :=
  nextWf_laned _ _ _ _ _ _ (fun _ _ _ _ => by simp [h]) h

/-! ## Control -/

@[simp] theorem nextWf_execBra (f : ImmFields) (s : State) (h : Memory.wf s.mem = true) : NextWf (execBra f s) :=
  nextWf_laned _ _ _ _ _ _ (fun _ _ _ _ => by simp -implicitDefEqProofs [State.mem_jump, h]) h

@[simp] theorem nextWf_execBrx (f : Fields) (s : State) (h : Memory.wf s.mem = true) : NextWf (execBrx f s) :=
  nextWf_laned _ _ _ _ _ _ (fun _ _ _ _ => by simp -implicitDefEqProofs [State.mem_jump, h]) h

@[simp] theorem nextWf_execRet (f : Fields) (s : State) (h : Memory.wf s.mem = true) : NextWf (execRet f s) :=
  nextWf_laned _ _ _ _ _ _ (fun _ _ _ _ => by simp -implicitDefEqProofs [State.mem_jump, h]) h

@[simp] theorem nextWf_execCall (f : ImmFields) (s : State) (h : Memory.wf s.mem = true) : NextWf (execCall f s) :=
  nextWf_laned _ _ _ _ _ _ (fun _ _ _ _ => by simp -implicitDefEqProofs [State.mem_jump, h]) h

@[simp] theorem nextWf_execJoin (f : Fields) (s : State) (h : Memory.wf s.mem = true) : NextWf (execJoin f s) :=
  nextWf_waved _ _ _ _ (fun _ _ _ => by simp [h]) h

@[simp] theorem nextWf_execJoinw (f : Fields) (s : State) (h : Memory.wf s.mem = true) : NextWf (execJoinw f s) :=
  nextWf_waved _ _ _ _ (fun _ _ _ => by simp [h]) h

@[simp] theorem nextWf_execJoinwImm (f : ImmFields) (s : State) (h : Memory.wf s.mem = true) : NextWf (execJoinwImm f s) :=
  nextWf_waved _ _ _ _ (fun _ _ _ => by simp [h]) h

@[simp] theorem nextWf_execExit (f : Fields) (s : State) (h : Memory.wf s.mem = true) : NextWf (execExit f s) := by
  refine nextWf_laned _ _ _ _ _ _ (fun q cr w act => ?_) h
  dsimp only
  (repeat' split) <;> simp [h]

@[simp] theorem nextWf_execYield (f : Fields) (s : State) (h : Memory.wf s.mem = true) : NextWf (execYield f s) :=
  nextWf_waved _ _ _ _ (fun _ _ _ => by simp [h]) h

@[simp] theorem nextWf_execNop (f : Fields) (s : State) (h : Memory.wf s.mem = true) : NextWf (execNop f s) :=
  nextWf_waved _ _ _ _ (fun _ _ _ => by simp [h]) h

@[simp] theorem nextWf_execTrap (f : ImmFields) (s : State) (h : Memory.wf s.mem = true) : NextWf (execTrap f s) :=
  nextWf_laned _ _ _ _ _ _ (fun _ _ _ _ => by simp [h]) h

@[simp] theorem nextWf_execRbacq (f : Fields) (s : State) (h : Memory.wf s.mem = true) : NextWf (execRbacq f s) :=
  nextWf_waved _ _ _ _ (fun _ _ _ => by simp [h]) h

@[simp] theorem nextWf_execRbrel (f : Fields) (s : State) (h : Memory.wf s.mem = true) : NextWf (execRbrel f s) := by
  refine nextWf_waved _ _ _ _ (fun q cr w => ?_) h
  dsimp only
  simp -implicitDefEqProofs [h, mem_foldl]

@[simp] theorem nextWf_execRbqry (f : Fields) (s : State) (h : Memory.wf s.mem = true) : NextWf (execRbqry f s) :=
  nextWf_waved _ _ _ _ (fun _ _ _ => by simp [h]) h

@[simp] theorem nextWf_execSysr (f : Fields) (s : State) (h : Memory.wf s.mem = true) : NextWf (execSysr f s) :=
  nextWf_waved _ _ _ _ (fun _ _ _ => by simp [h]) h

@[simp] theorem nextWf_execSysw (f : Fields) (s : State) (h : Memory.wf s.mem = true) : NextWf (execSysw f s) :=
  nextWf_waved _ _ _ _ (fun _ _ _ => by simp [h]) h

@[simp] theorem nextWf_execReservationExpiry (c w k : Nat) (s : State) (h : Memory.wf s.mem = true) :
    NextWf (execReservationExpiry c w k s) := by
  fun_cases execReservationExpiry c w k s <;> simp [h]

@[simp] theorem nextWf_execFairnessSwitch (c w : Nat) (s : State) (h : Memory.wf s.mem = true) :
    NextWf (execFairnessSwitch c w s) := by
  fun_cases execFairnessSwitch c w s <;> simp [h]

@[simp] theorem nextWf_execRbacqGrant (core : Nat) (s : State) (h : Memory.wf s.mem = true) : NextWf (execRbacqGrant core s) := by
  unfold execRbacqGrant
  dsimp only
  (repeat' split) <;> simp [h]

@[simp] theorem nextWf_execSegmentReturn (c w seg : Nat) (s : State) (h : Memory.wf s.mem = true) :
    NextWf (execSegmentReturn c w seg s) := by
  fun_cases execSegmentReturn c w seg s <;> simp [h]

@[simp] theorem nextWf_execWaveRetire (c w : Nat) (s : State) (h : Memory.wf s.mem = true) : NextWf (execWaveRetire c w s) := by
  fun_cases execWaveRetire c w s <;> simp [h]

/-! ## Issue -/

@[simp] theorem nextWf_execClauseFetch (c w : Nat) (s : State) (h : Memory.wf s.mem = true) : NextWf (execClauseFetch c w s) := by
  unfold execClauseFetch
  dsimp only
  (repeat' split) <;> simp -implicitDefEqProofs [h, mem_foldl, State.mem_dropFetch, State.mem_started]

/-! ## Memory instructions -/

@[simp] theorem nextWf_execLd (f : Fields) (s : State) (h : Memory.wf s.mem = true) : NextWf (execLd f s) :=
  nextWf_access _ _ _ _ _ _ _ _ _ (fun _ _ _ _ _ _ h => by simp [h]) h

@[simp] theorem nextWf_execLds (f : Fields) (s : State) (h : Memory.wf s.mem = true) : NextWf (execLds f s) :=
  nextWf_access _ _ _ _ _ _ _ _ _ (fun _ _ _ _ _ _ h => by simp [h]) h

@[simp] theorem nextWf_execSt (f : Fields) (s : State) (h : Memory.wf s.mem = true) : NextWf (execSt f s) :=
  nextWf_access _ _ _ _ _ _ _ _ _ (fun _ _ _ _ _ _ h => by simp [h]) h

@[simp] theorem nextWf_execSts (f : Fields) (s : State) (h : Memory.wf s.mem = true) : NextWf (execSts f s) :=
  nextWf_access _ _ _ _ _ _ _ _ _ (fun _ _ _ _ _ _ h => by simp [h]) h

@[simp] theorem nextWf_execAtom (f : Fields) (s : State) (h : Memory.wf s.mem = true) : NextWf (execAtom f s) := by
  refine nextWf_access _ _ _ _ _ _ _ _ _ (fun q _ w act es s hs => ?_) h
  dsimp only
  split
  · exact State.wf_irrevocably s _ (fun s hs => by split <;> simp [hs]) hs
  · split <;> simp [hs]

@[simp] theorem nextWf_execAtoms (f : Fields) (s : State) (h : Memory.wf s.mem = true) : NextWf (execAtoms f s) :=
  nextWf_access _ _ _ _ _ _ _ _ _ (fun _ _ _ _ _ _ h => by simp [h]) h

@[simp] theorem nextWf_execLr (f : Fields) (s : State) (h : Memory.wf s.mem = true) : NextWf (execLr f s) := by
  refine nextWf_access _ _ _ _ _ _ _ _ _ (fun q _ w act es s hs => ?_) h
  dsimp only
  split
  · exact State.wf_irrevocably s _ (fun s hs => by split <;> simp [hs]) hs
  · split <;> simp [hs]

@[simp] theorem nextWf_execSc (f : Fields) (s : State) (h : Memory.wf s.mem = true) : NextWf (execSc f s) := by
  refine nextWf_access _ _ _ _ _ _ _ _ _ (fun q _ w act es s hs => ?_) h
  dsimp only
  split
  · exact State.wf_irrevocably s _ (fun s hs => by split <;> simp [hs]) hs
  · split <;> simp [hs]

@[simp] theorem nextWf_execRed (f : Fields) (s : State) (h : Memory.wf s.mem = true) : NextWf (execRed f s) :=
  nextWf_access _ _ _ _ _ _ _ _ _ (fun _ _ _ _ _ _ h => by simp [h]) h

@[simp] theorem nextWf_execGath (f : Fields) (s : State) (h : Memory.wf s.mem = true) : NextWf (execGath f s) :=
  nextWf_access _ _ _ _ _ _ _ _ _ (fun _ _ _ _ _ _ h => by simp [h]) h

@[simp] theorem nextWf_execScat (f : Fields) (s : State) (h : Memory.wf s.mem = true) : NextWf (execScat f s) :=
  nextWf_access _ _ _ _ _ _ _ _ _ (fun _ _ _ _ _ _ h => by simp [h]) h

@[simp] theorem nextWf_execConfl (f : Fields) (s : State) (h : Memory.wf s.mem = true) : NextWf (execConfl f s) :=
  nextWf_laned _ _ _ _ _ _ (fun _ _ _ _ => by simp [h]) h

@[simp] theorem nextWf_execFence (f : Fields) (s : State) (h : Memory.wf s.mem = true) : NextWf (execFence f s) :=
  nextWf_laned _ _ _ _ _ _ (fun _ _ _ _ => by simp [h]) h

@[simp] theorem nextWf_execFencew (f : Fields) (s : State) (h : Memory.wf s.mem = true) : NextWf (execFencew f s) :=
  nextWf_laned _ _ _ _ _ _ (fun _ _ _ _ => by simp [h]) h

@[simp] theorem nextWf_execPref (f : Fields) (s : State) (h : Memory.wf s.mem = true) : NextWf (execPref f s) :=
  nextWf_laned _ _ _ _ _ _ (fun _ _ _ _ => by simp [h]) h

@[simp] theorem nextWf_execStw (f : Fields) (s : State) (h : Memory.wf s.mem = true) : NextWf (execStw f s) :=
  nextWf_access _ _ _ _ _ _ _ _ _ (fun _ _ _ _ _ s hs => State.wf_irrevocably s _ (fun s hs => by split <;> simp [hs]) hs) h

@[simp] theorem nextWf_execWriteQueueDrain (core idx : Nat) (s : State) (h : Memory.wf s.mem = true) :
    NextWf (execWriteQueueDrain core idx s) := by
  unfold execWriteQueueDrain
  dsimp only
  (repeat' split) <;> simp [h]

@[simp] theorem nextWf_execInvalidationApply (core idx : Nat) (s : State) (h : Memory.wf s.mem = true) :
    NextWf (execInvalidationApply core idx s) := by
  fun_cases execInvalidationApply core idx s <;> simp [h]

@[simp] theorem nextWf_execFenceCompletion (o : Nat) (s : State) (h : Memory.wf s.mem = true) :
    NextWf (execFenceCompletion o s) := by
  fun_cases execFenceCompletion o s <;> simp [h]

@[simp] theorem nextWf_execReductionApply (idx : Nat) (s : State) (h : Memory.wf s.mem = true) :
    NextWf (execReductionApply idx s) := by
  unfold execReductionApply
  dsimp only
  (repeat' split) <;> simp [h]

/-! ## Copies -/

@[simp] theorem nextWf_execCpy (f : Fields) (s : State) (h : Memory.wf s.mem = true) : NextWf (execCpy f s) :=
  nextWf_waved _ _ _ _ (fun _ _ _ => by simp [h]) h

@[simp] theorem nextWf_execCpyt (f : Fields) (s : State) (h : Memory.wf s.mem = true) : NextWf (execCpyt f s) :=
  nextWf_waved _ _ _ _ (fun _ _ _ => by simp [h]) h

@[simp] theorem nextWf_execCpyg (f : Fields) (s : State) (h : Memory.wf s.mem = true) : NextWf (execCpyg f s) :=
  nextWf_waved _ _ _ _ (fun _ _ _ => by simp [h]) h

@[simp] theorem nextWf_execRcfence (f : Fields) (s : State) (h : Memory.wf s.mem = true) : NextWf (execRcfence f s) :=
  nextWf_waved _ _ _ _ (fun _ _ _ => by simp [h]) h

@[simp] theorem nextWf_execKick (f : Fields) (s : State) (h : Memory.wf s.mem = true) : NextWf (execKick f s) :=
  nextWf_waved _ _ _ _ (fun _ _ _ => by simp [h]) h

@[simp] theorem nextWf_execCopyPerform (o victim : Nat) (s : State) (h : Memory.wf s.mem = true) :
    NextWf (execCopyPerform o victim s) := by
  unfold execCopyPerform
  dsimp only
  (repeat' split) <;> simp [h, State.mem_dropPages, State.mem_activate]

@[simp] theorem nextWf_execCopyUnitWrite (o : Nat) (s : State) (h : Memory.wf s.mem = true) : NextWf (execCopyUnitWrite o s) := by
  fun_cases execCopyUnitWrite o s
  case case9 =>
    rw [nextWf_next, State.mem_evFault]
    dsimp +zetaDelta only
    split
    · split <;> exact h
    · exact h
  all_goals simp -implicitDefEqProofs +zetaDelta [h, mem_foldl]

@[simp] theorem nextWf_execHcan (f : Fields) (s : State) (h : Memory.wf s.mem = true) : NextWf (execHcan f s) := by
  refine nextWf_waved _ _ _ _ (fun q cr w => ?_) h
  dsimp only
  (repeat' split) <;> simp [h]

/-! ## Matrix -/

@[simp] theorem nextWf_execAresc (f : Fields) (s : State) (h : Memory.wf s.mem = true) : NextWf (execAresc f s) := by
  refine nextWf_matrixIssue _ _ _ _ _ (fun q cr w p => ?_) h
  split
  · simp [h]
  · rwa [State.mem_rowCheck _ _ _ _ _ _ (State.mem_launch _ _)]

@[simp] theorem nextWf_execMmask (f : Fields) (s : State) (h : Memory.wf s.mem = true) : NextWf (execMmask f s) := by
  refine nextWf_matrixIssue _ _ _ _ _ (fun q cr w p => ?_) h
  split
  · simp [h]
  · rwa [State.mem_rowCheck _ _ _ _ _ _ (State.mem_launch _ _)]

@[simp] theorem nextWf_execAzero (f : Fields) (s : State) (h : Memory.wf s.mem = true) : NextWf (execAzero f s) :=
  nextWf_matrixIssue _ _ _ _ _ (fun _ _ _ _ => by simp [h]) h

@[simp] theorem nextWf_execAld (f : Fields) (s : State) (h : Memory.wf s.mem = true) : NextWf (execAld f s) := by
  refine nextWf_matrixIssue _ _ _ _ _ (fun q cr w p => ?_) h
  split <;> simp [h]

@[simp] theorem nextWf_execAst (f : Fields) (s : State) (h : Memory.wf s.mem = true) : NextWf (execAst f s) := by
  refine nextWf_matrixIssue _ _ _ _ _ (fun q cr w p => ?_) h
  (repeat' split) <;> simp [h]

@[simp] theorem nextWf_execMside (f : Fields) (s : State) (h : Memory.wf s.mem = true) : NextWf (execMside f s) :=
  nextWf_matrixIssue _ _ _ _ _ (fun _ _ _ _ => by simp [h]) h

@[simp] theorem nextWf_execMmasStep (o : Nat) (s : State) (h : Memory.wf s.mem = true) : NextWf (execMmasStep o s) := by
  fun_cases execMmasStep o s <;> simp [h]

/-! ## Expansions -/

@[simp] theorem nextWf_execXord (f : Fields) (s : State) (h : Memory.wf s.mem = true) : NextWf (execXord f s) :=
  nextWf_waved _ _ _ _ (fun _ _ _ => by simp [h]) h

@[simp] theorem nextWf_execXordImm (f : ImmFields) (s : State) (h : Memory.wf s.mem = true) : NextWf (execXordImm f s) :=
  nextWf_waved _ _ _ _ (fun _ _ _ => by simp [h]) h

@[simp] theorem nextWf_execXclr (f : Fields) (s : State) (h : Memory.wf s.mem = true) : NextWf (execXclr f s) := by
  refine nextWf_waved _ _ _ _ (fun q cr w => ?_) h
  (repeat' split) <;> simp [h]

@[simp] theorem nextWf_execXform (f : Fields) (s : State) (h : Memory.wf s.mem = true) : NextWf (execXform f s) := by
  refine nextWf_laned _ _ _ _ _ _ (fun q cr w act => ?_) h
  split <;> simp [h]

@[simp] theorem nextWf_execXeval (f : Fields) (s : State) (h : Memory.wf s.mem = true) : NextWf (execXeval f s) := by
  refine nextWf_laned _ _ _ _ _ _ (fun q cr w act => ?_) h
  split <;> simp [h]

@[simp] theorem nextWf_execXadm (f : Fields) (s : State) (h : Memory.wf s.mem = true) : NextWf (execXadm f s) := by
  refine nextWf_laned _ _ _ _ _ _ (fun q cr w act => ?_) h
  split <;> simp [h]

@[simp] theorem nextWf_execXld (f : Fields) (s : State) (h : Memory.wf s.mem = true) : NextWf (execXld f s) := by
  refine nextWf_waved _ _ _ _ (fun q cr w => ?_) h
  dsimp only
  (repeat' split) <;> simp [h]

@[simp] theorem nextWf_execXst (f : Fields) (s : State) (h : Memory.wf s.mem = true) : NextWf (execXst f s) := by
  refine nextWf_waved _ _ _ _ (fun q cr w => ?_) h
  dsimp only
  (repeat' split) <;> simp [h]

/-! ## Carillon -/

@[simp] theorem nextWf_execCenum (f : Fields) (s : State) (h : Memory.wf s.mem = true) : NextWf (execCenum f s) :=
  nextWf_wholeWave _ _ _ (fun _ _ _ => by simp [h]) h

@[simp] theorem nextWf_execCpred (f : Fields) (s : State) (h : Memory.wf s.mem = true) : NextWf (execCpred f s) :=
  nextWf_wholeWave _ _ _ (fun _ _ _ => by simp [h]) h

@[simp] theorem nextWf_execCmerge (f : Fields) (s : State) (h : Memory.wf s.mem = true) : NextWf (execCmerge f s) :=
  nextWf_wholeWave _ _ _ (fun _ _ _ => by simp [h]) h

@[simp] theorem nextWf_execCexit (f : Fields) (s : State) (h : Memory.wf s.mem = true) : NextWf (execCexit f s) := by
  refine nextWf_wholeWave _ _ _ (fun q cr w => ?_) h
  split <;> simp [h]

@[simp] theorem nextWf_execCseal (f : Fields) (s : State) (h : Memory.wf s.mem = true) : NextWf (execCseal f s) := by
  refine nextWf_waved _ _ _ _ (fun q cr w => ?_) h
  split <;> simp [h]

@[simp] theorem nextWf_execCcomp (f : Fields) (s : State) (h : Memory.wf s.mem = true) : NextWf (execCcomp f s) := by
  refine nextWf_waved _ _ _ _ (fun q cr w => ?_) h
  dsimp only
  (repeat' split) <;> simp [h]

@[simp] theorem nextWf_execCres (f : Fields) (s : State) (h : Memory.wf s.mem = true) : NextWf (execCres f s) := by
  refine nextWf_waved _ _ _ _ (fun q cr w => ?_) h
  dsimp only
  (repeat' split) <;> simp [h]

@[simp] theorem nextWf_execCabort (f : Fields) (s : State) (h : Memory.wf s.mem = true) : NextWf (execCabort f s) := by
  unfold execCabort
  split
  · refine nextWf_waved _ _ _ _ (fun q cr w => ?_) h
    dsimp only
    split <;> simp [h]
  · refine nextWf_wholeWave _ _ _ (fun q cr w => ?_) h
    split <;> simp [h]

@[simp] theorem nextWf_execAcomp (f : Fields) (s : State) (h : Memory.wf s.mem = true) : NextWf (execAcomp f s) := by
  unfold execAcomp
  split
  · refine nextWf_matrixIssue _ _ _ _ _ (fun q cr w p => ?_) h
    dsimp only
    (repeat' split) <;> simp [h]
  · refine nextWf_waved _ _ _ _ (fun q cr w => ?_) h
    split <;> simp [h]

/-! ## Token merging -/

@[simp] theorem nextWf_execTkmatch (f : Fields) (s : State) (h : Memory.wf s.mem = true) : NextWf (execTkmatch f s) := by
  refine nextWf_waved _ _ _ _ (fun q cr w => ?_) h
  dsimp only
  (repeat' split) <;> simp [h]

@[simp] theorem nextWf_execTkmerge (f : Fields) (s : State) (h : Memory.wf s.mem = true) : NextWf (execTkmerge f s) := by
  refine nextWf_waved _ _ _ _ (fun q cr w => ?_) h
  dsimp only
  (repeat' split) <;> simp [h]

@[simp] theorem nextWf_execTkunmerge (f : Fields) (s : State) (h : Memory.wf s.mem = true) : NextWf (execTkunmerge f s) := by
  refine nextWf_waved _ _ _ _ (fun q cr w => ?_) h
  dsimp only
  (repeat' split) <;> simp [h]

@[simp] theorem nextWf_execTksize (f : Fields) (s : State) (h : Memory.wf s.mem = true) : NextWf (execTksize f s) := by
  refine nextWf_waved _ _ _ _ (fun q cr w => ?_) h
  dsimp only
  (repeat' split) <;> simp [h]

@[simp] theorem nextWf_execGOperationCompletion (o : Nat) (s : State) (h : Memory.wf s.mem = true) :
    NextWf (execGOperationCompletion o s) := by
  unfold execGOperationCompletion
  dsimp only
  (repeat' split) <;> simp [h]

/-! ## Beam and PROOT -/

@[simp] theorem nextWf_execBeam (f : Fields) (s : State) (h : Memory.wf s.mem = true) : NextWf (execBeam f s) := by
  refine nextWf_waved _ _ _ _ (fun q cr w => ?_) h
  dsimp only
  (repeat' split) <;> simp [h]

@[simp] theorem nextWf_execProot (f : Fields) (s : State) (h : Memory.wf s.mem = true) : NextWf (execProot f s) := by
  refine nextWf_waved _ _ _ _ (fun q _ w => ?_) h
  dsimp only
  split
  · simp [h]
  · exact State.wf_irrevocably s _ (fun s hs => by split <;> simp [hs]) h

@[simp] theorem nextWf_execProotCompletion (o : Nat) (s : State) (h : Memory.wf s.mem = true) : NextWf (execProotCompletion o s) := by
  have written (g : Origin) (l : List (Nat × List Byte)) (s : State) (hs : Memory.wf s.mem = true) :
      Memory.wf (l.foldl (fun (s : State) e => s.commitFor g none none e.1 e.2) s).mem = true :=
    wf_foldl _ (fun s _ hs => State.wf_commitFor s g none none _ _ hs) l s hs
  unfold execProotCompletion
  dsimp only
  (repeat' split) <;> simp [h, written]

@[simp] theorem nextWf_execPoolPageFree (idx : Nat) (s : State) (h : Memory.wf s.mem = true) :
    NextWf (execPoolPageFree idx s) := by
  unfold execPoolPageFree
  dsimp only
  (repeat' split) <;> simp [h]

/-! ## System instructions -/

@[simp] theorem nextWf_execTlbinv (f : Fields) (s : State) (h : Memory.wf s.mem = true) : NextWf (execTlbinv f s) := by
  refine nextWf_waved _ _ _ _ (fun q _ w => ?_) h
  dsimp only
  split
  · simp [h]
  · exact State.wf_irrevocably s _ (fun s hs => by split <;> simp [hs]) h

@[simp] theorem nextWf_execQuiesce (f : Fields) (s : State) (h : Memory.wf s.mem = true) : NextWf (execQuiesce f s) :=
  nextWf_waved _ _ _ _ (fun _ _ _ => State.wf_irrevocably s _ (fun s hs => by split <;> simp [hs]) h) h

@[simp] theorem nextWf_execIcinv (f : Fields) (s : State) (h : Memory.wf s.mem = true) : NextWf (execIcinv f s) := by
  refine nextWf_waved _ _ _ _ (fun q _ w => ?_) h
  dsimp only
  split
  · simp [h]
  · exact State.wf_irrevocably s _ (fun s hs => by split <;> simp [hs]) h

@[simp] theorem nextWf_execEngrd (f : Fields) (s : State) (h : Memory.wf s.mem = true) : NextWf (execEngrd f s) :=
  nextWf_waved _ _ _ _ (fun _ _ _ => by simp [h]) h

@[simp] theorem nextWf_execEngwr (f : Fields) (s : State) (h : Memory.wf s.mem = true) : NextWf (execEngwr f s) :=
  nextWf_waved _ _ _ _ (fun _ _ _ => by simp [h]) h

@[simp] theorem nextWf_execEngqResume (x : Nat) (sel : Word) (w3 : Dword) (s : State) (h : Memory.wf s.mem = true) :
    NextWf (execEngqResume x sel w3 s) := by
  unfold execEngqResume
  dsimp only
  (repeat' split) <;> simp [h]

@[simp] theorem nextWf_execEngqCancel (x : Nat) (sel : Word) (s : State) (h : Memory.wf s.mem = true) :
    NextWf (execEngqCancel x sel s) := by
  fun_cases execEngqCancel x sel s <;> simp [h]

@[simp] theorem nextWf_execEngqRebuild (x : Nat) (sel : Word) (w3 : Dword) (s : State) (h : Memory.wf s.mem = true) :
    NextWf (execEngqRebuild x sel w3 s) := by
  fun_cases execEngqRebuild x sel w3 s <;> simp [h]

@[simp] theorem nextWf_execSnap (f : Fields) (s : State) (h : Memory.wf s.mem = true) : NextWf (execSnap f s) := by
  refine nextWf_waved _ _ _ _ (fun q cr w => ?_) h
  dsimp only
  (repeat' split) <;> simp -implicitDefEqProofs [h, mem_foldl]

@[simp] theorem nextWf_execGpw (f : Fields) (s : State) (h : Memory.wf s.mem = true) : NextWf (execGpw f s) := by
  refine nextWf_waved _ _ _ _ (fun q cr w => ?_) h
  dsimp only
  split <;> split
  · simp [h]
  · refine State.wf_afterRelease s _ _ (fun s hs => ?_) h
    (repeat' split) <;> simp [hs]
  · simp [h]
  next h0 => exact absurd rfl h0

/-! ## Clave -/

@[simp] theorem nextWf_execClaveFireHost (va : Word) (s : State) (h : Memory.wf s.mem = true) :
    NextWf (execClaveFireHost va s) := by
  fun_cases execClaveFireHost va s <;> simp [h]

@[simp] theorem nextWf_execClaveTaborMatch (s : State) (h : Memory.wf s.mem = true) : NextWf (execClaveTaborMatch s) := by
  fun_cases execClaveTaborMatch s <;> simp [h]

@[simp] theorem nextWf_execSnapTickFire (idx : Nat) (s : State) (h : Memory.wf s.mem = true) :
    NextWf (execSnapTickFire idx s) := by
  fun_cases execSnapTickFire idx s <;> simp [h]

@[simp] theorem nextWf_execClaveLatchDone (s : State) (h : Memory.wf s.mem = true) : NextWf (execClaveLatchDone s) := by
  fun_cases execClaveLatchDone s <;> simp [h]

/-! ## Pages -/

@[simp] theorem nextWf_execFrameRelease (x : Nat) (val : Dword) (s : State) (h : Memory.wf s.mem = true) :
    NextWf (execFrameRelease x val s) := by
  fun_cases execFrameRelease x val s <;> simp [h]

@[simp] theorem nextWf_execFrameFree (x : Nat) (s : State) (h : Memory.wf s.mem = true) : NextWf (execFrameFree x s) := by
  fun_cases execFrameFree x s <;> simp [h]

@[simp] theorem nextWf_execQuiescenceRequest (x : Nat) (s : State) (h : Memory.wf s.mem = true) :
    NextWf (execQuiescenceRequest x s) := by
  fun_cases execQuiescenceRequest x s <;> simp [h]

@[simp] theorem nextWf_execPageWalk (die x va : Nat) (s : State) (h : Memory.wf s.mem = true) :
    NextWf (execPageWalk die x va s) := by
  fun_cases execPageWalk die x va s <;> simp [h]

@[simp] theorem nextWf_execTranslationFill (idx victim : Nat) (s : State) (h : Memory.wf s.mem = true) :
    NextWf (execTranslationFill idx victim s) := by
  fun_cases execTranslationFill idx victim s <;> simp [h]

/-! ## Tasks -/

@[simp] theorem nextWf_execTend (f : Fields) (s : State) (h : Memory.wf s.mem = true) : NextWf (execTend f s) :=
  nextWf_waved _ _ _ _ (fun _ _ _ => by simp [h]) h

@[simp] theorem nextWf_execTabrt (f : Fields) (s : State) (h : Memory.wf s.mem = true) : NextWf (execTabrt f s) :=
  nextWf_waved _ _ _ _ (fun _ _ _ => by simp [h]) h

@[simp] theorem nextWf_execTirrev (f : Fields) (s : State) (h : Memory.wf s.mem = true) : NextWf (execTirrev f s) := by
  refine nextWf_waved _ _ _ _ (fun q cr w => ?_) h
  split
  · simp [h]
  · exact State.wf_irrevocably s _ (fun _ hs => hs) h

@[simp] theorem nextWf_execTaskCommit (c tile : Nat) (s : State) (h : Memory.wf s.mem = true) :
    NextWf (execTaskCommit c tile s) := by
  unfold execTaskCommit
  (repeat' split) <;> simp [h]

@[simp] theorem nextWf_execTrapRecordDelivery (core : Nat) (s : State) (h : Memory.wf s.mem = true) :
    NextWf (execTrapRecordDelivery core s) := by
  fun_cases execTrapRecordDelivery core s <;> simp [h]

@[simp] theorem nextWf_execHostTrapFinish (x : Nat) (kill : Bool) (s : State) (h : Memory.wf s.mem = true) :
    NextWf (execHostTrapFinish x kill s) := by
  fun_cases execHostTrapFinish x kill s <;> simp [h]

@[simp] theorem nextWf_execTrapHandlerDesignation (x c w : Nat) (s : State) (h : Memory.wf s.mem = true) :
    NextWf (execTrapHandlerDesignation x c w s) := by
  fun_cases execTrapHandlerDesignation x c w s <;> simp [h]

@[simp] theorem nextWf_execEret (f : Fields) (s : State) (h : Memory.wf s.mem = true) : NextWf (execEret f s) :=
  nextWf_waved _ _ _ _ (fun _ _ _ => by simp [h]) h

/-! ## Queues -/

@[simp] theorem nextWf_execQueueEnable (x q : Nat) (s : State) (h : Memory.wf s.mem = true) : NextWf (execQueueEnable x q s) := by
  fun_cases execQueueEnable x q s <;> simp [h]

@[simp] theorem nextWf_execQueueDisable (x q : Nat) (s : State) (h : Memory.wf s.mem = true) :
    NextWf (execQueueDisable x q s) := by
  fun_cases execQueueDisable x q s <;> simp [h]

@[simp] theorem nextWf_execQueueResume (x q : Nat) (s : State) (h : Memory.wf s.mem = true) : NextWf (execQueueResume x q s) := by
  fun_cases execQueueResume x q s <;> simp [h]

@[simp] theorem nextWf_execDoorbell (x q : Nat) (va : Word) (s : State) (h : Memory.wf s.mem = true) :
    NextWf (execDoorbell x q va s) := by
  fun_cases execDoorbell x q va s <;> simp [h]

@[simp] theorem nextWf_execReplayCommand (x q : Nat) (s : State) (h : Memory.wf s.mem = true) :
    NextWf (execReplayCommand x q s) := by
  fun_cases execReplayCommand x q s <;> simp [h]

/-! ## Placement -/

@[simp] theorem nextWf_execCrewPlace (k die core base c tile : Nat) (s : State) (h : Memory.wf s.mem = true) :
    NextWf (execCrewPlace k die core base c tile s) := by
  unfold execCrewPlace
  split
  next t ht => split <;> simp [h, State.mem_placeCrew s t k die core base c tile ht]
  · simp [h]

@[simp] theorem nextWf_execStealMessage (k thief victim : Nat) (s : State) (h : Memory.wf s.mem = true) :
    NextWf (execStealMessage k thief victim s) := by
  fun_cases execStealMessage k thief victim s <;> simp [h]

@[simp] theorem nextWf_execRoleRebinding (k role core : Nat) (s : State) (h : Memory.wf s.mem = true) :
    NextWf (execRoleRebinding k role core s) := by
  fun_cases execRoleRebinding k role core s
  case case5 => exact (nextWf_next _).2 (wf_foldl _ (fun s _ hs => State.wf_ctxWrite s _ _ _ _ hs) _ _ h)
  all_goals simp [h]

@[simp] theorem nextWf_execKernelStartTick (k : Nat) (s : State) (h : Memory.wf s.mem = true) :
    NextWf (execKernelStartTick k s) := by
  fun_cases execKernelStartTick k s <;> simp [h]

@[simp] theorem nextWf_execKernelDrained (k va : Nat) (s : State) (h : Memory.wf s.mem = true) :
    NextWf (execKernelDrained k va s) := by
  unfold execKernelDrained
  dsimp only
  (repeat' split) <;> simp [h]

@[simp] theorem nextWf_execKernelCancel (k : Nat) (s : State) (h : Memory.wf s.mem = true) : NextWf (execKernelCancel k s) := by
  fun_cases execKernelCancel k s <;> simp [h]

/-! ## Contexts -/

@[simp] theorem nextWf_execContextCreate (x root saveBase saveSize trapRing fn : Nat) (s : State) (h : Memory.wf s.mem = true) :
    NextWf (execContextCreate x root saveBase saveSize trapRing fn s) := by
  fun_cases execContextCreate x root saveBase saveSize trapRing fn s <;> simp [h]

@[simp] theorem nextWf_execContextLoad (x : Nat) (load : ContextLoad) (s : State) (h : Memory.wf s.mem = true) :
    NextWf (execContextLoad x load s) := by
  fun_cases execContextLoad x load s <;> simp [h]

@[simp] theorem nextWf_execContextAdmit (x : Nat) (s : State) (h : Memory.wf s.mem = true) : NextWf (execContextAdmit x s) := by
  fun_cases execContextAdmit x s <;> simp [h]

@[simp] theorem nextWf_execDeclareLost (x : Nat) (s : State) (h : Memory.wf s.mem = true) : NextWf (execDeclareLost x s) := by
  fun_cases execDeclareLost x s <;> simp [h]

@[simp] theorem nextWf_execContextDestroy (x : Nat) (frames : List Nat) (s : State) (h : Memory.wf s.mem = true) :
    NextWf (execContextDestroy x frames s) := by
  fun_cases execContextDestroy x frames s <;> simp [h]

@[simp] theorem nextWf_execDestroyPerform (x : Nat) (s : State) (h : Memory.wf s.mem = true) :
    NextWf (execDestroyPerform x s) := by
  fun_cases execDestroyPerform x s <;> simp [h]

@[simp] theorem nextWf_execQuarantineRetired (x : Nat) (s : State) (h : Memory.wf s.mem = true) :
    NextWf (execQuarantineRetired x s) := by
  fun_cases execQuarantineRetired x s <;> simp [h]

@[simp] theorem nextWf_execVacate (x : Nat) (cores : List Nat) (s : State) (h : Memory.wf s.mem = true) :
    NextWf (execVacate x cores s) := by
  unfold execVacate
  dsimp only
  (repeat' split) <;> simp [h]

/-- Freezing and saving one crew keeps the form (R108, R109). -/
theorem State.wf_saveStep (s : State) (e : Nat × Crew) (h : Memory.wf s.mem = true) : Memory.wf (match s.crew? e.1 with
    | none => s
    | some cr =>
      if !cr.atBoundary then s else
      let s1 := s.freezeCrew e.1
      if !s1.frozenCrew e.1 cr then s1 else
      match s1.crew? e.1 with
      | some cr => (s1.saveCrew e.1 cr).getD s1
      | none => s1).mem = true := by
  split
  · exact h
  dsimp only
  split
  · exact h
  split
  · simp [h]
  split
  next cr' _ =>
    cases ht : (s.freezeCrew e.1).saveCrew e.1 cr' with
    | none => simp [h]
    | some t => exact State.wf_saveCrew _ t _ _ ht (by simp [h])
  · simp [h]

@[simp] theorem nextWf_execSaveComplete (x : Nat) (s : State) (h : Memory.wf s.mem = true) : NextWf (execSaveComplete x s) := by
  have saved (l : List (Nat × Crew)) := wf_foldl _ State.wf_saveStep l s h
  unfold execSaveComplete
  dsimp only
  split
  · simp [h]
  split
  · exact (nextWf_next _).2 (saved _)
  split <;> exact (nextWf_next _).2 (saved _)

@[simp] theorem nextWf_execContextRestore (x : Nat) (s : State) (h : Memory.wf s.mem = true) :
    NextWf (execContextRestore x s) := by
  unfold execContextRestore
  dsimp only
  (repeat' split) <;> simp -implicitDefEqProofs [h, mem_foldl]

/-- Loading the images of a context leaves memory alone (R109). -/
theorem mem_loadCrews (l : List (Image × Nat)) (s t : State)
    (h : l.foldl (fun (acc : Option State) e => acc.bind (fun s => s.loadCrew e.1 e.2)) (some s) = some t) : t.mem = s.mem := by
  induction l generalizing s with
  | nil => cases h; rfl
  | cons e l ih =>
    rw [List.foldl_cons, Option.bind_some] at h
    cases hs : s.loadCrew e.1 e.2 with
    | none =>
      rw [hs, List.foldl_fixed' (fun _ => rfl)] at h
      cases h
    | some u =>
      rw [hs] at h
      rw [ih u h, State.mem_loadCrew s u e.1 e.2 hs]

@[simp] theorem nextWf_execRestoreLoad (x : Nat) (cores : List Nat) (s : State) (h : Memory.wf s.mem = true) :
    NextWf (execRestoreLoad x cores s) := by
  unfold execRestoreLoad
  dsimp only
  split
  · simp [h]
  split
  · simp [h]
  next t ht => simp [h, mem_loadCrews _ s t ht]

/-! ## Transform rings -/

@[simp] theorem nextWf_execTransformKick (x q : Nat) (val : Word) (core : Nat) (s : State) (h : Memory.wf s.mem = true) :
    NextWf (execTransformKick x q val core s) := by
  fun_cases execTransformKick x q val core s <;> simp [h]

@[simp] theorem nextWf_execTransformRingRegistration (x q die req comp k : Nat) (s : State) (h : Memory.wf s.mem = true) :
    NextWf (execTransformRingRegistration x q die req comp k s) := by
  fun_cases execTransformRingRegistration x q die req comp k s <;> simp [h]

@[simp] theorem nextWf_execTransformRequestStart (x q : Nat) (s : State) (h : Memory.wf s.mem = true) :
    NextWf (execTransformRequestStart x q s) := by
  unfold execTransformRequestStart
  split
  · simp [h]
  split
  · simp [h]
  dsimp only
  split
  · simp [h]
  split
  · simp [h]
  split
  · simp [h]
  split
  · simp [h]
  · split <;> simp [h]
  · simp [h]
  split <;> simp [h]

@[simp] theorem nextWf_execTransformComplete (x q slot : Nat) (s : State) (h : Memory.wf s.mem = true) :
    NextWf (execTransformComplete x q slot s) := by
  unfold execTransformComplete
  dsimp only
  (repeat' split) <;> simp [h]

@[simp] theorem nextWf_execTransformResume (x q : Nat) (s : State) (h : Memory.wf s.mem = true) :
    NextWf (execTransformResume x q s) := by
  fun_cases execTransformResume x q s <;> simp [h]

@[simp] theorem nextWf_execTransformCancel (x q : Nat) (s : State) (h : Memory.wf s.mem = true) :
    NextWf (execTransformCancel x q s) := by
  fun_cases execTransformCancel x q s <;> simp [h]

/-! ## Engines -/

@[simp] theorem nextWf_execAccessPerform (o elem : Nat) (atHome : Bool) (s : State) (h : Memory.wf s.mem = true) :
    NextWf (execAccessPerform o elem atHome s) := by
  fun_cases execAccessPerform o elem atHome s <;> simp [h]

@[simp] theorem nextWf_execLongLatencyCompletion (o : Nat) (s : State) (h : Memory.wf s.mem = true) :
    NextWf (execLongLatencyCompletion o s) := by
  fun_cases execLongLatencyCompletion o s <;> simp [h]

@[simp] theorem nextWf_execEngineSourceRead (o unit : Nat) (s : State) (h : Memory.wf s.mem = true) :
    NextWf (execEngineSourceRead o unit s) := by
  fun_cases execEngineSourceRead o unit s <;> simp [h]

@[simp] theorem nextWf_execEngineUnitWrite (o : Nat) (s : State) (h : Memory.wf s.mem = true) :
    NextWf (execEngineUnitWrite o s) := by
  fun_cases execEngineUnitWrite o s <;> simp [h]

/-! ## Links -/

@[simp] theorem nextWf_execPortEnable (p : Nat) (s : State) (h : Memory.wf s.mem = true) : NextWf (execPortEnable p s) := by
  fun_cases execPortEnable p s <;> simp [h]

@[simp] theorem nextWf_execPortDisable (p : Nat) (s : State) (h : Memory.wf s.mem = true) : NextWf (execPortDisable p s) := by
  fun_cases execPortDisable p s <;> simp [h]

@[simp] theorem nextWf_execTrainingDone (p lanes : Nat) (s : State) (h : Memory.wf s.mem = true) :
    NextWf (execTrainingDone p lanes s) := by
  fun_cases execTrainingDone p lanes s <;> simp [h]

@[simp] theorem nextWf_execTrainingFailed (p : Nat) (s : State) (h : Memory.wf s.mem = true) :
    NextWf (execTrainingFailed p s) := by
  fun_cases execTrainingFailed p s <;> simp [h]

@[simp] theorem nextWf_execLaneLoss (p _lanes : Nat) (s : State) (h : Memory.wf s.mem = true) :
    NextWf (execLaneLoss p _lanes s) := by
  fun_cases execLaneLoss p _lanes s <;> simp [h]

@[simp] theorem nextWf_execRetryLimit (p : Nat) (s : State) (h : Memory.wf s.mem = true) : NextWf (execRetryLimit p s) := by
  fun_cases execRetryLimit p s <;> simp [h]

@[simp] theorem nextWf_execFlitSend (p : Nat) (s : State) (h : Memory.wf s.mem = true) : NextWf (execFlitSend p s) := by
  fun_cases execFlitSend p s <;> simp [h]

@[simp] theorem nextWf_execFlitReceive (p : Nat) (f : List Byte) (s : State) (h : Memory.wf s.mem = true) :
    NextWf (execFlitReceive p f s) := by
  unfold execFlitReceive
  dsimp only
  (repeat' split) <;> simp [h]

@[simp] theorem nextWf_execReadRequest (idx len : Nat) (s : State) (h : Memory.wf s.mem = true) :
    NextWf (execReadRequest idx len s) := by
  fun_cases execReadRequest idx len s <;> simp [h]

@[simp] theorem nextWf_execReadResponse (idx : Nat) (s : State) (h : Memory.wf s.mem = true) :
    NextWf (execReadResponse idx s) := by
  unfold execReadResponse
  dsimp only
  (repeat' split) <;> simp [h]

@[simp] theorem nextWf_execWriteMessage (idx len : Nat) (s : State) (h : Memory.wf s.mem = true) :
    NextWf (execWriteMessage idx len s) := by
  unfold execWriteMessage
  (repeat' split) <;> simp [h]

@[simp] theorem nextWf_execAtomicMessage (idx aop aty : Nat) (red : Bool) (s : State) (h : Memory.wf s.mem = true) :
    NextWf (execAtomicMessage idx aop aty red s) := by
  unfold execAtomicMessage
  dsimp only
  (repeat' split) <;> simp [h]

@[simp] theorem nextWf_execEndToEndAck (idx : Nat) (s : State) (h : Memory.wf s.mem = true) : NextWf (execEndToEndAck idx s) := by
  unfold execEndToEndAck
  dsimp only
  (repeat' split) <;> simp [h]

@[simp] theorem nextWf_execWakeWrite (idx len : Nat) (s : State) (h : Memory.wf s.mem = true) :
    NextWf (execWakeWrite idx len s) := by
  fun_cases execWakeWrite idx len s <;> simp [h]

@[simp] theorem nextWf_execTaborSynchronisation (idx t1 t2 t3 t4 : Nat) (s : State) (h : Memory.wf s.mem = true) :
    NextWf (execTaborSynchronisation idx t1 t2 t3 t4 s) := by
  unfold execTaborSynchronisation
  (repeat' split) <;> simp [h]

@[simp] theorem nextWf_execTaborSyncTimer (s : State) (h : Memory.wf s.mem = true) : NextWf (execTaborSyncTimer s) := by
  fun_cases execTaborSyncTimer s <;> simp [h]

@[simp] theorem nextWf_execGangStartOrAbort (idx : Nat) (abort : Bool) (tick : Nat) (s : State) (h : Memory.wf s.mem = true) :
    NextWf (execGangStartOrAbort idx abort tick s) := by
  unfold execGangStartOrAbort
  dsimp only
  (repeat' split) <;> simp -implicitDefEqProofs [h, mem_foldl]

@[simp] theorem nextWf_execClaveFiring (idx tick : Nat) (s : State) (h : Memory.wf s.mem = true) :
    NextWf (execClaveFiring idx tick s) := by
  unfold execClaveFiring
  (repeat' split) <;> simp [h]

@[simp] theorem nextWf_execGangFormation (master : Nat) (members : List Nat) (count : Dword) (s : State) (h : Memory.wf s.mem = true) :
    NextWf (execGangFormation master members count s) := by
  fun_cases execGangFormation master members count s <;> simp [h]

@[simp] theorem nextWf_execPstatReplaysRead (p : Nat) (s : State) (h : Memory.wf s.mem = true) :
    NextWf (execPstatReplaysRead p s) := by
  fun_cases execPstatReplaysRead p s <;> simp [h]

/-! ## The host -/

@[simp] theorem nextWf_execRegisterWrite (fn bar offset : Nat) (val : Dword) (s : State) (h : Memory.wf s.mem = true) :
    NextWf (execRegisterWrite fn bar offset val s) := by
  fun_cases execRegisterWrite fn bar offset val s <;> simp [h]

@[simp] theorem nextWf_execHostApertureAccess (first : ApertureByte) (write : Option (List Byte)) (len : Nat) (s : State)
    (h : Memory.wf s.mem = true) :
    NextWf (execHostApertureAccess first write len s) := by
  fun_cases execHostApertureAccess first write len s <;> simp [h]

@[simp] theorem nextWf_execMctpCommand (cmd : MgmtCommand) (s : State) (h : Memory.wf s.mem = true) :
    NextWf (execMctpCommand cmd s) := by
  unfold execMctpCommand
  (repeat' split) <;> simp [h]

@[simp] theorem nextWf_execEventDelivery (ctx : Option Nat) (s : State) (h : Memory.wf s.mem = true) :
    NextWf (execEventDelivery ctx s) := by
  unfold execEventDelivery
  dsimp only
  (repeat' split) <;> simp [h]

@[simp] theorem nextWf_execEacctUpdate (src : EnergySource) (energy : Nat) (s : State) (h : Memory.wf s.mem = true) :
    NextWf (execEacctUpdate src energy s) := by
  unfold execEacctUpdate
  cases src with
  | core c =>
    dsimp only
    split
    · exact (nextWf_hold s).2 h
    · refine (nextWf_next _).2 ((congrArg Memory.wf ?_).trans h)
      rw [mem_foldl _ (fun _ _ => by rfl)]
      exact mem_foldl _ (fun u (e : Nat × Nat) => State.mem_chargeCtx u e.1 e.2) _ _
  | operation o die =>
    dsimp only
    split
    · exact (nextWf_hold s).2 h
    · split
      · exact (nextWf_hold s).2 h
      · refine (nextWf_next _).2 ((congrArg Memory.wf ?_).trans h)
        split <;> exact State.mem_chargeCtx (s.spend die energy) _ energy
  | link die =>
    dsimp only
    split
    · exact (nextWf_hold s).2 h
    · exact (nextWf_next _).2 h

/-! ## Power -/

@[simp] theorem nextWf_execThermalThrottle (celsius : Nat) (s : State) (h : Memory.wf s.mem = true) :
    NextWf (execThermalThrottle celsius s) := by
  fun_cases execThermalThrottle celsius s <;> simp [h]

@[simp] theorem nextWf_execThrottleEnd (s : State) (h : Memory.wf s.mem = true) : NextWf (execThrottleEnd s) := by
  fun_cases execThrottleEnd s <;> simp [h]

@[simp] theorem nextWf_execEmergencyStop (celsius millivolts : Nat) (s : State) (h : Memory.wf s.mem = true) :
    NextWf (execEmergencyStop celsius millivolts s) := by
  unfold execEmergencyStop
  dsimp only
  (repeat' split) <;> simp -implicitDefEqProofs [h, mem_foldl]

@[simp] theorem nextWf_execCxlDeviceLost (dev : Nat) (s : State) (h : Memory.wf s.mem = true) :
    NextWf (execCxlDeviceLost dev s) := by
  fun_cases execCxlDeviceLost dev s <;> simp [h]

@[simp] theorem nextWf_execBoot (cfgOk fwOk : Bool) (fwVer minVer : Nat) (s : State) (h : Memory.wf s.mem = true) :
    NextWf (execBoot cfgOk fwOk fwVer minVer s) := by
  unfold execBoot
  (repeat' split) <;> simp [h]

@[simp] theorem nextWf_execAttestationRequest (nonce : List Byte) (s : State) (h : Memory.wf s.mem = true) :
    NextWf (execAttestationRequest nonce s) := by
  unfold execAttestationRequest
  split <;> simp [h]

/-! ## Waits -/

@[simp] theorem nextWf_execStrandWake (c w k : Nat) (s : State) (h : Memory.wf s.mem = true) :
    NextWf (execStrandWake c w k s) := by
  unfold execStrandWake
  dsimp only
  (repeat' split) <;> simp [h]

@[simp] theorem nextWf_execJoinwExpiry (c w k : Nat) (s : State) (h : Memory.wf s.mem = true) :
    NextWf (execJoinwExpiry c w k s) := by
  fun_cases execJoinwExpiry c w k s <;> simp [h]

@[simp] theorem nextWf_execWwaitDeadline (c w k : Nat) (s : State) (h : Memory.wf s.mem = true) :
    NextWf (execWwaitDeadline c w k s) := by
  fun_cases execWwaitDeadline c w k s <;> simp [h]

/-! ## Every instruction, every step -/

/-- Every instruction and event keeps memory in its canonical form. Those without a lemma above are lane-wise results, predicates, launches
and events that leave memory alone by their equations. -/
theorem nextWf_exec (i : Instr) (s : State) (h : Memory.wf s.mem = true) : NextWf (exec i s) := by
  cases i
  all_goals simp [exec, h, intBin, intShift, intUn, intImm, fltBin, fltUn, fltImm, approx, execBar, execBarx, execBarxImm, execIadd,
    execIaddImm, execIsub, execIsubImm, execIadds, execIaddsImm, execImin, execIminImm, execImax, execImaxImm, execIand,
    execIandImm, execIor, execIorImm, execIxor, execIxorImm, execImul, execImulImm, execImad, execIshl, execIshlImm, execIshr,
    execIshrImm, execIsra, execIsraImm, execIrot, execIrotImm, execIabs, execInot, execIpopc, execIclz, execIbrev, execIbfe,
    execIbfi, execIcmp, execFadd, execFaddImm, execFsub, execFsubImm, execFmul, execFmulImm, execFfma, execFmin, execFminImm,
    execFmax, execFmaxImm, execFabs, execFneg, execFcmp, execFclass, execFscale, execFround, execFsqrt, execFrcp, execFrsq,
    execFexp2, execFlog2, execCvt, execCvtx, execMov, execMovImm, execLdi, execSel, execMovs, execBcast, execShfl,
    execShflImm, execVote, execRedux, execScanw, execCmul, execBfly, execBfly4, execTwid, execRdtime, execShapeCacheDrop,
    execMma, execMmas, execMmsm, execXshift, execXm2l, execXlsh, execClaveFireManagement, execTranslationDrop,
    execNoopCommand, execLaunchCommand, execWaitCommand, execSignalCommand, execAckTimeout, execPowerLimitThrottle,
    execComputeRestart, execHostLinkChange]

/-- Whatever its turn, a step keeps memory in its canonical form. -/
theorem nextWf_step (s : State) (h : Memory.wf s.mem = true) : NextWf (step s) := by
  unfold step
  split
  case h_1 i _ => exact nextWf_exec i s.taken h
  case h_7 c w _ =>
    split
    · exact (nextWf_next _).2 h
    next s1 d i hb =>
      have h1 : Memory.wf s1.mem = true := by
        rw [State.mem_beginIssue s.taken s1 c w d i hb]
        exact h
      have hi := nextWf_exec i s1 h1
      split
      next t ht =>
        rw [nextWf_next, State.mem_finishIssue]
        exact hi t ht
      · exact fun _ hr => nomatch hr
      · exact fun _ hr => nomatch hr
  all_goals simpa [State.taken] using h

/-- Settles O9: every instruction and event writes memory by runs of bytes or not at all (`nextWf_exec`), and a step is one of them
or leaves memory alone. -/
theorem memoryStaysCanonical : Obligations.MemoryStaysCanonical := by
  unfold Obligations.MemoryStaysCanonical
  intro s t hs ht
  exact nextWf_step s hs t ht

end Sys2Proof.Machine
end

section
/-!
Instructions that make their task irrevocable first (R98, R181, R239). The commit of a version changes of every crew only its
waves, and of the crew that commits also what its version held.
-/

namespace Sys2Proof.Machine

open Sys2Proof Sys2Proof.Safety Host

/-! ## What a commit leaves of the crews -/

/-- Crews are as before in everything but their waves. -/
def SameCrews (s t : State) : Prop :=
  ∀ d, (t.crew? d).map (fun cr => { cr with waves := [] }) = (s.crew? d).map (fun cr => { cr with waves := [] })

theorem SameCrews.refl (s : State) : SameCrews s s := fun _ => rfl

theorem SameCrews.trans {s t u : State} (h : SameCrews s t) (k : SameCrews t u) : SameCrews s u := fun d => (k d).trans (h d)

/-- States with one table of crews. -/
theorem SameCrews.of_crews {s t : State} (h : t.crews = s.crews) : SameCrews s t := fun d => by unfold State.crew?; rw [h]

/-- A fold of updates that keep the crews keeps them. -/
theorem SameCrews.foldl {α : Type} (f : State → α → State) (h : ∀ s a, SameCrews s (f s a)) (l : List α) (s : State) :
    SameCrews s (l.foldl f s) := by
  induction l generalizing s with
  | nil => exact SameCrews.refl s
  | cons a l ih => exact (h s a).trans (ih (f s a))

/-- A crew is found after an update that keeps the crews, with the same fields but for its waves. -/
theorem SameCrews.crew {s t : State} (h : SameCrews s t) {c : Nat} {cr : Crew} (hc : s.crew? c = some cr) :
    ∃ x, t.crew? c = some x ∧ { x with waves := cr.waves } = cr := by
  have hd := h c
  rw [hc] at hd
  obtain ⟨x, hx, he⟩ := Option.map_eq_some_iff.1 hd
  exact ⟨x, hx, congrArg (fun (y : Crew) => { y with waves := cr.waves }) he⟩

@[simp] theorem State.crews_post (s : State) (m : Msg) : (s.post m).crews = s.crews := by
  unfold State.post
  split <;> rfl

/-- A write that no strand waits for poisons no task. -/
theorem State.poisonTask_agent (s : State) (g : Origin) (va : Nat) (h : g.who = none) : s.poisonTask g va = s := by
  unfold State.poisonTask
  rw [h]

theorem State.crews_sendFor_agent (s : State) (g : Origin) (kind dst pa va n : Nat) (data : List Word) (h : g.who = none) :
    (s.sendFor g kind dst pa va n data).crews = s.crews := by
  unfold State.sendFor
  split
  · exact State.crews_post _ _
  · unfold State.lost
    rw [State.poisonTask_agent s g va h]
    rfl

/-- Invalidations change the cores and the sharers alone. -/
theorem State.invalidateSharers_keeps {β : Type} (g : State → β) (h : ∀ (s : State) k t, g { s with cores := k, sharers := t } = g s)
    (s : State) (line : Nat) (writer : Option Nat) : g (s.invalidateSharers line writer) = g s := by
  unfold State.invalidateSharers
  exact (h _ _ _).trans (foldl_keeps g _ (fun s c => h s _ _) _ s)

theorem State.foldl_invalidateSharers_keeps {β : Type} (g : State → β) (h : ∀ (s : State) k t, g { s with cores := k, sharers := t } = g s)
    (l : List Nat) (writer : Option Nat) (s : State) : g (l.foldl (fun (s : State) x => s.invalidateSharers x writer) s) = g s :=
  foldl_keeps g _ (fun s x => State.invalidateSharers_keeps g h s x writer) l s

theorem State.crews_recheckQueues (s : State) (pa n : Nat) : (s.recheckQueues pa n).crews = s.crews := by
  unfold State.recheckQueues
  split <;> rfl

/-- Reservations stand in the waves. -/
theorem State.sameCrews_clearResv (s : State) (pa n : Nat) (sel : Nat → Crew → Nat → Nat → Resv → Bool) :
    SameCrews s (s.clearResv pa n sel) := by
  intro d
  unfold State.clearResv State.crew?
  simp only [Tab.find?_mapV, Option.map_map]
  rfl

theorem State.sameCrews_hostStore (s : State) (core : Nat) (who : Option (Nat × Nat × Nat)) (pa : Nat) (bs : List Byte) :
    SameCrews s (s.hostStore core who pa bs) := by
  unfold State.hostStore
  dsimp only
  refine SameCrews.trans (SameCrews.of_crews ?_) (State.sameCrews_clearResv _ _ _ _)
  split <;> rfl

/-- A write that no strand waits for changes of the crews only reservations. -/
theorem State.sameCrews_commitFor (s : State) (g : Origin) (writer : Option Nat) (who : Option (Nat × Nat × Nat)) (pa : Nat)
    (bs : List Byte) (h : g.who = none) : SameCrews s (s.commitFor g writer who pa bs) := by
  unfold State.commitFor
  split
  · exact SameCrews.of_crews (State.crews_sendFor_agent _ _ _ _ _ _ _ _ h)
  · exact State.sameCrews_hostStore _ _ _ _ _
  · exact SameCrews.refl s
  · refine SameCrews.trans ?_ (SameCrews.of_crews (State.crews_recheckQueues _ _ _))
    refine SameCrews.trans ?_ (State.sameCrews_clearResv _ _ _ _)
    exact SameCrews.of_crews (State.foldl_invalidateSharers_keeps State.crews (fun _ _ _ => rfl) _ writer _)

/-- What a crew writes by itself no strand waits for. -/
theorem State.originCrew_who (s : State) (c core : Nat) : (s.originCrew c core).who = none := by
  unfold State.originCrew
  split <;> rfl

/-- A crew's version joins the committed lines (R97). -/
def State.commitRuns (s : State) (c : Nat) (cr : Crew) : State :=
  (runs cr.ver).foldl (fun (u : State) e => u.commitFor (u.originCrew c cr.core) none none e.1 e.2) s

/-- Writes that no strand waits for, one after the other. -/
theorem State.sameCrews_foldl_commitFor (g : State → Origin) (hg : ∀ u, (g u).who = none) (l : List (Nat × List Byte)) (s : State) :
    SameCrews s (l.foldl (fun (u : State) e => u.commitFor (g u) none none e.1 e.2) s) :=
  SameCrews.foldl (fun (u : State) (e : Nat × List Byte) => u.commitFor (g u) none none e.1 e.2)
    (fun u e => State.sameCrews_commitFor u (g u) none none e.1 e.2 (hg u)) l s

theorem State.sameCrews_commitRuns (s : State) (c : Nat) (cr : Crew) : SameCrews s (s.commitRuns c cr) :=
  State.sameCrews_foldl_commitFor (fun u => u.originCrew c cr.core) (fun u => u.originCrew_who c cr.core) (runs cr.ver) s

theorem State.crews_commitVersion (s : State) (c : Nat) (cr : Crew) (h : s.crew? c = some cr) :
    (s.commitVersion c).crews = (s.commitRuns c cr).crews.modify c (fun cr => { cr with ver := [], held := [], mended := [] }) := by
  unfold State.commitVersion
  rw [h]
  simp only [State.crews_modCore]
  unfold State.commitRuns
  rfl

/-- A commit leaves a crew's version empty, and of its other fields changes only its waves (R97). -/
theorem State.crew?_commitVersion (s : State) (c : Nat) (cr : Crew) (h : s.crew? c = some cr) :
    ∃ x, (s.commitVersion c).crew? c = some x ∧
      { x with waves := cr.waves } = { cr with ver := [], held := [], mended := [] } := by
  obtain ⟨y, hy, he⟩ := (s.sameCrews_commitRuns c cr).crew h
  refine ⟨{ y with ver := [], held := [], mended := [] }, ?_,
    congrArg (fun (z : Crew) => { z with ver := [], held := [], mended := [] }) he⟩
  unfold State.crew? at hy ⊢
  rw [s.crews_commitVersion c cr h, Tab.find?_modify, if_pos rfl, hy]
  rfl

/-- The crew whose task has become irrevocable (R98, R181). -/
theorem State.crew?_irrevoked (s : State) (c : Nat) (cr : Crew) (h : s.crew? c = some cr) : ∃ x, (irrevoked s c).crew? c = some x ∧
    { x with waves := cr.waves } = { cr with task := .irrevocable, ver := [], held := [], mended := [] } := by
  obtain ⟨y, hy, he⟩ := s.crew?_commitVersion c cr h
  refine ⟨{ y with task := .irrevocable }, ?_, congrArg (fun (z : Crew) => { z with task := .irrevocable }) he⟩
  unfold irrevoked
  rw [State.crew?_modCrew, if_pos rfl, hy]
  rfl

/-! ## The state in which an instruction acts on a barrier -/

theorem State.barMarks_eq_marked (s : State) (q : Cursor) (o : BarObj) : s.barMarks q o = marked s q o := by
  cases o <;> rfl

/-- Marks stand in the issuing wave: its registers, its crew's task and kernel, and the cursor stay. -/
theorem State.curWave_setMarks (s : State) (q : Cursor) (cr : Crew) (w : Wave) (m : LaneMask) (h : s.curWave = some (q, cr, w)) :
    ∃ cr' x, (s.setMarks q.crew q.wave m).curWave = some (q, cr', x) ∧ cr'.task = cr.task ∧ cr'.kernel = cr.kernel ∧ x.sr = w.sr := by
  obtain ⟨hq, hc, hf, -⟩ := State.curWave_spec s q cr w h
  let t : Tab Nat := (lanesOf m).foldl (fun (t : Tab Nat) l => t.wr 0 l ((s.core cr.core).invNext - 1)) w.marks
  let g (wv : Wave) : Wave :=
    { wv with marks := (lanesOf m).foldl (fun (t : Tab Nat) l => t.wr 0 l ((s.core cr.core).invNext - 1)) wv.marks }
  refine ⟨{ cr with waves := cr.waves.modify q.wave g }, { w with marks := t }, ?_, rfl, rfl, rfl⟩
  have hcrew : (s.setMarks q.crew q.wave m).crew? q.crew = some { cr with waves := cr.waves.modify q.wave g } := by
    unfold State.setMarks
    rw [hc]
    show (s.modCrew q.crew _).crew? q.crew = _
    rw [State.crew?_modCrew, if_pos rfl, hc]
    rfl
  have hcur : (s.setMarks q.crew q.wave m).cur = some q := by
    unfold State.setMarks
    rw [hc]
    exact hq
  unfold State.curWave
  rw [hcur]
  simp only [hcrew, Tab.find?_modify, if_true, hf]
  rfl

theorem State.curWave_marked (s : State) (q : Cursor) (cr : Crew) (w : Wave) (o : BarObj) (h : s.curWave = some (q, cr, w)) :
    ∃ cr' x, (marked s q o).curWave = some (q, cr', x) ∧ cr'.task = cr.task ∧ cr'.kernel = cr.kernel ∧ x.sr = w.sr := by
  cases o with
  | device pa => exact s.curWave_setMarks q cr w _ h
  | crew c => exact ⟨cr, w, h, rfl, rfl, rfl⟩
  | scratch c a => exact ⟨cr, w, h, rfl, rfl, rfl⟩

/-! ## The instructions -/

/-- An instruction whose meaning is to become irrevocable first in the state in which it issues. -/
theorem State.irrevocably_first_here (i : Instr) (s : State) (q : Cursor) (cr : Crew) (w : Wave) (body : State → State)
    (h : IssuesWave s i [] q cr w) (he : exec i s = .next (s.irrevocably body)) : FirstIrrevocable i s s q cr body :=
  State.irrevocably_first i s s q cr cr w body h.1.1 rfl rfl he

/-- At LVL 3 to 7 a barrier instruction becomes irrevocable first (R239). -/
theorem State.barIrrevocably_wide (s : State) (lvl : Nat) (body : State → State) (h : 3 ≤ lvl) :
    s.barIrrevocably lvl body = s.irrevocably body := if_pos h

theorem tirrev_first (s : State) (q : Cursor) (cr : Crew) (w : Wave) (f : Fields) (h : IssuesWave s (.tirrev f) [] q cr w) :
    (s.noirrev cr = true → exec (.tirrev f) s = .next (s.trapHdr Cause.versionOverflow)) ∧
    (s.noirrev cr = false → FirstIrrevocable (.tirrev f) s s q cr id) := by
  have he : exec (.tirrev f) s = .next (if s.noirrev cr then s.trapHdr Cause.versionOverflow else s.irrevocably id) :=
    s.waved_acts (.tirrev f) [] q cr w _ h
  refine ⟨fun hn => by rw [he, if_pos hn], fun hn => s.irrevocably_first_here _ q cr w id h ?_⟩
  rw [he, hn]
  rfl

theorem binit_first (f : Fields) (s : State) (q : Cursor) (cr : Crew) (w : Wave) (o : BarObj) (h : IssuesWave s (.binit f) [] q cr w)
    (hl : 3 ≤ f.lvl) (ho : s.barObj q cr w f.lvl (barAddr w f.a.toNat f.lvl) Need.atomic = .ok o) (h0 : 0 < (w.s f.b.toNat).toNat)
    (h1 : (w.s f.b.toNat).toNat < 2 ^ 31) :
    FirstIrrevocable (.binit f) s s q cr (fun u => if u.barFree o = true then
      ((marked u q o).barWrite q.crew (q.crew, q.wave, q.strand) o ⟨1, 0, 0, (w.s f.b.toNat).toNat, (w.s f.b.toNat).toNat⟩).breakWaiters o
      else u.retry) := by
  refine s.irrevocably_first_here _ q cr w _ h ?_
  have hb : ¬((w.s f.b.toNat).toNat = 0 ∨ 2 ^ 31 ≤ (w.s f.b.toNat).toNat) := by omega
  show execBinit f s = _
  unfold execBinit
  rw [s.waved_acts (.binit f) [] q cr w _ h]
  dsimp only
  rw [ho]
  dsimp only
  rw [if_neg hb, State.barIrrevocably_wide _ _ _ hl]
  congr 2
  funext u
  rw [State.barMarks_eq_marked]
  cases u.barFree o <;> rfl

theorem bara_first (f : Fields) (s : State) (q : Cursor) (cr : Crew) (w : Wave) (o : BarObj) (h : IssuesWave s (.bara f) [] q cr w)
    (hl : 3 ≤ f.lvl) (ho : s.barObj q cr w f.lvl (barAddr w f.a.toNat f.lvl) Need.atomic = .ok o)
    (hm : (w.strand q.strand).mask = w.lanes) :
    FirstIrrevocable (.bara f) s s q cr (fun u => u.afterRelease (u.barScope cr f.lvl) (fun v =>
      v.onBarrier o (barAddr w f.a.toNat f.lvl) (fun b y => if b.state = 2 then y.trapHdr Cause.barrierUnreachable
        else (y.writeRegs q.crew q.wave [(sKey f.d.toNat, BitVec.ofNat 32 b.phase)]).arrive q o b 0))) := by
  refine s.irrevocably_first_here _ q cr w _ h ?_
  show execBara f s = _
  unfold execBara
  rw [s.waved_acts (.bara f) [] q cr w _ h]
  dsimp only
  rw [ho]
  dsimp only
  rw [if_neg (not_not.2 hm), State.barIrrevocably_wide _ _ _ hl]

/-- BAR once its release half is over: it arrives and waits for the phase. -/
def barAct (o : BarObj) (addr sc : Nat) (q : Cursor) (s : State) : State :=
  match (s.wave? q.crew q.wave).bind (fun _ => some 0) with
  | none => s.trapHdr Cause.arithmeticCheck
  | some n => s.onBarrier o addr (fun b s =>
    let s1 := s.arrive q o b n
    if b.state = 2 then s1 else s1.waitPhase q o sc b.phase)

theorem bar_first (f : Fields) (s : State) (q : Cursor) (cr : Crew) (w : Wave) (o : BarObj) (h : IssuesWave s (.bar f) [] q cr w)
    (hl : 3 ≤ f.lvl) (ho : s.barObj q cr w f.lvl (barAddr w f.a.toNat f.lvl) Need.atomic = .ok o)
    (hm : (w.strand q.strand).mask = w.lanes) :
    ∃ act, FirstIrrevocable (.bar f) s s q cr (fun u => u.afterRelease (s.barScope cr f.lvl) act) ∧
      ∀ v x, v.wave? q.crew q.wave = some x → act v = v.onBarrier o (barAddr w f.a.toNat f.lvl) (fun b y =>
        if b.state = 2 then y.arrive q o b 0 else (y.arrive q o b 0).waitPhase q o (s.barScope cr f.lvl) b.phase) := by
  refine ⟨barAct o (barAddr w f.a.toNat f.lvl) (s.barScope cr f.lvl) q, s.irrevocably_first_here _ q cr w _ h ?_, ?_⟩
  · show execBar f s = _
    unfold execBar barAndWait
    rw [s.waved_acts (.bar f) [] q cr w _ h]
    dsimp only
    rw [ho]
    dsimp only
    unfold State.converge
    rw [h.1.1]
    dsimp only
    rw [if_pos hm, State.barIrrevocably_wide _ _ _ hl]
    rfl
  · intro v x hx
    unfold barAct
    rw [hx]
    rfl

theorem barw_first (f : Fields) (s : State) (q : Cursor) (cr : Crew) (w : Wave) (o : BarObj) (h : IssuesWave s (.barw f) [] q cr w)
    (hl : 3 ≤ f.lvl) (ho : s.barObj q cr w f.lvl (barAddr w f.a.toNat f.lvl) Need.read = .ok o)
    (hm : (w.strand q.strand).mask = w.lanes) (hfree : s.barFree o = true) (hst : (s.barRead q.crew o).state = 1)
    (hph : (s.barRead q.crew o).phase = (w.s f.b.toNat).toNat % 2 ^ 30) :
    FirstIrrevocable (.barw f) s (marked s q o) q cr (fun u =>
      u.waitPhase q o (s.barScope cr f.lvl) ((w.s f.b.toNat).toNat % 2 ^ 30)) := by
  obtain ⟨cr', x, hx, ht, hk, hsr⟩ := s.curWave_marked q cr w o h.1.1
  obtain ⟨-, -, -, hwave⟩ := State.curWave_spec _ q cr' x hx
  have hs : x.s f.b.toNat = w.s f.b.toNat := by unfold Wave.s; rw [hsr]
  refine State.irrevocably_first _ s _ q cr cr' x _ hx ht hk ?_
  show execBarw f s = _
  unfold execBarw
  rw [s.waved_acts (.barw f) [] q cr w _ h]
  dsimp only
  rw [ho]
  dsimp only
  rw [if_pos hm]
  unfold State.onBarrier
  rw [(State.curWave_spec s q cr w h.1.1).1]
  simp only [hfree, Bool.not_true, Bool.false_eq_true, if_false, hst, State.barMarks_eq_marked, hwave, Option.elim_some, hs, hph]
  simp [State.barIrrevocably_wide _ _ _ hl]

theorem proot_first (f : Fields) (s : State) (q : Cursor) (cr : Crew) (w : Wave) (h : IssuesWave s (.proot f) [] q cr w)
    (p : Nat → Nat) (hp : p = fun k => (w.s (f.b.toNat + k)).toNat)
    (hk : (if f.m 0 = true then tokenCheck (decide (p 2 ≤ 65536)) [(sVal w f.d.toNat 2, 64), (sVal w f.a.toNat 2, 16), (sVal w f.b.toNat 2, 1)]
      else tokenCheck (decide (1 ≤ p 0) && decide (p 0 ≤ 64) && decide (1 ≤ p 1) && decide (p 1 ≤ 65536))
        [(sVal w f.d.toNat 2, 16), (sVal w f.a.toNat 2, 16), (sVal w (f.b.toNat + 2) 2, 32)]) = none) :
    FirstIrrevocable (.proot f) s s q cr (fun u => (u.crew? q.crew).elim u (fun x => u.issueBeam (.proot f) f q x w 8)) := by
  subst hp
  refine s.irrevocably_first_here _ q cr w _ h ?_
  show execProot f s = _
  unfold execProot
  rw [s.waved_acts (.proot f) [] q cr w _ h]
  cases hf : f.m 0 <;> simp only [hf, Bool.false_eq_true, if_false, if_true] at hk ⊢ <;> rw [hk] <;> dsimp only <;> congr 2 <;>
    funext u <;> cases u.crew? q.crew <;> rfl

theorem tlbinv_first (f : Fields) (s : State) (q : Cursor) (cr : Crew) (w : Wave) (h : IssuesWave s (.tlbinv f) [] q cr w)
    (hk : rangeCheck (f.m 0) (decide (1 ≤ (w.s f.b.toNat).toNat) && decide ((w.s f.b.toNat).toNat ≤ 2 ^ 20)) (sVal w f.a.toNat 2) 4096 = none) :
    FirstIrrevocable (.tlbinv f) s s q cr (launchIn q.crew (fun u x => { newOp u q x w (.tlbinv f) allLanes with
      av := sVal w f.a.toNat 2, bv := (w.s f.b.toNat).toNat, waits := u.releaseList q.crew q.wave allLanes 5 })) := by
  refine s.irrevocably_first_here _ q cr w _ h ?_
  show execTlbinv f s = _
  unfold execTlbinv
  rw [s.waved_acts (.tlbinv f) [] q cr w _ h]
  dsimp only
  rw [hk]
  dsimp only
  congr 2
  funext u
  unfold launchIn
  cases u.crew? q.crew <;> rfl

theorem icinv_first (f : Fields) (s : State) (q : Cursor) (cr : Crew) (w : Wave) (h : IssuesWave s (.icinv f) [] q cr w)
    (hk : rangeCheck (f.m 0) (decide (8 ≤ (w.s f.b.toNat).toNat) && decide ((w.s f.b.toNat).toNat ≤ 2 ^ 30) &&
      (w.s f.b.toNat).toNat % 8 == 0) (sVal w f.a.toNat 2) 8 = none) :
    FirstIrrevocable (.icinv f) s s q cr (launchIn q.crew (fun u x => { newOp u q x w (.icinv f) allLanes with
      av := sVal w f.a.toNat 2, bv := (w.s f.b.toNat).toNat, waits := u.releaseList q.crew q.wave allLanes 5 })) := by
  refine s.irrevocably_first_here _ q cr w _ h ?_
  show execIcinv f s = _
  unfold execIcinv
  rw [s.waved_acts (.icinv f) [] q cr w _ h]
  dsimp only
  rw [hk]
  dsimp only
  congr 2
  funext u
  unfold launchIn
  cases u.crew? q.crew <;> rfl

theorem quiesce_first (f : Fields) (s : State) (q : Cursor) (cr : Crew) (w : Wave) (h : IssuesWave s (.quiesce f) [] q cr w) :
    FirstIrrevocable (.quiesce f) s s q cr (fun u => (u.crew? q.crew).elim u (fun x =>
      ((u.launch { newOp u q x w (.quiesce f) allLanes with av := (u.ctx x.ctx).epoch }).modCtx x.ctx (fun cx =>
        { cx with epoch := cx.epoch + 1 })).writeRegs q.crew q.wave (wrGroup true f.d.toNat 0 2 (u.ctx x.ctx).epoch))) := by
  refine s.irrevocably_first_here _ q cr w _ h ?_
  show execQuiesce f s = _
  unfold execQuiesce
  rw [s.waved_acts (.quiesce f) [] q cr w _ h]
  congr 2
  funext u
  cases u.crew? q.crew <;> rfl

/-- What an atomic access of pod scope or wider does, written with `launchIn`. -/
theorem irrevocably_launchAccess (i : Instr) (f : Fields) (q : Cursor) (w : Wave) (act : LaneMask) (es : List Elem) (s : State)
    (h : 3 ≤ f.scope) : (let go (s : State) : State := match s.crew? q.crew with
        | some cr => launchAccess i q cr w act es s
        | none => s
      if 3 ≤ f.scope then s.irrevocably go else go s) = s.irrevocably (launchIn q.crew (fun u x =>
        { newOp u q x w i act with elems := es, dsts := es.flatMap (·.dst), waits := [] })) := by
  dsimp only
  rw [if_pos h]
  congr 1
  funext u
  unfold launchIn
  cases u.crew? q.crew <;> rfl

/-- Settles O36: every one of the instructions has the meaning `State.irrevocably` once its checks have passed. -/
theorem irrevocableFirst : Obligations.IrrevocableFirst := by
  unfold Obligations.IrrevocableFirst
  refine ⟨tirrev_first, State.crew?_irrevoked, ?_, ?_, ?_, ?_, binit_first, bara_first, bar_first, barw_first, ?_,
    tlbinv_first, icinv_first, quiesce_first⟩
  · exact accessIrrevocably_of .atom _ _ _ _ _ _ _ _ (fun f q cr w act es s h => irrevocably_launchAccess (.atom f) f q w act es s h)
      (fun _ _ => rfl)
  · exact accessIrrevocably_of .lr _ _ _ _ _ _ _ _ (fun f q cr w act es s h => irrevocably_launchAccess (.lr f) f q w act es s h)
      (fun _ _ => rfl)
  · exact accessIrrevocably_of .sc _ _ _ _ _ _ _ _ (fun f q cr w act es s h => irrevocably_launchAccess (.sc f) f q w act es s h)
      (fun _ _ => rfl)
  · refine accessIrrevocably_of .stw _ _ _ _ _ _ _ (fun f q _ w act es s => s.irrevocably (fun s => match s.crew? q.crew with
        | some cr => s.launch { accessOp s q cr w (.stw f) act es with waits := s.releaseList q.crew q.wave act f.scope }
        | none => s)) ?_ (fun _ _ => rfl)
    intro f q cr w act es s _
    dsimp only
    congr 1
    funext u
    unfold launchIn
    cases u.crew? q.crew <;> rfl
  · exact fun f s q cr w h hk => proot_first f s q cr w h _ rfl hk

end Sys2Proof.Machine
end

section
/-!
Elements of accesses perform (R83, R85, R92): the scratchpad accesses and the store to device memory.
-/

namespace Sys2Proof.Machine

open Sys2Proof Sys2Proof.Safety Host

/-! ## Elements -/

@[simp] theorem length_leBytes (n v : Nat) : (leBytes n v).length = n := by
  induction n generalizing v with
  | zero => rfl
  | succ n ih => exact congrArg (· + 1) (ih (v / 256))

/-- The turn of an access is `State.performAccess`. -/
theorem State.performOp_access (s : State) (o n : Nat) (b : Bool) (op : Op) (h : isAccess op.instr = true) :
    s.performOp o n b op = s.performAccess o n b := by
  unfold isAccess at h
  unfold State.performOp
  split
  · rename_i hi; rw [hi] at h; simp [opcodeOf] at h
  · rename_i hi; rw [hi] at h; simp [opcodeOf] at h
  · rename_i hi; rw [hi] at h; simp [opcodeOf] at h
  · rename_i hi; rw [hi] at h; simp [opcodeOf] at h
  · split at h
    · rename_i hc
      rw [hc]
      rfl
    · exact absurd h Bool.false_ne_true

theorem State.exec_accessPerform (s : State) (o n : Nat) (b : Bool) (op : Op) (ho : s.op? o = some op)
    (h : isAccess op.instr = true) : exec (.accessPerform o n b) s = .next (s.performAccess o n b) := by
  show execAccessPerform o n b s = _
  unfold execAccessPerform
  rw [ho]
  exact congrArg _ (s.performOp_access o n b op h)

theorem State.op?_modElem (s : State) (o n : Nat) (op : Op) (f : Elem → Elem) (h : s.op? o = some op) :
    (s.modElem o n f).op? o = some { op with elems := op.elems.modify n f } := by
  unfold State.modElem
  rw [State.op?_modOp, if_pos rfl, h]
  rfl

/-- A pending element of an operation in flight, whose crew and wave are there. -/
structure PendingElem (s : State) (o n : Nat) (op : Op) (e : Elem) (cr : Crew) (w : Wave) : Prop where
  /-- The operation. -/
  inFlight : s.op? o = some op
  /-- The element. -/
  elem : op.elems[n]? = some e
  /-- Its crew. -/
  crew : s.crew? op.crew = some cr
  /-- Its wave. -/
  wave : s.wave? op.crew op.wave = some w
  /-- It has not performed. -/
  pending : e.st = .pending

section
variable {s : State} {o n : Nat} {op : Op} {e : Elem} {cr : Crew} {w : Wave} (p : PendingElem s o n op e cr w)
include p

/-- An element held back changes nothing (R83). -/
theorem performAccess_held (b : Bool) (hm : s.mayPerform o op n e = false) : s.performAccess o n b = s := by
  unfold State.performAccess
  rw [p.inFlight]
  simp only [p.crew, p.wave, p.elem, hm, Bool.not_false, Bool.or_true, if_true]

/-- STS writes its bytes once no copy's range overlaps them (R92). -/
theorem performAccess_sts (b : Bool) (hm : s.mayPerform o op n e = true) (f : Fields) (hi : op.instr = .sts f)
    (hf : s.spadFree op.crew e.va e.w = true) : s.performAccess o n b =
      (s.spadWrite op.crew e.va (leBytes e.w e.data)).modElem o n (fun x => { x with st := .complete }) := by
  unfold State.performAccess State.onSpad
  rw [p.inFlight]
  simp [p.crew, p.wave, p.elem, hm, p.pending, hi, hf]

/-- LDS delivers what the scratchpad holds (R92). -/
theorem performAccess_lds (b : Bool) (hm : s.mayPerform o op n e = true) (f : Fields) (hi : op.instr = .lds f)
    (hf : s.spadFree op.crew e.va e.w = true) :
    s.performAccess o n b = s.finishLoad o n op e f.sz (leNat (cr.spadRead e.va e.w)) := by
  unfold State.performAccess State.onSpad
  rw [p.inFlight]
  simp [p.crew, p.wave, p.elem, hm, p.pending, hi, hf]

/-- ST performs locally; at pod scope or wider it completes once it has drained (R85). -/
theorem performAccess_st (b : Bool) (hm : s.mayPerform o op n e = true) (f : Fields) (hi : op.instr = .st f) :
    s.performAccess o n b = (s.storeLocal o n op cr e f.scope e.data (decide (3 ≤ f.scope))).modElem o n (fun x => { x with
      st := if 3 ≤ f.scope then .performed else .complete }) := by
  unfold State.performAccess
  rw [p.inFlight]
  simp [p.crew, p.wave, p.elem, hm, p.pending, hi]

/-- The bytes of an STS, and no others, stand in its crew's scratchpad. -/
theorem spadWrite_after : ∃ x, ((s.spadWrite op.crew e.va (leBytes e.w e.data)).crew? op.crew) = some x ∧ x.waves = cr.waves ∧
    ∀ a, x.sp.rd 0 a = if e.va ≤ a ∧ a < e.va + e.w then (leBytes e.w e.data).getD (a - e.va) 0 else cr.sp.rd 0 a := by
  refine ⟨{ cr with sp := cr.sp.wrBytes e.va (leBytes e.w e.data) }, ?_, rfl, fun a => ?_⟩
  · unfold State.spadWrite
    rw [State.crew?_modCrew, if_pos rfl, p.crew]
    rfl
  · rw [Tab.rd_wrBytes, length_leBytes]

end

/-- The write-queue entry that a store makes (R85). -/
def State.storeEntry (s : State) (o n : Nat) (op : Op) (cr : Crew) (e : Elem) (sc v : Nat) (wide : Bool) : WEntry :=
  ⟨s.next, e.va, e.pa, leBytes e.w v, sc, op.crew, op.wave, op.strand, op.attempt, cr.direct, e.seg,
    if wide then some (o, n) else none, op.hdr, op.epoch, op.ctx⟩

@[simp] theorem State.core_clearResv (s : State) (pa n : Nat) (sel : Nat → Crew → Nat → Nat → Resv → Bool) (c : Nat) :
    (s.clearResv pa n sel).core c = s.core c := rfl

/-- A store is the youngest entry of its core's write queue. -/
theorem State.wq_storeLocal (s : State) (o n : Nat) (op : Op) (cr : Crew) (e : Elem) (sc v : Nat) (wide : Bool) :
    ((s.storeLocal o n op cr e sc v wide).core cr.core).wq = (s.core cr.core).wq ++ [s.storeEntry o n op cr e sc v wide] := by
  unfold State.storeLocal
  dsimp only
  rw [State.core_clearResv]
  unfold State.core State.modCore
  dsimp only
  rw [Tab.rd_put, if_pos rfl]
  rfl

/-- A store leaves operations in flight as they are. -/
theorem State.op?_storeLocal (s : State) (o n : Nat) (op : Op) (cr : Crew) (e : Elem) (sc v : Nat) (wide : Bool) (j : Nat) :
    (s.storeLocal o n op cr e sc v wide).op? j = s.op? j := rfl

/-- Settles O40: each access whose turn it is performs as its instruction says, and one held back does nothing. -/
theorem accessesPerform : Obligations.AccessesPerform := by
  unfold Obligations.AccessesPerform
  intro s o n b op e cr w ho he hc hw hp
  have p : PendingElem s o n op e cr w := ⟨ho, he, hc, hw, hp⟩
  have acc (i : Instr) (hi : op.instr = i) (ha : isAccess i = true) := s.exec_accessPerform o n b op ho (hi ▸ ha)
  refine ⟨fun hm ha => ?_, fun hm f hi hf => ?_, fun hm f hi hf => ?_, fun hm f hi => ?_⟩
  · rw [s.exec_accessPerform o n b op ho ha, performAccess_held p b hm]
  · obtain ⟨x, hx, hwaves, hsp⟩ := spadWrite_after p
    exact ⟨_, x, (acc _ hi rfl).trans (congrArg _ (performAccess_sts p b hm f hi hf)), fun _ => rfl, hx, hwaves, hsp,
      State.op?_modElem _ o n op _ ho⟩
  · have hl := (acc _ hi rfl).trans (congrArg _ (performAccess_lds p b hm f hi hf))
    refine ⟨hl, fun h1 => hl.trans ?_⟩
    have hs : isSpad op.instr = true := by rw [hi]; rfl
    unfold State.finishLoad
    simp only [hs]
    rw [if_pos h1]
  · refine ⟨_, s.storeEntry o n op cr e f.scope e.data (decide (3 ≤ f.scope)),
      (acc _ hi rfl).trans (congrArg _ (performAccess_st p b hm f hi)), fun a => ?_, ?_, rfl, rfl, rfl, rfl, rfl, ?_⟩
    · rw [State.mem_modElem, State.mem_storeLocal]
    · exact s.wq_storeLocal o n op cr e f.scope e.data _
    · rw [State.op?_modElem _ o n op _ ((s.op?_storeLocal o n op cr e f.scope e.data _ o).trans ho)]
      simp [he]

end Sys2Proof.Machine
end

section
/-!
Write queues, invalidations and reductions drain (R86 to R88, R94): what a write at a home in HBM leaves of the cores, and the turns
of the queues.
-/

namespace Sys2Proof.Machine

open Sys2Proof Sys2Proof.Safety Host

/-! ## A write at a home in HBM -/

/-- Invalidations stand in queues of their own. -/
theorem State.wq_modCore_invalidate (s : State) (c line d : Nat) :
    ((s.modCore c (fun k => k.invalidate line)).core d).wq = (s.core d).wq := by
  rw [State.core_modCore]
  split
  · rename_i h
    rw [h]
    rfl
  · rfl

theorem State.wq_invalidateSharers (s : State) (line : Nat) (writer : Option Nat) (d : Nat) :
    ((s.invalidateSharers line writer).core d).wq = (s.core d).wq :=
  foldl_keeps (fun u => (u.core d).wq) _ (fun u c => u.wq_modCore_invalidate c line d) _ s

theorem State.wq_foldl_invalidateSharers (l : List Nat) (writer : Option Nat) (d : Nat) (s : State) :
    ((l.foldl (fun (s : State) x => s.invalidateSharers x writer) s).core d).wq = (s.core d).wq :=
  foldl_keeps (fun u => (u.core d).wq) _ (fun u x => u.wq_invalidateSharers x writer d) l s

theorem State.core_recheckQueues (s : State) (pa n d : Nat) : (s.recheckQueues pa n).core d = s.core d := by
  unfold State.recheckQueues
  split <;> rfl

theorem State.wq_commitFor (s : State) (g : Origin) (writer : Option Nat) (who : Option (Nat × Nat × Nat)) (pa : Nat) (bs : List Byte)
    (h : homeOf pa = .hbm) (d : Nat) : ((s.commitFor g writer who pa bs).core d).wq = (s.core d).wq := by
  unfold State.commitFor State.clearOthers
  simp only [h, State.core_recheckQueues, State.core_clearResv]
  exact State.wq_foldl_invalidateSharers _ writer d _

theorem State.reds_recheckQueues (s : State) (pa n : Nat) : (s.recheckQueues pa n).reds = s.reds := by
  unfold State.recheckQueues
  split <;> rfl

theorem State.reds_commitFor (s : State) (g : Origin) (writer : Option Nat) (who : Option (Nat × Nat × Nat)) (pa : Nat) (bs : List Byte)
    (h : homeOf pa = .hbm) : (s.commitFor g writer who pa bs).reds = s.reds := by
  unfold State.commitFor
  simp only [h, State.reds_recheckQueues]
  exact State.foldl_invalidateSharers_keeps State.reds (fun _ _ _ => rfl) _ writer _

/-- A direct entry's bytes join the committed line. -/
theorem State.storeHome_direct (s : State) (c : Nat) (who : Nat × Nat × Nat) (hdr cls va pa : Nat) (bs : List Byte) :
    ∃ g writer, s.storeHome c true none who hdr cls va pa bs = s.commitFor g writer (some who) pa bs := by
  unfold State.storeHome State.storeHomeFor
  cases s.crew? c with
  | none => exact ⟨_, _, rfl⟩
  | some cr => exact ⟨_, _, rfl⟩

/-! ## The turns -/

/-- Entry `e` has left the write queue of `core`. -/
def State.dequeued (s : State) (core : Nat) (e : WEntry) : State :=
  s.modCore core (fun k => { k with wq := k.wq.filter (fun x => x.id != e.id) })

/-- The element that waits for a queue's entry completes. -/
def State.elemDone (s : State) (p : Option (Nat × Nat)) : State :=
  match p with
  | some p => s.modElem p.1 p.2 (fun x => { x with st := .complete })
  | none => s

@[simp] theorem State.mem_elemDone (s : State) (p : Option (Nat × Nat)) : (s.elemDone p).mem = s.mem := by cases p <;> rfl

@[simp] theorem State.core_elemDone (s : State) (p : Option (Nat × Nat)) (d : Nat) : (s.elemDone p).core d = s.core d := by
  cases p <;> rfl

@[simp] theorem State.reds_elemDone (s : State) (p : Option (Nat × Nat)) : (s.elemDone p).reds = s.reds := by cases p <;> rfl

/-- The entry has drained: it has left its queue and its bytes are at their home. -/
def State.drained (s : State) (core : Nat) (e : WEntry) : State :=
  ((s.dequeued core e).storeHome e.crew e.direct e.seg (e.crew, e.wave, e.strand) e.hdr 1 e.va e.pa e.bytes).elemDone e.op

/-- What can drain directly (R86): homed in HBM, no version or segment takes it, no engine owns its lines, no older entry of its queue
has a byte in common with it. -/
structure DrainsDirect (s : State) (core idx : Nat) (e : WEntry) : Prop where
  /-- The entry. -/
  entry : (s.core core).wq[idx]? = some e
  /-- Its home. -/
  home : homeOf e.pa = .hbm
  /-- No version takes it. -/
  direct : e.direct = true
  /-- No segment takes it. -/
  seg : e.seg = none
  /-- No engine owns its lines. -/
  free : s.unowned e.pa e.bytes.length = true
  /-- Older entries. -/
  older : ∀ x ∈ (s.core core).wq.take idx, e.pa + e.bytes.length ≤ x.pa ∨ x.pa + x.bytes.length ≤ e.pa

/-- A drain of a direct entry: but for the sharers of its lines, the state is `State.drained`. -/
theorem DrainsDirect.exec_eq {s : State} {core idx : Nat} {e : WEntry} (h : DrainsDirect s core idx e) :
    ∃ sh, exec (.writeQueueDrain core idx) s = .next { s.drained core e with sharers := sh } := by
  have hold' : ((s.core core).wq.take idx).any
      (fun x => decide (x.pa < e.pa + e.bytes.length) && decide (e.pa < x.pa + x.bytes.length)) = false := by
    rw [List.any_eq_false]
    intro x hx
    have := h.older x hx
    simp only [Bool.and_eq_true, decide_eq_true_eq]
    omega
  show ∃ sh, execWriteQueueDrain core idx s = _
  unfold execWriteQueueDrain
  simp only [h.entry, hold', h.home, h.direct, h.seg, h.free, Bool.not_true, Bool.false_eq_true, if_false, Option.isSome_none, Bool.false_and,
    Bool.or_self]
  unfold State.drained
  rw [h.direct, h.seg]
  exact ⟨_, rfl⟩

theorem DrainsDirect.drained_eq {s : State} {core idx : Nat} {e : WEntry} (h : DrainsDirect s core idx e) :
    ∃ g writer who, s.drained core e = ((s.dequeued core e).commitFor g writer who e.pa e.bytes).elemDone e.op := by
  unfold State.drained
  rw [h.direct, h.seg]
  obtain ⟨g, writer, hg⟩ := (s.dequeued core e).storeHome_direct e.crew (e.crew, e.wave, e.strand) e.hdr 1 e.va e.pa e.bytes
  exact ⟨g, writer, _, by rw [hg]⟩

/-- The entry's bytes are in memory, and no other byte has changed. -/
theorem DrainsDirect.memory {s : State} {core idx : Nat} {e : WEntry} (h : DrainsDirect s core idx e) (a : Nat) :
    (s.drained core e).mem.rd 0 a = if e.pa ≤ a ∧ a < e.pa + e.bytes.length then e.bytes.getD (a - e.pa) 0 else s.mem.rd 0 a := by
  obtain ⟨g, writer, who, hd⟩ := h.drained_eq
  rw [hd, State.mem_elemDone, State.mem_commitFor _ _ _ _ _ _ h.home, Tab.rd_wrBytes]
  rfl

/-- Only the entry's queue has changed. -/
theorem DrainsDirect.queue {s : State} {core idx : Nat} {e : WEntry} (h : DrainsDirect s core idx e) (d : Nat) :
    ((s.drained core e).core d).wq = if d = core then (s.core core).wq.filter (fun x => x.id != e.id) else (s.core d).wq := by
  obtain ⟨g, writer, who, hd⟩ := h.drained_eq
  rw [hd, State.core_elemDone, State.wq_commitFor _ _ _ _ _ _ h.home, State.dequeued, State.core_modCore]
  split <;> rfl

theorem writeQueueDrain_direct (s : State) (core idx : Nat) (e : WEntry) (h : DrainsDirect s core idx e) :
    ∃ t, exec (.writeQueueDrain core idx) s = .next t ∧
      (∀ a, t.mem.rd 0 a = if e.pa ≤ a ∧ a < e.pa + e.bytes.length then e.bytes.getD (a - e.pa) 0 else s.mem.rd 0 a) ∧
      (t.core core).wq = (s.core core).wq.filter (fun x => x.id != e.id) ∧ e ∉ (t.core core).wq ∧
      (∀ d, d ≠ core → (t.core d).wq = (s.core d).wq) := by
  obtain ⟨sh, he⟩ := h.exec_eq
  have hq : ({ s.drained core e with sharers := sh }.core core).wq = (s.core core).wq.filter (fun x => x.id != e.id) :=
    (h.queue core).trans (if_pos rfl)
  refine ⟨_, he, h.memory, hq, ?_, fun d hd => (h.queue d).trans (if_neg hd)⟩
  rw [hq]
  simp

theorem invalidationApply_drops (s : State) (core idx : Nat) (x : Nat × Nat) (h : (s.core core).inv[idx]? = some x) :
    ∃ t, exec (.invalidationApply core idx) s = .next t ∧ OnlyCore s t core ∧
      (t.core core).inv = (s.core core).inv.eraseIdx idx ∧
      (∀ l, l ∈ (t.core core).l1 ↔ l ∈ (s.core core).l1 ∧ (l.line = x.1 → l.tag ≤ 2)) := by
  refine ⟨s.modCore core (fun k => { k with
      inv := k.inv.eraseIdx idx, l1 := k.l1.filter (fun l => l.line != x.1 || decide (l.tag ≤ 2)) }), ?_,
    State.onlyCore_modCore s core _, ?_, fun l => ?_⟩
  · show execInvalidationApply core idx s = _
    unfold execInvalidationApply
    rw [h]
  · rw [State.core_modCore_self]
  · rw [State.core_modCore_self]
    simp only [List.mem_filter, Bool.or_eq_true, bne_iff_ne, decide_eq_true_eq, Decidable.imp_iff_not_or]

theorem fenceCompletion_acts (s : State) (o : Nat) (op : Op) (ho : s.op? o = some op) (hw : op.waits.all (s.released op.lanes) = true) :
    (∀ f, op.instr = .fence f → exec (.fenceCompletion o) s = .next ((s.acquire op.crew op.wave f.scope).endOp o 3)) ∧
    (∀ f, op.instr = .fencew f → exec (.fenceCompletion o) s = .next ((s.acquire op.crew op.wave 0).endOp o 3)) := by
  have he : exec (.fenceCompletion o) s = execFenceCompletion o s := rfl
  rw [he]
  unfold execFenceCompletion
  rw [ho]
  refine ⟨fun f hi => ?_, fun f hi => ?_⟩ <;> simp only [hw, hi, Bool.not_true, Bool.false_eq_true, if_false]

/-- What the target of a reduction holds after it (R94). -/
def State.reduced (s : State) (r : RedEntry) : List Byte :=
  leBytes (atBytes r.ty) (atomNew r.op r.ty (leNat (s.mem.bytes r.pa (atBytes r.ty))) r.data 0 0xA)

theorem reductionApply_hbm (s : State) (idx : Nat) (r : RedEntry) (hr : s.reds[idx]? = some r) (hh : homeOf r.pa = .hbm)
    (hu : s.unowned r.pa (atBytes r.ty) = true) : exec (.reductionApply idx) s =
      .next (({ s with reds := s.reds.eraseIdx idx }.agentWrite r.pa (s.reduced r)).elemDone r.done) := by
  show execReductionApply idx s = _
  unfold execReductionApply
  simp only [hr, hh, hu, Bool.not_true, Bool.false_eq_true, if_false]
  rfl

/-- Settles O42: each turn by the lemma of its event. -/
theorem queuesDrain : Obligations.QueuesDrain := by
  unfold Obligations.QueuesDrain
  refine ⟨fun s core idx e he hh hd hs hu ho => writeQueueDrain_direct s core idx e ⟨he, hh, hd, hs, hu, ho⟩,
    invalidationApply_drops, fenceCompletion_acts, fun s idx r hr hh hu => ⟨_, reductionApply_hbm s idx r hr hh hu, ?_, fun a => ?_⟩⟩
  · rw [State.reds_elemDone]
    exact State.reds_commitFor _ _ _ _ _ _ hh
  · rw [State.mem_elemDone, State.agentWrite, State.mem_commitBytes _ _ _ _ _ hh, Tab.rd_wrBytes]
    unfold State.reduced
    rw [length_leBytes]

end Sys2Proof.Machine
end

section
/-!
Waiting strands wake or time out (R152, R158, R178, R245): the turns of a waiting strand, and what a wait may still write.
-/

namespace Sys2Proof.Machine

open Sys2Proof Sys2Proof.Safety Host

/-! ## The turns of a waiting strand -/

section
variable {s : State} {c w k : Nat} {cr : Crew} {wv : Wave} (hc : s.crew? c = some cr) (hw : cr.waves.find? w = some wv)
  (hr : s.crewRuns cr = true)
include hc hw

/-- A strand whose condition has not come true does not wake. -/
theorem strandWake_asleep (hk : (wv.strand k).woken = false) : exec (.strandWake c w k) s = .next s := by
  show execStrandWake c w k s = _
  unfold execStrandWake
  simp only [hc, hw, hk, Bool.not_false, Bool.true_or, if_true, hold]

include hr

/-- A strand whose condition has come true goes on with what its wait gives. -/
theorem strandWake_woken (hk : (wv.strand k).woken = true) :
    (∀ o sc p, (wv.strand k).st = .waiting (.barrier o sc p) →
      exec (.strandWake c w k) s = .next ((s.acquire c w sc).resume c w k)) ∧
    (∀ pa cmp v sc d dl trp h, (wv.strand k).st = .waiting (.wake pa cmp v sc d dl trp h) →
      exec (.strandWake c w k) s = .next (((s.waitWrite c w k [(sKey d, 0)]).acquire c w sc).resume c w k)) ∧
    (∀ h d, (wv.strand k).st = .waiting (.future h d) → (wv.handle h).code ≠ 0 → (wv.handle h).code ≠ 1 → (wv.handle h).code ≠ 2 →
      exec (.strandWake c w k) s = .next (((s.waitWrite c w k [(sKey d, BitVec.ofNat 32 (wv.handle h).code)]).acquire c w
        (wv.handle h).scope).resume c w k)) ∧
    (∀ a b ms, (wv.strand k).st = .waiting (.join a b ms) →
      exec (.strandWake c w k) s = .next ((s.waitWrite c w k (ms.filterMap (fun m => m.d.map (fun d => (sKey d, 0))))).resume c w k)) := by
  have he : exec (.strandWake c w k) s = execStrandWake c w k s := rfl
  rw [he]
  unfold execStrandWake
  simp only [hc, hw, hk, hr, Bool.not_true, Bool.or_self, Bool.false_eq_true, if_false]
  refine ⟨fun o sc p hs => ?_, fun pa cmp v sc d dl trp h hs => ?_, fun h d hs h0 h1 h2 => ?_, fun a b ms hs => ?_⟩
  · rw [hs]
  · rw [hs]
  · rw [hs]
    simp only [h0, h1, h2, if_false, or_self]
  · rw [hs]

theorem joinwExpiry_expired (hk : (wv.strand k).expired = true) (a b : Nat) (ms : List JoinMember)
    (hs : (wv.strand k).st = .waiting (.join a b ms)) : exec (.joinwExpiry c w k) s =
      .next ((s.waitWrite c w k (ms.filterMap (fun m => m.d.map (fun d => (sKey d, 1))))).resume c w k) := by
  show execJoinwExpiry c w k s = _
  unfold execJoinwExpiry
  simp only [hc, hw, hk, hr, hs, Bool.not_true, Bool.or_self, Bool.false_eq_true, if_false]

theorem wwaitDeadline_expired (hk : (wv.strand k).expired = true) (pa cmp : Nat) (v : Dword) (sc d : Nat) (dl : Option Nat) (trp : Bool) (h : Nat)
    (hs : (wv.strand k).st = .waiting (.wake pa cmp v sc d dl trp h)) : exec (.wwaitDeadline c w k) s =
      .next (if trp = true then s.trap c w k Cause.timeout h 7 else (s.waitWrite c w k [(sKey d, 1)]).resume c w k) := by
  show execWwaitDeadline c w k s = _
  unfold execWwaitDeadline
  simp only [hc, hw, hk, hr, hs, Bool.not_true, Bool.or_self, Bool.false_eq_true, if_false]
  cases trp <;> rfl

end

/-! ## The limit of a wait -/

/-- A wait's time runs out once the cycle of its limit has ended with its condition still false (R158, R245). -/
theorem Strand.expire_of_limit (st : Strand) (now t : Nat) (h : st.limit = some t) :
    st.expire now = if st.woken = false ∧ t < now then { st with expired := true } else st := by
  unfold Strand.expire
  rw [h]
  simp only [Bool.and_eq_true, Bool.not_eq_true', decide_eq_true_eq]

theorem Strand.limit_join (st : Strand) (a b : Nat) (ms : List JoinMember) (h : st.st = .waiting (.join a b ms)) :
    st.limit = joinDeadline ms := by
  unfold Strand.limit
  rw [h]

theorem Strand.limit_wake (st : Strand) (pa cmp : Nat) (v : Dword) (sc d : Nat) (dl : Option Nat) (trp : Bool) (hdr : Nat)
    (h : st.st = .waiting (.wake pa cmp v sc d dl trp hdr)) : st.limit = dl := by
  unfold Strand.limit
  rw [h]

/-! ## What a wait may still write -/

/-- The result element `key` is one that the wait of strand `k` writes. -/
def waitsFor (c w k key : Nat) (e : Nat × Nat × Nat × Nat) : Bool := e.1 == c && e.2.1 == w && e.2.2.1 == k && [key].contains e.2.2.2

theorem waitsFor_iff (c w k key : Nat) (e : Nat × Nat × Nat × Nat) : waitsFor c w k key e = true ↔ e = (c, w, k, key) := by
  obtain ⟨a, b, d, x⟩ := e
  simp [waitsFor, and_assoc]

/-- One result of a wait: it is written where no later instruction has taken it (R178). -/
theorem State.waitWrite_one (s : State) (c w k key : Nat) (v : Word) : s.waitWrite c w k [(key, v)] =
    ({ s with waitDst := s.waitDst.filter (fun e => !waitsFor c w k key e) } : State).modWave c w (fun wv =>
      if (c, w, k, key) ∈ s.waitDst then wv.setKey key v else wv) := by
  have hown : ((s.waitDst.filter (waitsFor c w k key)).map (fun e => e.2.2.2)).contains key = decide ((c, w, k, key) ∈ s.waitDst) := by
    rw [Bool.eq_iff_iff, List.contains_iff_mem, decide_eq_true_eq, List.mem_map]
    constructor
    · rintro ⟨e, he, -⟩
      obtain ⟨he, hk⟩ := List.mem_filter.1 he
      exact (waitsFor_iff c w k key e).1 hk ▸ he
    · exact fun h => ⟨_, List.mem_filter.2 ⟨h, (waitsFor_iff c w k key _).2 rfl⟩, rfl⟩
  show State.modWave _ c w (fun wv => wv.setKeys ([(key, v)].filter (fun e =>
    ((s.waitDst.filter (waitsFor c w k key)).map (fun e => e.2.2.2)).contains e.1))) = _
  rw [List.filter_singleton, hown]
  by_cases h : (c, w, k, key) ∈ s.waitDst
  · simp only [h, decide_true, if_true]
    rfl
  · simp only [h, decide_false, if_false]
    rfl

/-- A wait's result changes the wave alone. -/
theorem State.onlyWave_waitWrite (s : State) (c w k key : Nat) (v : Word) : OnlyWave s (s.waitWrite c w k [(key, v)]) c w := by
  rw [State.waitWrite_one]
  obtain ⟨hrest, -, hmem, hops, hwaves⟩ := State.onlyWave_modWave'
    ({ s with waitDst := s.waitDst.filter (fun e => !waitsFor c w k key e) } : State) c w
    (fun wv => if (c, w, k, key) ∈ s.waitDst then wv.setKey key v else wv)
  exact ⟨rfl, fun e he => (List.mem_filter.1 he).1, hmem, hops, hwaves⟩

theorem State.wave?_waitWrite (s : State) (c w k key : Nat) (v : Word) (wv : Wave) (h : s.wave? c w = some wv) :
    (s.waitWrite c w k [(key, v)]).wave? c w = some (if (c, w, k, key) ∈ s.waitDst then wv.setKey key v else wv) := by
  rw [State.waitWrite_one, State.wave?_modWave, if_pos ⟨rfl, rfl⟩]
  exact congrArg (Option.map _) h

/-- Settles O45: each turn by the lemma of its event; the limit and the result of a wait by what they are for one strand. -/
theorem strandsWake : Obligations.StrandsWake := by
  unfold Obligations.StrandsWake
  refine ⟨fun s c w k cr wv hc hw hr => ?_, fun st now => ⟨?_, ?_⟩, ?_⟩
  · have hwake (hk : (wv.strand k).woken = true) := strandWake_woken hc hw hr hk
    exact ⟨fun hk => have ⟨hbarrier, _, _, _⟩ := hwake hk; hbarrier, fun hk => have ⟨_, hword, _, _⟩ := hwake hk; hword,
      fun hk => have ⟨_, _, hfuture, _⟩ := hwake hk; hfuture, fun hk => have ⟨_, _, _, hjoin⟩ := hwake hk; hjoin,
      joinwExpiry_expired hc hw hr, wwaitDeadline_expired hc hw hr, strandWake_asleep hc hw⟩
  · exact fun a b ms h t ht => st.expire_of_limit now t ((st.limit_join a b ms h).trans ht)
  · exact fun pa cmp v sc d t trp hdr h => st.expire_of_limit now t (st.limit_wake pa cmp v sc d _ trp hdr h)
  · intro s c w k wv key v hw
    refine ⟨s.onlyWave_waitWrite c w k key v, fun hin => ?_, fun hout => ?_⟩
    · rw [s.wave?_waitWrite c w k key v wv hw, if_pos hin]
    · rw [s.wave?_waitWrite c w k key v wv hw, if_neg (hout k)]

end Sys2Proof.Machine
end

section
/-!
Frames, epochs, energy, walks and translations (R100, R101, R113, R356 to R359, R382): what the management of a context's pages does,
where energy is counted, and what a walk leaves in the translation caches.
-/

namespace Sys2Proof.Machine

open Sys2Proof Sys2Proof.Safety Host

/-! ## The quarantine of a context's frames -/

/-- No page of a pool waits for context `x`. -/
def NoPoolWait (s : State) (x : Nat) : Prop := ∀ e ∈ s.poolWait, e.2.2 ≠ x

/-- Where no page of a pool waits for the context, only its waiting releases settle (R346, R359). -/
theorem State.settlePool_none (s : State) (x : Nat) (h : NoPoolWait s x) : s.settlePool x = s := by
  have hin : s.poolWait.filter (fun e => e.2.2 == x) = [] := by
    rw [List.filter_eq_nil_iff]
    exact fun e he => by simpa using h e he
  have hout : s.poolWait.filter (fun e => e.2.2 != x) = s.poolWait := by
    rw [List.filter_eq_self]
    exact fun e he => by simpa using h e he
  unfold State.settlePool
  simp only [hin, hout, List.take_nil, List.map_nil, List.append_nil, List.length_nil, List.drop_nil]

/-- What settling makes of a context whose quarantine queue has room for `n` more frames. -/
def Context.settled (cx : Context) (n : Nat) : Context :=
  { cx with quarantine := cx.quarantine ++ (cx.releases.take n).map (fun f => (f, cx.epoch)), releases := cx.releases.drop n }

theorem Context.settled_nil (cx : Context) (n : Nat) (h : cx.releases = []) : cx.settled n = cx := by
  obtain ⟨⟩ := cx
  dsimp only at h
  subst h
  simp [Context.settled]

theorem Context.settled_one (cx : Context) (n f : Nat) (h : cx.releases = []) : ({ cx with releases := [f] } : Context).settled n =
    if 0 < n then { cx with quarantine := cx.quarantine ++ [(f, cx.epoch)] } else { cx with releases := [f] } := by
  obtain ⟨⟩ := cx
  dsimp only at h
  subst h
  cases n with
  | zero => simp [Context.settled]
  | succ n => simp [Context.settled]

theorem State.settleQuarantine_eq (s : State) (x : Nat) (h : NoPoolWait s x) :
    s.settleQuarantine x = s.modCtx x (fun cx => cx.settled (quarantineSize - s.quarantined x)) := by
  unfold State.settleQuarantine
  rw [s.settlePool_none x h]
  rfl

/-- Two updates of one context are one. -/
theorem State.onlyCtx_modCtx_modCtx (s : State) (x : Nat) (f g : Context → Context) : OnlyCtx s ((s.modCtx x f).modCtx x g) x :=
  ⟨rfl, fun _ => rfl, fun y hy => by rw [State.ctx_modCtx, if_neg hy, State.ctx_modCtx, if_neg hy]⟩

theorem frameRelease_acts (s : State) (x : Nat) (val : Dword) (hx : s.hasCtx x = true) (hr : s.recovering = false)
    (hn : (s.ctx x).releases = []) (hp : NoPoolWait s x) :
    ∃ t, exec (.frameRelease x val) s = .next t ∧ OnlyCtx s t x ∧ t.ctx x =
      if s.quarantined x < quarantineSize then
        { s.ctx x with quarantine := (s.ctx x).quarantine ++ [(val.toNat / 2 ^ 12 % 2 ^ 40, (s.ctx x).epoch)] }
      else { s.ctx x with releases := [val.toNat / 2 ^ 12 % 2 ^ 40] } := by
  have hf : bitsOf val.toNat 12 40 = val.toNat / 2 ^ 12 % 2 ^ 40 := by rw [bitsOf, Nat.shiftRight_eq_div_pow]
  generalize val.toNat / 2 ^ 12 % 2 ^ 40 = f at hf ⊢
  let u := s.modCtx x (fun cx => { cx with releases := cx.releases ++ [f] })
  have hu : u.ctx x = { s.ctx x with releases := [f] } := by
    show (s.modCtx x _).ctx x = _
    rw [State.ctx_modCtx_self, hn]
    rfl
  have hq : u.quarantined x = s.quarantined x := by
    unfold State.quarantined
    rw [hu]
    rfl
  refine ⟨u.settleQuarantine x, ?_, ?_, ?_⟩
  · show execFrameRelease x val s = _
    unfold execFrameRelease
    rw [hx, hr, hf]
    rfl
  · rw [u.settleQuarantine_eq x hp]
    exact s.onlyCtx_modCtx_modCtx x _ _
  · rw [u.settleQuarantine_eq x hp, State.ctx_modCtx_self, hu, hq]
    exact (Context.settled_one (s.ctx x) _ f hn).trans (if_congr Nat.sub_pos_iff_lt rfl rfl)

theorem frameFree_retired (s : State) (x f e : Nat) (rest : List (Nat × Nat)) (hq : (s.ctx x).quarantine = (f, e) :: rest)
    (hr : s.retired x e = true) (hn : (s.ctx x).releases = []) (hp : NoPoolWait s x) :
    ∃ t, exec (.frameFree x) s = .next t ∧ OnlyCtx s t x ∧
      t.ctx x = { s.ctx x with quarantine := rest, freeRing := (s.ctx x).freeRing ++ [f] } := by
  let u := s.modCtx x (fun cx => { cx with quarantine := rest, freeRing := cx.freeRing ++ [f] })
  have hu : u.ctx x = { s.ctx x with quarantine := rest, freeRing := (s.ctx x).freeRing ++ [f] } := State.ctx_modCtx_self s x _
  refine ⟨u.settleQuarantine x, ?_, ?_, ?_⟩
  · show execFrameFree x s = _
    unfold execFrameFree
    simp only [hq, hr, if_true]
    rfl
  · rw [u.settleQuarantine_eq x hp]
    exact s.onlyCtx_modCtx_modCtx x _ _
  · rw [u.settleQuarantine_eq x hp, State.ctx_modCtx_self, Context.settled_nil _ _ (by rw [hu]; exact hn), hu]

theorem frameFree_waits (s : State) (x f e : Nat) (rest : List (Nat × Nat)) (hq : (s.ctx x).quarantine = (f, e) :: rest)
    (hr : s.retired x e = false) : exec (.frameFree x) s = .next s := by
  show execFrameFree x s = _
  unfold execFrameFree
  simp only [hq, hr, Bool.false_eq_true, if_false, hold]

theorem quiescenceRequest_acts (s : State) (x : Nat) (hx : s.hasCtx x = true) (hr : s.recovering = false) :
    ∃ t, exec (.quiescenceRequest x) s = .next t ∧ OnlyCtx s t x ∧ t.ctx x = { s.ctx x with epoch := (s.ctx x).epoch + 1 } := by
  refine ⟨_, ?_, s.onlyCtx_modCtx x (fun cx => { cx with epoch := cx.epoch + 1 }), State.ctx_modCtx_self s x _⟩
  show execQuiescenceRequest x s = _
  unfold execQuiescenceRequest
  rw [hx, hr]
  rfl

/-! ## Energy -/

/-- A context to which energy is attributed. -/
def Context.spent (cx : Context) (n : Nat) : Context := { cx with eacct := (cx.eacct + n) % 2 ^ 64 }

/-- A kernel to which energy is attributed. -/
def Kernel.spent (kn : Kernel) (n : Nat) : Kernel := { kn with energy := (kn.energy + n) % 2 ^ 64 }

theorem State.ctx_chargeCtx (s : State) (x n y : Nat) :
    (s.chargeCtx x n).ctx y = if y = x ∧ (s.ctx y).st.live = true then (s.ctx y).spent n else s.ctx y := by
  unfold State.chargeCtx
  by_cases hl : (s.ctx x).st.live = true
  · rw [if_pos hl, State.ctx_modCtx]
    by_cases hy : y = x
    · subst hy
      rw [if_pos rfl, if_pos ⟨rfl, hl⟩]
      rfl
    · rw [if_neg hy, if_neg (fun h => hy h.1)]
  · rw [if_neg hl, if_neg]
    rintro ⟨rfl, h⟩
    exact hl h

/-- Energy attributed to contexts changes nothing else. -/
theorem State.rest_chargeCtx (s : State) (x n : Nat) : { s.chargeCtx x n with ctxs := s.ctxs } = s := by
  unfold State.chargeCtx
  split <;> rfl

/-- Energy goes to each context of a list without repetition once. -/
theorem State.ctx_foldl_chargeCtx (l : List Nat) (hd : l.Nodup) (g : Nat → Nat) (s : State) (y : Nat) :
    ((l.map (fun x => (x, g x))).foldl (fun (s : State) e => s.chargeCtx e.1 e.2) s).ctx y =
      if y ∈ l ∧ (s.ctx y).st.live = true then (s.ctx y).spent (g y) else s.ctx y := by
  induction l generalizing s with
  | nil => simp
  | cons x l ih =>
    obtain ⟨hx, hl⟩ := List.nodup_cons.1 hd
    rw [List.map_cons, List.foldl_cons, ih hl, State.ctx_chargeCtx]
    by_cases hy : y = x
    · subst hy
      simp [hx]
    · simp [hy]

theorem State.rest_foldl_chargeCtx (l : List (Nat × Nat)) (s : State) :
    { l.foldl (fun (s : State) e => s.chargeCtx e.1 e.2) s with ctxs := s.ctxs } = s := by
  induction l generalizing s with
  | nil => rfl
  | cons e l ih =>
    have h := congrArg (fun (u : State) => { u with ctxs := s.ctxs }) (ih (s.chargeCtx e.1 e.2))
    exact h.trans (s.rest_chargeCtx e.1 e.2)

/-- Energy goes to each kernel of a list without repetition once. -/
theorem State.kernel?_foldl_attributeKernel (l : List Nat) (hd : l.Nodup) (g : Nat → Nat) (s : State) (k : Nat) :
    ((l.map (fun x => (x, g x))).foldl (fun (s : State) e => s.attributeKernel e.1 e.2) s).kernel? k =
      (s.kernel? k).map (fun kn => if k ∈ l then kn.spent (g k) else kn) := by
  induction l generalizing s with
  | nil => simp
  | cons x l ih =>
    obtain ⟨hx, hl⟩ := List.nodup_cons.1 hd
    rw [List.map_cons, List.foldl_cons, ih hl, State.attributeKernel, State.kernel?_modKernel]
    by_cases hk : k = x
    · subst hk
      simp only [if_pos, if_neg hx, Option.map_map, List.mem_cons, true_or]
      rfl
    · simp only [List.mem_cons, hk, false_or, if_false]

theorem State.rest_foldl_attributeKernel (l : List (Nat × Nat)) (s : State) :
    { l.foldl (fun (s : State) e => s.attributeKernel e.1 e.2) s with kernels := s.kernels } = s := by
  induction l generalizing s with
  | nil => rfl
  | cons e l ih => exact congrArg (fun (u : State) => { u with kernels := s.kernels }) (ih (s.attributeKernel e.1 e.2))

theorem foldl_distinct_mem {α : Type} [DecidableEq α] (l acc : List α) (x : α) :
    x ∈ l.foldl (fun acc x => if acc.contains x then acc else x :: acc) acc ↔ x ∈ acc ∨ x ∈ l := by
  induction l generalizing acc with
  | nil => simp
  | cons a l ih =>
    rw [List.foldl_cons, ih]
    by_cases h : a ∈ acc
    · simp only [List.contains_iff_mem.2 h, if_true, List.mem_cons]
      grind
    · simp only [List.contains_iff_mem, h, if_false, List.mem_cons]
      grind

theorem mem_distinct {α : Type} [DecidableEq α] (l : List α) (x : α) : x ∈ distinct l ↔ x ∈ l := by
  rw [distinct, List.mem_reverse, foldl_distinct_mem]
  simp

theorem foldl_distinct_nodup {α : Type} [DecidableEq α] (l acc : List α) (h : acc.Nodup) :
    (l.foldl (fun acc x => if acc.contains x then acc else x :: acc) acc).Nodup := by
  induction l generalizing acc with
  | nil => exact h
  | cons a l ih =>
    refine ih _ ?_
    dsimp only
    by_cases ha : a ∈ acc
    · rw [if_pos (List.contains_iff_mem.2 ha)]
      exact h
    · rw [if_neg (fun hc => ha (List.contains_iff_mem.1 hc))]
      exact List.nodup_cons.2 ⟨ha, h⟩

theorem nodup_distinct {α : Type} [DecidableEq α] (l : List α) : (distinct l).Nodup :=
  List.nodup_reverse.2 (foldl_distinct_nodup l [] List.nodup_nil)

/-- A resident's share of a core's energy (R113, log 81). -/
def share (l : List Nat) (n x : Nat) : Nat := n * (l.filter (· == x)).length / l.length

/-- The shares of what `of` says of a core's waves, each named once. -/
def State.shares (s : State) (of : Crew → Nat) (c n : Nat) : List (Nat × Nat) :=
  (distinct (s.residents of c)).map (fun x => (x, share (s.residents of c) n x))

/-- The state once a core's energy is counted for its die and the package and attributed to contexts. -/
def State.contextsSpent (s : State) (c n : Nat) : State :=
  (s.shares (·.ctx) c n).foldl (fun (s : State) e => s.chargeCtx e.1 e.2) (s.spend (dieOf c) n)

/-- The state once a core's energy is attributed to kernels too. -/
def State.coreSpent (s : State) (c n : Nat) : State :=
  (s.shares (·.kernel) c n).foldl (fun (s : State) e => s.attributeKernel e.1 e.2) (s.contextsSpent c n)

theorem eacctUpdate_core_eq (s : State) (c n : Nat) (h : c < Config.cores) :
    exec (.eacctUpdate (.core c) n) s = .next (s.coreSpent c n) := by
  show execEacctUpdate (.core c) n s = _
  unfold execEacctUpdate
  dsimp only
  rw [if_neg (by omega)]
  rfl

theorem State.rest_contextsSpent (s : State) (c n : Nat) : { s.contextsSpent c n with ctxs := s.ctxs } = s.spend (dieOf c) n :=
  State.rest_foldl_chargeCtx _ (s.spend (dieOf c) n)

theorem State.kernels_contextsSpent (s : State) (c n : Nat) : (s.contextsSpent c n).kernels = s.kernels := by
  have h := congrArg State.kernels (s.rest_contextsSpent c n)
  exact h

theorem State.rest_coreSpent_kernels (s : State) (c n : Nat) :
    { s.coreSpent c n with kernels := s.kernels } = s.contextsSpent c n := by
  rw [← s.kernels_contextsSpent c n]
  exact State.rest_foldl_attributeKernel _ _

/-- Beside contexts and kernels a core's energy changes the counters alone. -/
theorem State.rest_coreSpent (s : State) (c n : Nat) :
    { s.coreSpent c n with ctxs := s.ctxs, kernels := s.kernels } = s.spend (dieOf c) n := by
  have h := congrArg (fun (u : State) => { u with ctxs := s.ctxs }) (s.rest_coreSpent_kernels c n)
  exact h.trans (s.rest_contextsSpent c n)

theorem State.ctx_coreSpent (s : State) (c n y : Nat) : (s.coreSpent c n).ctx y =
    if y ∈ s.residents (·.ctx) c ∧ (s.ctx y).st.live = true then (s.ctx y).spent (share (s.residents (·.ctx) c) n y) else s.ctx y := by
  have hc := congrArg (fun (u : State) => u.ctx y) (s.rest_coreSpent_kernels c n)
  have hu := State.ctx_foldl_chargeCtx (distinct (s.residents (·.ctx) c)) (nodup_distinct _) (share (s.residents (·.ctx) c) n)
    (s.spend (dieOf c) n) y
  simp only [mem_distinct] at hu
  exact hc.trans hu

theorem State.kernel?_coreSpent (s : State) (c n k : Nat) : (s.coreSpent c n).kernel? k = (s.kernel? k).map (fun kn =>
    if k ∈ s.residents (·.kernel) c then kn.spent (share (s.residents (·.kernel) c) n k) else kn) := by
  have h := State.kernel?_foldl_attributeKernel (distinct (s.residents (·.kernel) c)) (nodup_distinct _)
    (share (s.residents (·.kernel) c) n) (s.contextsSpent c n) k
  simp only [mem_distinct] at h
  have hk : (s.contextsSpent c n).kernel? k = s.kernel? k := by
    unfold State.kernel?
    rw [s.kernels_contextsSpent c n]
  rw [hk] at h
  exact h

theorem eacctUpdate_core (s : State) (c n : Nat) (h : c < Config.cores) : ∃ t, exec (.eacctUpdate (.core c) n) s = .next t ∧
    { t with ctxs := s.ctxs, kernels := s.kernels, energy := s.energy, energyDie := s.energyDie } = s ∧
    t.energy = (s.energy + n) % 2 ^ 64 ∧
    t.energyDie = s.energyDie.wr 0 (dieOf c) ((s.energyDie.rd 0 (dieOf c) + n) % 2 ^ 64) ∧
    (∀ y, t.ctx y = if y ∈ s.residents (·.ctx) c ∧ (s.ctx y).st.live = true then { s.ctx y with
      eacct := ((s.ctx y).eacct + n * ((s.residents (·.ctx) c).filter (· == y)).length / (s.residents (·.ctx) c).length) % 2 ^ 64 }
      else s.ctx y) ∧
    ∀ k, t.kernel? k = (s.kernel? k).map (fun kn => if k ∈ s.residents (·.kernel) c then { kn with
      energy := (kn.energy + n * ((s.residents (·.kernel) c).filter (· == k)).length / (s.residents (·.kernel) c).length) % 2 ^ 64 }
      else kn) := by
  have hr := s.rest_coreSpent c n
  have hall := congrArg (fun (u : State) => { u with energy := s.energy, energyDie := s.energyDie }) hr
  have he := congrArg State.energy hr
  have hd := congrArg State.energyDie hr
  exact ⟨_, eacctUpdate_core_eq s c n h, hall, he, hd, s.ctx_coreSpent c n, s.kernel?_coreSpent c n⟩

theorem eacctUpdate_operation (s : State) (o : Nat) (op : Op) (d n : Nat) (ho : s.op? o = some op) (hd : d < 4)
    (hl : (s.ctx op.ctx).st.live = true) (hi : isRequest op = false) (cr : Crew) (hc : s.crew? op.crew = some cr) :
    ∃ t, exec (.eacctUpdate (.operation o d) n) s = .next t ∧ OnlyCtx (s.spend d n) { t with kernels := s.kernels } op.ctx ∧
      (∀ k, t.kernel? k = (s.kernel? k).map (fun kn => if k = cr.kernel then { kn with energy := (kn.energy + n) % 2 ^ 64 } else kn)) ∧
      t.ctx op.ctx = { s.ctx op.ctx with eacct := ((s.ctx op.ctx).eacct + n) % 2 ^ 64 } := by
  have hrest := (s.spend d n).rest_chargeCtx op.ctx n
  refine ⟨((s.spend d n).chargeCtx op.ctx n).attributeKernel cr.kernel n, ?_, ⟨?_, ?_, fun y hy => ?_⟩, fun k => ?_, ?_⟩
  · show execEacctUpdate (.operation o d) n s = _
    unfold execEacctUpdate
    simp only [ho, hi, hc, if_neg (Nat.not_le.2 hd), Bool.false_and, Bool.false_eq_true, if_false]
    rfl
  · have hk := congrArg (fun (u : State) => { u with kernels := s.kernels }) hrest
    exact hk
  · intro a
    have hm := congrArg (fun (u : State) => u.mem.rd 0 a) hrest
    exact hm
  · exact (State.ctx_chargeCtx (s.spend d n) op.ctx n y).trans (if_neg (fun h => hy h.1))
  · have hk : ((s.spend d n).chargeCtx op.ctx n).kernel? k = s.kernel? k := by
      have h := congrArg (fun (u : State) => u.kernel? k) hrest
      exact h
    rw [State.attributeKernel, State.kernel?_modKernel]
    split
    · rename_i hkc
      subst hkc
      rw [hk]
    · rw [hk]
      exact (congrFun Option.map_id (s.kernel? k)).symm
  · exact (State.ctx_chargeCtx (s.spend d n) op.ctx n op.ctx).trans (if_pos ⟨rfl, hl⟩)

theorem eacctUpdate_link (s : State) (d n : Nat) (hd : d < 2) : exec (.eacctUpdate (.link d) n) s = .next { s with
    energy := (s.energy + n) % 2 ^ 64, energyDie := s.energyDie.wr 0 (4 + d) ((s.energyDie.rd 0 (4 + d) + n) % 2 ^ 64) } := by
  show execEacctUpdate (.link d) n s = _
  unfold execEacctUpdate
  dsimp only
  rw [if_neg (by omega)]
  rfl

/-! ## Walks and translations -/

theorem pageWalk_acts (s : State) (die x va : Nat) (w : Walk) (hs : s.stopped = false) (hx : s.hasCtx x = true) (hd : die < 4)
    (hv : va < 2 ^ 56) (hw : w = ((s.walks.find? (fun w => w.die == die && w.ctx == x && w.va == va)).getD
      ⟨die, x, va, 4, (s.ctx x).root, (s.ctx x).epoch, none, s.walkWanted die x va, none⟩))
    (hl : w.leaf = none) (hf : w.fault = none) (hu : s.unowned (w.table + 8 * levelIndex w.level va) 8 = true) :
    exec (.pageWalk die x va) s = .next { s with
      walks := (s.walks.filter (fun w => !(w.die == die && w.ctx == x && w.va == va))) ++ (s.walkStep w).toList } := by
  have hgo : (!s.hasCtx x || decide (4 ≤ die) || decide (2 ^ 56 ≤ va) || s.stopped) = false := by
    rw [hx, hs, decide_eq_false (Nat.not_le.2 hd), decide_eq_false (Nat.not_le.2 hv)]
    rfl
  show execPageWalk die x va s = _
  unfold execPageWalk
  rw [hgo]
  dsimp only
  rw [← hw, hl, hf, hu]
  cases s.walkStep w with
  | none => simp
  | some w1 => simp

theorem translationFill_acts (s : State) (idx victim : Nat) (w : Walk) (u : Tlb) (hs : s.stopped = false) (hw : s.walks[idx]? = some w)
    (hl : w.leaf = some u) : exec (.translationFill idx victim) s =
      .next ({ s with walks := s.walks.eraseIdx idx }.fillTlb u victim) := by
  show execTranslationFill idx victim s = _
  unfold execTranslationFill
  simp only [hs, hw, hl, Bool.false_eq_true, if_false]

/-- What a filled cache holds: the new translation, and of the others all but at most one of its die (R357). -/
theorem State.tlb_fillTlb (s : State) (u : Tlb) (victim : Nat) : u ∈ (s.fillTlb u victim).tlb ∧
    (∀ v ∈ (s.fillTlb u victim).tlb, v = u ∨ v ∈ s.tlb) ∧ (∀ v ∈ s.tlb, v.die ≠ u.die → v ∈ (s.fillTlb u victim).tlb) := by
  unfold State.fillTlb
  refine ⟨by simp, fun v hv => ?_, fun v hv hd => ?_⟩
  · simp only [List.mem_append, List.mem_singleton] at hv
    obtain hv | hv | hv := hv
    · exact .inr (List.mem_filter.1 hv).1
    · refine .inr ?_
      split at hv
      · exact (List.mem_filter.1 hv).1
      · exact (List.mem_filter.1 (List.mem_of_mem_eraseIdx hv)).1
    · exact .inl hv
  · exact List.mem_append_left _ (List.mem_filter.2 ⟨hv, by simpa using hd⟩)

/-- On stopped dies nothing walks (R383). -/
theorem walks_stopped (s : State) (die x va idx victim : Nat) (h : s.stopped = true) :
    exec (.pageWalk die x va) s = .next s ∧ exec (.translationFill idx victim) s = .next s := by
  refine ⟨?_, ?_⟩
  · show execPageWalk die x va s = _
    unfold execPageWalk
    rw [h, Bool.or_true]
    rfl
  · show execTranslationFill idx victim s = _
    unfold execTranslationFill
    rw [h]
    rfl

/-- Settles O52: each turn by the lemma of its event. -/
theorem pagesAndTranslations : Obligations.PagesAndTranslations := by
  unfold Obligations.PagesAndTranslations
  refine ⟨fun s x => ⟨frameRelease_acts s x, frameFree_retired s x, frameFree_waits s x, quiescenceRequest_acts s x,
    eacctUpdate_core s, eacctUpdate_operation s, eacctUpdate_link s⟩, pageWalk_acts, ?_, walks_stopped, fun s die idx => rfl⟩
  intro s idx victim w u hs hw hl
  obtain ⟨hin, hof, hothers⟩ := State.tlb_fillTlb { s with walks := s.walks.eraseIdx idx } u victim
  exact ⟨_, translationFill_acts s idx victim w u hs hw hl, rfl, rfl, hin, hof, hothers⟩

end Sys2Proof.Machine
end

section
/-!
Transform rings (R271 to R273): registration, kicks, the start of a request, its completion record and the commands on a halted ring.
-/

namespace Sys2Proof.Machine

open Sys2Proof Sys2Proof.Safety Host

/-! ## A ring of a context -/

/-- Change ring `q` of context `x`. -/
def State.modRing (s : State) (x q : Nat) (f : Ring → Ring) : State :=
  s.modCtx x (fun cx => { cx with rings := cx.rings.modify q f })

theorem State.ring_modRing (s : State) (x q : Nat) (f : Ring → Ring) (r : Ring) (h : (s.ctx x).rings.find? q = some r) :
    ((s.modRing x q f).ctx x).rings.find? q = some (f r) := by
  unfold State.modRing
  rw [State.ctx_modCtx_self]
  show ((s.ctx x).rings.modify q f).find? q = _
  rw [Tab.find?_modify, if_pos rfl, h]
  rfl

/-- A write at a home in HBM leaves the rings of every context as they are. -/
theorem State.rings_recheckQueues (s : State) (pa n x : Nat) : ((s.recheckQueues pa n).ctx x).rings = (s.ctx x).rings := by
  unfold State.recheckQueues
  split
  · unfold State.ctx Tab.rd
    dsimp only
    rw [Tab.find?_mapV]
    cases s.ctxs.find? x <;> rfl
  · rfl

theorem State.rings_commitFor (s : State) (g : Origin) (writer : Option Nat) (who : Option (Nat × Nat × Nat)) (pa : Nat) (bs : List Byte)
    (h : homeOf pa = .hbm) (x : Nat) : ((s.commitFor g writer who pa bs).ctx x).rings = (s.ctx x).rings := by
  unfold State.commitFor
  simp only [h, State.rings_recheckQueues]
  exact State.foldl_invalidateSharers_keeps (fun s => (s.ctx x).rings) (fun _ _ _ => rfl) _ writer _

theorem State.ctxs_dropSources (s : State) (die x : Nat) (srcs : List Src) : (s.dropSources die x srcs).ctxs = s.ctxs :=
  State.dropSources_keeps State.ctxs (fun _ _ => rfl) s die x srcs

/-! ## Registration and kicks -/

theorem transformRingRegistration_acts (s : State) (x q die req comp k : Nat) (hr : s.recovering = false) (ha : (s.ctx x).st ≠ .absent)
    (hd : (s.ctx x).st ≠ .destroyed) (hq : q < 16) (hdie : die < 4) (hk : 4 ≤ k) (hk' : k ≤ 8) (hreq : req % 4096 = 0)
    (hring : ∀ r, (s.ctx x).rings.find? q = some r → r.busy = [] ∧ r.ended = []) :
    ∃ t, exec (.transformRingRegistration x q die req comp k) s = .next t ∧ OnlyCtx s t x ∧
      (t.ctx x).rings.find? q = some ⟨die, req, comp, k, 0, 0, 0, 0, [], [], [], 0, none, 2 ^ k⟩ := by
  have hidle : ((s.ctx x).rings.find? q).any (fun r => !r.busy.isEmpty || !r.ended.isEmpty) = false := by
    cases h : (s.ctx x).rings.find? q with
    | none => rfl
    | some r =>
      obtain ⟨hb, he⟩ := hring r h
      simp [hb, he]
  refine ⟨_, ?_, s.onlyCtx_modCtx x (fun cx => { cx with rings := cx.rings.put q ⟨die, req, comp, k, 0, 0, 0, 0, [], [], [], 0, none, 2 ^ k⟩ }),
    ?_⟩
  · show execTransformRingRegistration x q die req comp k s = _
    unfold execTransformRingRegistration
    rw [if_neg]
    simp only [hr, hidle, hreq, ha, hd, beq_iff_eq, Bool.or_eq_true, decide_eq_true_eq, Bool.false_eq_true, not_or, not_true, ne_eq,
      or_false, false_or]
    omega
  · rw [State.ctx_modCtx_self]
    exact (Tab.find?_put ..).trans (if_pos rfl)

theorem transformKick_acts (s : State) (x q : Nat) (val : Word) (core : Nat) (h : s.recovering = false) :
    exec (.transformKick x q val core) s =
      .next (if s.kickHeld x q val.toNat none = true then s else s.kick x q val.toNat core none) := by
  show execTransformKick x q val core s = _
  unfold execTransformKick
  rw [h]
  cases s.kickHeld x q val.toNat none <;> rfl

/-- Where the write index has not moved a kick brings no requests. -/
theorem Ring.kicked_none (r : Ring) (val : Nat) (h : r.widx % 2 ^ 32 = val) : r.kicked val = 0 := by
  unfold Ring.kicked
  rw [h, Nat.add_sub_cancel_left, Nat.mod_self]

theorem State.kick_none (s : State) (x q val core : Nat) (r : Ring) (h : (s.ctx x).rings.find? q = some r)
    (hv : r.widx % 2 ^ 32 = val) : s.kick x q val core none =
      s.modRing x q (fun y => { y with widx := y.widx + 0, core := core, crew := none, limit := r.ridx + 2 ^ r.k }) := by
  unfold State.kick
  simp only [h, r.kicked_none val hv]
  rfl

theorem kick_none_acts (s : State) (x q val core : Nat) (r : Ring) (h : (s.ctx x).rings.find? q = some r) (hv : r.widx % 2 ^ 32 = val) :
    ∃ t, s.kick x q val core none = t ∧ OnlyCtx s t x ∧
      (t.ctx x).rings.find? q = some { r with core := core, crew := none, limit := r.ridx + 2 ^ r.k } :=
  ⟨_, s.kick_none x q val core r h hv, s.onlyCtx_modCtx x _, s.ring_modRing x q _ r h⟩

/-! ## Service -/

/-- A request whose block has been read into `tab`. -/
def Op.blockRead (op : Op) (r : Ring) (tab : Tab Byte) : Op :=
  { op with cap := tabBytes tab true (r.req + 64 * (r.ridx % 2 ^ r.k)) 64, buf := [], st := .active }

/-- The next request of ring `q` can start (R272): nothing holds the ring, an engine of its die is free, and its block, which is read
into `tab`, is well formed. -/
structure RequestReady (s : State) (x q : Nat) (r : Ring) (o : Nat) (op : Op) (tab : Tab Byte) : Prop where
  /-- The ring. -/
  ring : (s.ctx x).rings.find? q = some r
  /-- It is not halted. -/
  runs : r.halted = []
  /-- It holds a request. -/
  kicked : r.ridx ≠ r.widx
  /-- An engine is free. -/
  free : s.enginesBusy r.die < 4
  /-- The dies run. -/
  dies : s.stopped = false
  /-- The context is not frozen. -/
  ctx : (s.ctx x).st ≠ .frozen
  /-- The request. -/
  busy : r.busy.find? r.ridx = some o
  /-- Its operation. -/
  inFlight : s.op? o = some op
  /-- It is no request beyond the ring. -/
  within : op.count ≠ 1
  /-- Its block is read. -/
  block : s.gather o op r.die [.dev (r.req + 64 * (r.ridx % 2 ^ r.k)) 64] = .ok tab
  /-- The block is well formed. -/
  formed : (op.blockRead r tab).badField = none

section
variable {s : State} {x q : Nat} {r : Ring} {o : Nat} {op : Op} {tab : Tab Byte} (h : RequestReady s x q r o op tab)
include h

theorem RequestReady.exec_eq : exec (.transformRequestStart x q) s =
    .next ((({ s.dropSources r.die x [.dev (r.req + 64 * (r.ridx % 2 ^ r.k)) 64] with ops := s.ops.put o (op.blockRead r tab) } : State).modRing
      x q (fun r => { r with ridx := r.ridx + 1 })).modOp o (fun op' => { op' with len := (op.blockRead r tab).rLen })) := by
  have hgo : (!r.halted.isEmpty || r.ridx == r.widx || decide (4 ≤ s.enginesBusy r.die) || s.stopped || (s.ctx x).st == .frozen) = false := by
    rw [h.runs, h.dies, decide_eq_false (Nat.not_le.2 h.free), beq_eq_false_iff_ne.2 h.kicked, beq_eq_false_iff_ne.2 h.ctx]
    rfl
  have hbad := h.formed
  unfold Op.blockRead at hbad
  show execTransformRequestStart x q s = _
  unfold execTransformRequestStart
  rw [h.ring]
  dsimp only
  rw [hgo, if_neg Bool.false_ne_true, h.busy]
  dsimp only
  rw [h.inFlight]
  dsimp only
  rw [if_neg h.within, h.block]
  dsimp only
  rw [hbad]
  rfl

/-- The request is in service with its length known, and the ring's read index has moved on. -/
theorem RequestReady.starts : ∃ t y, exec (.transformRequestStart x q) s = .next t ∧
    t.op? o = some { op.blockRead r tab with len := (op.blockRead r tab).rLen } ∧
    (t.ctx x).rings.find? q = some y ∧ y = { r with ridx := r.ridx + 1 } ∧ SameMemory s t := by
  refine ⟨_, _, h.exec_eq, ?_, ?_, rfl, fun a => ?_⟩
  · refine State.op?_modOp_self _ o (op.blockRead r tab) _ ?_
    exact (Tab.find?_put ..).trans (if_pos rfl)
  · refine State.ring_modRing _ x q (fun r => { r with ridx := r.ridx + 1 }) r ?_
    unfold State.ctx
    rw [State.ctxs_dropSources]
    exact h.ring
  · show (s.dropSources r.die x _).mem.rd 0 a = _
    rw [State.mem_dropSources]

end

/-- While its die's four engines are busy, or with nothing to read, or halted, a ring starts nothing. -/
theorem transformRequestStart_waits (s : State) (x q : Nat) (r : Ring) (h : (s.ctx x).rings.find? q = some r)
    (hw : 4 ≤ s.enginesBusy r.die ∨ r.ridx = r.widx ∨ r.halted ≠ []) : exec (.transformRequestStart x q) s = .next s := by
  have hgo : (!r.halted.isEmpty || r.ridx == r.widx || decide (4 ≤ s.enginesBusy r.die) || s.stopped || (s.ctx x).st == .frozen) = true := by
    obtain hw | hw | hw := hw
    · simp [hw]
    · simp [hw]
    · simp [hw]
  show execTransformRequestStart x q s = _
  unfold execTransformRequestStart
  rw [h]
  dsimp only
  rw [hgo]
  rfl

/-- What a request's completion record holds (R273). -/
def recordWord (st dt : Nat) (us : Dword) : Nat := us.toNat * 2 ^ 64 + dt % 2 ^ 32 * 2 ^ 32 + st % 2 ^ 16 * 2 ^ 16 + 1

/-- Where the record of a request with free-running index `slot` stands. -/
def Ring.recordAt (r : Ring) (slot : Nat) : Nat := r.comp + 16 * (slot % 2 ^ r.k)

/-- A request that has ended, with no wake word, whose completion record can be written at `pa` in HBM (R273). -/
structure RecordDue (s : State) (x q slot : Nat) (r : Ring) (st dt : Nat) (us : Dword) (ep pa : Nat) : Prop where
  /-- The ring. -/
  ring : (s.ctx x).rings.find? q = some r
  /-- The request has ended. -/
  ended : r.ended.find? slot = some (st, dt, us, 0, ep)
  /-- Its record is not sent yet. -/
  due : st < 2 ^ 16
  /-- The walk to the record is not held. -/
  walk : s.walkHeld r.die x (r.recordAt slot) Need.write = false
  /-- Where the record stands. -/
  mapped : s.translate r.die x (r.recordAt slot) Need.write = .ok pa
  /-- Its home. -/
  home : homeOf pa = .hbm
  /-- No engine owns its line. -/
  free : s.unowned pa 16 = true

section
variable {s : State} {x q slot : Nat} {r : Ring} {st dt : Nat} {us : Dword} {ep pa : Nat} (h : RecordDue s x q slot r st dt us ep pa)
include h

theorem RecordDue.exec_eq : exec (.transformComplete x q slot) s =
    .next (((s.dropLacking r.die x (r.recordAt slot) Need.write).ctxWrite x ep pa (leBytes 16 (recordWord st dt us))).modRing
      x q (fun r => { r with ended := r.ended.del slot })) := by
  have hwalk := h.walk
  have hmapped := h.mapped
  unfold Ring.recordAt at hwalk hmapped
  show execTransformComplete x q slot s = _
  unfold execTransformComplete
  rw [h.ring]
  dsimp only
  rw [h.ended]
  dsimp only
  rw [show s.wakeFree x 0 r = true from rfl, hwalk, hmapped]
  dsimp only
  rw [h.free, h.home, if_neg (Nat.ne_of_lt h.due)]
  rfl

/-- The record is in memory, no other byte has changed, and the ring has nothing more to record for the request. -/
theorem RecordDue.written : ∃ t y, exec (.transformComplete x q slot) s = .next t ∧ (t.ctx x).rings.find? q = some y ∧
    y.ended = r.ended.del slot ∧ ∀ a, t.mem.rd 0 a = if pa ≤ a ∧ a < pa + 16 then (leBytes 16 (recordWord st dt us)).getD (a - pa) 0
      else s.mem.rd 0 a := by
  refine ⟨_, _, h.exec_eq, State.ring_modRing _ x q _ r ?_, rfl, fun a => ?_⟩
  · unfold State.ctxWrite
    rw [State.rings_commitFor _ _ _ _ _ _ h.home]
    exact h.ring
  · show ((s.dropLacking r.die x _ Need.write).ctxWrite x ep pa _).mem.rd 0 a = _
    unfold State.ctxWrite
    rw [State.mem_commitFor _ _ _ _ _ _ h.home, Tab.rd_wrBytes, length_leBytes, State.mem_dropLacking]

end

/-! ## Commands on a halted ring -/

theorem transformCommands (s : State) (x q : Nat) (r : Ring) (o : Nat) (op : Op) (hr : s.recovering = false)
    (h : s.haltedOp x q = some (r, o, op)) :
    exec (.transformCancel x q) s = .next ((s.unhalt x q 2).endRequest o op 3 op.off) ∧
    (op.len ≠ 0 → exec (.transformResume x q) s = .next ((s.unhalt x q 1).modOp o (fun op => { op with st := .active }))) := by
  refine ⟨?_, fun hl => ?_⟩
  · show execTransformCancel x q s = _
    unfold execTransformCancel State.cancelRing
    rw [hr, h]
    rfl
  · show execTransformResume x q s = _
    unfold execTransformResume State.resumeRing
    rw [hr, h]
    dsimp only
    rw [if_neg hl]
    rfl

/-- Settles O54: each turn by the lemma of its event. -/
theorem transformRings : Obligations.TransformRings := by
  unfold Obligations.TransformRings
  refine ⟨transformRingRegistration_acts, transformKick_acts, kick_none_acts, ?_, transformRequestStart_waits, ?_, transformCommands⟩
  · exact fun s x q r o op tab h hh hi he hs hf hb ho hc hg => fun hbad =>
      RequestReady.starts ⟨h, hh, hi, he, hs, hf, hb, ho, hc, hg, hbad⟩
  · exact fun s x q slot r st dt us ep pa h he hst hh ht hp hu => RecordDue.written ⟨h, he, hst, hh, ht, hp, hu⟩

end Sys2Proof.Machine
end

section
/-!
TEND, TABRT, ENGRD, ENGWR and ERET (R116 to R118, R179, R180): the wait of a strand, the restart, and what only the context's trap
handler may do.
-/

namespace Sys2Proof.Machine

open Sys2Proof Sys2Proof.Safety Host

/-! ## A strand that enters a wait -/

theorem Wave.strand_modStrand_other (w : Wave) (k j : Nat) (f : Strand → Strand) (h : j ≠ k) : (w.modStrand k f).strand j = w.strand j := by
  simp only [Wave.strand, Wave.modStrand, Tab.rd_put, if_neg h]

/-- A fold that keeps its value or takes the element at hand ends with an element of the list, or as it began. -/
theorem foldl_picks {α : Type} {f : Option α → α → Option α} {l : List α} {b : Option α} {k : α} (h : l.foldl f b = some k)
    (hf : ∀ b a, f b a = b ∨ f b a = some a) : k ∈ l ∨ b = some k := by
  induction l generalizing b with
  | nil => exact .inr h
  | cons a l ih =>
    rcases ih h with hk | hk
    · exact .inl (List.mem_cons_of_mem _ hk)
    · rcases hf b a with hb | ha
      · exact .inr (hb.symm.trans hk)
      · obtain rfl := Option.some.inj (ha.symm.trans hk)
        exact .inl List.mem_cons_self

/-- What is preferred of a list, where any of it is, is of the list. -/
theorem mem_of_mem_preferred {α : Type} {p : α → Bool} {l : List α} {a : α}
    (h : a ∈ if (l.filter p).isEmpty = true then l else l.filter p) : a ∈ l := by
  split at h
  · exact h
  · exact (List.mem_filter.1 h).1

/-- The chosen strand is one that could run (R149). -/
theorem State.chooseStrand_runs (s : State) (c w k : Nat) (wv : Wave) (hw : s.wave? c w = some wv) (h : s.chooseStrand c w = some k) :
    (wv.strand k).runs = true := by
  unfold State.chooseStrand at h
  rw [hw] at h
  dsimp only at h
  have hk := foldl_picks h (fun b a => by
    cases b with
    | none => exact .inr rfl
    | some b => exact (ite_eq_or_eq _ _ _).symm)
  simp only [reduceCtorEq, or_false] at hk
  exact (List.mem_filter.1 (mem_of_mem_preferred (mem_of_mem_preferred hk))).2

/-- A wave whose strand `k` has been chosen (R149). -/
def Wave.runStrand (w : Wave) (k : Nat) : Wave :=
  { w.modStrand k (fun st => { st with st := .running, age := 0 }) with yieldedStrand := none }

/-- What choosing afresh makes of a wave: nothing, or a strand that could run runs. -/
theorem State.choose_cases (s : State) (c w : Nat) (wv : Wave) (hw : s.wave? c w = some wv) :
    s.choose c w = s ∨ ∃ k, (wv.strand k).runs = true ∧ s.choose c w = s.modWave c w (fun wv => wv.runStrand k) := by
  unfold State.choose
  rw [hw]
  dsimp only
  split
  · exact .inl rfl
  · split
    · exact .inl rfl
    · rename_i k hk
      exact .inr ⟨k, s.chooseStrand_runs c w k wv hw hk, rfl⟩

theorem opsKeep_trans {s t u : State} (h : OpsKeep s t) (g : OpsKeep t u) : OpsKeep s u := by
  intro o
  refine ⟨(g o).1.trans (h o).1, fun op p hs hu k hk => ?_⟩
  have hm := (h o).1
  rw [hs] at hm
  obtain ⟨m, ht, -⟩ := Option.map_eq_some_iff.1 hm
  exact (h o).2 op m hs ht k ((g o).2 m p ht hu k hk)

theorem onlyWave_trans {s t u : State} {c w : Nat} (h : OnlyWave s t c w) (g : OnlyWave t u c w) : OnlyWave s u c w where
  rest := (congrArg (fun v : State => { v with crews := s.crews, ops := s.ops, waitDst := s.waitDst }) g.rest).trans h.rest
  waits := fun e he => h.waits e (g.waits e he)
  memory := fun a => (g.memory a).trans (h.memory a)
  ops := opsKeep_trans h.ops g.ops
  waves := ⟨fun d => (g.waves.1 d).trans (h.waves.1 d), fun d x hx => (g.waves.2 d x hx).trans (h.waves.2 d x hx)⟩

/-- A strand that enters a wait waits, and of the machine only its wave's strands differ. -/
theorem State.enterWait_waits (s : State) (c w k : Nat) (wt : Wait) (hdr : Nat) (wv : Wave) (hw : s.wave? c w = some wv) :
    OnlyWave s (s.enterWait c w k wt hdr) c w ∧
      ∃ x, (s.enterWait c w k wt hdr).wave? c w = some x ∧ StrandsOnly wv x ∧ (x.strand k).st = .waiting wt := by
  let f (st : Strand) : Strand := { st with st := .waiting wt, woken := false, expired := false, waitHdr := hdr }
  have hf : (s.modStrand c w k f).wave? c w = some (wv.modStrand k f) := by
    unfold State.modStrand
    rw [State.wave?_modWave, if_pos ⟨rfl, rfl⟩, hw]
    rfl
  have hone : OnlyWave s (s.modStrand c w k f) c w := s.onlyWave_modWave' c w _
  have hk : ((wv.modStrand k f).strand k).st = .waiting wt := by rw [Wave.strand_modStrand_self]
  have he : s.enterWait c w k wt hdr = (s.modStrand c w k f).choose c w := rfl
  rw [he]
  rcases (s.modStrand c w k f).choose_cases c w _ hf with h | ⟨j, hj, h⟩
  · rw [h]
    exact ⟨hone, _, hf, rfl, hk⟩
  · have hjk : k ≠ j := by
      rintro rfl
      unfold Strand.runs at hj
      rw [hk] at hj
      cases hj
    rw [h]
    refine ⟨onlyWave_trans hone (State.onlyWave_modWave' _ c w _), (wv.modStrand k f).runStrand j, ?_, rfl, ?_⟩
    · rw [State.wave?_modWave, if_pos ⟨rfl, rfl⟩, hf]
      rfl
    · show (((wv.modStrand k f).modStrand j (fun st => { st with st := .running, age := 0 })).strand k).st = _
      rw [Wave.strand_modStrand_other _ _ _ _ hjk, hk]

/-! ## TEND and TABRT -/

theorem exec_tend (f : Fields) (s : State) (q : Cursor) (cr : Crew) (w : Wave) (h : IssuesWave s (.tend f) [] q cr w) :
    exec (.tend f) s = .next (if (w.strand q.strand).mask ≠ w.lanes
      then s.trap q.crew q.wave q.strand Cause.illegalConvergence w.clauseAddr 8
      else s.enterWait q.crew q.wave q.strand .tend w.clauseAddr) := by
  show execTend f s = _
  unfold execTend
  rw [s.waved_acts (.tend f) [] q cr w _ h]
  unfold State.tendWait
  rw [(s.curWave_spec q cr w h.1.1).2.2.2]

theorem tend_acts (f : Fields) (s : State) (q : Cursor) (cr : Crew) (w : Wave) (h : IssuesWave s (.tend f) [] q cr w) :
    ((w.strand q.strand).mask = w.lanes → ∃ t, exec (.tend f) s = .next t ∧ t = s.enterWait q.crew q.wave q.strand .tend w.clauseAddr ∧
      OnlyWave s t q.crew q.wave ∧ ∃ x, t.wave? q.crew q.wave = some x ∧ StrandsOnly w x ∧ (x.strand q.strand).st = .waiting .tend) ∧
    ((w.strand q.strand).mask ≠ w.lanes → ∃ cls, exec (.tend f) s =
      .next (s.trap q.crew q.wave q.strand Cause.illegalConvergence w.clauseAddr cls)) := by
  rw [exec_tend f s q cr w h]
  refine ⟨fun hm => ?_, fun hm => ⟨8, by rw [if_pos hm]⟩⟩
  rw [if_neg (not_not_intro hm)]
  exact ⟨_, rfl, rfl, s.enterWait_waits _ _ _ .tend _ w (s.curWave_spec q cr w h.1.1).2.2.2⟩

theorem tabrt_acts (f : Fields) (s : State) (q : Cursor) (cr : Crew) (w : Wave) (h : IssuesWave s (.tabrt f) [] q cr w) :
    (cr.task = .irrevocable → exec (.tabrt f) s = .next (s.trapHdr Cause.protection)) ∧
    (cr.task = .versioned → exec (.tabrt f) s = .next (s.restartTask q.crew)) := by
  have he : exec (.tabrt f) s = .next _ := s.waved_acts (.tabrt f) [] q cr w _ h
  refine ⟨fun ht => ?_, fun ht => ?_⟩ <;> rw [he, ht] <;> rfl

/-! ## What only the handler may do -/

theorem engrd_handler (f : Fields) (s : State) (q : Cursor) (cr : Crew) (w : Wave) (hh : s.isHandler q cr = true)
    (h : IssuesWave s (.engrd f) [] q cr w) : ∃ t, exec (.engrd f) s = .next t ∧
      WritesS s t q w [(f.d.toNat, groupWord (s.engWord cr.ctx (EngSel.ofWord (s.ctx cr.ctx).engq) (f.mb 0 4)) 0),
        (f.d.toNat + 1, groupWord (s.engWord cr.ctx (EngSel.ofWord (s.ctx cr.ctx).engq) (f.mb 0 4)) 1)] := by
  have he : exec (.engrd f) s = .next _ := s.waved_acts (.engrd f) [] q cr w _ h
  rw [hh] at he
  refine ⟨_, he, ?_⟩
  have hw := s.writesS_writeRegs q cr w [(f.d.toNat, groupWord (s.engWord cr.ctx (EngSel.ofWord (s.ctx cr.ctx).engq) (f.mb 0 4)) 0),
    (f.d.toNat + 1, groupWord (s.engWord cr.ctx (EngSel.ofWord (s.ctx cr.ctx).engq) (f.mb 0 4)) 1)] h.1.1 (by simp)
  simpa [wrGroup, groupWord] using hw

theorem engwr_handler (f : Fields) (s : State) (q : Cursor) (cr : Crew) (w : Wave) (hh : s.isHandler q cr = true)
    (h : IssuesWave s (.engwr f) [] q cr w) : exec (.engwr f) s =
      .next (s.engWrite cr.ctx (EngSel.ofWord (s.ctx cr.ctx).engq) (f.mb 0 4) (sVal w f.a.toNat 2) w.clauseAddr) := by
  have he : exec (.engwr f) s = .next _ := s.waved_acts (.engwr f) [] q cr w _ h
  rw [he, hh]
  rfl

theorem eret_handler (f : Fields) (s : State) (q : Cursor) (cr : Crew) (w : Wave) (hh : s.isHandler q cr = true)
    (h : IssuesWave s (.eret f) [] q cr w) : exec (.eret f) s =
      .next (((if (s.ctx cr.ctx).inHand = true then s.finishRecord cr.ctx (f.mb 0 2 == 1) else s).enterWait
        q.crew q.wave q.strand .record w.clauseAddr).deliverNext cr.ctx) := by
  have he : exec (.eret f) s = .next _ := s.waved_acts (.eret f) [] q cr w _ h
  rw [he, hh]
  rfl

/-- ENGRD, ENGWR, ERET and SYSW of a wave that is not its context's handler take the protection trap (R68, R116 to R118). -/
theorem handlerOnly_traps (f : Fields) (s : State) (q : Cursor) (cr : Crew) (w : Wave) (hh : s.isHandler q cr = false) :
    ∀ i ∈ [Instr.engrd f, .engwr f, .eret f, .sysw f], IssuesWave s i [] q cr w → exec i s = .next (s.trapHdr Cause.protection) := by
  intro i hi h
  simp only [List.mem_cons, List.not_mem_nil, or_false] at hi
  rcases hi with rfl | rfl | rfl | rfl
  · have he : exec (.engrd f) s = .next _ := s.waved_acts (.engrd f) [] q cr w _ h
    rw [he, hh]
    rfl
  · have he : exec (.engwr f) s = .next _ := s.waved_acts (.engwr f) [] q cr w _ h
    rw [he, hh]
    rfl
  · have he : exec (.eret f) s = .next _ := s.waved_acts (.eret f) [] q cr w _ h
    rw [he, hh]
    rfl
  · have he : exec (.sysw f) s = .next _ := s.waved_acts (.sysw f) [] q cr w _ h
    rw [he, hh]
    rfl

theorem sysr_traps (f : Fields) (s : State) (q : Cursor) (cr : Crew) (w : Wave) (hh : s.isHandler q cr = false)
    (hn : sregHandler f.num = true) (h : IssuesWave s (.sysr f) (vNamed f.kd f.d (if sreg64 f.num = true then 2 else 1)) q cr w) :
    exec (.sysr f) s = .next (s.trapHdr Cause.protection) := by
  have he : exec (.sysr f) s = .next _ := s.waved_acts (.sysr f) _ q cr w _ h
  rw [he, hh, hn]
  rfl

/-- Settles O37: each instruction by the lemma of its case, ERET by whether a record is in hand. -/
theorem taskAndHandlerInstructions : Obligations.TaskAndHandlerInstructions := by
  unfold Obligations.TaskAndHandlerInstructions
  refine ⟨⟨tend_acts, tabrt_acts⟩, fun f s q cr w => ⟨engrd_handler f s q cr w, engwr_handler f s q cr w, fun hh h hi => ?_, fun hh h hi => ?_,
    handlerOnly_traps f s q cr w, sysr_traps f s q cr w⟩⟩
  · rw [eret_handler f s q cr w hh h, hi]
    rfl
  · rw [eret_handler f s q cr w hh h, hi]
    rfl

end Sys2Proof.Machine
end

section
/-!
A task's commit, trap records on their way to the ring, the handler's designation, and the commands of the engine queue window (R115, R116,
R176, R177, R179).
-/

namespace Sys2Proof.Machine

open Sys2Proof Sys2Proof.Safety Host

/-! ## Commit -/

theorem taskCommit_next (s : State) (c tile : Nat) (cr : Crew) (kn : Kernel) (hc : s.crew? c = some cr) (hk : s.kernel? cr.kernel = some kn)
    (hm : s.canCommit c cr = true) (ht : cr.task = .versioned) (hl : cr.liveWaves ≠ []) (hw : kn.walk = false) :
    exec (.taskCommit c tile) s = .next (((s.commitVersion c).dropSegments c).nextTask c (cr.taskIdx + 1)) := by
  show execTaskCommit c tile s = _
  unfold execTaskCommit
  simp [hc, hk, hm, ht, hl, hw]

theorem taskCommit_waits (s : State) (c tile : Nat) (cr : Crew) (kn : Kernel) (hc : s.crew? c = some cr) (hk : s.kernel? cr.kernel = some kn)
    (hm : s.canCommit c cr = false) : exec (.taskCommit c tile) s = .next s := by
  show execTaskCommit c tile s = _
  unfold execTaskCommit
  simp only [hc, hk, hm, Bool.not_false, if_true, hold]

/-! ## What a write at a home in HBM leaves of contexts and cores -/

/-- What a write does to the queues that wait leaves of every context all but its queues. -/
theorem State.ctx_recheckQueues (s : State) (pa n x : Nat) : ∃ q, (s.recheckQueues pa n).ctx x = { s.ctx x with queues := q } := by
  unfold State.recheckQueues
  split
  · unfold State.ctx Tab.rd
    dsimp only
    rw [Tab.find?_mapV]
    cases s.ctxs.find? x with
    | none => exact ⟨Context.absent.queues, rfl⟩
    | some cx => exact ⟨_, rfl⟩
  · exact ⟨(s.ctx x).queues, rfl⟩

theorem State.ctx_commitFor (s : State) (g : Origin) (writer : Option Nat) (who : Option (Nat × Nat × Nat)) (pa : Nat) (bs : List Byte)
    (h : homeOf pa = .hbm) (x : Nat) : ∃ q, (s.commitFor g writer who pa bs).ctx x = { s.ctx x with queues := q } := by
  have hk : ∀ (l : List Nat) (u : State), (l.foldl (fun (s : State) n => s.invalidateSharers n writer) u).ctx x = u.ctx x :=
    fun l u => State.foldl_invalidateSharers_keeps (fun s => s.ctx x) (fun _ _ _ => rfl) l writer u
  unfold State.commitFor
  simp only [h]
  obtain ⟨q, hq⟩ := State.ctx_recheckQueues (((linesOf pa bs.length).foldl (fun (s : State) n => s.invalidateSharers n writer)
    { s with mem := s.mem.wrBytes pa bs }).clearOthers who pa bs.length) pa bs.length x
  exact ⟨q, hq.trans (congrArg (fun (cx : Context) => { cx with queues := q }) (hk _ _))⟩

/-- Of a core, a write at a home in HBM changes only what invalidations change. -/
theorem State.core_commitFor_keeps {β : Type} (f : Machine.Core → β) (hf : ∀ k line, f (k.invalidate line) = f k) (s : State) (g : Origin)
    (writer : Option Nat) (who : Option (Nat × Nat × Nat)) (pa : Nat) (bs : List Byte) (h : homeOf pa = .hbm) (d : Nat) :
    f ((s.commitFor g writer who pa bs).core d) = f (s.core d) := by
  have h1 : ∀ (u : State) (c line : Nat), f ((u.modCore c (fun k => k.invalidate line)).core d) = f (u.core d) := by
    intro u c line
    rw [State.core_modCore]
    split
    · rename_i hd
      rw [hf, hd]
    · rfl
  have h2 : ∀ (u : State) (line : Nat), f ((u.invalidateSharers line writer).core d) = f (u.core d) :=
    fun u line => foldl_keeps (fun v => f (v.core d)) _ (fun v c => h1 v c line) _ u
  unfold State.commitFor State.clearOthers
  simp only [h, State.core_recheckQueues, State.core_clearResv]
  exact foldl_keeps (fun v => f (v.core d)) _ (fun v x => h2 v x) _ _

/-- What does not stand in memory, cores, sharers, crews or contexts a write at a home in HBM leaves as it is. -/
theorem State.commitFor_keeps {β : Type} (f : State → β) (hf : ∀ (s : State) m k t c x,
      f { s with mem := m, cores := k, sharers := t, crews := c, ctxs := x } = f s) (s : State) (g : Origin)
    (writer : Option Nat) (who : Option (Nat × Nat × Nat)) (pa : Nat) (bs : List Byte) (h : homeOf pa = .hbm) :
    f (s.commitFor g writer who pa bs) = f s := by
  have hq : ∀ (u : State), f (u.recheckQueues pa bs.length) = f u := by
    intro u
    unfold State.recheckQueues
    split
    · exact hf u u.mem u.cores u.sharers u.crews _
    · rfl
  unfold State.commitFor State.clearOthers
  simp only [h, hq]
  refine (hf (linesOf pa bs.length |>.foldl (fun (s : State) l => s.invalidateSharers l writer) { s with mem := s.mem.wrBytes pa bs }) _ _ _ _ _).trans
    ((State.foldl_invalidateSharers_keeps f (fun u k t => hf u u.mem k t u.crews u.ctxs) _ writer _).trans ?_)
  exact hf s _ s.cores s.sharers s.crews s.ctxs

/-! ## A record and its slot -/

theorem State.recordSlot_free (s : State) (core : Nat) (r : TrapRec) (pa : Nat)
    (hfree : (s.ctx r.ctx).trapW - (s.ctx r.ctx).trapR < Config.trapSlots)
    (hfirst : ∀ k ∈ s.cores, ∀ q ∈ k.2.recs, q.ctx = r.ctx → r.opened ≤ q.opened)
    (hwalk : s.walkHeld (dieOf core) r.ctx (s.ctx r.ctx).trapSlot ⟨true, true, false⟩ = false)
    (hpa : s.translate (dieOf core) r.ctx (s.ctx r.ctx).trapSlot ⟨true, true, false⟩ = .ok pa) (hown : s.unowned pa 32 = true) :
    s.recordSlot core r = some pa := by
  have hany : (s.cores.any fun k => k.2.recs.any fun q => q.ctx == r.ctx && decide (q.opened < r.opened)) = false := by
    rw [List.any_eq_false]
    exact fun k hk hq => by
      obtain ⟨q, hq, hx, hlt⟩ := by simpa using hq
      exact absurd (hfirst k hk q hq hx) (Nat.not_le.2 hlt)
  unfold State.recordSlot
  dsimp only
  rw [if_neg (Nat.not_le.2 hfree), hany, hwalk, hpa]
  simp only [Bool.false_eq_true, if_false, hown, if_true]

/-- A record's bytes are in its slot, and its core has taken up the traps it held (R175, R176). -/
def State.slotWritten (s : State) (core : Nat) (r : TrapRec) (pa : Nat) : State :=
  { (s.dropLacking (dieOf core) r.ctx (s.ctx r.ctx).trapSlot ⟨true, true, false⟩).ctxWrite r.ctx (s.ctx r.ctx).epoch pa (leBytes 32 r.toNat) with
    next := s.next + (s.core core).heldTraps.length }.modCore core
      (fun k => Machine.Core.refill { k with recs := k.recs.filter (fun q => q ≠ r) } s.next)

/-- A context in whose ring a record has joined the last, at the slot that was the next. -/
def Context.ringed (cx : Context) (slot : Nat) (r : TrapRec) : Context :=
  { cx with trapW := cx.trapW + 1, trapRecs := cx.trapRecs ++ [(slot, r, true)] }

/-- Where no handler is named the host is told of a record (R176). -/
theorem State.deliver_host (s : State) (core : Nat) (r : TrapRec) (pa : Nat) (h : (s.ctx r.ctx).handler = none) :
    s.deliver core r pa =
      ((s.slotWritten core r pa).modCtx r.ctx (fun cx => cx.ringed (s.ctx r.ctx).trapSlot r)).event 4 0x43 r.ctx (s.ctx r.ctx).trapSlot := by
  unfold State.deliver
  simp only [h, Option.isNone_none, Bool.true_or, if_true]
  rfl

/-- A core that holds no trap refills nothing. -/
theorem Core.refill_none (k : Machine.Core) (n : Nat) (h : k.heldTraps = []) : k.refill n = k := by
  obtain ⟨⟩ := k
  dsimp only at h
  subst h
  simp [Machine.Core.refill]

section
variable (s : State) (core : Nat) (r : TrapRec) (pa : Nat) (h : homeOf pa = .hbm)
include h

theorem State.mem_slotWritten : (s.slotWritten core r pa).mem = s.mem.wrBytes pa (leBytes 32 r.toNat) := by
  unfold State.slotWritten State.ctxWrite
  rw [State.mem_modCore]
  exact State.mem_commitFor _ _ _ _ _ _ h

theorem State.ctx_slotWritten (x : Nat) : ∃ q, (s.slotWritten core r pa).ctx x = { s.ctx x with queues := q } :=
  State.ctx_commitFor (s.dropLacking (dieOf core) r.ctx (s.ctx r.ctx).trapSlot ⟨true, true, false⟩) _ none none pa _ h x

theorem State.events_slotWritten : (s.slotWritten core r pa).events = s.events ∧ (s.slotWritten core r pa).tabor = s.tabor :=
  ⟨State.commitFor_keeps State.events (fun _ _ _ _ _ _ => rfl) _ _ none none pa _ h,
    State.commitFor_keeps State.tabor (fun _ _ _ _ _ _ => rfl) _ _ none none pa _ h⟩

theorem State.recs_slotWritten (hh : (s.core core).heldTraps = []) :
    ((s.slotWritten core r pa).core core).recs = (s.core core).recs.filter (fun q => q ≠ r) := by
  unfold State.slotWritten
  rw [State.core_modCore, if_pos rfl, Core.refill_none]
  · dsimp only
    exact congrArg (List.filter fun q => decide (q ≠ r))
      (State.core_commitFor_keeps Machine.Core.recs (fun _ _ => rfl) (s.dropLacking _ _ _ _) _ none none pa _ h core)
  · exact (State.core_commitFor_keeps Machine.Core.heldTraps (fun _ _ => rfl) (s.dropLacking _ _ _ _) _ none none pa _ h core).trans hh

end

/-- A record that has a slot is written there, and the host is told where the context has no handler (R176). -/
theorem trapRecordDelivery_host (s : State) (core : Nat) (r : TrapRec) (pa : Nat)
    (hr : (s.core core).recs.find? (fun r => (s.recordSlot core r).isSome) = some r) (hs : s.recordSlot core r = some pa)
    (h : homeOf pa = .hbm) (hh : (s.ctx r.ctx).handler = none) :
    let a := (s.ctx r.ctx).trapSlot
    ∃ t, exec (.trapRecordDelivery core) s = .next t ∧
      (∀ b, t.mem.rd 0 b = if pa ≤ b ∧ b < pa + 32 then (leBytes 32 r.toNat).getD (b - pa) 0 else s.mem.rd 0 b) ∧
      (t.ctx r.ctx).trapW = (s.ctx r.ctx).trapW + 1 ∧ (t.ctx r.ctx).trapRecs = (s.ctx r.ctx).trapRecs ++ [(a, r, true)] ∧
      t.events = s.events ++ [⟨s.tabor.toNat, a, r.ctx, 0x43, 4⟩] ∧
      ((s.core core).heldTraps = [] → (t.core core).recs = (s.core core).recs.filter (fun q => q ≠ r)) := by
  intro a
  let u := s.slotWritten core r pa
  let t := (u.modCtx r.ctx (fun cx => cx.ringed a r)).event 4 0x43 r.ctx a
  have ht : exec (.trapRecordDelivery core) s = .next t := by
    show execTrapRecordDelivery core s = _
    unfold execTrapRecordDelivery
    simp only [hr, hs, s.deliver_host core r pa hh]
    rfl
  obtain ⟨q, hq⟩ := s.ctx_slotWritten core r pa h r.ctx
  have hx : t.ctx r.ctx = ({ s.ctx r.ctx with queues := q } : Context).ringed a r :=
    (State.ctx_modCtx_self u r.ctx (fun cx => cx.ringed a r)).trans (congrArg (fun cx => cx.ringed a r) hq)
  obtain ⟨hev, htab⟩ := s.events_slotWritten core r pa h
  refine ⟨t, ht, fun b => ?_, by rw [hx]; rfl, by rw [hx]; rfl, ?_, fun hn => s.recs_slotWritten core r pa h hn⟩
  · show u.mem.rd 0 b = _
    rw [s.mem_slotWritten core r pa h, Tab.rd_wrBytes, length_leBytes]
  · show u.events ++ [⟨u.tabor.toNat, a, r.ctx, 0x43, 4⟩] = _
    rw [hev, htab]

theorem hostTrapFinish_told (s : State) (x a : Nat) (r : TrapRec) (rest : List (Nat × TrapRec × Bool)) (kill : Bool)
    (h : (s.ctx x).trapRecs = (a, r, true) :: rest) (hr : s.recovering = false) :
    exec (.hostTrapFinish x kill) s = .next ((s.finishRecord x kill).deliverNext x) := by
  show execHostTrapFinish x kill s = _
  unfold execHostTrapFinish
  simp only [h, hr, Bool.false_eq_true, if_false]

/-! ## The handler -/

theorem trapHandlerDesignation_acts (s : State) (x c w : Nat) (cr : Crew) (wv : Wave) (k : Nat) (hc : s.crew? c = some cr)
    (hw : s.wave? c w = some wv) (hk : wv.running = some k) (hh : (s.ctx x).handler = none) (hr : s.recovering = false) (hx : cr.ctx = x)
    (hl : wv.live = true) (hm : wv.lanes ≠ 0) (hn : wv.clause = none)
    (hi : (wv.strands.all (fun e => match e.2.st with | .waiting _ => false | .stopped => false | _ => true)) = true) :
    exec (.trapHandlerDesignation x c w) s =
      .next (((s.modCtx x (fun cx => { cx with handler := some (c, w), handlerName := none, inHand := false })).enterWait c w k .record (wv.strand k).pc).deliverNext x) := by
  have hgo : (!s.recovering && (s.ctx x).handler.isNone && cr.ctx == x && wv.live && wv.lanes != 0 && wv.clause.isNone &&
      wv.strands.all (fun e => match e.2.st with | .waiting _ => false | .stopped => false | _ => true)) = true := by
    rw [hi, bne_iff_ne.2 hm, hh, beq_iff_eq.2 hx, hl, hn, hr]
    rfl
  show execTrapHandlerDesignation x c w s = _
  unfold execTrapHandlerDesignation
  simp only [hc, hw, hk]
  exact if_pos hgo

/-! ## The engine queue window -/

theorem engqCommands (s : State) (x : Nat) (sel : Word) (o : Nat) (op : Op) (v : Nat) (h : s.engOp x (EngSel.ofWord sel) = some (o, op)) :
    exec (.engqCancel x sel) s = .next (s.engCancel o op) ∧
    (∀ o2 op2, (s.engOffset x (EngSel.ofWord sel) v).engOp x (EngSel.ofWord sel) = some (o2, op2) →
      ∀ wv, s.engWave x (EngSel.ofWord sel) = some wv → ∀ d : Dword, d.toNat = v →
      exec (.engqResume x sel d) s = .next ((s.engOffset x (EngSel.ofWord sel) v).engResume o2 op2)) := by
  refine ⟨?_, fun o2 op2 h2 wv hw d hd => ?_⟩
  · show execEngqCancel x sel s = _
    unfold execEngqCancel
    rw [h]
  · show execEngqResume x sel d s = _
    unfold execEngqResume
    simp only [hd, hw, h2]

theorem engqRebuild_empty (s : State) (x : Nat) (sel : Word) (d : Dword) (wv : Nat × Crew × Nat)
    (hw : s.engWave x (EngSel.ofWord sel) = some wv) (h : s.engOp x (EngSel.ofWord sel) = none) : exec (.engqRebuild x sel d) s =
      .next ((s.engOffset x (EngSel.ofWord sel) d.toNat).engRebuild x (EngSel.ofWord sel) d.toNat 0) := by
  show execEngqRebuild x sel d s = _
  unfold execEngqRebuild
  simp only [hw, h]

/-- Settles O47: each event by the lemma of its case. -/
theorem taskAndTrapEvents : Obligations.TaskAndTrapEvents := by
  unfold Obligations.TaskAndTrapEvents
  exact ⟨taskCommit_next, taskCommit_waits, hostTrapFinish_told, fun s core r pa hf ho _ hw hp hu => s.recordSlot_free core r pa hf ho hw hp hu,
    trapRecordDelivery_host, trapHandlerDesignation_acts, engqCommands, engqRebuild_empty⟩

end Sys2Proof.Machine
end

section
/-!
Requests on contexts (R103 to R105, R384): which state accepts which request, what the request makes of the context, and what a destroy
leaves.
-/

namespace Sys2Proof.Machine

open Sys2Proof Sys2Proof.Safety Host

/-! ## Requests that are accepted -/

/-- A request that is accepted and changes one context. -/
theorem granted_modCtx {i : Instr} {s : State} {x : Nat} {f : Context → Context} (h : exec i s = (s.modCtx x f).granted) :
    ∃ t, exec i s = .next t ∧ OnlyCtx { s with status := 0 } t x ∧ t.ctx x = f (s.ctx x) := by
  refine ⟨_, h, ⟨rfl, fun _ => rfl, fun y hy => ?_⟩, State.ctx_modCtx_self s x f⟩
  exact (State.ctx_modCtx s x y f).trans (if_neg hy)

section
variable (s : State) (x : Nat) (hr : s.recovering = false)
include hr

theorem contextCreate_accepted (root base size ring fn : Nat) (hs : (s.ctx x).st = .absent) (hx : x < 1024) (hb : base % 256 = 0)
    (hz : size % 256 = 0) (hf : fn ≤ 63) : ∃ t, exec (.contextCreate x root base size ring fn) s = .next t ∧
      OnlyCtx { s with status := 0 } t x ∧ t.ctx x = { Context.absent with
        st := .created, root := root, saveBase := base, saveSize := size, trapRing := ring, fn := fn } := by
  have hgo : ((s.ctx x).st != .absent || decide (1024 ≤ x) || base % 256 != 0 || size % 256 != 0 ||
      decide (Config.virtualFunctions < fn)) = false := by
    have hf : decide (Config.virtualFunctions < fn) = false := decide_eq_false (Nat.not_lt.2 hf)
    rw [hs, hb, hz, decide_eq_false (Nat.not_le.2 hx), hf]
    rfl
  refine granted_modCtx (f := fun _ => { Context.absent with
    st := .created, root := root, saveBase := base, saveSize := size, trapRing := ring, fn := fn }) ?_
  show execContextCreate x root base size ring fn s = _
  unfold execContextCreate
  rw [hr, hgo]
  rfl

theorem contextCreate_refused (root base size ring fn : Nat)
    (h : (s.ctx x).st ≠ .absent ∨ 1024 ≤ x ∨ 63 < fn ∨ base % 256 ≠ 0 ∨ size % 256 ≠ 0) :
    exec (.contextCreate x root base size ring fn) s = .next { s with status := 1 } := by
  have hno : ((s.ctx x).st != .absent || decide (1024 ≤ x) || base % 256 != 0 || size % 256 != 0 ||
      decide (Config.virtualFunctions < fn)) = true := by
    simp only [Bool.or_eq_true, bne_iff_ne, decide_eq_true_eq]
    rcases h with h | h | h | h | h
    · exact .inl (.inl (.inl (.inl h)))
    · exact .inl (.inl (.inl (.inr h)))
    · exact .inr h
    · exact .inl (.inl (.inr h))
    · exact .inl (.inr h)
  show execContextCreate x root base size ring fn s = _
  unfold execContextCreate
  rw [hr, hno]
  rfl

theorem contextLoad_accepted (images : List Nat) (handler : Option (Nat × Nat × Nat)) (h : (s.ctx x).st = .created ∨ (s.ctx x).st = .loaded) :
    ∃ t, exec (.contextLoad x ⟨images, handler⟩) s = .next t ∧ OnlyCtx { s with status := 0 } t x ∧ t.ctx x = { s.ctx x with
      st := .loaded, images := distinct ((s.ctx x).images ++ images)
      handlerName := if handler = none then (s.ctx x).handlerName else handler } := by
  refine granted_modCtx (f := fun cx => { cx with
    st := .loaded, images := distinct (cx.images ++ images), handlerName := if handler = none then cx.handlerName else handler }) ?_
  show execContextLoad x ⟨images, handler⟩ s = _
  unfold execContextLoad
  rw [hr]
  cases handler <;> rcases h with h | h <;> rw [h] <;> rfl

theorem contextLoad_refused (images : List Nat) (handler : Option (Nat × Nat × Nat)) (h1 : (s.ctx x).st ≠ .created)
    (h2 : (s.ctx x).st ≠ .loaded) : exec (.contextLoad x ⟨images, handler⟩) s = .next { s with status := 1 } := by
  show execContextLoad x ⟨images, handler⟩ s = _
  unfold execContextLoad
  rw [hr]
  split
  · contradiction
  · split
    · contradiction
    · contradiction
    · rfl

theorem contextAdmit_accepted (h : (s.ctx x).st = .loaded ∨ (s.ctx x).st = .saved) (hd : (s.ctx x).destroyHeld = false) :
    ∃ t, exec (.contextAdmit x) s = .next t ∧ OnlyCtx { s with status := 0 } t x ∧ t.ctx x = { s.ctx x with st := .runnable } := by
  refine granted_modCtx (f := fun cx => { cx with st := .runnable }) ?_
  show execContextAdmit x s = _
  unfold execContextAdmit
  rw [hr, hd]
  rcases h with h | h <;> rw [h] <;> rfl

theorem contextAdmit_refused (h1 : (s.ctx x).st ≠ .loaded) (h2 : (s.ctx x).st ≠ .saved) :
    exec (.contextAdmit x) s = .next { s with status := 1 } := by
  show execContextAdmit x s = _
  unfold execContextAdmit
  rw [hr]
  split
  · contradiction
  · split
    · contradiction
    · contradiction
    · rfl

theorem contextDestroy_held (frames : List Nat)
    (h : (s.ctx x).st = .running ∨ (s.ctx x).st = .frozen ∨ (s.ctx x).st = .restoring) : ∃ t, exec (.contextDestroy x frames) s = .next t ∧
      OnlyCtx { s with status := 0 } t x ∧ t.ctx x = { s.ctx x with destroyHeld := true, frames := frames } := by
  refine granted_modCtx (f := fun cx => { cx with destroyHeld := true, frames := frames }) ?_
  show execContextDestroy x frames s = _
  unfold execContextDestroy
  rw [hr]
  rcases h with h | h | h <;> rw [h] <;> rfl

theorem exec_contextDestroy (frames : List Nat) (h : (s.ctx x).st = .created ∨ (s.ctx x).st = .loaded ∨ (s.ctx x).st = .runnable ∨
    (s.ctx x).st = .saved ∨ (s.ctx x).st = .lost) : exec (.contextDestroy x frames) s = .next { s.destroy x frames with status := 0 } := by
  show execContextDestroy x frames s = _
  unfold execContextDestroy
  rw [hr]
  rcases h with h | h | h | h | h <;> rw [h] <;> rfl

theorem contextDestroy_refused (frames : List Nat) (h : (s.ctx x).st = .absent ∨ (s.ctx x).st = .destroyed) :
    exec (.contextDestroy x frames) s = .next { s with status := 1 } := by
  show execContextDestroy x frames s = _
  unfold execContextDestroy
  rw [hr]
  rcases h with h | h <;> rw [h] <;> rfl

theorem exec_declareLost : exec (.declareLost x) s =
    .next (if (s.ctx x).st.live = true then { s.loseContext x with status := 0 } else { s with status := 1 }) := by
  show execDeclareLost x s = _
  unfold execDeclareLost
  rw [hr]
  exact (apply_ite Outcome.next _ _ _).symm

theorem vacate_refused (cores : List Nat) (h : (s.ctx x).st ≠ .running) : exec (.vacate x cores) s = .next { s with status := 1 } := by
  show execVacate x cores s = _
  unfold execVacate
  rw [hr, bne_iff_ne.2 h]
  rfl

theorem contextRestore_refused (h : (s.ctx x).st ≠ .saved) : exec (.contextRestore x) s = .next { s with status := 1 } := by
  show execContextRestore x s = _
  unfold execContextRestore
  simp only [hr, bne_iff_ne.2 h, Bool.true_or, Bool.false_eq_true, if_false, if_true]
  rfl

end

/-- In recovery no request on a context is served (R384). -/
theorem requests_recovering (s : State) (x : Nat) (hr : s.recovering = true) : ∀ i ∈ [Instr.contextCreate x 0 0 0 0 0,
    .contextLoad x ⟨[], none⟩, .contextAdmit x, .declareLost x, .contextDestroy x [], .vacate x [], .contextRestore x],
    exec i s = .next s := by
  intro i hi
  simp only [List.mem_cons, List.not_mem_nil, or_false] at hi
  rcases hi with rfl | rfl | rfl | rfl | rfl | rfl | rfl <;> exact if_pos hr

/-! ## What a destroy leaves -/

/-- What does not stand in operations, cores or owned lines is as before when an operation goes. -/
theorem State.dropOp_keeps {β : Type} (g : State → β) (h : ∀ (s : State) o c w, g { s with ops := o, cores := c, owners := w } = g s)
    (s : State) (o : Nat) : g (s.dropOp o) = g s := by
  unfold State.dropOp
  split
  · rfl
  · dsimp only
    split
    · exact h s _ s.cores _
    · split
      · exact h s _ _ _
      · exact h s _ _ _

/-- A context whose save images have all been given up and which is destroyed. -/
def Context.destroyed (cx : Context) : Context :=
  { cx with st := .destroyed, saves := [], destroyHeld := false, frames := [], queues := [], handler := none, inHand := false }

/-- The machine with a context destroyed, before its frames are released (R104). -/
def State.destroyedCtx (s : State) (x : Nat) : State :=
  { s.dropImages x (fun _ => true) with
    kernels := (s.dropImages x (fun _ => true)).kernels.filter (fun e => e.2.ctx != x)
    replays := (s.dropImages x (fun _ => true)).replays.filter (fun e => e.2.ctx != x) }.modCtx x (fun cx => { cx with
      st := .destroyed, destroyHeld := false, frames := [], queues := [], handler := none, inHand := false })

theorem State.destroy_eq (s : State) (x : Nat) (frames : List Nat) :
    s.destroy x frames = frames.foldl (fun (s : State) f => s.releaseFrame x f) (s.destroyedCtx x) := rfl

theorem State.ctx_foldl_dropOp (s : State) (l : List Nat) (y : Nat) : (l.foldl State.dropOp s).ctx y = s.ctx y :=
  foldl_keeps (fun u => u.ctx y) State.dropOp (fun u o => State.dropOp_keeps (fun v => v.ctx y) (fun _ _ _ _ => rfl) u o) l s

/-- Frames that wait for the quarantine are as before when save images are given up. -/
theorem State.pools_dropImages (s : State) (x : Nat) (p : Image → Bool) :
    (s.dropImages x p).poolQ = s.poolQ ∧ (s.dropImages x p).poolWait = s.poolWait :=
  ⟨foldl_keeps State.poolQ State.dropOp (fun u o => State.dropOp_keeps State.poolQ (fun _ _ _ _ => rfl) u o) _ s,
    foldl_keeps State.poolWait State.dropOp (fun u o => State.dropOp_keeps State.poolWait (fun _ _ _ _ => rfl) u o) _ s⟩

theorem State.ctx_dropImages (s : State) (x : Nat) (p : Image → Bool) (y : Nat) : (s.dropImages x p).ctx y =
    if y = x then { s.ctx x with
      saves := (s.ctx x).saves.filter (fun i => !p i)
      st := if (s.ctx x).st == .saved && ((s.ctx x).saves.filter (fun i => !p i)).isEmpty then .runnable else (s.ctx x).st } else s.ctx y := by
  unfold State.dropImages
  rw [State.ctx_modCtx]
  simp only [State.ctx_foldl_dropOp]

theorem State.ctx_destroyedCtx (s : State) (x y : Nat) :
    (s.destroyedCtx x).ctx y = if y = x then (s.ctx x).destroyed else s.ctx y := by
  have hx := s.ctx_dropImages x (fun _ => true) x
  have hy := s.ctx_dropImages x (fun _ => true) y
  rw [if_pos rfl] at hx
  unfold State.destroyedCtx
  rw [State.ctx_modCtx]
  split
  · rename_i h
    refine (congrArg (fun cx : Context => { cx with
      st := CtxState.destroyed, destroyHeld := false, frames := [], queues := [], handler := none, inHand := false }) hx).trans ?_
    simp [Context.destroyed]
  · rename_i h
    rw [if_neg h] at hy
    exact hy

theorem State.pools_destroyedCtx (s : State) (x : Nat) : (s.destroyedCtx x).poolQ = s.poolQ ∧ (s.destroyedCtx x).poolWait = s.poolWait :=
  s.pools_dropImages x (fun _ => true)

/-- A release of a frame changes the quarantine of its context, and frames of pool pages that wait for it. -/
theorem State.releaseFrame_keeps {β : Type} (g : State → β) (x : Nat) (h : ∀ (s : State) p q, g { s with poolQ := p, poolWait := q } = g s)
    (hc : ∀ (s : State) (f : Context → Context), (∀ cx, ∃ q r, f cx = { cx with quarantine := q, releases := r }) → g (s.modCtx x f) = g s) (s : State) (frame : Nat) :
    g (s.releaseFrame x frame) = g s := by
  unfold State.releaseFrame State.settleQuarantine State.settlePool
  exact (hc _ _ (fun _ => ⟨_, _, rfl⟩)).trans ((h _ _ _).trans (hc s _ (fun _ => ⟨_, _, rfl⟩)))

theorem State.destroy_keeps {β : Type} (g : State → β) (x : Nat) (h : ∀ (s : State) p q, g { s with poolQ := p, poolWait := q } = g s)
    (hc : ∀ (s : State) (f : Context → Context), (∀ cx, ∃ q r, f cx = { cx with quarantine := q, releases := r }) → g (s.modCtx x f) = g s) (s : State)
    (frames : List Nat) : g (s.destroy x frames) = g (s.destroyedCtx x) := by
  rw [State.destroy_eq]
  exact foldl_keeps g _ (fun u f => State.releaseFrame_keeps g x h hc u f) frames _

theorem State.ctx_destroy_other (s : State) (x y : Nat) (frames : List Nat) (hy : y ≠ x) : (s.destroy x frames).ctx y = s.ctx y := by
  refine (State.destroy_keeps (fun u => u.ctx y) x (fun _ _ _ => rfl) (fun u f _ => ?_) s frames).trans ?_
  · exact (State.ctx_modCtx u x y _).trans (if_neg hy)
  · exact (s.ctx_destroyedCtx x y).trans (if_neg hy)

/-- A destroyed context has no queues and no destroy to come. -/
theorem State.ctx_destroy_self (s : State) (x : Nat) (frames : List Nat) : ((s.destroy x frames).ctx x).st = .destroyed ∧
    ((s.destroy x frames).ctx x).destroyHeld = false ∧ ((s.destroy x frames).ctx x).queues = [] := by
  have h := State.destroy_keeps (fun u => ((u.ctx x).st, (u.ctx x).destroyHeld, (u.ctx x).queues)) x (fun _ _ _ => rfl)
    (fun u f hf => by
      obtain ⟨q, r, h⟩ := hf (u.ctx x)
      simp only [State.ctx_modCtx_self, h]) s frames
  simp only [State.ctx_destroyedCtx, if_true, Context.destroyed, Prod.mk.injEq] at h
  exact h

theorem State.kernel?_destroy (s : State) (x : Nat) (frames : List Nat) (k : Nat) (kn : Kernel)
    (h : (s.destroy x frames).kernel? k = some kn) : kn.ctx ≠ x := by
  have hk : (s.destroy x frames).kernels = (s.dropImages x (fun _ => true)).kernels.filter (fun e => e.2.ctx != x) :=
    State.destroy_keeps State.kernels x (fun _ _ _ => rfl) (fun _ _ _ => rfl) s frames
  unfold State.kernel? at h
  rw [hk] at h
  exact bne_iff_ne.1 (List.mem_filter.1 (Tab.mem_of_find? h)).2

/-- The one frame of a destroyed context enters its quarantine with the current epoch, where nothing waits and there is room (R101). -/
theorem State.quarantine_destroy_one (s : State) (x f : Nat) (hn : (s.ctx x).releases = []) (hp : NoPoolWait s x)
    (hq : s.quarantined x < quarantineSize) :
    ((s.destroy x [f]).ctx x).quarantine = (s.ctx x).quarantine ++ [(f, (s.ctx x).epoch)] := by
  have hd : (s.destroyedCtx x).ctx x = (s.ctx x).destroyed := (s.ctx_destroyedCtx x x).trans (if_pos rfl)
  let u := (s.destroyedCtx x).modCtx x (fun cx => { cx with releases := cx.releases ++ [f] })
  have hu : u.ctx x = { (s.ctx x).destroyed with releases := [f] } := by
    show ((s.destroyedCtx x).modCtx x _).ctx x = _
    rw [State.ctx_modCtx_self, hd]
    exact congrArg (fun l => { (s.ctx x).destroyed with releases := l }) (congrArg (· ++ [f]) hn)
  obtain ⟨hpq, hpw⟩ := s.pools_destroyedCtx x
  have hlen : u.quarantined x = s.quarantined x := by
    unfold State.quarantined
    rw [hu]
    show (s.ctx x).quarantine.length + ((s.destroyedCtx x).poolQ.filter _).length = _
    rw [hpq]
  have hpu : NoPoolWait u x := by
    show ∀ e ∈ (s.destroyedCtx x).poolWait, _
    rw [hpw]
    exact hp
  show ((u.settleQuarantine x).ctx x).quarantine = _
  rw [u.settleQuarantine_eq x hpu, State.ctx_modCtx_self, hu, hlen, Context.settled_one (s.ctx x).destroyed _ f hn, if_pos (Nat.sub_pos_iff_lt.2 hq)]
  rfl

theorem contextDestroy_performed (s : State) (x : Nat) (hr : s.recovering = false) (frames : List Nat)
    (h : (s.ctx x).st = .created ∨ (s.ctx x).st = .loaded ∨ (s.ctx x).st = .runnable ∨ (s.ctx x).st = .saved ∨ (s.ctx x).st = .lost) :
    ∃ t, exec (.contextDestroy x frames) s = .next t ∧ t = { s.destroy x frames with status := 0 } ∧ SameMemory s t ∧
      (t.ctx x).st = .destroyed ∧ (t.ctx x).destroyHeld = false ∧ (t.ctx x).queues = [] ∧ (∀ k kn, t.kernel? k = some kn → kn.ctx ≠ x) ∧
      (∀ y, y ≠ x → t.ctx y = s.ctx y) ∧
      (frames = [] → (t.ctx x).quarantine = (s.ctx x).quarantine) ∧
      (∀ f, frames = [f] → (s.ctx x).releases = [] → (∀ e ∈ s.poolWait, e.2.2 ≠ x) → s.quarantined x < quarantineSize →
        (t.ctx x).quarantine = (s.ctx x).quarantine ++ [(f, (s.ctx x).epoch)]) := by
  obtain ⟨hst, hheld, hqueues⟩ := s.ctx_destroy_self x frames
  refine ⟨_, exec_contextDestroy s x hr frames h, rfl, fun a => ?_, hst, hheld, hqueues, s.kernel?_destroy x frames,
    fun y hy => s.ctx_destroy_other x y frames hy, ?_, ?_⟩
  · exact congrArg (Tab.rd 0 · a) (s.mem_destroy x frames)
  · rintro rfl
    show ((s.destroyedCtx x).ctx x).quarantine = _
    rw [State.ctx_destroyedCtx, if_pos rfl]
    rfl
  · rintro f rfl hn hp hq
    exact s.quarantine_destroy_one x f hn hp hq

theorem quarantineRetired_frees (s : State) (x : Nat) (hs : (s.ctx x).st = .destroyed) (hq : (s.ctx x).quarantine = [])
    (hn : (s.ctx x).releases = []) (hp : ∀ e ∈ s.poolQ, e.2.2.1 ≠ x) (hw : ∀ e ∈ s.poolWait, e.2.2 ≠ x) :
    exec (.quarantineRetired x) s = .next { s with ctxs := s.ctxs.del x } := by
  have hpq : s.poolQ.any (fun e => e.2.2.1 == x) = false := by
    rw [List.any_eq_false]
    exact fun e he => by simpa using hp e he
  have hpw : s.poolWait.any (fun e => e.2.2 == x) = false := by
    rw [List.any_eq_false]
    exact fun e he => by simpa using hw e he
  show execQuarantineRetired x s = _
  unfold execQuarantineRetired
  dsimp only
  rw [hs, hq, hn, hpq, hpw]
  rfl

/-- Settles O48: each request by the lemma of the states that accept or refuse it. -/
theorem contextRequests : Obligations.ContextRequests := by
  unfold Obligations.ContextRequests
  intro s x
  refine ⟨requests_recovering s x, fun hr => ⟨contextCreate_accepted s x hr, contextCreate_refused s x hr, contextLoad_accepted s x hr,
    contextLoad_refused s x hr, contextAdmit_accepted s x hr, contextAdmit_refused s x hr, contextDestroy_held s x hr,
    contextDestroy_performed s x hr, contextDestroy_refused s x hr, fun hl => ?_, fun hl => ?_, fun h cores => vacate_refused s x hr cores h,
    contextRestore_refused s x hr⟩, quarantineRetired_frees s x⟩
  · rw [exec_declareLost s x hr, hl]
    rfl
  · rw [exec_declareLost s x hr, hl]
    rfl

end Sys2Proof.Machine
end

section
/-!
What stopping a crew's operations and removing it from its core leave of crews and kernels, and its return to its owner's list (R106, R130,
R167).
-/

namespace Sys2Proof.Machine

open Sys2Proof Sys2Proof.Safety Host

/-- Kernels are as before, and every crew is one that was there before, of the same kernel. -/
structure CrewsOf (s t : State) : Prop where
  /-- Kernels. -/
  kernels : t.kernels = s.kernels
  /-- Crews. -/
  crews : ∀ e ∈ t.crews, ∃ cr, (e.1, cr) ∈ s.crews ∧ cr.kernel = e.2.kernel

/-- States with one table of crews and one of kernels. -/
theorem CrewsOf.of_eq {s t : State} (hc : t.crews = s.crews) (hk : t.kernels = s.kernels) : CrewsOf s t :=
  ⟨hk, fun e he => ⟨e.2, hc ▸ he, rfl⟩⟩

theorem CrewsOf.refl (s : State) : CrewsOf s s := .of_eq rfl rfl

theorem CrewsOf.trans {s t u : State} (h : CrewsOf s t) (g : CrewsOf t u) : CrewsOf s u where
  kernels := g.kernels.trans h.kernels
  crews e he := by
    obtain ⟨cr, hcr, hk⟩ := g.crews e he
    obtain ⟨x, hx, hkx⟩ := h.crews _ hcr
    exact ⟨x, hx, hkx.trans hk⟩

theorem CrewsOf.foldl {α : Type} (f : State → α → State) (h : ∀ s a, CrewsOf s (f s a)) (l : List α) (s : State) : CrewsOf s (l.foldl f s) := by
  induction l generalizing s with
  | nil => exact .refl s
  | cons a l ih => exact (h s a).trans (ih (f s a))

theorem CrewsOf.modCrew (s : State) (c : Nat) (f : Crew → Crew) (hf : ∀ cr, (f cr).kernel = cr.kernel) : CrewsOf s (s.modCrew c f) where
  kernels := rfl
  crews e he := by
    replace he : e ∈ s.crews.modify c f := he
    unfold Tab.modify at he
    split at he
    · exact ⟨e.2, he, rfl⟩
    · rename_i cr hcr
      rcases Tab.mem_put _ _ _ _ he with rfl | he
      · exact ⟨cr, Tab.mem_of_find? hcr, (hf cr).symm⟩
      · exact ⟨e.2, he, rfl⟩

theorem CrewsOf.modWave (s : State) (c w : Nat) (f : Wave → Wave) : CrewsOf s (s.modWave c w f) :=
  CrewsOf.modCrew s c _ (fun _ => rfl)

/-! ## What stopping an operation leaves -/

theorem State.crewsOf_dropOp (s : State) (o : Nat) : CrewsOf s (s.dropOp o) :=
  .of_eq (State.dropOp_keeps State.crews (fun _ _ _ _ => rfl) s o) (State.dropOp_keeps State.kernels (fun _ _ _ _ => rfl) s o)

theorem State.crewsOf_future (s : State) (o code : Nat) : CrewsOf s (s.future o code) where
  kernels := rfl
  crews e he := by
    rw [State.crews_future] at he
    obtain ⟨x, hx, rfl⟩ := List.mem_map.1 he
    exact ⟨x.2, hx, rfl⟩

theorem State.crewsOf_flagDown (s : State) (op : Op) : CrewsOf s (s.flagDown op) := by
  unfold State.flagDown
  split
  · exact .refl s
  · split
    · exact .refl s
    · exact .modWave s _ _ _

theorem State.crewsOf_endOp (s : State) (o code : Nat) : CrewsOf s (s.endOp o code) := by
  unfold State.endOp
  split
  · exact .refl s
  · exact ((s.crewsOf_future o code).trans (State.crewsOf_flagDown _ _)).trans (State.crewsOf_dropOp _ o)

theorem State.crewsOf_breakObject (s : State) (c a : Nat) : CrewsOf s (s.breakObject c a) := by
  unfold State.breakObject
  split
  · exact .refl s
  · dsimp only
    split
    · exact .modCrew s c _ (fun _ => rfl)
    · exact .refl s

theorem State.crewsOf_endRequest (s : State) (o : Nat) (op : Op) (status detail : Nat) : CrewsOf s (s.endRequest o op status detail) :=
  (CrewsOf.of_eq rfl rfl : CrewsOf s (s.modCtx op.ctx _)).trans (State.crewsOf_dropOp _ o)

/-- What the stop of a task does to one of its operations (R167). -/
theorem State.crewsOf_stopOp (s : State) (o : Nat) (op : Op) (irr : Bool) : CrewsOf s (s.stopOp o op irr) := by
  unfold State.stopOp
  split
  · split
    · exact (s.crewsOf_breakObject _ _).trans (State.crewsOf_endOp _ o 4)
    · exact s.crewsOf_endOp o 4
  · split
    · exact .of_eq rfl rfl
    · exact s.crewsOf_dropOp o
  · split
    · exact (s.crewsOf_flagDown op).trans (State.crewsOf_dropOp _ o)
    · exact .of_eq rfl rfl
  · exact (s.crewsOf_flagDown op).trans (State.crewsOf_dropOp _ o)
  · exact s.crewsOf_dropOp o
  · split
    · exact s.crewsOf_endRequest o op 3 op.off
    · exact .refl s

theorem State.crewsOf_stopOps (s : State) (c : Nat) : CrewsOf s (s.stopOps c) := by
  unfold State.stopOps
  split
  · exact .refl s
  · exact .foldl _ (fun (u : State) (e : Nat × Op) => u.crewsOf_stopOp e.1 e.2 _) _ s

/-! ## What removing a crew leaves -/

theorem State.crewsOf_discard (s : State) (c : Nat) : CrewsOf s (s.discard c) := by
  unfold State.discard
  split
  · exact .refl s
  · refine (CrewsOf.modCrew s c (fun cr => { cr with ver := [], held := [], mended := [], segs := [] }) (fun _ => rfl)).trans (.of_eq ?_ ?_)
    · exact (foldl_keeps State.crews (fun (u : State) (x : Nat × Nat) => u.modOp x.1 _) (fun _ _ => rfl) _ _).trans rfl
    · exact (foldl_keeps State.kernels (fun (u : State) (x : Nat × Nat) => u.modOp x.1 _) (fun _ _ => rfl) _ _).trans rfl

theorem State.crewsOf_unbindAll (s : State) (c w : Nat) : CrewsOf s (s.unbindAll c w) := by
  unfold State.unbindAll
  split
  · exact .refl s
  · split
    · exact .refl s
    · exact CrewsOf.trans (CrewsOf.of_eq rfl rfl : CrewsOf s (s.modCore _ _)) (.modWave _ c w _)

theorem State.crewsOf_loseHandler (s : State) (x : Nat) : CrewsOf s (s.loseHandler x) := by
  unfold State.loseHandler
  refine .trans (.foldl _ (fun u e => ?_) (s.ctx x).trapRecs s) (.of_eq rfl rfl)
  split
  · exact .refl u
  · exact .of_eq rfl rfl

theorem State.settleCtx_keeps {β : Type} (g : State → β) (h : ∀ (s : State) x, g { s with ctxs := x } = g s) (s : State) (x : Nat) :
    g (s.settleCtx x) = g s := by
  unfold State.settleCtx
  split
  · rfl
  · split
    · exact h s _
    · exact h s _
    · rfl

/-- A crew removed from its core: its entry and its operations go from a state that has no other crews than before. -/
theorem State.removeCrew_eq (s : State) (c : Nat) (cr : Crew) (h : s.crew? c = some cr) : ∃ u, CrewsOf s u ∧
    s.removeCrew c = State.settleCtx { u with crews := u.crews.del c, ops := u.ops.filter (fun e => e.2.crew ≠ c)
                                              waitDst := u.waitDst.filter (fun e => e.1 ≠ c) } cr.ctx := by
  unfold State.removeCrew
  rw [h]
  dsimp only
  refine ⟨_, ?_, rfl⟩
  have hunits : CrewsOf s (((cr.waves.map (·.1)).foldl (fun (s : State) w => s.unbindAll c w) ((s.stopOps c).discard c)).modCore cr.core
      (fun q => { q with rbq := q.rbq.filter (fun e => e.1 ≠ c) })) :=
    (((s.crewsOf_stopOps c).trans (State.crewsOf_discard _ c)).trans (.foldl _ (fun u w => u.crewsOf_unbindAll c w) _ _)).trans (.of_eq rfl rfl)
  split
  · split
    · exact hunits.trans (State.crewsOf_loseHandler _ _)
    · exact hunits
  · exact hunits

section
variable (s : State) (c : Nat) (cr : Crew) (h : s.crew? c = some cr)
include h

theorem State.kernels_removeCrew : (s.removeCrew c).kernels = s.kernels := by
  obtain ⟨u, hu, he⟩ := s.removeCrew_eq c cr h
  rw [he, State.settleCtx_keeps State.kernels (fun _ _ => rfl)]
  exact hu.kernels

/-- What is left is other crews, that were there before. -/
theorem State.crews_removeCrew : ∀ e ∈ (s.removeCrew c).crews, e.1 ≠ c ∧ ∃ cr, (e.1, cr) ∈ s.crews := by
  obtain ⟨u, hu, he⟩ := s.removeCrew_eq c cr h
  rw [he, State.settleCtx_keeps State.crews (fun _ _ => rfl)]
  intro e hm
  obtain ⟨hm, hne⟩ := List.mem_filter.1 hm
  obtain ⟨x, hx, -⟩ := hu.crews e hm
  exact ⟨bne_iff_ne.1 hne, x, hx⟩

theorem State.ops_removeCrew : ∀ e ∈ (s.removeCrew c).ops, e.2.crew ≠ c := by
  obtain ⟨u, hu, he⟩ := s.removeCrew_eq c cr h
  rw [he, State.settleCtx_keeps State.ops (fun _ _ => rfl)]
  exact fun e hm => by simpa using (List.mem_filter.1 hm).2

theorem State.crew?_removeCrew : (s.removeCrew c).crew? c = none := by
  cases hc : (s.removeCrew c).crew? c with
  | none => rfl
  | some x => exact absurd rfl (s.crews_removeCrew c cr h _ (Tab.mem_of_find? hc)).1

end

/-! ## A crew returns to its owner's list -/

/-- The list of an owner with a crew's index in its place, in ascending order (R130). -/
def requeuedAt (l : List Nat) (n : Nat) : List Nat := l.filter (fun x => decide (x < n)) ++ n :: l.filter (fun x => decide (n < x))

/-- What a kernel becomes, `kn` before, when one of its crews is to be placed again from its task entry (R130, R132, R133). -/
def Kernel.requeue (kn : Kernel) (cr : Crew) (k : Kernel) : Kernel :=
  let o := kn.owner.rd 0 cr.idx
  let l := requeuedAt (kn.requeued.rd [] o) cr.idx
  { k with
    requeued := k.requeued.put o (if k.pinned then k.inRoleOrder l else l)
    restarts := k.restarts.put cr.idx (cr.taskIdx, (cr.waves.filter (fun w => w.2.inTask)).map (fun w => (w.1, w.2.entry)))
    groups := k.groups.filter (fun e => !(k.groupKeys cr.idx).any (fun g => g.1 == e.1) || k.groupBegun cr.idx e.1)
    tiles := if k.walk then cr.taskIdx :: k.tiles else k.tiles }

theorem State.requeueCrew_eq (s : State) (c : Nat) (cr : Crew) (kn : Kernel) (hc : s.crew? c = some cr) (hk : s.kernel? cr.kernel = some kn) :
    s.requeueCrew c = (s.removeCrew c).modKernel cr.kernel (kn.requeue cr) := by
  unfold State.requeueCrew
  rw [hc]
  dsimp only
  rw [hk]
  rfl

theorem requeueCrew_requeues (s : State) (c : Nat) (cr : Crew) (kn : Kernel) (hc : s.crew? c = some cr) (hk : s.kernel? cr.kernel = some kn)
    (hp : kn.pinned = false) : ∃ t y, s.requeueCrew c = t ∧ t.crew? c = none ∧
      SameMemory s t ∧ (∀ e ∈ t.ops, e.2.crew ≠ c) ∧ t.kernel? cr.kernel = some y ∧ cr.idx ∈ y.requeued.rd [] (kn.owner.rd 0 cr.idx) ∧
      y.restarts.rd (0, []) cr.idx = (cr.taskIdx, (cr.waves.filter (fun w => w.2.inTask)).map (fun w => (w.1, w.2.entry))) := by
  have hkr : (s.removeCrew c).kernel? cr.kernel = some kn := (congrArg (Tab.find? · cr.kernel) (s.kernels_removeCrew c cr hc)).trans hk
  refine ⟨_, kn.requeue cr kn, s.requeueCrew_eq c cr kn hc hk, s.crew?_removeCrew c cr hc, fun a => ?_, s.ops_removeCrew c cr hc, ?_, ?_, ?_⟩
  · exact congrArg (Tab.rd 0 · a) (s.mem_removeCrew c)
  · rw [State.kernel?_modKernel, if_pos rfl, hkr]
    rfl
  · unfold Kernel.requeue
    rw [Tab.rd_put, if_pos rfl, hp]
    exact List.mem_append_right _ List.mem_cons_self
  · exact (Tab.rd_put _ _ _ _ _).trans (if_pos rfl)

/-- A table that holds an entry finds its key. -/
theorem Tab.find?_ne_none_of_mem {α : Type} {t : Tab α} {e : Nat × α} (h : e ∈ t) : t.find? e.1 ≠ none := by
  induction t with
  | nil => cases h
  | cons a t ih =>
    unfold Tab.find?
    split
    · exact Option.some_ne_none _
    · rename_i hne
      rcases List.mem_cons.1 h with rfl | h
      · exact absurd rfl hne
      · exact ih h

/-- A crew that returns to its owner's list leaves behind only crews that were there before. -/
theorem State.crews_requeueCrew (s : State) (c : Nat) : ∀ e ∈ (s.requeueCrew c).crews, e.1 ≠ c ∧ ∃ cr, (e.1, cr) ∈ s.crews := by
  unfold State.requeueCrew
  cases hc : s.crew? c with
  | none => exact fun e he => ⟨fun h => Tab.find?_ne_none_of_mem he (h ▸ hc), e.2, he⟩
  | some cr =>
    dsimp only
    split
    · exact s.crews_removeCrew c cr hc
    · exact s.crews_removeCrew c cr hc

end Sys2Proof.Machine
end

section
/-!
Vacates, saves and restores (R104 to R112, R132), and the destroy that was held (R105).
-/

namespace Sys2Proof.Machine

open Sys2Proof Sys2Proof.Safety Host

theorem destroyPerform_acts (s : State) (x : Nat) (h : (s.ctx x).st = .runnable ∨ (s.ctx x).st = .saved ∨ (s.ctx x).st = .lost)
    (hd : (s.ctx x).destroyHeld = true) : exec (.destroyPerform x) s = .next (s.destroy x (s.ctx x).frames) := by
  show execDestroyPerform x s = _
  unfold execDestroyPerform
  dsimp only
  rw [hd]
  rcases h with h | h | h <;> rw [h] <;> rfl

/-! ## The two parts of a vacate -/

/-- What a vacate of cores makes of a crew at once: one of the context on the cores, its kernel not failed, stops at its clause
boundaries (R106, R107). -/
def State.vacateCrew (s : State) (x : Nat) (cores : List Nat) (cr : Crew) : Crew :=
  if cr.ctx = x ∧ cr.core ∈ cores ∧ s.kernelFailed cr = false then { cr with
    freezing := true, vacated := if cr.freezing = true then cr.vacated else s.tabor.toNat
    waves := cr.waves.mapV (fun _ w => if w.clause = none then w.unreserve else w) } else cr

/-- The machine once a vacate has stopped the context's crews on the cores and unbound the roles bound to them. -/
def State.vacating (s : State) (x : Nat) (cores : List Nat) : State :=
  { s.unbindRoles x cores with crews := s.crews.mapV (fun _ cr => s.vacateCrew x cores cr) }

/-- The crews of a context whose kernels have not failed. -/
def State.standing (s : State) (x : Nat) : Tab Crew := s.crews.filter (fun e => e.2.ctx == x && !s.kernelFailed e.2)

/-- A context has resident crews, and all of them stop to be saved. -/
def State.allSaving (s : State) (x : Nat) : Bool :=
  !(s.standing x).isEmpty && (s.standing x).all (fun e => e.2.freezing && s.savesOnVacate e.2)

/-- A context all of whose resident crews are being saved is frozen (R106). -/
def State.frozenIfAllSaving (s : State) (x : Nat) : State :=
  if s.allSaving x = true then s.modCtx x (fun cx => { cx with st := .frozen }) else s

theorem exec_vacate (s : State) (x : Nat) (cores : List Nat) (hr : s.recovering = false) (hs : (s.ctx x).st = .running) :
    exec (.vacate x cores) s = .next { ((s.vacating x cores).requeueVacated x).frozenIfAllSaving x with status := 0 } := by
  have hcrew : (fun (_ : Nat) (cr : Crew) => if cr.ctx = x ∧ cores.contains cr.core = true ∧ (!s.kernelFailed cr) = true then { cr with
      freezing := true, vacated := if cr.freezing = true then cr.vacated else s.tabor.toNat
      waves := cr.waves.mapV (fun _ w => if w.clause.isNone = true then w.unreserve else w) } else cr) =
      fun _ cr => s.vacateCrew x cores cr := by
    funext _ cr
    have hwave : (fun (_ : Nat) (w : Wave) => if w.clause.isNone = true then w.unreserve else w) =
        fun _ w => if w.clause = none then w.unreserve else w :=
      funext fun _ => funext fun w => if_congr Option.isNone_iff_eq_none rfl rfl
    rw [hwave]
    exact if_congr (by simp) rfl rfl
  have hgranted : exec (.vacate x cores) s = (((s.vacating x cores).requeueVacated x).frozenIfAllSaving x).granted := by
    show execVacate x cores s = _
    unfold execVacate
    rw [hr, hs, hcrew]
    exact (apply_ite State.granted (State.allSaving _ x = true) _ _).symm
  exact hgranted

/-- With a crew that does not stop to be saved, or with none at all, the context is not frozen. -/
theorem State.allSaving_eq_false (s : State) (x : Nat)
    (h : s.standing x = [] ∨ ∃ e ∈ s.standing x, e.2.freezing = false ∨ s.savesOnVacate e.2 = false) : s.allSaving x = false := by
  unfold State.allSaving
  rw [Bool.and_eq_false_iff]
  rcases h with h | ⟨e, he, h⟩
  · exact .inl (by rw [h]; rfl)
  · refine .inr (List.all_eq_false.2 ⟨e, he, ?_⟩)
    rcases h with h | h <;> simp [h]

/-- A context none of whose crews stops to be saved is not frozen. -/
theorem State.allSaving_none (s : State) (x : Nat) (h : ∀ e ∈ s.standing x, e.2.freezing = false ∨ s.savesOnVacate e.2 = false) :
    s.allSaving x = false := by
  refine s.allSaving_eq_false x ?_
  cases hl : s.standing x with
  | nil => exact .inl rfl
  | cons e l =>
    exact .inr ⟨e, List.mem_cons_self, h e (hl ▸ List.mem_cons_self)⟩

theorem State.allSaving_eq_true (s : State) (x : Nat) (h : s.standing x ≠ [])
    (hall : ∀ e ∈ s.standing x, e.2.freezing = true ∧ s.savesOnVacate e.2 = true) : s.allSaving x = true := by
  unfold State.allSaving
  rw [Bool.and_eq_true, Bool.not_eq_true', List.isEmpty_eq_false_iff]
  exact ⟨h, List.all_eq_true.2 fun e he => by rw [(hall e he).1, (hall e he).2]; rfl⟩

theorem State.requeueVacated_none (s : State) (x : Nat) (h : ∀ e ∈ s.vacated x, s.savesOnVacate e.2 = true ∨ e.2.atBoundary = false) :
    s.requeueVacated x = s := by
  have hl : (s.vacated x).filter (fun e => !s.savesOnVacate e.2 && e.2.atBoundary) = [] := by
    rw [List.filter_eq_nil_iff]
    intro e he
    rcases h e he with h | h <;> simp [h]
  unfold State.requeueVacated
  rw [hl]
  rfl

/-! ## A vacate of cores that hold no crew of the context -/

theorem vacate_noCrew (s : State) (x : Nat) (cores : List Nat) (hr : s.recovering = false) (hs : (s.ctx x).st = .running)
    (h : ∀ e ∈ s.crews, e.2.ctx = x → e.2.core ∉ cores ∧ e.2.freezing = false) :
    ∃ t, exec (.vacate x cores) s = .next t ∧ t = { s.unbindRoles x cores with status := 0 } := by
  have hcrew : ∀ e ∈ s.crews, (e.1, s.vacateCrew x cores e.2) = e := fun e he => Prod.ext rfl (if_neg fun hc => (h e he hc.1).1 hc.2.1)
  have hv : s.vacating x cores = s.unbindRoles x cores :=
    congrArg (fun l => { s.unbindRoles x cores with crews := l }) ((List.map_congr_left hcrew).trans (List.map_id _))
  have hnone : ∀ e ∈ (s.unbindRoles x cores).vacated x, (s.unbindRoles x cores).savesOnVacate e.2 = true ∨ e.2.atBoundary = false := by
    intro e he
    obtain ⟨hm, hp⟩ := List.mem_filter.1 he
    simp only [Bool.and_eq_true, beq_iff_eq] at hp
    exact absurd hp.1.2 (by rw [(h e hm hp.1.1).2]; exact Bool.false_ne_true)
  have hsave : (s.unbindRoles x cores).allSaving x = false := by
    refine State.allSaving_none _ x fun e he => .inl ?_
    obtain ⟨hm, hp⟩ := List.mem_filter.1 he
    simp only [Bool.and_eq_true, beq_iff_eq] at hp
    exact (h e hm hp.1).2
  refine ⟨_, exec_vacate s x cores hr hs, ?_⟩
  rw [hv, State.requeueVacated_none _ x hnone]
  unfold State.frozenIfAllSaving
  rw [hsave]
  rfl

/-! ## Crews that save, and crews still at work -/

theorem vacate_saving (s : State) (x : Nat) (cores : List Nat) (hr : s.recovering = false) (hs : (s.ctx x).st = .running)
    (h : ∀ e ∈ (s.vacating x cores).vacated x, (s.vacating x cores).savesOnVacate e.2 = true ∨ e.2.atBoundary = false) :
    ((s.vacating x cores).standing x ≠ [] →
      (∀ e ∈ (s.vacating x cores).standing x, e.2.freezing = true ∧ (s.vacating x cores).savesOnVacate e.2 = true) →
      exec (.vacate x cores) s = .next { (s.vacating x cores).modCtx x (fun cx => { cx with st := .frozen }) with status := 0 }) ∧
    ((s.vacating x cores).standing x = [] ∨
        (∃ e ∈ (s.vacating x cores).standing x, e.2.freezing = false ∨ (s.vacating x cores).savesOnVacate e.2 = false) →
      exec (.vacate x cores) s = .next { s.vacating x cores with status := 0 }) := by
  rw [exec_vacate s x cores hr hs, State.requeueVacated_none _ x h]
  unfold State.frozenIfAllSaving
  refine ⟨fun hne hall => ?_, fun hno => ?_⟩
  · rw [State.allSaving_eq_true _ x hne hall]
    rfl
  · rw [State.allSaving_eq_false _ x hno]
    rfl

/-! ## A crew that is not to be saved -/

/-- A pinned kernel of a context without the roles bound to some cores (R132). -/
def Kernel.unbind (kn : Kernel) (x : Nat) (cores : List Nat) : Kernel :=
  if kn.ctx = x ∧ kn.pinned = true then { kn with bind := kn.bind.filter (fun e => !cores.contains e.2) } else kn

theorem State.kernel?_unbindRoles (s : State) (x : Nat) (cores : List Nat) (k : Nat) :
    (s.unbindRoles x cores).kernel? k = (s.kernel? k).map (fun kn => kn.unbind x cores) :=
  Tab.find?_mapV s.kernels (fun _ kn => kn.unbind x cores) k

/-- Unbinding roles leaves whether a kernel has failed, and whether it saves. -/
theorem Kernel.unbind_keeps (kn : Kernel) (x : Nat) (cores : List Nat) :
    (kn.unbind x cores).st = kn.st ∧ (kn.unbind x cores).save = kn.save := by
  unfold Kernel.unbind
  split <;> exact ⟨rfl, rfl⟩

theorem State.kernelFailed_unbindRoles (s : State) (x : Nat) (cores : List Nat) (cr : Crew) :
    (s.unbindRoles x cores).kernelFailed cr = s.kernelFailed cr := by
  unfold State.kernelFailed
  rw [State.kernel?_unbindRoles]
  cases s.kernel? cr.kernel with
  | none => rfl
  | some kn => exact congrArg (· == KState.failed) (kn.unbind_keeps x cores).1

theorem State.savesOnVacate_unbindRoles (s : State) (x : Nat) (cores : List Nat) (cr : Crew) :
    (s.unbindRoles x cores).savesOnVacate cr = s.savesOnVacate cr := by
  unfold State.savesOnVacate
  rw [State.kernel?_unbindRoles]
  cases s.kernel? cr.kernel with
  | none => rfl
  | some kn => exact (kn.unbind_keeps x cores).2

theorem State.atBoundary_vacateCrew (s : State) (x : Nat) (cores : List Nat) (cr : Crew) :
    (s.vacateCrew x cores cr).atBoundary = cr.atBoundary := by
  unfold State.vacateCrew
  split
  · unfold Crew.atBoundary Tab.mapV
    rw [List.all_map]
    congr 1
    funext w
    simp only [Function.comp]
    split <;> rfl
  · rfl

/-- Crews of which none was to be saved are none to be saved. -/
theorem CrewsOf.savesNone {s t : State} (h : CrewsOf s t) (hs : ∀ e ∈ s.crews, s.savesOnVacate e.2 = false) :
    ∀ e ∈ t.crews, t.savesOnVacate e.2 = false := by
  intro e he
  obtain ⟨cr, hcr, hk⟩ := h.crews e he
  have hsaves : t.savesOnVacate e.2 = s.savesOnVacate cr := by
    unfold State.savesOnVacate State.kernel?
    rw [h.kernels, hk]
  exact hsaves.trans (hs _ hcr)

section
variable (s : State) (x c : Nat) (cr : Crew) (hcrews : s.crews = [(c, cr)]) (hx : cr.ctx = x) (hz : cr.freezing = true)
  (hf : s.kernelFailed cr = false) (hs : s.savesOnVacate cr = false) (hb : cr.atBoundary = true)
include hcrews hx hz hf hs hb

/-- The one crew of the machine, stopped and not to be saved, stops its operations and, with no access in flight, leaves. -/
theorem State.requeueVacated_one : s.requeueVacated x =
    if (s.stopOps c).accessing c = true then s.stopOps c else (s.stopOps c).requeueCrew c := by
  have hl : (s.vacated x).filter (fun e => !s.savesOnVacate e.2 && e.2.atBoundary) = [(c, cr)] := by
    unfold State.vacated
    rw [hcrews]
    simp [hx, hz, hf, hs, hb]
  unfold State.requeueVacated
  rw [hl]
  rfl

/-- It leaves no crew behind that is being saved. -/
theorem State.savesNone_requeueVacated : ∀ e ∈ (s.requeueVacated x).crews, (s.requeueVacated x).savesOnVacate e.2 = false := by
  have hstop := s.crewsOf_stopOps c
  have hone : ∀ e ∈ s.crews, e = (c, cr) := fun e he => List.mem_singleton.1 (hcrews ▸ he)
  rw [s.requeueVacated_one x c cr hcrews hx hz hf hs hb]
  split
  · exact hstop.savesNone (fun e he => by rw [hone e he]; exact hs)
  · intro e he
    obtain ⟨hne, y, hy⟩ := State.crews_requeueCrew _ c e he
    obtain ⟨z, hin, -⟩ := hstop.crews _ hy
    exact absurd (congrArg Prod.fst (hone _ hin)) hne

/-- So its context is not frozen. -/
theorem State.frozenIfAllSaving_one : (s.requeueVacated x).frozenIfAllSaving x = s.requeueVacated x := by
  have hno : (s.requeueVacated x).allSaving x = false := State.allSaving_none _ x fun e he =>
    .inr (s.savesNone_requeueVacated x c cr hcrews hx hz hf hs hb e (List.mem_filter.1 he).1)
  unfold State.frozenIfAllSaving
  rw [hno]
  rfl

end

theorem vacate_requeues (s : State) (x : Nat) (cores : List Nat) (hr : s.recovering = false) (hs : (s.ctx x).st = .running)
    (c : Nat) (cr : Crew) (hcrews : s.crews = [(c, cr)]) (hx : cr.ctx = x) (hin : cr.core ∈ cores) (hf : s.kernelFailed cr = false)
    (hsave : s.savesOnVacate cr = false) (hb : cr.atBoundary = true) : exec (.vacate x cores) s =
      .next { (if ((s.vacating x cores).stopOps c).accessing c = true then (s.vacating x cores).stopOps c
        else ((s.vacating x cores).stopOps c).requeueCrew c) with status := 0 } := by
  let u := s.vacating x cores
  let cr1 := s.vacateCrew x cores cr
  have hcr1 : cr1.ctx = cr.ctx ∧ cr1.kernel = cr.kernel ∧ cr1.freezing = true := by
    have hgo : cr1 = _ := if_pos ⟨hx, hin, hf⟩
    rw [hgo]
    exact ⟨rfl, rfl, rfl⟩
  obtain ⟨hctx, hkernel, hz⟩ := hcr1
  have hcrews1 : u.crews = [(c, cr1)] := congrArg (fun l : Tab Crew => l.mapV (fun _ cr => s.vacateCrew x cores cr)) hcrews
  have hf1 : u.kernelFailed cr1 = false := by
    refine Eq.trans ?_ ((s.kernelFailed_unbindRoles x cores cr).trans hf)
    unfold State.kernelFailed
    rw [hkernel]
    rfl
  have hsave1 : u.savesOnVacate cr1 = false := by
    refine Eq.trans ?_ ((s.savesOnVacate_unbindRoles x cores cr).trans hsave)
    unfold State.savesOnVacate
    rw [hkernel]
    rfl
  have hb1 : cr1.atBoundary = true := (s.atBoundary_vacateCrew x cores cr).trans hb
  rw [exec_vacate s x cores hr hs, u.frozenIfAllSaving_one x c cr1 hcrews1 (hctx.trans hx) hz hf1 hsave1 hb1,
    u.requeueVacated_one x c cr1 hcrews1 (hctx.trans hx) hz hf1 hsave1 hb1]

/-! ## The last crew is saved -/

theorem saveComplete_last (s : State) (x c : Nat) (cr : Crew) (hl : (s.vacated x).filter (fun e => s.savesOnVacate e.2) = [(c, cr)])
    (hc : s.crew? c = some cr) (hb : cr.atBoundary = true) (hz : (s.freezeCrew c).frozenCrew c cr = true) (cr1 : Crew)
    (hc1 : (s.freezeCrew c).crew? c = some cr1) (s1 : State) (hs : (s.freezeCrew c).saveCrew c cr1 = some s1)
    (hno : ∀ e ∈ s1.crews, e.2.ctx ≠ x) (hst : (s1.ctx x).st = .running ∨ (s1.ctx x).st = .frozen) :
    exec (.saveComplete x) s = .next (s1.modCtx x (fun cx => { cx with st := .saved })) := by
  have hnone : s1.crews.any (fun e => e.2.ctx == x) = false := by
    rw [List.any_eq_false]
    exact fun e he => by simpa using hno e he
  show execSaveComplete x s = _
  unfold execSaveComplete
  dsimp only
  rw [hl]
  simp only [List.isEmpty_cons, Bool.false_eq_true, if_false, List.foldl_cons, List.foldl_nil, hc, hb, hz, hc1, hs, Bool.not_true,
    Option.getD_some, hnone]
  rcases hst with hst | hst <;> rw [hst]

/-! ## Restore -/

section
variable (s : State) (x : Nat) (hr : s.recovering = false) (hs : (s.ctx x).st = .saved) (hd : (s.ctx x).destroyHeld = false)
  (pas : Image → List Nat) (hp : ∀ i ∈ (s.ctx x).saves, s.saveUnits x i.off (i.len / 256) Need.read = some (pas i))
include hr hs hd hp

/-- A restore whose images are all mapped goes by what their checks find. -/
theorem exec_contextRestore : exec (.contextRestore x) s = match ((s.ctx x).saves.filterMap (fun i => s.imageFault i (pas i))).head? with
    | some (code, off) => .next { (s.loseContext x).event 4 code x off with status := 0 }
    | none => .next { (((s.ctx x).saves.foldl (fun (u : State) i => u.readImage x i ((pas i).flatMap (fun pa => u.bytesAt pa 256))) s).modCtx x
        (fun cx => { cx with st := .restoring })) with status := 0 } := by
  have hu : (s.ctx x).saves.map (fun i => (i, s.saveUnits x i.off (i.len / 256) Need.read)) = (s.ctx x).saves.map (fun i => (i, some (pas i))) :=
    List.map_congr_left fun i hi => by rw [hp i hi]
  show execContextRestore x s = _
  unfold execContextRestore
  dsimp only
  rw [hu, hr, hs, hd, List.any_map, List.filterMap_map, List.foldl_map]
  have hall : (s.ctx x).saves.any ((fun u : Image × Option (List Nat) => u.2.isNone) ∘ fun i => (i, some (pas i))) = false :=
    List.any_eq_false.2 fun _ _ => Bool.false_ne_true
  rw [hall]
  rfl

theorem contextRestore_verified (hv : ∀ i ∈ (s.ctx x).saves, s.imageFault i (pas i) = none) : exec (.contextRestore x) s =
    .next { (((s.ctx x).saves.foldl (fun (u : State) i => u.readImage x i ((pas i).flatMap (fun pa => u.bytesAt pa 256))) s).modCtx x
      (fun cx => { cx with st := .restoring })) with status := 0 } := by
  have hn : (s.ctx x).saves.filterMap (fun i => s.imageFault i (pas i)) = [] := List.filterMap_eq_nil_iff.2 hv
  rw [exec_contextRestore s x hr hs hd pas hp, hn]
  rfl

theorem contextRestore_bad (i : Image) (code off : Nat) (hi : (s.ctx x).saves = [i]) (hb : s.imageFault i (pas i) = some (code, off)) :
    exec (.contextRestore x) s = .next { (s.loseContext x).event 4 code x off with status := 0 } := by
  have hf : (s.ctx x).saves.filterMap (fun i => s.imageFault i (pas i)) = [(code, off)] := by
    simp only [hi, List.filterMap_cons, hb, List.filterMap_nil]
  rw [exec_contextRestore s x hr hs hd pas hp, hf]
  rfl

end

theorem restoreLoad_loads (s : State) (x : Nat) (cores : List Nat) (hs : (s.ctx x).st = .restoring)
    (hl : cores.length = (s.ctx x).saves.length) (hr : s.stopped = false) (s1 : State)
    (h : ((s.ctx x).saves.zip cores).foldl (fun (acc : Option State) e => acc.bind (fun s => s.loadCrew e.1 e.2)) (some s) = some s1) :
    exec (.restoreLoad x cores) s = .next (((s1.modCtx x (fun cx => { cx with
      st := if cx.saves.isEmpty = true then .runnable else .running, saves := [] })).settleRestarts).deliverNext x) := by
  show execRestoreLoad x cores s = _
  unfold execRestoreLoad
  dsimp only
  rw [hs, hl, hr, h]
  simp

/-- Settles O49: each turn by the lemma of its case; a vacate by what it finds on the cores. -/
theorem saveAndRestore : Obligations.SaveAndRestore := by
  unfold Obligations.SaveAndRestore
  intro s x
  refine ⟨destroyPerform_acts s x, vacate_noCrew s x, fun cores hr hs => ⟨fun h => vacate_saving s x cores hr hs h,
    vacate_requeues s x cores hr hs⟩, requeueCrew_requeues s, saveComplete_last s x, fun hr hs hd pas hp =>
    ⟨contextRestore_verified s x hr hs hd pas hp, contextRestore_bad s x hr hs hd pas hp⟩, restoreLoad_loads s x⟩

end Sys2Proof.Machine
end

section
/-!
Queues and their commands (R119 to R121).
-/

namespace Sys2Proof.Machine

open Sys2Proof Sys2Proof.Safety Host

/-! ## A queue's states -/

theorem State.queue_modQueue (s : State) (x q : Nat) (f : Queue → Queue) : ((s.modQueue x q f).ctx x).queue q = f ((s.ctx x).queue q) := by
  unfold State.modQueue Context.queue
  rw [State.ctx_modCtx_self]
  simp [Tab.rd]

/-- An event that changes a queue changes nothing outside its context. -/
theorem exec_changesQueue {i : Instr} {s : State} {x q : Nat} {f : Queue → Queue} (h : exec i s = .next (s.modQueue x q f)) :
    ∃ t, exec i s = .next t ∧ OnlyCtx s t x ∧ (t.ctx x).queue q = f ((s.ctx x).queue q) :=
  ⟨_, h, s.onlyCtx_modCtx x _, s.queue_modQueue x q f⟩

section
variable (s : State) (x q : Nat) (hr : s.recovering = false) (hx : s.hasCtx x = true) (hq : q < 64)
include hr hx hq

theorem queueEnable_enables (hs : ((s.ctx x).queue q).st = .disabled) : exec (.queueEnable x q) s =
    .next (s.modQueue x q (fun qu => { qu with st := if qu.ridx = qu.widx then .idle else .ready })) := by
  show execQueueEnable x q s = _
  unfold execQueueEnable State.enableQueue
  simp [hr, hx, hq, hs]

theorem queueDisable_disables : exec (.queueDisable x q) s = .next (s.modQueue x q (fun qu => { qu with st := .disabled })) := by
  show execQueueDisable x q s = _
  unfold execQueueDisable State.disableQueue
  simp [hr, hx, hq]

theorem queueResume_readies (hs : ((s.ctx x).queue q).st = .halted) : exec (.queueResume x q) s =
    .next (s.modQueue x q (fun qu => { qu with st := .ready })) := by
  show execQueueResume x q s = _
  unfold execQueueResume State.resumeQueue
  simp [hr, hx, hq, hs]

theorem doorbell_readies (v : Word) (hs : ((s.ctx x).queue q).st = .idle) (hn : ((s.ctx x).queue q).ridx ≠ ((s.ctx x).queue q).widx) :
    exec (.doorbell x q v) s = .next (s.modQueue x q (fun qu => { qu with st := .ready })) := by
  show execDoorbell x q v s = _
  unfold execDoorbell State.ringDoorbell
  simp [hr, hx, hq, hs, hn]

end

/-! ## The head of a ready queue -/

/-- The command events of a queue, with the KIND of the packets that they start (R119). -/
def commandsOf (x q : Nat) : List (Nat × Instr) :=
  [(0, .noopCommand x q), (1, .launchCommand x q), (2, .waitCommand x q), (3, .signalCommand x q), (4, .replayCommand x q)]

/-- A command event takes the queue's head, where no replay of the queue is in progress (R121, R138). -/
theorem exec_command (s : State) (x q kind : Nat) (i : Instr) (h : (kind, i) ∈ commandsOf x q)
    (hno : ∀ r ∈ s.replays, ¬(r.2.ctx = x ∧ r.2.queue = q)) : exec i s = .next (s.queueHead x q kind) := by
  have hmine : s.replays.filter (fun r => r.2.ctx == x && r.2.queue == q && decide (r.2.next < r.2.nodes)) = [] := by
    rw [List.filter_eq_nil_iff]
    intro r hr hb
    simp only [Bool.and_eq_true, beq_iff_eq] at hb
    exact hno r hr hb.1
  simp only [commandsOf, List.mem_cons, Prod.mk.injEq, List.not_mem_nil, or_false] at h
  rcases h with ⟨rfl, rfl⟩ | ⟨rfl, rfl⟩ | ⟨rfl, rfl⟩ | ⟨rfl, rfl⟩ | ⟨rfl, rfl⟩
  · rfl
  · rfl
  · rfl
  · rfl
  · show execReplayCommand x q s = _
    unfold execReplayCommand
    rw [hmine]
    rfl

/-- A ready queue of an admitted context, whose head packet's bytes are `bs`. -/
structure HeadPacket (s : State) (x q : Nat) (bs : List Byte) : Prop where
  /-- The queue is ready. -/
  ready : ((s.ctx x).queue q).st = .ready
  /-- Commands of its context may start (R103). -/
  admitted : s.admitted x = true
  /-- The package runs. -/
  running : s.stopped = false
  /-- The ring holds a packet. -/
  filled : ((s.ctx x).queue q).ridx ≠ ((s.ctx x).queue q).widx
  /-- It holds no more than its size. -/
  fits : ((s.ctx x).queue q).overrun = false
  /-- No engine owns a line that the walk reads. -/
  walked : s.rangeHeld 0 x Need.read (((s.ctx x).queue q).slotAddr ((s.ctx x).queue q).ridx) 64 = false
  /-- The slot's bytes. -/
  read : s.readV x (((s.ctx x).queue q).slotAddr ((s.ctx x).queue q).ridx) 64 = some bs

section
variable {s : State} {x q : Nat} {bs : List Byte} (h : HeadPacket s x q bs) (kind : Nat)
include h

/-- A malformed head halts its queue (R120). -/
theorem HeadPacket.halts (hb : (Packet.ofNat (leNat bs)).bad = true) : s.queueHead x q kind = s.haltQueue x q := by
  unfold State.queueHead
  simp [h.ready, h.admitted, h.running, h.filled, h.fits, h.walked, h.read, hb]

/-- A well-formed head that may start goes by what starting it gives (R121). -/
theorem HeadPacket.starts (hb : (Packet.ofNat (leNat bs)).bad = false) (hk : (Packet.ofNat (leNat bs)).kind = kind)
    (hm : s.mayStart (Packet.ofNat (leNat bs)) ((s.ctx x).queue q).prev = true) (hh : s.commandHeld x (Packet.ofNat (leNat bs)) = false) :
    (∀ c s1, s.startCommand x q (Packet.ofNat (leNat bs)) id false = some (some (c, s1)) →
      s.queueHead x q kind = s1.advanceQueue x q c) ∧
    (s.startCommand x q (Packet.ofNat (leNat bs)) id false = some none →
      s.queueHead x q kind = if kind = 2 then s.modQueue x q (fun qu => { qu with st := .blocked }) else s) := by
  unfold State.queueHead
  simp only [h.ready, h.admitted, h.running, h.filled, h.fits, h.walked, h.read, hb, hk, hm, hh, beq_self_eq_true, Bool.not_true,
    Bool.or_false, Bool.false_eq_true, if_false, ne_eq, not_true_eq_false, decide_false]
  exact ⟨fun c s1 hs => by rw [hs], fun hs => by rw [hs]⟩

end

/-- Settles O50: each event of a queue changes the queue's state alone, and a command goes by its packet. -/
theorem queueCommands : Obligations.QueueCommands := by
  unfold Obligations.QueueCommands
  intro s x q
  refine ⟨fun hr hx hq hs => exec_changesQueue (queueEnable_enables s x q hr hx hq hs),
    fun hr hx hq => exec_changesQueue (queueDisable_disables s x q hr hx hq),
    fun hr hx hq hs => exec_changesQueue (queueResume_readies s x q hr hx hq hs),
    fun v hr hx hq hs hn => exec_changesQueue (doorbell_readies s x q hr hx hq v hs hn), ?_⟩
  intro kind i bs hi hno hst had hrun hne hov hheld hread
  have h : HeadPacket s x q bs := ⟨hst, had, hrun, hne, hov, hheld, hread⟩
  have hexec := exec_command s x q kind i hi hno
  refine ⟨fun hb => hexec.trans (congrArg _ (h.halts kind hb)), fun hb hk hm hh => ?_⟩
  obtain ⟨hstart, hwait⟩ := h.starts kind hb hk hm hh
  exact ⟨fun c s1 hs => hexec.trans (congrArg _ (hstart c s1 hs)), fun hs => hexec.trans (congrArg _ (hwait hs))⟩

end Sys2Proof.Machine
end

section
/-!
Crews are placed and stolen, and roles bound (R122, R128 to R133, R140).
-/

namespace Sys2Proof.Machine

open Sys2Proof Sys2Proof.Safety Host

/-! ## What naming a handler leaves -/

/-- Of the crews only waves of crew `n` may differ, and contexts are in the states they were in. -/
structure WavesOf (s t : State) (n : Nat) : Prop where
  /-- Numbers. -/
  next : t.next = s.next
  /-- Crews, but for their waves. -/
  crews : SameCrews s t
  /-- Other crews. -/
  others : ∀ d, d ≠ n → t.crew? d = s.crew? d
  /-- Contexts. -/
  states : ∀ y, (t.ctx y).st = (s.ctx y).st

theorem WavesOf.refl (s : State) (n : Nat) : WavesOf s s n := ⟨rfl, .refl s, fun _ _ => rfl, fun _ => rfl⟩

theorem WavesOf.trans {s t u : State} {n : Nat} (h : WavesOf s t n) (g : WavesOf t u n) : WavesOf s u n where
  next := g.next.trans h.next
  crews := h.crews.trans g.crews
  others := fun d hd => (g.others d hd).trans (h.others d hd)
  states := fun y => (g.states y).trans (h.states y)

theorem WavesOf.modWave (s : State) (n w : Nat) (f : Wave → Wave) : WavesOf s (s.modWave n w f) n where
  next := rfl
  crews := fun d => s.crew?_modWave n d w f
  others := fun d hd => by rw [State.modWave, State.crew?_modCrew, if_neg hd]
  states := fun _ => rfl

theorem WavesOf.modCtx (s : State) (n x : Nat) (f : Context → Context) (hf : (f (s.ctx x)).st = (s.ctx x).st) :
    WavesOf s (s.modCtx x f) n where
  next := rfl
  crews := .refl s
  others := fun _ _ => rfl
  states := fun y => by
    rw [State.ctx_modCtx]
    split
    · rename_i hy
      rw [hy, hf]
    · rfl

theorem State.wavesOf_choose (s : State) (n w : Nat) : WavesOf s (s.choose n w) n := by
  unfold State.choose
  split
  · exact .refl s n
  · split
    · exact .refl s n
    · split
      · exact .refl s n
      · exact .modWave s n w _

theorem State.wavesOf_enterWait (s : State) (n w k : Nat) (wt : Wait) (hdr : Nat) : WavesOf s (s.enterWait n w k wt hdr) n := by
  unfold State.enterWait State.modStrand
  exact (WavesOf.modWave s n w _).trans (State.wavesOf_choose _ n w)

/-- A record is delivered to a wave of the handler's crew (R118, R176). -/
theorem State.wavesOf_deliverNext (s : State) (x n w : Nat) (h : (s.ctx x).handler = some (n, w)) : WavesOf s (s.deliverNext x) n := by
  unfold State.deliverNext
  dsimp only
  rw [h]
  split
  · rename_i hc ht
    obtain ⟨rfl, rfl⟩ := Prod.mk.inj (Option.some.inj hc)
    split
    · exact .refl s n
    · split
      · exact .refl s n
      · split
        · exact .refl s n
        · exact (WavesOf.modWave s n w _).trans (.modCtx _ n x _ rfl)
  · exact .refl s n

theorem State.ctx_enterWait (s : State) (n w k : Nat) (wt : Wait) (hdr x : Nat) : (s.enterWait n w k wt hdr).ctx x = s.ctx x := by
  unfold State.enterWait State.choose
  split
  · rfl
  · split
    · rfl
    · split <;> rfl

theorem State.wavesOf_designate (s : State) (x n w k hdr : Nat) : WavesOf s (s.designate x n w k hdr) n := by
  unfold State.designate
  refine ((WavesOf.modCtx s n x _ rfl).trans (State.wavesOf_enterWait _ n w k .record hdr)).trans (State.wavesOf_deliverNext _ x n w ?_)
  rw [State.ctx_enterWait, State.ctx_modCtx_self]

theorem State.wavesOf_designateNamed (s : State) (n : Nat) (kn : Kernel) (c : Nat) : WavesOf s (s.designateNamed n kn c) n := by
  unfold State.designateNamed
  split
  · split
    · exact s.wavesOf_designate _ n _ _ _
    · exact .refl s n
  · exact .refl s n

/-! ## Placement -/

theorem crewPlace_places (s s1 : State) (k die core base c tile : Nat) (h : s.placeCrew k die core base c tile = some s1)
    (hg : s1.groupsKeep = true) : exec (.crewPlace k die core base c tile) s = .next s1 := by
  show execCrewPlace k die core base c tile s = _
  unfold execCrewPlace
  rw [h]
  exact if_pos hg

theorem State.placeCrew_eq (s s1 : State) (k die core base c tile : Nat) (kn : Kernel) (hk : s.kernel? k = some kn)
    (h : s.placeCrew k die core base c tile = some s1) : s1 = s.putCrew k kn die core base c tile := by
  unfold State.placeCrew at h
  rw [hk] at h
  dsimp only at h
  split at h
  · cases h
  · exact (Option.some.inj h).symm

/-- A crew that is put on a core has the next number, and its context runs (R104, R133, R142). -/
theorem State.putCrew_seats (s : State) (k : Nat) (kn : Kernel) (owner core base c tile : Nat) : ∃ u cr,
    WavesOf u (s.putCrew k kn owner core base c tile) s.next ∧ u.next = s.next + 1 ∧ u.crew? s.next = some cr ∧ cr.kernel = k ∧ cr.idx = c ∧
      cr.core = core ∧ cr.base = base ∧ (u.ctx kn.ctx).st = .running ∧ ∀ d, d ≠ s.next → u.crew? d = s.crew? d := by
  refine ⟨_, placedCrew k kn c core base (s.blocksFree core kn.split) (s.segsFree core)
    (if kn.walk then tile else ((kn.restarts.find? c).map (·.1)).getD 0) ((kn.restarts.find? c).map (·.2)),
    State.wavesOf_designateNamed _ s.next kn c, rfl, ?_, rfl, rfl, rfl, rfl, ?_, fun d hd => ?_⟩
  · exact Tab.find?_put_same s.crews s.next _
  · rw [State.ctx_modCtx_self]
  · exact Tab.find?_put_other s.crews s.next d _ hd

theorem placeCrew_seats (s s1 : State) (k die core base c tile : Nat) (kn : Kernel) (hk : s.kernel? k = some kn)
    (h : s.placeCrew k die core base c tile = some s1) :
    ∃ cr, s1.crew? s.next = some cr ∧ cr.kernel = k ∧ cr.idx = c ∧ cr.core = core ∧ cr.base = base ∧ s1.next = s.next + 1 ∧
      SameMemory s s1 ∧ (s1.ctx kn.ctx).st = .running ∧ ∀ d, d ≠ s.next → s1.crew? d = s.crew? d := by
  obtain ⟨u, cr, hw, hnext, hcr, hkernel, hidx, hcore, hbase, hst, hothers⟩ := s.putCrew_seats k kn die core base c tile
  rw [← s.placeCrew_eq s1 k die core base c tile kn hk h] at hw
  obtain ⟨x, hx, he⟩ := hw.crews.crew hcr
  exact ⟨x, hx, (congrArg Crew.kernel he).trans hkernel, (congrArg Crew.idx he).trans hidx, (congrArg Crew.core he).trans hcore,
    (congrArg Crew.base he).trans hbase, hw.next.trans hnext, fun a => congrArg (Tab.rd 0 · a) (s.mem_placeCrew s1 _ _ _ _ _ _ h),
    (hw.states _).trans hst, fun d hd => (hw.others d hd).trans (hothers d hd)⟩

/-! ## Steals -/

/-- A kernel whose die `victim` has handed the last `n` of the crews `l` to die `thief` (R130). -/
def Kernel.handOver (kn : Kernel) (thief victim : Nat) (l : List Nat) (n : Nat) : Kernel :=
  { kn with unplaced := (kn.unplaced.put victim (l.take (l.length - n))).put thief (l.drop (l.length - n)) }

theorem Kernel.unplaced_handOver (kn : Kernel) (thief victim : Nat) (l : List Nat) (n : Nat) (h : thief ≠ victim) :
    (kn.handOver thief victim l n).unplaced.rd [] victim = l.take (l.length - n) ∧
      (kn.handOver thief victim l n).unplaced.rd [] thief = l.drop (l.length - n) := by
  unfold Kernel.handOver
  dsimp only
  exact ⟨by rw [Tab.rd_put, if_neg h.symm, Tab.rd_put, if_pos rfl], by rw [Tab.rd_put, if_pos rfl]⟩

theorem stealMessage_takesHalf (s : State) (k thief victim : Nat) (kn : Kernel) (hk : s.kernel? k = some kn) (hp : kn.pinned = false)
    (hr : kn.st = .running) (hne : thief ≠ victim) (ht : thief < 4) (hv : victim < 4) (hu : kn.unplaced.rd [] thief = [])
    (hq : kn.requeued.rd [] thief = []) (hm : kn.unplaced.rd [] victim ≠ [])
    (hroom : ((List.range 64).map (fun i => 64 * thief + i)).any (fun c => s.roomFor kn c) = true) :
    ∃ t x, exec (.stealMessage k thief victim) s = .next t ∧ t.kernel? k = some x ∧ SameMemory s t ∧ t.crews = s.crews ∧
      x.unplaced.rd [] victim ++ x.unplaced.rd [] thief = kn.unplaced.rd [] victim ∧
      (x.unplaced.rd [] thief).length = if (kn.unplaced.rd [] victim).length = 1 then 1 else (kn.unplaced.rd [] victim).length / 2 := by
  set l := kn.unplaced.rd [] victim with hl
  set n := if l.length = 1 then 1 else l.length / 2 with hn
  have hpos : l.length ≠ 0 := fun h => hm (List.eq_nil_of_length_eq_zero h)
  have hle : n ≤ l.length := by rw [hn]; split <;> omega
  obtain ⟨hvictim, hthief⟩ := kn.unplaced_handOver thief victim l n hne
  refine ⟨s.modKernel k (fun kn => kn.handOver thief victim l n), kn.handOver thief victim l n, ?_, ?_, fun _ => rfl, rfl, ?_, ?_⟩
  · show execStealMessage k thief victim s = _
    unfold execStealMessage
    rw [hk]
    dsimp only
    rw [hp, hr, hu, hq, hroom, ← hl, ← hn]
    simp only [List.isEmpty_nil, beq_self_eq_true, beq_eq_false_iff_ne.2 hne, beq_eq_false_iff_ne.2 hpos,
      decide_eq_false (Nat.not_le.2 ht), decide_eq_false (Nat.not_le.2 hv), Bool.and_self, Bool.not_true, Bool.or_self, Bool.false_eq_true,
      if_false]
    rfl
  · rw [State.kernel?_modKernel, if_pos rfl, hk]
    rfl
  · rw [hvictim, hthief, List.take_append_drop]
  · rw [hthief, List.length_drop]
    omega

end Sys2Proof.Machine
end

section
/-!
The role table that goes back to memory (R132), and the life of a kernel: start, completion record, cancel (R134 to R136).
-/

namespace Sys2Proof.Machine

open Sys2Proof Sys2Proof.Safety Host

/-! ## Pieces written one after the other -/

/-- Addresses that no piece holds read as before. -/
theorem Tab.rd_foldl_wrBytes_outside (ps : List (Nat × List Byte)) (m : Tab Byte) (a : Nat)
    (h : ∀ p ∈ ps, a < p.1 ∨ p.1 + p.2.length ≤ a) :
    (ps.foldl (fun (m : Tab Byte) p => m.wrBytes p.1 p.2) m).rd 0 a = m.rd 0 a := by
  induction ps generalizing m with
  | nil => rfl
  | cons p ps ih =>
    have hp := h p List.mem_cons_self
    rw [List.foldl_cons, ih _ (fun q hq => h q (List.mem_cons_of_mem _ hq)), Tab.rd_wrBytes, if_neg (by omega)]

/-- Of pieces that do not overlap each reads back. -/
theorem Tab.rd_foldl_wrBytes_inside (ps : List (Nat × List Byte)) (m : Tab Byte)
    (hd : ps.Pairwise (fun p q => p.1 + p.2.length ≤ q.1 ∨ q.1 + q.2.length ≤ p.1)) (p : Nat × List Byte) (hp : p ∈ ps) (i : Nat)
    (hi : i < p.2.length) : (ps.foldl (fun (m : Tab Byte) p => m.wrBytes p.1 p.2) m).rd 0 (p.1 + i) = p.2.getD i 0 := by
  induction hd generalizing m with
  | nil => cases hp
  | @cons q ps hq hd ih =>
    rw [List.foldl_cons]
    rcases List.mem_cons.1 hp with rfl | hp
    · have hout : ∀ r ∈ ps, p.1 + i < r.1 ∨ r.1 + r.2.length ≤ p.1 + i := fun r hr => by
        have := hq r hr
        omega
      rw [Tab.rd_foldl_wrBytes_outside ps _ _ hout, Tab.rd_wrBytes, if_pos (by omega), Nat.add_sub_cancel_left]
    · exact ih _ hp

section
variable (x epoch : Nat)

theorem State.mem_foldl_ctxWrite (ps : List (Nat × List Byte)) (s : State) (h : ∀ p ∈ ps, homeOf p.1 = .hbm) :
    (ps.foldl (fun (u : State) p => u.ctxWrite x epoch p.1 p.2) s).mem = ps.foldl (fun (m : Tab Byte) p => m.wrBytes p.1 p.2) s.mem := by
  induction ps generalizing s with
  | nil => rfl
  | cons p ps ih =>
    rw [List.foldl_cons, ih _ (fun q hq => h q (List.mem_cons_of_mem _ hq)), State.ctxWrite,
      State.mem_commitFor _ _ _ _ _ _ (h p List.mem_cons_self), List.foldl_cons]

/-- A write for a context changes no kernel. -/
theorem State.kernels_ctxWrite (s : State) (pa : Nat) (bs : List Byte) (h : homeOf pa = .hbm) :
    (s.ctxWrite x epoch pa bs).kernels = s.kernels :=
  State.commitFor_keeps State.kernels (fun _ _ _ _ _ _ => rfl) s _ none none pa bs h

theorem State.kernels_foldl_ctxWrite (ps : List (Nat × List Byte)) (s : State) (h : ∀ p ∈ ps, homeOf p.1 = .hbm) :
    (ps.foldl (fun (u : State) p => u.ctxWrite x epoch p.1 p.2) s).kernels = s.kernels := by
  induction ps generalizing s with
  | nil => rfl
  | cons p ps ih =>
    rw [List.foldl_cons, ih _ (fun q hq => h q (List.mem_cons_of_mem _ hq)), State.kernels_ctxWrite _ _ _ _ _ (h p List.mem_cons_self)]

end

/-! ## A role is bound -/

/-- A role may be bound: the kernel is pinned and runs, and role and core are ones there are (R132). -/
structure Rebinds (s : State) (k role core : Nat) (kn : Kernel) : Prop where
  /-- Masters are served. -/
  served : s.recovering = false
  /-- The kernel. -/
  kernel : s.kernel? k = some kn
  /-- It is pinned. -/
  pinned : kn.pinned = true
  /-- It runs. -/
  running : kn.st = .running
  /-- The role. -/
  role : role < 256
  /-- The core. -/
  core : core < Config.cores

/-- The distributor's copy of the binding table with a role's new core (R132). -/
def Kernel.boundRoles (kn : Kernel) (role core : Nat) : List Nat := kn.roles.set role (2 ^ 31 + core)

/-- The pieces of that copy in memory. -/
def State.boundPieces (s : State) (kn : Kernel) (role core : Nat) : List (Nat × List Byte) := s.rolesPieces kn (kn.boundRoles role core)

/-- The machine once a role of a kernel is bound and the copy written back (R132). -/
def State.roleBound (s : State) (k role core : Nat) (kn : Kernel) : State :=
  (s.boundPieces kn role core).foldl (fun (u : State) p => u.ctxWrite kn.ctx (s.ctx kn.ctx).epoch p.1 p.2)
    (s.modKernel k (fun kn' => { kn' with bind := kn'.bind.put role core, roles := kn.boundRoles role core }))

section
variable {s : State} {k role core : Nat} {kn : Kernel} (h : Rebinds s k role core kn)
include h

/-- A rebinding waits for the walks of the table and for its lines (R90). -/
theorem Rebinds.exec_eq : exec (.roleRebinding k role core) s =
    if s.rangeHeld 0 kn.ctx Need.write kn.rolesAt (4 * (kn.boundRoles role core).length) = true then .next s
    else if (!(s.boundPieces kn role core).all (fun p => s.unowned p.1 p.2.length)) = true then .next s
    else .next (s.roleBound k role core kn) := by
  show execRoleRebinding k role core s = _
  unfold execRoleRebinding
  simp only [h.kernel, h.served, h.pinned, h.running, decide_eq_false (Nat.not_le.2 h.role), decide_eq_false (Nat.not_le.2 h.core),
    beq_self_eq_true, Bool.not_true, Bool.or_false, Bool.false_eq_true, if_false]
  rfl

theorem Rebinds.waits (hw : s.rangeHeld 0 kn.ctx Need.write kn.rolesAt (4 * (kn.boundRoles role core).length) = true ∨
      ∃ p ∈ s.boundPieces kn role core, s.unowned p.1 p.2.length = false) : exec (.roleRebinding k role core) s = .next s := by
  rw [h.exec_eq]
  rcases hw with hw | ⟨p, hp, hu⟩
  · exact if_pos hw
  · have hall : (s.boundPieces kn role core).all (fun p => s.unowned p.1 p.2.length) = false :=
      List.all_eq_false.2 ⟨p, hp, by rw [hu]; exact Bool.false_ne_true⟩
    rw [hall]
    exact ite_self _

theorem Rebinds.binds (hw : s.rangeHeld 0 kn.ctx Need.write kn.rolesAt (4 * (kn.boundRoles role core).length) = false)
    (hu : ∀ p ∈ s.boundPieces kn role core, s.unowned p.1 p.2.length = true) (hh : ∀ p ∈ s.boundPieces kn role core, homeOf p.1 = .hbm)
    (hd : (s.boundPieces kn role core).Pairwise (fun p q => p.1 + p.2.length ≤ q.1 ∨ q.1 + q.2.length ≤ p.1)) :
    ∃ t x, exec (.roleRebinding k role core) s = .next t ∧ t.kernel? k = some x ∧
      x = { kn with bind := kn.bind.put role core, roles := kn.boundRoles role core } ∧ (∀ j, j ≠ k → t.kernel? j = s.kernel? j) ∧
      (∀ p ∈ s.boundPieces kn role core, ∀ i, i < p.2.length → t.mem.rd 0 (p.1 + i) = p.2.getD i 0) ∧
      (∀ a, (∀ p ∈ s.boundPieces kn role core, a < p.1 ∨ p.1 + p.2.length ≤ a) → t.mem.rd 0 a = s.mem.rd 0 a) := by
  have hall : (s.boundPieces kn role core).all (fun p => s.unowned p.1 p.2.length) = true := List.all_eq_true.2 hu
  have hk : (s.roleBound k role core kn).kernels = _ := State.kernels_foldl_ctxWrite _ _ _ _ hh
  have hmem : (s.roleBound k role core kn).mem = _ := State.mem_foldl_ctxWrite _ _ _ _ hh
  refine ⟨s.roleBound k role core kn, _, by rw [h.exec_eq, hw, hall]; rfl, ?_, rfl, fun j hj => ?_, fun p hp i hi => ?_, fun a ha => ?_⟩
  · unfold State.kernel?
    rw [hk]
    exact (State.kernel?_modKernel s k k _).trans (by rw [if_pos rfl, h.kernel]; rfl)
  · unfold State.kernel?
    rw [hk]
    exact (State.kernel?_modKernel s k j _).trans (if_neg hj)
  · rw [hmem]
    exact Tab.rd_foldl_wrBytes_inside _ _ hd p hp i hi
  · rw [hmem]
    exact Tab.rd_foldl_wrBytes_outside _ _ a ha

end

theorem length_flatMap_leBytes (n : Nat) (l : List Nat) : (l.flatMap (leBytes n)).length = n * l.length := by
  simp [List.length_flatMap, Nat.mul_comm]

/-- The pieces of the table are the blocks of its range that are mapped (R132). -/
theorem State.mem_rolesPieces (s : State) (kn : Kernel) (roles : List Nat) (p : Nat × List Byte) : p ∈ s.rolesPieces kn roles ↔
    ∃ b ∈ blocksOf kn.rolesAt (4 * roles.length), ∃ pa, s.translate 0 kn.ctx b.1 Need.write = .ok pa ∧
      p = (pa, ((roles.flatMap (leBytes 4)).drop (b.1 - kn.rolesAt)).take b.2) := by
  unfold State.rolesPieces
  dsimp only
  rw [List.mem_filterMap, length_flatMap_leBytes]
  refine exists_congr fun b => and_congr_right fun _ => ?_
  cases s.translate 0 kn.ctx b.1 Need.write with
  | error c => simp
  | ok pa => simp [eq_comm]

/-! ## A message that is answered -/

/-- What stands neither in the ports nor in the event list a message's leaving leaves as it is. -/
theorem State.post_keeps {β : Type} (f : State → β) (hf : ∀ (s : State) p e, f { s with ports := p, events := e } = f s) (s : State) (m : Msg) :
    f (s.post m) = f s := by
  unfold State.post
  split
  · exact hf s s.ports _
  · exact hf s _ s.events

theorem State.sendFor_open (s : State) (g : Origin) (kind dst pa va n : Nat) (data : List Word) (h : s.openPort ≠ none) :
    s.sendFor g kind dst pa va n data = ({ s with
      msgNext := s.msgNext + 1
      pend := s.pend.put s.msgNo ⟨⟨kind, Config.package, dst, s.msgNo, pa, data⟩, g.who, g.attempt, va, n, g.op, g.elem, g.core, g.epoch,
        g.ctx, noOp⟩ }).post ⟨kind, Config.package, dst, s.msgNo, pa, data⟩ := by
  unfold State.sendFor
  cases hp : s.openPort with
  | none => exact absurd hp h
  | some p => rfl

/-- A write for a context to another package is one message of kind 3 that waits for its acknowledgement; kernels and memory stay (R367). -/
theorem State.ctxWrite_remote (s : State) (x epoch pa : Nat) (bs : List Byte) (g : Nat) (hh : homeOf pa = .remote g) (hp : s.openPort ≠ none) :
    (s.ctxWrite x epoch pa bs).kernels = s.kernels ∧ (s.ctxWrite x epoch pa bs).mem = s.mem ∧
      ∃ y, (s.ctxWrite x epoch pa bs).pend.find? s.msgNo = some y ∧ y.msg.kind = 3 ∧ y.msg.addr = pa := by
  unfold State.ctxWrite State.commitFor
  rw [hh]
  dsimp only
  refine ⟨?_, State.mem_sendFor _ _ _ _ _ _ _ _, ?_⟩
  · rw [State.sendFor_open _ _ _ _ _ _ _ _ hp, State.post_keeps State.kernels (fun _ _ _ => rfl)]
  · rw [State.sendFor_open _ _ _ _ _ _ _ _ hp, State.post_keeps State.pend (fun _ _ _ => rfl)]
    exact ⟨_, Tab.find?_put_same _ _ _, rfl, rfl⟩

/-! ## A kernel starts -/

theorem kernelStartTick_starts (s : State) (k : Nat) (kn : Kernel) (hk : s.kernel? k = some kn) (hw : kn.st = .waiting)
    (ht : kn.start ≤ s.tabor.toNat) (hs : s.stopped = false) : exec (.kernelStartTick k) s = .next (s.startKernel k) := by
  show execKernelStartTick k s = _
  unfold execKernelStartTick
  simp [hk, hw, ht, hs]

/-! ## A drained kernel completes -/

/-- A retiring kernel whose writes have been performed, in a cycle after that of its last crew's end (R134). -/
structure Drained (s : State) (k : Nat) (kn : Kernel) : Prop where
  /-- The kernel. -/
  kernel : s.kernel? k = some kn
  /-- Its last crew has ended. -/
  retiring : kn.st = .retiring
  /-- In an earlier cycle. -/
  past : kn.endCycle < s.cycle
  /-- Its writes have been performed. -/
  quiet : s.kernelQuiet kn = true

/-- A kernel's record is written, and a retiring kernel is complete (R134). -/
def State.recordKernel (s : State) (k : Nat) : State :=
  s.modKernel k (fun kn => { kn with recorded := true, st := if kn.st == .retiring then .complete else kn.st })

theorem State.kernel?_recordKernel (s : State) (k : Nat) (kn : Kernel) (hk : s.kernel? k = some kn) (hr : kn.st = .retiring) :
    (s.recordKernel k).kernel? k = some { kn with recorded := true, st := .complete } := by
  unfold State.recordKernel
  rw [State.kernel?_modKernel, if_pos rfl, hk, Option.map_some, hr]
  rfl

/-- The machine once a kernel's completion record has left for `pa` (R135). -/
def State.doneWritten (s : State) (kn : Kernel) (pa : Nat) : State :=
  (s.dropLacking 0 kn.ctx kn.done Need.write).ctxWrite kn.ctx (s.ctx kn.ctx).epoch pa (leBytes 32 (doneRecord kn kn.energy))

section
variable {s : State} {k : Nat} {kn : Kernel} (h : Drained s k kn) (n : Nat)
include h

/-- The test of KERNEL_DRAINED that a drained kernel passes. -/
theorem Drained.ready : ((kn.st == .retiring && decide (kn.endCycle < s.cycle) && s.kernelQuiet kn) ||
    (kn.st == .failed && !kn.recorded && !s.stopped)) = true := by
  rw [h.retiring, h.quiet, decide_eq_true h.past]
  rfl

/-- A record on its way to another package is waited for (R135). -/
theorem Drained.acknowledged (m : Nat) (hm : kn.recording = some m) :
    ((s.pend.find? m).isSome = true → exec (.kernelDrained k n) s = .next s) ∧
    (s.pend.find? m = none → ∃ t, exec (.kernelDrained k n) s = .next t ∧ { t with kernels := s.kernels } = s ∧
      t.kernel? k = some { kn with recorded := true, st := .complete }) := by
  have he : exec (.kernelDrained k n) s = if (s.pend.find? m).isSome = true then .next s else .next (s.recordKernel k) := by
    show execKernelDrained k n s = _
    unfold execKernelDrained
    rw [h.kernel]
    dsimp only
    rw [h.ready, hm]
    rfl
  rw [he]
  exact ⟨fun hs => if_pos hs, fun hs => ⟨_, if_neg (by rw [hs]; exact Bool.false_ne_true), rfl,
    s.kernel?_recordKernel k kn h.kernel h.retiring⟩⟩

section
variable (pa : Nat) (hrec : kn.recording = none) (hheld : s.walkHeld 0 kn.ctx kn.done Need.write = false)
  (hpa : s.translate 0 kn.ctx kn.done Need.write = .ok pa) (hown : s.unowned pa 32 = true)
include hrec hheld hpa hown

/-- A record whose turn it is leaves by its home. -/
theorem Drained.exec_eq : exec (.kernelDrained k n) s = match homeOf pa with
    | .remote _ => .next ((s.doneWritten kn pa).modKernel k (fun kn => { kn with recording := some s.msgNo }))
    | _ => .next ((s.doneWritten kn pa).recordKernel k) := by
  show execKernelDrained k n s = _
  unfold execKernelDrained
  rw [h.kernel]
  dsimp only
  rw [h.ready, hrec]
  dsimp only
  rw [hheld, hpa]
  dsimp only
  rw [hown]
  rfl

/-- A record in this package's HBM is written, and the kernel is complete (R135). -/
theorem Drained.records (hh : homeOf pa = .hbm) : ∃ t x, exec (.kernelDrained k n) s = .next t ∧ t.kernel? k = some x ∧ x.st = .complete ∧
    x.recorded = true ∧ ∀ a, t.mem.rd 0 a =
      if pa ≤ a ∧ a < pa + 32 then (leBytes 32 (doneRecord kn kn.energy)).getD (a - pa) 0 else s.mem.rd 0 a := by
  have hk : (s.doneWritten kn pa).kernel? k = some kn :=
    (congrArg (Tab.find? · k) (State.kernels_ctxWrite _ _ (s.dropLacking _ _ _ _) pa _ hh)).trans h.kernel
  have he := h.exec_eq n pa hrec hheld hpa hown
  rw [hh] at he
  refine ⟨_, _, he, State.kernel?_recordKernel _ k kn hk h.retiring, rfl, rfl, fun a => ?_⟩
  show (s.doneWritten kn pa).mem.rd 0 a = _
  unfold State.doneWritten State.ctxWrite
  rw [State.mem_commitFor _ _ _ _ _ _ hh, Tab.rd_wrBytes, length_leBytes, State.mem_dropLacking]

/-- A record at another package goes there in one message, and the kernel waits for the acknowledgement (R135, R367). -/
theorem Drained.sends (g : Nat) (hh : homeOf pa = .remote g) (hp : s.openPort ≠ none) : ∃ t x y, exec (.kernelDrained k n) s = .next t ∧
    t.kernel? k = some x ∧ x = { kn with recording := some s.msgNo } ∧ t.pend.find? s.msgNo = some y ∧ y.msg.kind = 3 ∧ y.msg.addr = pa ∧
    SameMemory s t := by
  obtain ⟨hkernels, hmem, y, hy, hkind, haddr⟩ := State.ctxWrite_remote (s.dropLacking 0 kn.ctx kn.done Need.write) kn.ctx
    (s.ctx kn.ctx).epoch pa (leBytes 32 (doneRecord kn kn.energy)) g hh hp
  have he := h.exec_eq n pa hrec hheld hpa hown
  rw [hh] at he
  refine ⟨_, _, y, he, ?_, rfl, hy, hkind, haddr, fun a => congrArg (Tab.rd 0 · a) hmem⟩
  rw [State.kernel?_modKernel, if_pos rfl]
  exact congrArg _ ((congrArg (Tab.find? · k) hkernels).trans h.kernel)

end
end

/-! ## A kernel is cancelled -/

theorem kernelCancel_fails (s : State) (k : Nat) (kn : Kernel) (hr : s.recovering = false) (hk : s.kernel? k = some kn)
    (h : kn.st = .started ∨ kn.st = .waiting ∨ kn.st = .running ∨ (kn.st = .retiring ∧ kn.endCycle = s.cycle)) :
    exec (.kernelCancel k) s = .next (s.failKernel k 3 0 0) := by
  show execKernelCancel k s = _
  unfold execKernelCancel State.stillRunning
  rw [hr, hk]
  dsimp only
  rcases h with h | h | h | ⟨h, he⟩
  · rw [h]; rfl
  · rw [h]; rfl
  · rw [h]; rfl
  · rw [h, he]; simp

/-- Settles O51: each turn of a kernel by the lemma of its case. -/
theorem kernelEvents : Obligations.KernelEvents := by
  unfold Obligations.KernelEvents
  refine ⟨fun s s1 k die core base c tile => crewPlace_places s s1 k die core base c tile,
    fun s s1 k die core base c tile kn => placeCrew_seats s s1 k die core base c tile kn,
    fun s k thief victim kn => stealMessage_takesHalf s k thief victim kn, ?_, fun s k kn => kernelStartTick_starts s k kn, ?_,
    fun s k kn => kernelCancel_fails s k kn⟩
  · intro s k role core kn hs hk hp hr hrole hcore
    have h : Rebinds s k role core kn := ⟨hs, hk, hp, hr, hrole, hcore⟩
    exact ⟨h.waits, h.binds, s.mem_rolesPieces kn _⟩
  · intro s k n kn hk hr hpast hq
    have h : Drained s k kn := ⟨hk, hr, hpast, hq⟩
    exact ⟨fun pa hrec hheld hpa hown => ⟨h.records n pa hrec hheld hpa hown, h.sends n pa hrec hheld hpa hown⟩, h.acknowledged n⟩

end Sys2Proof.Machine
end

section
/-!
SNAP and GPW: firings of the Clave (R374, R375) and the store of a graph's parameter (R139).
-/

namespace Sys2Proof.Machine

open Sys2Proof Sys2Proof.Safety Host

/-! ## The Clave fires -/

/-- A firing is recorded in every context, and latches outside a latch in progress; a Tabor match in the cycle of a host firing counts as
the host's (R374). -/
theorem State.claveFires_fireClave (s : State) (src : Nat) (late : Option Bool) :
    ClaveFires s (s.fireClave src late) (if src = 5 ∧ s.claveHost = some s.cycle then 1 else src) late := by
  unfold State.fireClave
  dsimp only
  cases hb : s.claveBusy <;> simp only [Bool.false_eq_true, if_true, if_false]
  case true => exact ⟨rfl, by rw [hb]; rfl, by rw [hb]; rfl, rfl, fun c => by rw [hb, Tab.find?_mapV]; cases late <;> rfl, rfl⟩
  case false => exact ⟨rfl, by rw [hb]; rfl, by rw [hb]; rfl, rfl, fun c => by rw [hb, Tab.find?_mapV]; cases late <;> rfl, rfl⟩

theorem State.claveFires_snap (s : State) (late : Option Bool) : ClaveFires s (s.fireClave 3 late) 3 late := s.claveFires_fireClave 3 late

theorem snap_local (f : Fields) (s : State) (q : Cursor) (cr : Crew) (w : Wave) (h : IssuesWave s (.snap f) [] q cr w) (hm : f.m 0 = false) :
    ∃ t, exec (.snap f) s = .next t ∧ ClaveFires s t 3 none := by
  refine ⟨_, ?_, s.claveFires_snap none⟩
  show execSnap f s = _
  unfold execSnap
  rw [s.waved_acts (.snap f) [] q cr w _ h, hm]
  rfl

/-! ## A gang is told -/

/-- The first entry that satisfies a test keeps its place when its value changes to one that does as the old one did. -/
theorem Tab.head?_filter_put {α : Type} (c : α → Bool) (t : Tab α) (k : Nat) (p v : α) (hk : t.find? k = some p) (hv : c v = c p)
    (h : ((t.filter (fun e => c e.2)).head?.map (·.1)) = some k) : (((t.put k v).filter (fun e => c e.2)).head?.map (·.1)) = some k := by
  induction t with
  | nil => cases hk
  | cons e t ih =>
    obtain ⟨j, u⟩ := e
    unfold Tab.put
    unfold Tab.find? at hk
    rw [List.filter_cons] at h
    dsimp only at h
    split
    · rw [List.filter_cons]
      split
      · rfl
      · rw [List.filter_cons]
        exact h
    · split at hk
      · rename_i hkj
        obtain rfl := Option.some.inj hk
        rw [if_pos hkj, List.filter_cons]
        dsimp only
        rw [hv]
        split
        · rfl
        · rename_i hu
          rwa [if_neg hu] at h
      · rename_i hkj
        rw [if_neg hkj, List.filter_cons]
        dsimp only
        split
        · rename_i hu
          rw [if_pos hu] at h
          exact absurd (Option.some.inj h).symm hkj
        · rename_i hu
          rw [if_neg hu] at h
          exact ih hk h

/-- A message of the package on a port that carries. -/
theorem State.tell_port (s : State) (kind dst addr : Nat) (data : List Word) (k : Nat) (p : Port) (ho : s.openPort = some k)
    (hp : s.ports.find? k = some p) : ∃ y m, (s.tell kind dst addr data).openPort = some k ∧ (s.tell kind dst addr data).ports.find? k = some y ∧
      y.msgs = p.msgs ++ [m] ∧ m.kind = kind ∧ m.dst = dst ∧ m.src = Config.package ∧ m.data = data := by
  let m : Msg := ⟨kind, Config.package, dst, s.msgNext % 2 ^ 24, addr, data⟩
  let y : Port := { p with out := p.out ++ m.words, msgs := p.msgs ++ [m] }
  have hports : (s.tell kind dst addr data).ports = s.ports.put k y := by
    have ho' : ({ s with msgNext := s.msgNext + 1 } : State).openPort = some k := ho
    unfold State.tell State.post
    dsimp only
    rw [ho']
    dsimp only
    unfold State.modPort State.port Tab.rd
    rw [hp]
    rfl
  refine ⟨y, m, ?_, ?_, rfl, rfl, rfl, rfl, rfl⟩
  · unfold State.openPort
    rw [hports]
    exact Tab.head?_filter_put Port.carries s.ports k p y hp rfl ho
  · rw [hports, Tab.find?_put_same]

/-- Telling each of a list of packages puts one message for each on the port, in order. -/
theorem State.foldl_tell_port (kind addr : Nat) (data : List Word) (k : Nat) (l : List Nat) (s : State) (p : Port)
    (ho : s.openPort = some k) (hp : s.ports.find? k = some p) :
    ∃ y ms, (l.foldl (fun (u : State) g => u.tell kind g addr data) s).ports.find? k = some y ∧ y.msgs = p.msgs ++ ms ∧
      ms.map (·.dst) = l ∧ ∀ m ∈ ms, m.kind = kind ∧ m.src = Config.package ∧ m.data = data := by
  induction l generalizing s p with
  | nil => exact ⟨p, [], hp, (List.append_nil _).symm, rfl, fun m hm => absurd hm List.not_mem_nil⟩
  | cons g l ih =>
    obtain ⟨p', m, ho', hp', hmsgs, hkind, hdst, hsrc, hdata⟩ := s.tell_port kind g addr data k p ho hp
    obtain ⟨y, ms, hy, hys, hdsts, hall⟩ := ih _ p' ho' hp'
    refine ⟨y, m :: ms, hy, ?_, ?_, List.forall_mem_cons.2 ⟨⟨hkind, hsrc, hdata⟩, hall⟩⟩
    · rw [hys, hmsgs, List.append_assoc]
      rfl
    · rw [List.map_cons, hdst, hdsts]

/-- The machine once every other package of the gang has been told a tick (R375). -/
def State.gangTold (s : State) (tick : Nat) : State :=
  (s.gang.filter (· ≠ Config.package)).foldl (fun (u : State) p => u.tell 9 p 0 (splitWords 4 tick)) s

section
variable (f : Fields) (s : State) (q : Cursor) (cr : Crew) (w : Wave) (h : IssuesWave s (.snap f) [] q cr w) (hm : f.m 0 = true)
include h hm

theorem exec_snap_gang : exec (.snap f) s = .next (if sVal w f.a.toNat 2 ≤ s.tabor.toNat
    then (s.gangTold (sVal w f.a.toNat 2)).fireClave 3 (some (decide (sVal w f.a.toNat 2 < s.tabor.toNat)))
    else { s.gangTold (sVal w f.a.toNat 2) with claveTicks := (s.gangTold (sVal w f.a.toNat 2)).claveTicks ++ [(sVal w f.a.toNat 2, true)] }) := by
  show execSnap f s = _
  unfold execSnap
  rw [s.waved_acts (.snap f) [] q cr w _ h, hm]
  rfl

theorem snap_gang_schedules (ht : s.tabor.toNat < sVal w f.a.toNat 2) : exec (.snap f) s = .next { s.gangTold (sVal w f.a.toNat 2) with
    claveTicks := (s.gangTold (sVal w f.a.toNat 2)).claveTicks ++ [(sVal w f.a.toNat 2, true)] } := by
  rw [exec_snap_gang f s q cr w h hm, if_neg (Nat.not_le.2 ht)]

theorem snap_gang_fires (ht : sVal w f.a.toNat 2 ≤ s.tabor.toNat) : ∃ t, exec (.snap f) s = .next t ∧
    ClaveFires (s.gangTold (sVal w f.a.toNat 2)) t 3 (some (decide (sVal w f.a.toNat 2 < s.tabor.toNat))) :=
  ⟨_, (exec_snap_gang f s q cr w h hm).trans (congrArg _ (if_pos ht)), State.claveFires_snap _ _⟩

end

/-! ## GPW -/

/-- The machine once the release half of the issuing strand's instruction is over (R55). -/
def State.releaseOver (s : State) (q : Cursor) : State :=
  s.modWave q.crew q.wave (fun w => w.modStrand q.strand (fun st => { st with rel := none }))

/-- An instruction with nothing to release acts at once (R55). -/
theorem State.afterRelease_none (s : State) (q : Cursor) (cr : Crew) (w : Wave) (sc : Nat) (body : State → State)
    (h : s.curWave = some (q, cr, w)) (hr : (w.strand q.strand).rel = none) (hl : s.releaseList q.crew q.wave allLanes sc = []) :
    s.afterRelease sc body = body (s.releaseOver q) := by
  have hmod (f : Strand → Strand) : s.modCurStrand f = s.modWave q.crew q.wave (fun w => w.modStrand q.strand f) := by
    unfold State.modCurStrand
    rw [(s.curWave_spec q cr w h).1]
    rfl
  unfold State.afterRelease
  rw [h]
  dsimp only
  rw [hr]
  dsimp only
  rw [hl, hmod]
  rfl

/-- A crew's bytes at home do not depend on its waves. -/
theorem State.homeBytes_modWave (s : State) (c w : Nat) (f : Wave → Wave) (v : View) (pa n : Nat) :
    (s.modWave c w f).homeBytes v pa n = s.homeBytes v pa n := by
  have hb (a : Nat) : (s.modWave c w f).homeByte v a = s.homeByte v a := by
    unfold State.homeByte
    cases v.crew with
    | none => rfl
    | some d =>
      dsimp only [Option.bind_some]
      unfold State.modWave
      rw [State.crew?_modCrew]
      by_cases hd : d = c
      · rw [if_pos hd, hd]
        cases s.crew? c <;> rfl
      · rw [if_neg hd]
        rfl
  exact List.map_congr_left fun i _ => hb (pa + i)

theorem gpw_outside (f : Fields) (s : State) (q : Cursor) (cr : Crew) (w : Wave) (h : IssuesWave s (.gpw f) [] q cr w)
    (hn : ∀ kn, s.kernel? cr.kernel = some kn → kn.graph = 0) : exec (.gpw f) s = .next (s.trapHdr Cause.protection) := by
  show execGpw f s = _
  unfold execGpw
  rw [s.waved_acts (.gpw f) [] q cr w _ h]
  dsimp only
  cases hk : s.kernel? cr.kernel with
  | none => rfl
  | some kn => exact congrArg _ (if_pos (hn kn hk))

/-- GPW may store: its crew's kernel is of a graph, nothing is to be released, and the graph record's base and the parameter's address are
mapped (R139). -/
structure GraphStore (f : Fields) (s : State) (q : Cursor) (cr : Crew) (w : Wave) (kn : Kernel) (ga pa : Nat) : Prop where
  /-- It issues. -/
  issues : IssuesWave s (.gpw f) [] q cr w
  /-- The kernel. -/
  kernel : s.kernel? cr.kernel = some kn
  /-- Its graph. -/
  graph : kn.graph ≠ 0
  /-- No release half is under way. -/
  fresh : (w.strand q.strand).rel = none
  /-- Nothing is to be released. -/
  settled : s.releaseList q.crew q.wave allLanes 7 = []
  /-- No engine owns a line that the walk of the record reads. -/
  recordWalk : s.walkHeld (dieOf cr.core) cr.ctx (kn.graph + 8) Need.read = false
  /-- The record. -/
  record : s.translate (dieOf cr.core) cr.ctx (kn.graph + 8) Need.read = .ok ga
  /-- The parameter's address is one. -/
  range : leNat (s.homeBytes (View.ofCrew q.crew) ga 8) + 8 * f.mb 0 8 < 2 ^ 56
  /-- No engine owns a line that the walk of the parameter reads. -/
  paramWalk : (s.dropLacking (dieOf cr.core) cr.ctx (kn.graph + 8) Need.read).walkHeld (dieOf cr.core) cr.ctx
    (leNat (s.homeBytes (View.ofCrew q.crew) ga 8) + 8 * f.mb 0 8) Need.write = false
  /-- The parameter. -/
  param : (s.dropLacking (dieOf cr.core) cr.ctx (kn.graph + 8) Need.read).translate (dieOf cr.core) cr.ctx
    (leNat (s.homeBytes (View.ofCrew q.crew) ga 8) + 8 * f.mb 0 8) Need.write = .ok pa

/-- The machine that GPW's store meets: the release half is over, and translations that lack a right have left (R357). -/
def State.beforeParam (s : State) (q : Cursor) (cr : Crew) (g a : Nat) : State :=
  ((s.releaseOver q).dropLacking (dieOf cr.core) cr.ctx (g + 8) Need.read).dropLacking (dieOf cr.core) cr.ctx a Need.write

/-- Eight bytes at an address. -/
def paramElem (a pa : Nat) : Elem := ⟨0, 0, a, pa, 8, 0, 0, [], none, .pending⟩

section
variable {f : Fields} {s : State} {q : Cursor} {cr : Crew} {w : Wave} {kn : Kernel} {ga pa : Nat} (h : GraphStore f s q cr w kn ga pa)
include h

theorem GraphStore.exec_eq :
    let a := leNat (s.homeBytes (View.ofCrew q.crew) ga 8) + 8 * f.mb 0 8
    let u := s.beforeParam q cr kn.graph a
    exec (.gpw f) s = .next (u.storeLocal 0 0 (newOp u q cr w (.gpw f) 0) cr (paramElem a pa) 7 (sVal w f.a.toNat 2) false) := by
  intro a u
  have hwalk : (s.releaseOver q).walkHeld (dieOf cr.core) cr.ctx (kn.graph + 8) Need.read = false := h.recordWalk
  have htr : (s.releaseOver q).translate (dieOf cr.core) cr.ctx (kn.graph + 8) Need.read = .ok ga := h.record
  have hbytes : ((s.releaseOver q).dropLacking (dieOf cr.core) cr.ctx (kn.graph + 8) Need.read).homeBytes (View.ofCrew q.crew) ga 8 =
    s.homeBytes (View.ofCrew q.crew) ga 8 := s.homeBytes_modWave _ _ _ _ _ _
  have hpwalk : ((s.releaseOver q).dropLacking (dieOf cr.core) cr.ctx (kn.graph + 8) Need.read).walkHeld (dieOf cr.core) cr.ctx a
    Need.write = false := h.paramWalk
  have hptr : ((s.releaseOver q).dropLacking (dieOf cr.core) cr.ctx (kn.graph + 8) Need.read).translate (dieOf cr.core) cr.ctx a
    Need.write = .ok pa := h.param
  show execGpw f s = _
  unfold execGpw
  rw [s.waved_acts (.gpw f) [] q cr w _ h.issues, h.kernel]
  dsimp only
  rw [if_neg h.graph, s.afterRelease_none q cr w 7 _ h.issues.1.1 h.fresh h.settled]
  rw [hwalk, htr]
  dsimp only
  rw [hbytes, if_neg (Nat.not_le.2 h.range), hpwalk, hptr]
  rfl

theorem GraphStore.stores :
    ∃ t e, exec (.gpw f) s = .next t ∧ SameMemory s t ∧ (t.core cr.core).wq = (s.core cr.core).wq ++ [e] ∧
      e.pa = pa ∧ e.bytes = leBytes 8 (sVal w f.a.toNat 2) ∧ e.scope = 7 ∧ e.direct = cr.direct :=
  ⟨_, _, h.exec_eq, fun a => congrArg (Tab.rd 0 · a) (State.mem_storeLocal _ _ _ _ _ _ _ _ _), State.wq_storeLocal _ _ _ _ _ _ _ _ _,
    rfl, rfl, rfl, rfl⟩

end

/-- Settles O39: SNAP by its two forms, GPW by whether its kernel is of a graph. -/
theorem snapAndGpw : Obligations.SnapAndGpw := by
  unfold Obligations.SnapAndGpw
  refine ⟨snap_local, fun f s q cr w h hm => ?_, ?_, gpw_outside⟩
  · exact ⟨s.gangTold (sVal w f.a.toNat 2), rfl, fun k p ho hp => State.foldl_tell_port 9 0 _ k _ s p ho hp,
      snap_gang_schedules f s q cr w h hm, snap_gang_fires f s q cr w h hm⟩
  · intro f s q cr w kn ga pa hi hk hg hr hl die hw ht s1 a ha hpw hpt
    exact (GraphStore.mk hi hk hg hr hl hw ht ha hpw hpt : GraphStore f s q cr w kn ga pa).stores

end Sys2Proof.Machine
end

section
/-!
Branches (R145, R154 to R157): a branch whose lanes all go one way has one part, which its strand keeps; every other branch is the split that
the model's own `State.branch` makes.
-/

namespace Sys2Proof.Machine

open Sys2Proof Sys2Proof.Safety Host

/-! ## Masks and parts -/

theorem getLsbD_laneBit (l j : Nat) (hl : l < 128) : (laneBit l).getLsbD j = decide (j = l) := by
  unfold laneBit
  rw [BitVec.getLsbD_ofNat, Nat.testBit_two_pow, Bool.eq_iff_iff]
  simp only [Bool.and_eq_true, decide_eq_true_eq]
  omega

/-- Gathering lanes into a mask adds their bits to it. -/
theorem getLsbD_gather (ls : List Nat) (m : LaneMask) (j : Nat) (hls : ∀ l ∈ ls, l < 128) :
    (ls.foldl (fun m l => m ||| laneBit l) m).getLsbD j = (m.getLsbD j || decide (j ∈ ls)) := by
  induction ls generalizing m with
  | nil => simp
  | cons a ls ih =>
    rw [List.foldl_cons, ih _ (fun l hl => hls l (List.mem_cons_of_mem _ hl)), BitVec.getLsbD_or,
      getLsbD_laneBit a j (hls a List.mem_cons_self), Bool.or_assoc]
    simp only [List.mem_cons, Bool.decide_or]

/-- The lanes of a mask, gathered again, are the mask. -/
theorem gather_lanesOf (m : LaneMask) : (lanesOf m).foldl (fun m l => m ||| laneBit l) 0 = m := by
  apply BitVec.eq_of_getLsbD_eq
  intro j hj
  rw [getLsbD_gather _ _ _ (fun l hl => ((mem_lanesOf m l).1 hl).1)]
  simp [mem_lanesOf, hj]

/-- Lanes that follow others to the same destination join their part. -/
theorem foldl_parts_same (ls : List Nat) (a : Nat) (m : LaneMask) :
    (ls.map (fun l => (a, l))).foldl (fun (t : Tab LaneMask) e => t.put e.1 (t.rd 0 e.1 ||| laneBit e.2)) [(a, m)] =
      [(a, ls.foldl (fun m l => m ||| laneBit l) m)] := by
  induction ls generalizing m with
  | nil => rfl
  | cons l ls ih =>
    have hput : Tab.put [(a, m)] a (Tab.rd 0 [(a, m)] a ||| laneBit l) = [(a, m ||| laneBit l)] := by
      simp [Tab.put, Tab.rd, Tab.find?]
    rw [List.map_cons, List.foldl_cons, hput, ih, List.foldl_cons]

/-- Lanes with one destination form one part (R145). -/
theorem partsOf_same (m : LaneMask) (a : Nat) (hm : m ≠ 0) : partsOf ((lanesOf m).map (fun l => (a, l))) = [(a, m)] := by
  have hg := gather_lanesOf m
  obtain ⟨l, ls, hl⟩ := List.exists_cons_of_ne_nil (lanesOf_ne_nil m hm)
  rw [hl] at hg ⊢
  exact (foldl_parts_same ls a (0 ||| laneBit l)).trans (by rw [← hg]; rfl)

/-- One part needs no slot: the strand keeps it (R145). -/
theorem Wave.place_one (w : Wave) (p : Nat × LaneMask) : w.place [p] = (w, [p]) := by
  unfold Wave.place
  have hput : ∀ ks, w.putParts ks [] = w := fun ks => by cases ks <;> rfl
  simp only [hput, List.drop_nil]

/-! ## The branch of a strand whose lanes all go one way -/

theorem State.branch_one (s : State) (q : Cursor) (cr : Crew) (w : Wave) (m : LaneMask) (a : Nat) (h : s.curWave = some (q, cr, w))
    (hm : m ≠ 0) : s.branch ((lanesOf m).map (fun l => (a, l))) =
      s.modWave q.crew q.wave (fun _ => w.modStrand q.strand (fun st => { st with mask := m, pc := a })) := by
  unfold State.branch
  rw [h]
  dsimp only
  rw [partsOf_same m a hm, w.place_one]
  have hmask : maskParts [(a, m)] = m := BitVec.zero_or
  rw [hmask]
  rfl

/-- Targets that are all the same sound one raise no trap (R154). -/
theorem firstTargetFault_none (act : LaneMask) (t : Nat → Nat) (a : Nat) (ht : ∀ l, t l = a) (ha : targetFault a = none) :
    firstTargetFault act t = none := by
  unfold firstTargetFault
  simp only [ht, ha, Option.map_none, List.filterMap_none, List.head?_nil]

theorem State.jump_traps (s : State) (q : Cursor) (w : Wave) (act : LaneMask) (t : Nat → Nat) (first : State → State) (e : Nat × Nat)
    (he : firstTargetFault act t = some e) : s.jump q w act t first = s.trapAt e.1 e.2 := by
  unfold State.jump
  rw [he]

theorem State.jump_parts (s : State) (q : Cursor) (w : Wave) (act : LaneMask) (t : Nat → Nat) (first : State → State)
    (he : firstTargetFault act t = none) : s.jump q w act t first =
      (first s).branch ((lanesOf ((w.strand q.strand).mask &&& w.lanes)).map
        (fun l => (if act.getLsbD l then t l else (w.strand q.strand).pc, l))) := by
  unfold State.jump
  rw [he]

/-- A whole strand that goes one way goes on at the target, and nothing else of what `first` leaves changes (R145). -/
theorem State.jump_one (s : State) (q : Cursor) (w : Wave) (act : LaneMask) (t : Nat → Nat) (first : State → State) (a : Nat)
    (cr : Crew) (y : Wave) (hy : (first s).curWave = some (q, cr, y)) (hz : act ≠ 0) (hact : act = (w.strand q.strand).mask &&& w.lanes)
    (ht : ∀ l, t l = a) (ha : targetFault a = none) : s.jump q w act t first =
      (first s).modWave q.crew q.wave (fun _ => y.modStrand q.strand (fun st => { st with mask := act, pc := a })) := by
  rw [s.jump_parts q w act t first (firstTargetFault_none act t a ht ha), ← hact]
  have hdest : (lanesOf act).map (fun l => (if act.getLsbD l then t l else (w.strand q.strand).pc, l)) =
      (lanesOf act).map (fun l => (a, l)) :=
    List.map_congr_left (fun l hl => by rw [if_pos ((mem_lanesOf act l).1 hl).2, ht])
  rw [hdest]
  exact (first s).branch_one q cr y act a hy hz

/-- A branch is what its meaning says where `first` leaves the issuing wave in its place and touches no other. -/
theorem branches_of (i : Instr) (pn : Bool) (pred : BitVec 3) (vs : List (Nat × Nat)) (t : Wave → Nat → Nat)
    (first : Cursor → Wave → LaneMask → State → State)
    (hexec : ∀ s, exec i s = s.laned i pn pred vs (fun q _ w act => s.jump q w act (t w) (first q w act)))
    (hfirst : ∀ s q cr w act, s.curWave = some (q, cr, w) →
      (∃ cr' y, (first q w act s).curWave = some (q, cr', y)) ∧ OnlyWave s (first q w act s) q.crew q.wave) :
    Branches i pn pred vs t first := by
  intro s q cr w act hi st
  have he : exec i s = .next (s.jump q w act (t w) (first q w act)) := (hexec s).trans (s.laned_acts i pn pred vs q cr w act _ hi)
  obtain ⟨⟨hcur, -⟩, -, hz, -⟩ := hi
  obtain ⟨⟨cr', y, hy⟩, honly⟩ := hfirst s q cr w act hcur
  refine ⟨fun e hf => ?_, fun hf => ?_, fun a hact ht ha => ?_⟩
  · rw [he, s.jump_traps q w act _ _ e hf]
  · rw [he, s.jump_parts q w act _ _ hf]
  · have hwy := ((first q w act s).curWave_spec q cr' y hy).2.2.2
    refine ⟨_, _, y, by rw [he, s.jump_one q w act (t w) _ a cr' y hy hz hact ht ha], hwy, ?_, rfl,
      onlyWave_trans honly (State.onlyWave_modWave' _ _ _ _)⟩
    rw [State.wave?_modWave, if_pos ⟨rfl, rfl⟩, hwy]
    rfl

theorem onlyWave_refl (s : State) (c w : Nat) : OnlyWave s s c w where
  rest := rfl
  waits := fun _ h => h
  memory := fun _ => rfl
  ops := fun _ => ⟨rfl, fun op p hs ht k hk => by rwa [Option.some.inj (hs.symm.trans ht)]⟩
  waves := ⟨fun _ => rfl, fun _ _ _ => rfl⟩

theorem State.curWave_writeRegs (s : State) (q : Cursor) (cr : Crew) (w : Wave) (l : List (Nat × Word)) (h : s.curWave = some (q, cr, w)) :
    ∃ cr', (s.writeRegs q.crew q.wave l).curWave = some (q, cr', w.setKeys l) := by
  obtain ⟨hq, -, -, hw⟩ := s.curWave_spec q cr w h
  exact State.curWave_of s _ q _ rfl (s.wave?_writeRegs _ _ l w hw) hq

/-! ## The obligation -/

/-- Settles O30: the four branches are one, with the return pair written first by CALL. -/
theorem branchesJump : Obligations.BranchesJump := by
  unfold Obligations.BranchesJump
  have hid : ∀ (s : State) (q : Cursor) (cr : Crew) (w : Wave), s.curWave = some (q, cr, w) →
      (∃ cr' y, s.curWave = some (q, cr', y)) ∧ OnlyWave s s q.crew q.wave := fun s q cr w h => ⟨⟨cr, w, h⟩, onlyWave_refl s _ _⟩
  refine ⟨fun f => ?_, fun f => ?_, fun f => ?_, fun f => ?_, ?_⟩
  · exact branches_of (.bra f) _ _ _ _ _ (fun _ => rfl) (fun s q cr w _ h => hid s q cr w h)
  · exact branches_of (.brx f) _ _ _ _ _ (fun _ => rfl) (fun s q cr w _ h => hid s q cr w h)
  · exact branches_of (.ret f) _ _ _ _ _ (fun _ => rfl) (fun s q cr w _ h => hid s q cr w h)
  · refine branches_of (.call f) _ _ _ _ _ (fun _ => rfl) (fun s q cr w act h => ⟨?_, s.onlyWave_writeRegs _ _ _⟩)
    obtain ⟨cr', h'⟩ := s.curWave_writeRegs q cr w (laneWrites f.kd f.d.toNat 2 act (fun _ => (w.strand q.strand).pc)) h
    exact ⟨cr', _, h'⟩
  · intro f s q cr w act ⟨⟨hcur, _⟩, _, hz, _⟩ hd
    exact ⟨_, s.wave?_writeRegs _ _ _ w (s.curWave_spec q cr w hcur).2.2.2, w.regsAfter_laneWrites f.kd f.d.toNat 2 act _ hz hd⟩

end Sys2Proof.Machine
end

section
/-!
JOIN, JOINW and EXIT (R144, R158, R159): the wait at the join point that follows, and what is left of a strand whose lanes end.
-/

namespace Sys2Proof.Machine

open Sys2Proof Sys2Proof.Safety Host

/-- A wave instruction that names no v register issues where no open chunk forbids it (R62). -/
theorem issuesWave_nil {s : State} {i : Instr} {q : Cursor} {cr : Crew} {w : Wave} (h : s.curWave = some (q, cr, w))
    (hf : w.chunkForbids i = false) : IssuesWave s i [] q cr w := ⟨⟨h, hf⟩, fun _ hg => nomatch hg⟩

/-- A strand that waits at the tagged clause that follows (R158). -/
theorem State.joinWait_waits (s : State) (q : Cursor) (cr : Crew) (w : Wave) (m : JoinMember) (hw : Dword)
    (hheld : s.walkHeld (dieOf cr.core) cr.ctx (w.strand q.strand).pc Need.fetch = false) :
    let s1 := s.dropLacking (dieOf cr.core) cr.ctx (w.strand q.strand).pc Need.fetch
    s1.fetchWord cr (w.strand q.strand).pc (s1.cachedClause cr (w.strand q.strand).pc).head? = .ok hw → (readHeader hw).jtag ≠ 0 →
    s.joinWait q cr w m = ((m.d.elim s1 (fun d => s1.waitFor q.crew q.wave q.strand [sKey d])).modStrand q.crew q.wave q.strand
      (fun st => { st with
        st := .waiting (.join (w.strand q.strand).pc (readHeader hw).jtag [m])
        woken := false, expired := false, waitHdr := w.clauseAddr })).settleStrands q.crew q.wave q.strand w.clauseAddr := by
  intro s1 hfetch htag
  unfold State.joinWait
  dsimp only
  rw [hheld, if_neg Bool.false_ne_true, hfetch]
  dsimp only
  rw [if_neg htag]
  cases m.d <;> rfl

/-! ## EXIT -/

/-- A wave whose lanes `act` have ended. -/
def Wave.endLanes (w : Wave) (act : LaneMask) : Wave := { w with lanes := w.lanes &&& ~~~act }

section
variable {f : Fields} {s : State} {q : Cursor} {cr : Crew} {w : Wave} {act : LaneMask} (h : IssuesLanes s (.exit f) f.pn f.pred [] q cr w act)
include h

/-- A strand with a lane left keeps its other lanes. -/
theorem exec_exit_left (hm : (w.strand q.strand).mask &&& ~~~act ≠ 0) : exec (.exit f) s =
    .next (s.modWave q.crew q.wave (fun _ =>
      (w.endLanes act).modStrand q.strand (fun st => { st with mask := (w.strand q.strand).mask &&& ~~~act }))) := by
  show execExit f s = _
  unfold execExit
  rw [s.laned_acts (.exit f) f.pn f.pred [] q cr w act _ h]
  dsimp only
  rw [if_pos hm]
  rfl

/-- A strand whose last lane ends is no more, and with the wave's last lane the wave ends, where no strand left is in pre-arrival. -/
theorem exec_exit_ends (hm : (w.strand q.strand).mask &&& ~~~act = 0)
    (hpre : ∀ k ∈ ((w.endLanes act).modStrand q.strand (fun _ => Strand.unused)).liveStrands,
      (((w.endLanes act).modStrand q.strand (fun _ => Strand.unused)).strand k).preArr = none) :
    let s1 := (s.dropLr q.crew q.wave q.strand).modWave q.crew q.wave
      (fun _ => (w.endLanes act).modStrand q.strand (fun _ => Strand.unused))
    exec (.exit f) s = .next (if w.lanes &&& ~~~act = 0 then s1.endWave q.crew q.wave
      else s1.settleStrands q.crew q.wave q.strand w.clauseAddr) := by
  intro s1
  have hnone : ((w.endLanes act).modStrand q.strand (fun _ => Strand.unused)).liveStrands.find?
      (fun k => (((w.endLanes act).modStrand q.strand (fun _ => Strand.unused)).strand k).preArr.isSome) = none :=
    List.find?_eq_none.2 (fun k hk => by simp [hpre k hk])
  unfold Wave.endLanes at hnone
  show execExit f s = _
  unfold execExit
  rw [s.laned_acts (.exit f) f.pn f.pred [] q cr w act _ h]
  dsimp only
  rw [if_neg (not_not_intro hm), hnone]
  rfl

end

/-! ## The obligation -/

/-- Settles O31: the three joins are one wait; EXIT by whether a lane of its strand is left. -/
theorem joinsAndExit : Obligations.JoinsAndExit := by
  unfold Obligations.JoinsAndExit
  refine ⟨?_, fun f s q cr w act h => ⟨fun hm => ?_, fun hm hpre => exec_exit_ends h hm hpre⟩⟩
  · rintro s q cr w hw i m hcur hfree hheld s1 rfl hfetch htag hi
    have hiss := issuesWave_nil hcur hfree
    have hwait := s.joinWait_waits q cr w m hw hheld hfetch htag
    rcases hi with ⟨f, rfl, rfl⟩ | ⟨f, rfl, rfl⟩ | ⟨f, rfl, rfl⟩
    · exact (s.waved_acts (.join f) [] q cr w _ hiss).trans (congrArg Outcome.next hwait)
    · exact (s.waved_acts (.joinw f) [] q cr w _ hiss).trans (congrArg Outcome.next hwait)
    · exact (s.waved_acts (.joinwImm f) [] q cr w _ hiss).trans (congrArg Outcome.next hwait)
  · refine ⟨_, exec_exit_left h hm, ?_, s.onlyWave_modWave' _ _ _⟩
    rw [State.wave?_modWave, if_pos ⟨rfl, rfl⟩, (s.curWave_spec q cr w h.1.1).2.2.2]
    rfl

end Sys2Proof.Machine
end

section
/-!
YIELD (R149, R160): the strand that gave way is marked until its wave chooses, which it does in the same step where none of its strands runs.
A strand that is alone is chosen again, and the mark is gone.
-/

namespace Sys2Proof.Machine

open Sys2Proof Sys2Proof.Safety Host

theorem exec_yield (f : Fields) (s : State) (q : Cursor) (cr : Crew) (w : Wave) (h : IssuesWave s (.yield f) [] q cr w) :
    exec (.yield f) s = .next (s.giveWay q.crew q.wave q.strand) := s.waved_acts (.yield f) [] q cr w _ h

/-- A wave that chooses a strand marks none as having yielded (R149). -/
theorem State.wave?_choose_some (s : State) (c w k : Nat) (wv : Wave) (hw : s.wave? c w = some wv)
    (hidle : ((List.range 4).any (fun k => (wv.strand k).st == .running) || wv.betweenRecords) = false) (hk : s.chooseStrand c w = some k) :
    (s.choose c w).wave? c w = some (wv.runStrand k) := by
  unfold State.choose
  rw [hw]
  dsimp only
  rw [hidle, hk, if_neg Bool.false_ne_true]
  dsimp only
  rw [State.wave?_modWave, if_pos ⟨rfl, rfl⟩, hw]
  rfl

/-- The crew of one wave of one running strand that log 14 places. -/
def loneCrew : Crew := Crew.probe 0 (readHeader 0) 0

/-- Its wave, whose strand 0 holds all lanes (R142). -/
def loneWave : Wave := (loneCrew.waves.find? 0).getD Wave.blank

/-- A package that runs that crew, its strand issuing. -/
def loneState : State := { State.reset with crews := [(0, loneCrew)], cur := some ⟨0, 0, 0, false⟩ }

theorem curWave_loneState : loneState.curWave = some (⟨0, 0, 0, false⟩, loneCrew, loneWave) := rfl

/-- The wave when its one strand has given way and nothing is chosen yet. -/
def loneYielded : Wave :=
  { loneWave.modStrand 0 (fun st => { st with st := .runnable, age := 0 }) with yieldedStrand := some 0, givenWay := some [] }

/-- The strand that yields alone is chosen again, and its wave has no mark of it. -/
theorem wave?_giveWay_loneState : (loneState.giveWay 0 0 0).wave? 0 0 = some (loneYielded.runStrand 0) :=
  State.wave?_choose_some _ 0 0 0 loneYielded rfl (by decide) (by decide)

/-- Refutes O32: after a YIELD in a wave of one strand the wave's mark of a yielding strand is empty, where the statement has the
strand marked in every case; the state is `loneState`. -/
theorem not_plainControl : ¬ Obligations.PlainControl := by
  unfold Obligations.PlainControl
  rintro ⟨-, hyield, -⟩
  have h : IssuesWave loneState (.yield (readFields 0)) [] ⟨0, 0, 0, false⟩ loneCrew loneWave := issuesWave_nil curWave_loneState rfl
  obtain ⟨t, x, ht, hx, -, -, hmark, -⟩ := hyield _ _ _ _ _ h
  obtain rfl : loneState.giveWay 0 0 0 = t := Outcome.next.inj ((exec_yield _ _ _ _ _ h).symm.trans ht)
  obtain rfl : loneYielded.runStrand 0 = x := Option.some.inj (wave?_giveWay_loneState.symm.trans hx)
  exact absurd hmark (by decide)

end Sys2Proof.Machine
end

section
/-!
Register blocks (R163, R164): RBACQ, and RBREL block by block.
-/

namespace Sys2Proof.Machine

open Sys2Proof Sys2Proof.Safety Host

/-! ## Blocks and tables -/

/-- A register element lies in the one block that its key gives (R141). -/
theorem inBlock_iff (b k : Nat) : inBlock b k = true ↔ k / 2048 = b := by
  unfold inBlock
  rw [Bool.and_eq_true, decide_eq_true_eq, decide_eq_true_eq]
  omega

theorem inBlock_vKey (b r l : Nat) (hl : l < 128) : inBlock b (128 * r + l) = true ↔ r / 16 = b := by
  rw [inBlock_iff]
  omega

/-- Dropping the entries of some keys leaves every other key's. -/
theorem Tab.find?_filter_key {α : Type} (t : Tab α) (p : Nat → Bool) (k : Nat) :
    Tab.find? (t.filter (fun e => p e.1)) k = if p k = true then t.find? k else none := by
  induction t with
  | nil => simp [Tab.find?]
  | cons e t ih =>
    rw [List.filter_cons]
    by_cases hk : k = e.1
    · subst hk
      by_cases hp : p e.1 = true
      · simp [hp, Tab.find?]
      · simp [hp, ih]
    · by_cases hp : p e.1 = true
      · simp only [hp, if_true, Tab.find?, if_neg hk]; exact ih
      · simp only [hp, Tab.find?, if_neg hk]; exact ih

/-- The v registers of a wave that has given up some blocks read 0 in those blocks and as before elsewhere. -/
theorem rd_dropBlocks (t : Tab Word) (bs : List Nat) (r l : Nat) (hl : l < 128) :
    Tab.rd 0 (t.filter (fun e => !bs.any (fun b => inBlock b e.1))) (128 * r + l) =
      if r / 16 ∈ bs then 0 else Tab.rd 0 t (128 * r + l) := by
  have hany : bs.any (fun b => inBlock b (128 * r + l)) = true ↔ r / 16 ∈ bs := by
    simp only [List.any_eq_true, inBlock_vKey _ r l hl, exists_eq_right']
  unfold Tab.rd
  rw [Tab.find?_filter_key t (fun k => !bs.any (fun b => inBlock b k))]
  by_cases h : r / 16 ∈ bs
  · rw [if_pos h, hany.2 h]; rfl
  · rw [if_neg h, Bool.eq_false_iff.2 (mt hany.1 h)]; rfl

theorem nodup_blocks (first n : Nat) : ((List.range n).map (fun i => first + i)).Nodup :=
  List.nodup_range.map (fun _ _ h => Nat.add_left_cancel h)

/-! ## RBREL, block by block -/

/-- An operation without the results it would still write into some blocks. -/
def Op.losing (op : Op) (bs : List Nat) : Op := { op with dsts := op.dsts.filter (fun k => !bs.any (fun b => inBlock b k)) }

/-- The same for an operation of the cursor's wave; every other operation stays as it is. -/
def Op.losingOf (op : Op) (q : Cursor) (bs : List Nat) : Op := if op.crew = q.crew ∧ op.wave = q.wave then op.losing bs else op

/-- The operations of a wave in flight that would still write into a block (R164). -/
def State.blockWriters (s : State) (q : Cursor) (b : Nat) : List Nat :=
  (s.ops.filter (fun e => e.2.crew == q.crew && e.2.wave == q.wave && e.2.dsts.any (inBlock b))).map (·.1)

/-- The results that a wave's operations would still write into a block are discarded (R164). -/
def State.loseResults (s : State) (q : Cursor) (b : Nat) : State :=
  { s with ops := s.ops.mapV (fun _ op =>
      if (op.crew == q.crew && op.wave == q.wave && op.dsts.any (inBlock b)) = true
      then { op with dsts := op.dsts.filter (fun k => !inBlock b k) } else op) }

/-- A wave without a block, whose segment waits for the block's writers where there are any (R164). -/
def State.unmapBlock (s : State) (q : Cursor) (b : Nat) (x : Wave) : Wave :=
  { x with
    seg := x.seg.del b, vr := x.vr.filter (fun e => !inBlock b e.1),
    segRet := if (s.blockWriters q b).isEmpty then x.segRet else x.segRet ++ [((x.seg.find? b).getD 0, s.blockWriters q b)] }

/-- RBREL of one held block (R164). -/
def State.releaseBlock (s : State) (q : Cursor) (b : Nat) : State :=
  (s.loseResults q b).modWave q.crew q.wave (s.unmapBlock q b)

/-- The segments of released blocks of wave `w` that operations in flight still write into, each with those operations (R164). -/
def State.returns (s : State) (q : Cursor) (w : Wave) (bs : List Nat) : List (Nat × List Nat) :=
  bs.filterMap (fun b => if s.blockWriters q b = [] then none else some ((w.seg.find? b).getD 0, s.blockWriters q b))

/-- `t` is `s` after wave `w` of the cursor has released the blocks `bs` and become `x`. -/
structure BlocksReleased (s t : State) (q : Cursor) (w x : Wave) (bs : List Nat) : Prop where
  /-- The wave. -/
  wave : t.wave? q.crew q.wave = some x
  /-- Its blocks. -/
  seg : ∀ b, x.seg.find? b = if b ∈ bs then none else w.seg.find? b
  /-- Its v registers. -/
  vr : x.vr = w.vr.filter (fun e => !bs.any (fun b => inBlock b e.1))
  /-- Its released segments. -/
  segRet : x.segRet = w.segRet ++ s.returns q w bs
  /-- Operations in flight. -/
  ops : t.ops = s.ops.mapV (fun _ op => op.losingOf q bs)
  /-- The rest of the wave. -/
  waveRest : { x with seg := w.seg, vr := w.vr, segRet := w.segRet } = w
  /-- The rest of the machine. -/
  rest : { t with crews := s.crews, ops := s.ops } = s
  /-- Crews and other waves. -/
  waves : OtherWaves s t q.crew q.wave

theorem Op.losing_nil (op : Op) : op.losing [] = op := by
  simp [Op.losing]

theorem Op.losing_losing (op : Op) (bs : List Nat) (b : Nat) : (op.losing bs).losing [b] = op.losing (bs ++ [b]) := by
  simp only [Op.losing, List.filter_filter, List.any_append, List.any_cons, List.any_nil, Bool.or_false, Bool.not_or, Bool.and_comm]

/-- An operation with no result in a block loses none there. -/
theorem Op.losing_none (op : Op) (b : Nat) (h : op.dsts.any (inBlock b) = false) : op.losing [b] = op := by
  have hf : op.dsts.filter (fun k => !inBlock b k) = op.dsts :=
    List.filter_eq_self.2 (fun k hk => by simpa using List.any_eq_false.1 h k hk)
  simp only [Op.losing, List.any_cons, List.any_nil, Bool.or_false, hf]

/-- What releasing one block makes of an operation. -/
theorem Op.losingOf_one (op : Op) (q : Cursor) (b : Nat) :
    (if (op.crew == q.crew && op.wave == q.wave && op.dsts.any (inBlock b)) = true
      then { op with dsts := op.dsts.filter (fun k => !inBlock b k) } else op) = op.losingOf q [b] := by
  have hone : op.losing [b] = { op with dsts := op.dsts.filter (fun k => !inBlock b k) } := by
    simp only [Op.losing, List.any_cons, List.any_nil, Bool.or_false]
  unfold Op.losingOf
  by_cases ho : op.crew = q.crew ∧ op.wave = q.wave
  · rw [if_pos ho]
    cases ha : op.dsts.any (inBlock b) with
    | true => simp [ho, hone]
    | false => simp [ho, op.losing_none b ha]
  · rw [if_neg ho, if_neg (fun hc => ho (by simp only [Bool.and_eq_true, beq_iff_eq] at hc; exact hc.1))]

theorem Op.losingOf_losingOf (op : Op) (q : Cursor) (bs : List Nat) (b : Nat) :
    (op.losingOf q bs).losingOf q [b] = op.losingOf q (bs ++ [b]) := by
  by_cases ho : op.crew = q.crew ∧ op.wave = q.wave
  · have ho' : (op.losing bs).crew = q.crew ∧ (op.losing bs).wave = q.wave := ho
    simp only [Op.losingOf, if_pos ho, if_pos ho', Op.losing_losing]
  · simp only [Op.losingOf, if_neg ho]

/-- What an operation writes into one block is not lost with others. -/
theorem Op.any_losing (op : Op) (bs : List Nat) (b : Nat) (hb : b ∉ bs) : (op.losing bs).dsts.any (inBlock b) = op.dsts.any (inBlock b) := by
  have hsep : ∀ k, inBlock b k = true → bs.any (fun c => inBlock c k) = false := by
    intro k hk
    rw [inBlock_iff] at hk
    refine List.any_eq_false.2 (fun c hc hck => hb ?_)
    rw [inBlock_iff] at hck
    exact (hk.symm.trans hck) ▸ hc
  rw [Bool.eq_iff_iff, List.any_eq_true, List.any_eq_true]
  simp only [Op.losing, List.mem_filter, Bool.not_eq_true']
  exact ⟨fun ⟨k, hk, hkb⟩ => ⟨k, hk.1, hkb⟩, fun ⟨k, hk, hkb⟩ => ⟨k, ⟨hk, hsep k hkb⟩, hkb⟩⟩

theorem BlocksReleased.refl (s : State) (q : Cursor) (w : Wave) (hw : s.wave? q.crew q.wave = some w) : BlocksReleased s s q w w [] where
  wave := hw
  seg := fun _ => rfl
  vr := by simp
  segRet := by simp [State.returns]
  ops := by simp [Op.losingOf, Op.losing_nil, Tab.mapV]
  waveRest := rfl
  rest := rfl
  waves := ⟨fun _ => rfl, fun _ _ _ => rfl⟩

theorem BlocksReleased.mem {s t : State} {q : Cursor} {w x : Wave} {bs : List Nat} (h : BlocksReleased s t q w x bs) : t.mem = s.mem := by
  have hm := congrArg State.mem h.rest
  exact hm

/-- The operations that still write into a block are the same after other blocks have gone. -/
theorem BlocksReleased.writers {s t : State} {q : Cursor} {w x : Wave} {bs : List Nat} (h : BlocksReleased s t q w x bs) (b : Nat)
    (hb : b ∉ bs) : t.blockWriters q b = s.blockWriters q b := by
  unfold State.blockWriters
  rw [h.ops, Tab.mapV, List.filter_map, List.map_map]
  congr 1
  refine List.filter_congr (fun e _ => ?_)
  dsimp only [Function.comp, Op.losingOf]
  by_cases ho : e.2.crew = q.crew ∧ e.2.wave = q.wave
  · rw [if_pos ho, Op.any_losing _ _ _ hb]; rfl
  · rw [if_neg ho]

theorem BlocksReleased.snoc {s t : State} {q : Cursor} {w x : Wave} {bs : List Nat} (h : BlocksReleased s t q w x bs) (b : Nat)
    (hb : b ∉ bs) : ∃ y, BlocksReleased s (t.releaseBlock q b) q w y (bs ++ [b]) := by
  have hwr := h.writers b hb
  refine ⟨t.unmapBlock q b x, ?_, ?_, ?_, ?_, ?_, ?_, ?_, ?_⟩
  · unfold State.releaseBlock
    rw [State.wave?_modWave, if_pos ⟨rfl, rfl⟩]
    exact congrArg (Option.map _) h.wave
  · intro c
    dsimp only [State.unmapBlock]
    rw [Tab.find?_del, h.seg]
    by_cases hc : c = b <;> simp [hc]
  · dsimp only [State.unmapBlock]
    rw [h.vr, List.filter_filter]
    simp only [List.any_append, List.any_cons, List.any_nil, Bool.or_false, Bool.not_or, Bool.and_comm]
  · dsimp only [State.unmapBlock]
    rw [hwr, h.seg, if_neg hb, h.segRet]
    by_cases hn : s.blockWriters q b = [] <;> simp [State.returns, hn]
  · rw [State.releaseBlock, State.ops_modWave, State.loseResults]
    simp only [h.ops, Op.losingOf_one, Tab.mapV, List.map_map]
    exact List.map_congr_left (fun e _ => Prod.ext rfl (e.2.losingOf_losingOf q bs b))
  · exact h.waveRest
  · exact h.rest
  · obtain ⟨hcrews, hwaves⟩ := (State.onlyWave_modWave' (t.loseResults q b) q.crew q.wave (t.unmapBlock q b)).waves
    exact ⟨fun d => (hcrews d).trans (h.waves.1 d), fun d x hx => (hwaves d x hx).trans (h.waves.2 d x hx)⟩

/-- RBREL of blocks named once each. -/
theorem State.blocksReleased (s : State) (q : Cursor) (w : Wave) (hw : s.wave? q.crew q.wave = some w) (bs : List Nat) (hn : bs.Nodup) :
    ∃ x, BlocksReleased s (bs.foldl (fun s b => s.releaseBlock q b) s) q w x bs := by
  induction bs using List.reverseRecOn with
  | nil => exact ⟨w, .refl s q w hw⟩
  | append_singleton bs b ih =>
    obtain ⟨hbs, -, hb⟩ := List.nodup_append'.1 hn
    obtain ⟨x, hx⟩ := ih hbs
    rw [List.foldl_append, List.foldl_cons, List.foldl_nil]
    exact hx.snoc b (fun hm => hb hm (List.mem_singleton_self b))

/-- The blocks of an RBREL's range that the wave holds. -/
def heldBlocks (f : Fields) (w : Wave) : List Nat := (blockRange f).filter (fun b => (w.seg.find? b).isSome)

theorem exec_rbrel (f : Fields) (s : State) (q : Cursor) (cr : Crew) (w : Wave) (h : IssuesWave s (.rbrel f) [] q cr w) :
    exec (.rbrel f) s = .next ((heldBlocks f w).foldl (fun s b => s.releaseBlock q b) s) :=
  s.waved_acts (.rbrel f) [] q cr w _ h

/-- Of a range whose held blocks have gone, no block is held. -/
theorem find?_heldBlocks (f : Fields) (w : Wave) (b : Nat) :
    (if b ∈ heldBlocks f w then none else w.seg.find? b) = if b ∈ blockRange f then none else w.seg.find? b := by
  have hmem : b ∈ heldBlocks f w ↔ b ∈ blockRange f ∧ (w.seg.find? b).isSome = true := List.mem_filter
  by_cases hr : b ∈ blockRange f
  · rw [if_pos hr]
    split
    · rfl
    · rename_i hh
      exact Option.not_isSome_iff_eq_none.1 (fun hs => hh (hmem.2 ⟨hr, hs⟩))
  · rw [if_neg hr, if_neg (fun hh => hr (hmem.1 hh).1)]

/-! ## RBACQ -/

theorem rbacq_acts (f : Fields) (s : State) (q : Cursor) (cr : Crew) (w : Wave) (h : IssuesWave s (.rbacq f) [] q cr w) :
    ((∀ b ∈ blockRange f, (w.seg.find? b).isSome = true) → exec (.rbacq f) s = .next s) ∧
    ((∃ b ∈ blockRange f, w.seg.find? b = none) → exec (.rbacq f) s = .next (((s.modCore cr.core
      (fun k => { k with rbq := k.rbq ++ [(q.crew, q.wave, q.strand)] })).enterWait q.crew q.wave q.strand
        (.rbacq (f.mb 4 4) (f.mb 0 4 + 1)) w.clauseAddr).settleStrands q.crew q.wave q.strand w.clauseAddr)) := by
  have he : exec (.rbacq f) s = .next _ := s.waved_acts (.rbacq f) [] q cr w _ h
  rw [he]
  refine ⟨fun hall => ?_, fun ⟨b, hb, hnone⟩ => ?_⟩
  · rw [if_pos (List.all_eq_true.2 hall)]
  · rw [if_neg (fun hall => by simpa [hnone] using List.all_eq_true.1 hall b hb)]

/-! ## The obligation -/

/-- Settles O33: RBACQ by whether every block is held; RBREL by what releasing its held blocks one by one leaves. -/
theorem registerBlocks : Obligations.RegisterBlocks := by
  unfold Obligations.RegisterBlocks
  refine ⟨fun f s q cr w h => ⟨(rbacq_acts f s q cr w h).1, fun hm => ⟨_, s.onlyCore_modCore _ _, ?_, (rbacq_acts f s q cr w h).2 hm⟩⟩,
    fun f s q cr w h => ?_⟩
  · rw [State.core_modCore_self]
  · intro held out writers
    obtain ⟨x, hx⟩ := s.blocksReleased q w (s.curWave_spec q cr w h.1.1).2.2.2 (heldBlocks f w) ((nodup_blocks _ _).filter _)
    refine ⟨_, x, exec_rbrel f s q cr w h, hx.wave, fun b => (hx.seg b).trans (find?_heldBlocks f w b), fun r l _ hl => ?_, hx.segRet,
      fun o => ?_, hx.waveRest, hx.rest, fun a => congrArg (Tab.rd 0 · a) hx.mem, hx.waves⟩
    · exact (congrArg (Tab.rd 0 · (128 * r + l)) hx.vr).trans (rd_dropBlocks w.vr (heldBlocks f w) r l hl)
    · rw [State.op?, hx.ops, Tab.find?_mapV]
      rfl

end Sys2Proof.Machine
end

section
/-!
Block grants, segment returns and the retirement of waves (R144, R163, R164).
-/

namespace Sys2Proof.Machine

open Sys2Proof Sys2Proof.Safety Host

/-! ## Tables -/

theorem Tab.find?_foldl_put_notMem {α : Type} (l : List (Nat × α)) (t : Tab α) (b : Nat) (hb : b ∉ l.map (·.1)) :
    (l.foldl (fun (t : Tab α) e => t.put e.1 e.2) t).find? b = t.find? b := by
  induction l generalizing t with
  | nil => rfl
  | cons e l ih =>
    rw [List.map_cons, List.mem_cons, not_or] at hb
    rw [List.foldl_cons, ih _ hb.2, Tab.find?_put_other _ _ _ _ hb.1]

/-- Keys set to values pairwise: each key finds the value in its place. -/
theorem Tab.find?_foldl_put_zip {α : Type} (ks : List Nat) (vs : List α) (t : Tab α) (hn : ks.Nodup) (hl : ks.length ≤ vs.length)
    (i b : Nat) (hb : ks[i]? = some b) : ((ks.zip vs).foldl (fun (t : Tab α) e => t.put e.1 e.2) t).find? b = vs[i]? := by
  induction ks generalizing vs t i with
  | nil => cases hb
  | cons k ks ih =>
    obtain ⟨hk, hn⟩ := List.nodup_cons.1 hn
    cases vs with
    | nil => cases hl
    | cons v vs =>
      rw [List.zip_cons_cons, List.foldl_cons]
      have hl : ks.length ≤ vs.length := Nat.le_of_succ_le_succ hl
      cases i with
      | succ i => exact ih vs _ hn hl i hb
      | zero =>
        obtain rfl : k = b := Option.some.inj hb
        rw [Tab.find?_foldl_put_notMem _ _ _ (by rwa [List.map_fst_zip hl]), Tab.find?_put_same]
        rfl

theorem Tab.find?_foldl_del {α : Type} (ps : List Nat) (t : Tab α) (p : Nat) :
    (ps.foldl (fun (t : Tab α) p => t.del p) t).find? p = if p ∈ ps then none else t.find? p := by
  induction ps generalizing t with
  | nil => rfl
  | cons a ps ih =>
    rw [List.foldl_cons, ih, Tab.find?_del]
    by_cases ha : p = a <;> by_cases hp : p ∈ ps <;> simp [ha, hp]

theorem State.nodup_segsFree (s : State) (core : Nat) : (s.segsFree core).Nodup := List.nodup_range.filter _

/-! ## Grants -/

/-- The blocks of a request that the wave lacks when it is granted (R163, log 70). -/
def Wave.lacking (wv : Wave) (first n : Nat) : List Nat :=
  ((List.range n).map (fun i => first + i)).filter (fun b => (wv.seg.find? b).isNone)

/-- A wave whose strand `k` has its request granted: the blocks `need` are mapped to the first of the segments `free` and read 0 (R163). -/
def Wave.granted (wv : Wave) (k : Nat) (need free : List Nat) : Wave :=
  Wave.modStrand { wv with
    seg := (need.zip free).foldl (fun (t : Tab Nat) e => t.put e.1 e.2) wv.seg,
    vr := wv.vr.filter (fun e => !need.any (fun b => inBlock b e.1)) } k (fun st => { st with woken := true })

section
variable {s : State} {core c w k : Nat} {rest : List (Nat × Nat × Nat)} {wv : Wave} {first n : Nat}
  (hq : (s.core core).rbq = (c, w, k) :: rest) (hr : (c, w, k) ≠ restartReq c) (hw : s.wave? c w = some wv)
  (hst : (wv.strand k).st = .waiting (.rbacq first n))
include hq hr hw hst

/-- The request at the head of the queue waits while segments lack, and is granted whole otherwise (R163). -/
theorem exec_rbacqGrant : exec (.rbacqGrant core) s =
    if (s.segsFree core).length < (wv.lacking first n).length then .next s
    else .next ((s.modCore core (fun q => { q with rbq := rest })).modWave c w
      (fun x => x.granted k (wv.lacking first n) (s.segsFree core))) := by
  show execRbacqGrant core s = _
  unfold execRbacqGrant
  rw [hq]
  dsimp only
  rw [if_neg hr, hw]
  dsimp only
  rw [hst]
  rfl

end

/-- What a granted wave's blocks are mapped to. -/
theorem Wave.seg_granted (wv : Wave) (k : Nat) (need free : List Nat) (hn : need.Nodup) (hl : need.length ≤ free.length) :
    (∀ i b : Nat, need[i]? = some b → (wv.granted k need free).seg.find? b = (free.take need.length)[i]?) ∧
      ∀ b, b ∉ need → (wv.granted k need free).seg.find? b = wv.seg.find? b := by
  refine ⟨fun i b hb => ?_, fun b hb => ?_⟩
  · rw [List.getElem?_take_of_lt (List.getElem?_eq_some_iff.1 hb).1]
    exact Tab.find?_foldl_put_zip need free wv.seg hn hl i b hb
  · exact Tab.find?_foldl_put_notMem _ wv.seg b (by rwa [List.map_fst_zip hl])

/-! ## Segment returns -/

theorem exec_segmentReturn (s : State) (c w seg : Nat) (wv : Wave) (ids : List Nat) (hw : s.wave? c w = some wv)
    (hs : wv.segRet.find? (fun e => e.1 == seg) = some (seg, ids)) : exec (.segmentReturn c w seg) s =
      if (ids.any fun o => (s.op? o).isSome) = true then .next s
      else .next (s.modWave c w (fun x => { x with segRet := x.segRet.filter (fun e => e.1 != seg) })) := by
  show execSegmentReturn c w seg s = _
  unfold execSegmentReturn
  rw [hw]
  dsimp only
  rw [hs]
  rfl

/-! ## Retirement -/

/-- Tiles and slots of a core without those that a wave names (R280, R320). -/
def Core.unbound (k : Machine.Core) (wv : Wave) : Machine.Core :=
  { k with tiles := wv.tiles.vals.foldl (fun t p => t.del p) k.tiles, exps := wv.exps.vals.foldl (fun t p => t.del p) k.exps }

section
variable {s : State} {c w : Nat} {cr : Crew} {wv : Wave} (hc : s.crew? c = some cr) (hw : s.wave? c w = some wv)
include hc hw

theorem State.unbindAll_eq : s.unbindAll c w = (s.modCore cr.core (fun k => k.unbound wv)).modWave c w
    (fun wv => { wv with tiles := [], exps := [], sm := [], xo := 15 }) := by
  have hwv : cr.waves.find? w = some wv := by rwa [State.wave?, hc] at hw
  unfold State.unbindAll
  rw [hc]
  dsimp only
  rw [hwv]
  rfl

/-- An ended wave with nothing in flight retires (R144). -/
theorem exec_waveRetire (hlive : wv.live = true) (hlanes : wv.lanes = 0) (hops : ∀ e ∈ s.ops, ¬(e.2.crew = c ∧ e.2.wave = w)) :
    exec (.waveRetire c w) s = .next (((s.modCore cr.core (fun k => k.unbound wv)).modWave c w
      (fun wv => { wv with tiles := [], exps := [], sm := [], xo := 15 })).modWave c w
      (fun x => { x with live := false, seg := [], segRet := [], vr := [] })) := by
  have hidle : (s.ops.any fun e => e.2.crew == c && e.2.wave == w) = false :=
    List.any_eq_false.2 (fun e he => by simpa using hops e he)
  show execWaveRetire c w s = _
  unfold execWaveRetire
  rw [hw]
  dsimp only
  rw [hlive, hlanes, hidle, State.unbindAll_eq hc hw]
  rfl

end

/-! ## The obligation -/

/-- Settles O46: the grant by whether enough segments are free, the return by whether a writer is in flight, and the retirement. -/
theorem blocksAndWavesReturn : Obligations.BlocksAndWavesReturn := by
  unfold Obligations.BlocksAndWavesReturn
  refine ⟨fun s core c w k rest wv first n hq hr hw hst => ?_,
    fun s c w seg wv ids hw hs => ⟨fun hids => ?_, fun ⟨o, ho, hsome⟩ => ?_⟩, fun s c w cr wv hc hw hlive hlanes hops => ?_⟩
  · intro need
    refine ⟨fun hl => (exec_rbacqGrant hq hr hw hst).trans (if_pos hl), fun hl => ?_⟩
    have hn : need.Nodup := (nodup_blocks first n).filter _
    obtain ⟨hin, hout⟩ := wv.seg_granted k need (s.segsFree core) hn hl
    refine ⟨_, wv.granted k need (s.segsFree core), (s.segsFree core).take need.length,
      (exec_rbacqGrant hq hr hw hst).trans (if_neg (Nat.not_lt.2 hl)), ?_, ?_, ?_, (s.nodup_segsFree core).sublist (List.take_sublist _ _),
      List.length_take_of_le hl, fun g hg => List.mem_of_mem_take hg, hin, hout, fun r l _ hl => rd_dropBlocks wv.vr need r l hl, rfl, rfl,
      fun _ => rfl, (State.onlyWave_modWave' (s.modCore core _) c w _).waves⟩
    · rw [State.core_modWave_same, State.core_modCore_self]
    · rw [State.wave?_modWave, if_pos ⟨rfl, rfl⟩]
      exact congrArg (Option.map _) hw
    · unfold Wave.granted
      rw [Wave.strand_modStrand_self]
  · have hnone : (ids.any fun o => (s.op? o).isSome) = false := List.any_eq_false.2 (fun o ho => by simp [hids o ho])
    refine ⟨_, _, (exec_segmentReturn s c w seg wv ids hw hs).trans (if_neg (by simp [hnone])), s.onlyWave_modWave' c w _, ?_, rfl⟩
    rw [State.wave?_modWave, if_pos ⟨rfl, rfl⟩, hw]
    rfl
  · exact (exec_segmentReturn s c w seg wv ids hw hs).trans (if_pos (List.any_eq_true.2 ⟨o, ho, hsome⟩))
  · refine ⟨_, _, exec_waveRetire hc hw hlive hlanes hops, ?_, rfl, fun p hp => ?_, fun p hp => ?_, rfl, fun _ => rfl,
      (onlyWave_trans (State.onlyWave_modWave' (s.modCore cr.core _) c w _) (State.onlyWave_modWave' _ c w _)).waves⟩
    · rw [State.wave?_modWave, if_pos ⟨rfl, rfl⟩, State.wave?_modWave, if_pos ⟨rfl, rfl⟩]
      exact congrArg (Option.map _) (congrArg (Option.map _) hw)
    · rw [State.core_modWave_same, State.core_modWave_same, State.core_modCore_self]
      exact (Tab.find?_foldl_del _ _ p).trans (if_pos hp)
    · rw [State.core_modWave_same, State.core_modWave_same, State.core_modCore_self]
      exact (Tab.find?_foldl_del _ _ p).trans (if_pos hp)

end Sys2Proof.Machine
end

section
/-!
Traps: the coalescer's records, and what the stop of a task leaves of its crew and of the wave that trapped (R173 to R175).
-/

namespace Sys2Proof.Machine

open Sys2Proof Sys2Proof.Safety Host

/-! ## The coalescer (R175) -/

/-- What the coalescer compares of an address: its page for the causes of an access. -/
def TrapRec.region (r : TrapRec) (a : Nat) : Nat := if decide (0x04 ≤ r.cause) && decide (r.cause ≤ 0x09) then a / 4096 else a

/-- The coalescer's test of an open record `q` for the trap `r`. -/
def TrapRec.joins (r q : TrapRec) : Bool :=
  r.stop && q.stop && !q.ev && !r.own && !q.own && q.cause == r.cause && q.kernel == r.kernel && r.region q.addr == r.region r.addr

/-- An open record `q` with the trap `r` merged into it. -/
def TrapRec.merged (q r : TrapRec) : TrapRec :=
  let first := decide (lowestWave r.waves < lowestWave q.waves)
  { q with waves := q.waves ||| r.waves, count := min 65535 (q.count + 1), irr := q.irr || r.irr,
           crew := if first then r.crew else q.crew, task := if first then r.task else q.task, who := q.who ++ r.who }

/-- A core's records and the traps it holds. -/
def Core.traps (k : Machine.Core) : List TrapRec × List TrapRec := (k.recs, k.heldTraps)

theorem TrapRec.joins_iff (q r : TrapRec) (hs : r.stop = true) (ho : r.own = false) : r.joins q = true ↔ TrapsMerge q r := by
  have hregion : r.region q.addr = r.region r.addr ↔
      if 4 ≤ r.cause ∧ r.cause ≤ 9 then q.addr / 4096 = r.addr / 4096 else q.addr = r.addr := by
    by_cases h : 4 ≤ r.cause ∧ r.cause ≤ 9 <;> simp [TrapRec.region, h]
  simp [TrapRec.joins, TrapsMerge, hs, ho, hregion, and_assoc]

section
variable (k : Machine.Core) (r : TrapRec)

/-- A stopping trap and the first open record it matches (R175). -/
theorem Core.addTrap_merges (hs : r.stop = true) (ho : r.own = false) (q : TrapRec) (i : Nat) (hq : k.recs[i]? = some q)
    (hm : TrapsMerge q r) (hfirst : ∀ (j : Nat) x, j < i → k.recs[j]? = some x → ¬ TrapsMerge x r) :
    k.addTrap r = { k with recs := k.recs.modify i (fun q => q.merged r) } := by
  obtain ⟨hi, rfl⟩ := List.getElem?_eq_some_iff.1 hq
  have hfind : k.recs.findIdx? r.joins = some i :=
    List.findIdx?_eq_some_iff_getElem.2 ⟨hi, (TrapRec.joins_iff _ r hs ho).2 hm, fun j hj hx =>
      hfirst j _ hj (List.getElem?_eq_getElem (hj.trans hi)) ((TrapRec.joins_iff _ r hs ho).1 hx)⟩
  unfold TrapRec.joins TrapRec.region at hfind
  unfold Core.addTrap
  dsimp only
  rw [hfind]
  rfl

/-- A stopping trap that matches no record opens one, or is held where 16 are open (R175). -/
theorem Core.addTrap_alone (hs : r.stop = true) (ho : r.own = false) (hn : ∀ x ∈ k.recs, ¬ TrapsMerge x r) : k.addTrap r =
    if k.recs.length < 16 then { k with recs := k.recs ++ [r] } else { k with heldTraps := k.heldTraps ++ [r] } := by
  have hfind : k.recs.findIdx? r.joins = none :=
    List.findIdx?_eq_none_iff.2 (fun x hx => Bool.eq_false_iff.2 (fun hj => hn x hx ((TrapRec.joins_iff x r hs ho).1 hj)))
  unfold TrapRec.joins TrapRec.region at hfind
  unfold Core.addTrap
  dsimp only
  rw [hfind]
  rfl

/-- What the coalescer does depends on its records and on the traps it holds. -/
theorem Core.addTrap_traps (k' : Machine.Core) (h : k'.traps = k.traps) : (k'.addTrap r).traps = (k.addTrap r).traps := by
  obtain ⟨hrecs, hheld⟩ := Prod.mk.inj h
  unfold Core.addTrap
  dsimp only
  rw [hrecs, hheld]
  split
  · rfl
  · split <;> rfl

end

/-! ## What the stop of a task leaves -/

/-- A crew's resources: blocks, core and wave slots. -/
def Crew.seat (cr : Crew) : Tab Nat × Nat × Nat × Nat := (cr.blocks, cr.core, cr.base, cr.nw)

/-- A wave's segments, registers and clause, and the state and reservation of its strand `k`. -/
def Wave.standing (k : Nat) (wv : Wave) : Tab Nat × Tab Word × Tab Word × Option Clause × StrandState × Option Resv :=
  (wv.seg, wv.sr, wv.vr, wv.clause, (wv.strand k).st, (wv.strand k).resv)

/-- Crews keep their resources, waves their segments, registers, clause and strands' states, and cores their trap records. -/
structure StopKeeps (s t : State) : Prop where
  /-- Crews. -/
  crew : ∀ c, (t.crew? c).map Crew.seat = (s.crew? c).map Crew.seat
  /-- Waves. -/
  wave : ∀ c w k, (t.wave? c w).map (Wave.standing k) = (s.wave? c w).map (Wave.standing k)
  /-- Cores. -/
  traps : ∀ d, (t.core d).traps = (s.core d).traps

theorem StopKeeps.refl (s : State) : StopKeeps s s := ⟨fun _ => rfl, fun _ _ _ => rfl, fun _ => rfl⟩

/-- States with one table of crews, whose cores have the same trap records. -/
theorem StopKeeps.of_crews {s t : State} (hc : t.crews = s.crews) (hd : ∀ d, (t.core d).traps = (s.core d).traps) : StopKeeps s t where
  crew c := by unfold State.crew?; rw [hc]
  wave c w k := by unfold State.wave? State.crew?; rw [hc]
  traps := hd

theorem StopKeeps.trans {s t u : State} (h : StopKeeps s t) (g : StopKeeps t u) : StopKeeps s u where
  crew c := (g.crew c).trans (h.crew c)
  wave c w k := (g.wave c w k).trans (h.wave c w k)
  traps d := (g.traps d).trans (h.traps d)

theorem StopKeeps.foldl {α : Type} (f : State → α → State) (h : ∀ s a, StopKeeps s (f s a)) (l : List α) (s : State) :
    StopKeeps s (l.foldl f s) := by
  induction l generalizing s with
  | nil => exact .refl s
  | cons a l ih => exact (h s a).trans (ih (f s a))

theorem State.traps_modCore (s : State) (c : Nat) (f : Machine.Core → Machine.Core) (hf : ∀ k, (f k).traps = k.traps) (d : Nat) :
    ((s.modCore c f).core d).traps = (s.core d).traps := by
  rw [State.core_modCore]
  split
  · rename_i hd
    rw [hf, hd]
  · rfl

theorem StopKeeps.modCore (s : State) (c : Nat) (f : Machine.Core → Machine.Core) (hf : ∀ k, (f k).traps = k.traps) :
    StopKeeps s (s.modCore c f) :=
  .of_crews rfl (s.traps_modCore c f hf)

theorem StopKeeps.modCrew (s : State) (c : Nat) (f : Crew → Crew) (hf : ∀ cr, (f cr).seat = cr.seat) (hw : ∀ cr, (f cr).waves = cr.waves) :
    StopKeeps s (s.modCrew c f) where
  crew d := by
    rw [State.crew?_modCrew]
    split
    · rename_i hd
      subst hd
      rw [Option.map_map]
      exact congrArg (Option.map · _) (funext hf)
    · rfl
  wave d w k := by
    unfold State.wave?
    rw [State.crew?_modCrew]
    split
    · rename_i hd
      subst hd
      cases s.crew? d with
      | none => rfl
      | some cr => exact congrArg (fun (t : Tab Wave) => (t.find? w).map (Wave.standing k)) (hw cr)
    · rfl
  traps _ := rfl

theorem StopKeeps.modWave (s : State) (c w : Nat) (f : Wave → Wave) (hf : ∀ wv k, (f wv).standing k = wv.standing k) :
    StopKeeps s (s.modWave c w f) where
  crew d := by
    unfold State.modWave
    rw [State.crew?_modCrew]
    split
    · rename_i hd
      subst hd
      cases s.crew? d <;> rfl
    · rfl
  wave d x k := by
    rw [State.wave?_modWave]
    split
    · rename_i hd
      obtain ⟨rfl, rfl⟩ := hd
      rw [Option.map_map]
      exact congrArg (Option.map · _) (funext (fun wv => hf wv k))
    · rfl
  traps _ := rfl

/-! ## Operations that stop -/

theorem State.stopKeeps_dropOp (s : State) (o : Nat) : StopKeeps s (s.dropOp o) := by
  refine .of_crews (State.crews_dropOp s o) (fun d => ?_)
  unfold State.dropOp
  split
  · rfl
  · dsimp only
    split
    · rfl
    · split
      · refine (State.traps_modCore _ _ _ ?_ d).trans (State.traps_modCore _ _ _ ?_ d) <;> exact fun _ => rfl
      · refine State.traps_modCore _ _ _ ?_ d
        exact fun _ => rfl

/-- A change of strands that leaves their states and reservations. -/
theorem Wave.standing_mapV_strands (wv : Wave) (f : Nat → Strand → Strand) (hst : ∀ k x, (f k x).st = x.st)
    (hr : ∀ k x, (f k x).resv = x.resv) (k : Nat) : ({ wv with strands := wv.strands.mapV f } : Wave).standing k = wv.standing k := by
  unfold Wave.standing Wave.strand Tab.rd
  dsimp only
  rw [Tab.find?_mapV]
  cases wv.strands.find? k with
  | none => rfl
  | some x => simp [hst, hr]

/-- Settling a future wakes strands, and moves none. -/
theorem Wave.standing_settle (o code : Nat) (wv : Wave) (k : Nat) : (wv.settle o code).standing k = wv.standing k := by
  unfold Wave.settle
  split
  · dsimp only
    split
    · refine Wave.standing_mapV_strands { wv with hd := _ } _ (fun k x => ?_) (fun k x => ?_) k
      · split
        · split <;> rfl
        · rfl
      · split
        · split <;> rfl
        · rfl
    · rfl
  · rfl

theorem State.stopKeeps_future (s : State) (o code : Nat) : StopKeeps s (s.future o code) where
  crew c := by
    rw [State.crew?_future, Option.map_map]
    rfl
  wave c w k := by
    rw [State.wave?_future, Option.map_map]
    exact congrArg (Option.map · _) (funext (fun wv => wv.standing_settle o code k))
  traps _ := rfl

theorem State.stopKeeps_flagDown (s : State) (op : Op) : StopKeeps s (s.flagDown op) := by
  unfold State.flagDown
  split
  · exact .refl s
  · split
    · exact .refl s
    · exact .modWave s _ _ _ (fun _ _ => rfl)

theorem State.stopKeeps_endOp (s : State) (o code : Nat) : StopKeeps s (s.endOp o code) := by
  unfold State.endOp
  split
  · exact .refl s
  · exact ((s.stopKeeps_future o code).trans (State.stopKeeps_flagDown _ _)).trans (State.stopKeeps_dropOp _ o)

theorem State.stopKeeps_breakObject (s : State) (c a : Nat) : StopKeeps s (s.breakObject c a) := by
  unfold State.breakObject
  split
  · exact .refl s
  · dsimp only
    split
    · exact .modCrew s c _ (fun _ => rfl) (fun _ => rfl)
    · exact .refl s

theorem State.stopKeeps_endRequest (s : State) (o : Nat) (op : Op) (status detail : Nat) : StopKeeps s (s.endRequest o op status detail) :=
  (StopKeeps.of_crews rfl (fun _ => rfl) : StopKeeps s (s.modCtx op.ctx _)).trans (State.stopKeeps_dropOp _ o)

theorem State.stopKeeps_modOp (s : State) (o : Nat) (f : Op → Op) : StopKeeps s (s.modOp o f) := .of_crews rfl (fun _ => rfl)

/-- One operation is stopped, by the class of its instruction (R167). -/
theorem State.stopKeeps_stopOp (s : State) (o : Nat) (op : Op) (irr : Bool) : StopKeeps s (s.stopOp o op irr) := by
  unfold State.stopOp
  split
  · split
    · exact (s.stopKeeps_breakObject _ _).trans (State.stopKeeps_endOp _ o 4)
    · exact s.stopKeeps_endOp o 4
  · split
    · exact s.stopKeeps_modOp o _
    · exact s.stopKeeps_dropOp o
  · split
    · exact (s.stopKeeps_flagDown op).trans (State.stopKeeps_dropOp _ o)
    · exact s.stopKeeps_modOp o _
  · exact (s.stopKeeps_flagDown op).trans (State.stopKeeps_dropOp _ o)
  · exact s.stopKeeps_dropOp o
  · split
    · exact s.stopKeeps_endRequest o op 3 op.off
    · exact .refl s

theorem State.stopKeeps_stopOps (s : State) (c : Nat) : StopKeeps s (s.stopOps c) := by
  unfold State.stopOps
  split
  · exact .refl s
  · exact .foldl _ (fun (u : State) (e : Nat × Op) => u.stopKeeps_stopOp e.1 e.2 _) _ s

/-! ## The version is discarded and the tiles are unbound -/

/-- A crew without its task's version and its segments (R97, R305). -/
def Crew.emptied (cr : Crew) : Crew := { cr with ver := [], held := [], mended := [], segs := [] }

/-- A core without the lines and the queue entries that go with a crew's version and segments (R97, R305). -/
def Core.discarded (k : Machine.Core) (c : Nat) (cr : Crew) : Machine.Core :=
  { k with
    l1 := k.l1.filter (fun l => !l.ofTask c cr)
    wq := (k.wq.filter (fun e => !e.goesWith c cr)).map (fun e => if e.crew = c then { e with direct := true } else e) }

/-- The machine with elements of operations complete: those of the queue entries that are gone. -/
def State.completeElems (s : State) (l : List (Nat × Nat)) : State :=
  l.foldl (fun (s : State) x => s.modOp x.1 (fun op => { op with
    elems := op.elems.modify x.2 (fun y => { y with st := .complete }) })) s

@[simp] theorem State.crew?_completeElems (s : State) (l : List (Nat × Nat)) (c : Nat) : (s.completeElems l).crew? c = s.crew? c := by
  unfold State.completeElems
  rw [foldl_keeps (fun u : State => u.crew? c)]
  exact fun _ _ => rfl

section
variable (s : State) (c : Nat) (cr : Crew) (hc : s.crew? c = some cr)
include hc

theorem State.discard_eq : ∃ l, s.discard c =
    ((s.modCrew c Crew.emptied).modCore cr.core (fun k => k.discarded c cr)).completeElems l := by
  unfold State.discard
  rw [hc]
  exact ⟨_, rfl⟩

theorem State.stopKeeps_discard : StopKeeps s (s.discard c) := by
  obtain ⟨l, he⟩ := s.discard_eq c cr hc
  rw [he]
  exact ((StopKeeps.modCrew s c Crew.emptied (fun _ => rfl) (fun _ => rfl)).trans
    (.modCore _ cr.core (fun k => k.discarded c cr) (fun _ => rfl))).trans (.foldl _ (fun u x => u.stopKeeps_modOp x.1 _) l _)

theorem State.crew?_discard : (s.discard c).crew? c = some cr.emptied := by
  obtain ⟨l, he⟩ := s.discard_eq c cr hc
  rw [he, State.crew?_completeElems]
  show (s.modCrew c Crew.emptied).crew? c = _
  rw [State.crew?_modCrew, if_pos rfl, hc, Option.map_some]

end

/-- A wave that names no tile. -/
def Untiled (s : State) (c w : Nat) : Prop := ∀ x, s.wave? c w = some x → x.tiles = []

section
variable (s : State) (c v : Nat)

/-- Unbinding is a change of a core's tiles and slots and of one wave's names. -/
theorem State.unbindAll_cases : s.unbindAll c v = s ∧ s.wave? c v = none ∨
    ∃ core wv, s.unbindAll c v = (s.modCore core (fun k => k.unbound wv)).modWave c v
      (fun wv => { wv with tiles := [], exps := [], sm := [], xo := 15 }) := by
  cases hc : s.crew? c with
  | none =>
    refine .inl ⟨?_, by rw [State.wave?, hc]; rfl⟩
    unfold State.unbindAll
    rw [hc]
  | some cr =>
    cases hw : s.wave? c v with
    | some wv => exact .inr ⟨cr.core, wv, State.unbindAll_eq hc hw⟩
    | none =>
      refine .inl ⟨?_, rfl⟩
      have hf : cr.waves.find? v = none := by rwa [State.wave?, hc] at hw
      unfold State.unbindAll
      rw [hc]
      dsimp only
      rw [hf]

theorem State.stopKeeps_unbindAll : StopKeeps s (s.unbindAll c v) := by
  obtain ⟨he, -⟩ | ⟨core, wv, he⟩ := s.unbindAll_cases c v
  · rw [he]
    exact .refl s
  · rw [he]
    exact (StopKeeps.modCore s core (fun k => k.unbound wv) (fun _ => rfl)).trans (.modWave _ c v _ (fun _ _ => rfl))

theorem State.sameCrews_unbindAll : SameCrews s (s.unbindAll c v) := by
  obtain ⟨he, -⟩ | ⟨core, wv, he⟩ := s.unbindAll_cases c v
  · rw [he]
    exact .refl s
  · rw [he]
    exact fun d => State.crew?_modWave _ c d v _

theorem State.untiled_unbindAll_self : Untiled (s.unbindAll c v) c v := by
  intro x hx
  obtain ⟨he, hn⟩ | ⟨core, wv, he⟩ := s.unbindAll_cases c v
  · rw [he, hn] at hx
    cases hx
  · rw [he, State.wave?_modWave, if_pos ⟨rfl, rfl⟩] at hx
    obtain ⟨y, -, rfl⟩ := Option.map_eq_some_iff.1 hx
    rfl

theorem State.untiled_unbindAll (w : Nat) (h : Untiled s c w) : Untiled (s.unbindAll c v) c w := by
  by_cases hv : w = v
  · exact hv ▸ s.untiled_unbindAll_self c w
  · intro x hx
    obtain ⟨he, -⟩ | ⟨core, wv, he⟩ := s.unbindAll_cases c v
    · exact h x (he ▸ hx)
    · rw [he, State.wave?_modWave, if_neg (fun hp => hv hp.2)] at hx
      exact h x hx

end

theorem State.untiled_foldl_unbindAll (c w : Nat) (l : List Nat) (s : State) (h : w ∈ l ∨ Untiled s c w) :
    Untiled (l.foldl (fun (s : State) w => s.unbindAll c w) s) c w := by
  induction l generalizing s with
  | nil => exact h.resolve_left List.not_mem_nil
  | cons v l ih =>
    refine ih (s.unbindAll c v) ?_
    obtain hl | hu := h
    · rcases List.mem_cons.1 hl with rfl | hl
      · exact .inr (s.untiled_unbindAll_self c w)
      · exact .inl hl
    · exact .inr (s.untiled_unbindAll c v w hu)

/-! ## The task stops -/

/-- The machine with a crew's operations stopped, its version discarded, its tiles unbound and its requests for blocks withdrawn. -/
def State.unloaded (s : State) (c : Nat) (cr : Crew) : State :=
  ((cr.waves.map (·.1)).foldl (fun (s : State) w => s.unbindAll c w) ((s.stopOps c).discard c)).modCore cr.core
    (fun k => { k with rbq := k.rbq.filter (fun e => e.1 ≠ c) })

/-- A wave stopped: its strands in use, where no clause is in progress (R173). -/
def Wave.halted (w : Wave) : Wave :=
  match w.clause with
  | some _ => w
  | none => { w with strands := w.strands.mapV (fun _ st =>
      match st.st with | .unused => st | _ => { st with st := .stopped, resv := none, woken := false, rel := none }) }

/-- A crew whose task has stopped. -/
def Crew.taskStopped (cr : Crew) : Crew :=
  { cr with savedTask := cr.task, task := .stopped, waves := cr.waves.mapV (fun _ => Wave.halted) }

/-- Stopping leaves what is not a strand. -/
theorem Wave.halted_rest (wv : Wave) : { wv.halted with strands := wv.strands } = wv := by
  unfold Wave.halted
  split <;> rfl

/-- A stopped strand without a reservation is stopped so. -/
theorem Wave.strand_halted (wv : Wave) (k : Nat) (hs : (wv.strand k).st = .stopped) (hr : (wv.strand k).resv = none) :
    (wv.halted.strand k).st = .stopped ∧ (wv.halted.strand k).resv = none := by
  unfold Wave.halted
  split
  · exact ⟨hs, hr⟩
  · unfold Wave.strand Tab.rd at hs hr ⊢
    rw [Tab.find?_mapV]
    cases hf : wv.strands.find? k with
    | none =>
      rw [hf] at hs
      cases hs
    | some st =>
      rw [hf] at hs hr
      rw [Option.getD_some] at hs hr
      rw [Option.map_some, Option.getD_some, hs]
      exact ⟨rfl, rfl⟩

section
variable {s : State} {c : Nat} {cr : Crew} (hc : s.crew? c = some cr)
include hc

theorem State.stopTask_eq (ht : cr.task ≠ .stopped) : s.stopTask c = (s.unloaded c cr).modCrew c Crew.taskStopped := by
  unfold State.stopTask
  rw [hc]
  dsimp only
  rw [if_neg (by simpa using ht)]
  rfl

/-- What a stop of its operations leaves of the crew. -/
theorem State.crew?_stopOps : ∃ x, (s.stopOps c).crew? c = some x ∧ x.seat = cr.seat :=
  Option.map_eq_some_iff.1 (((s.stopKeeps_stopOps c).crew c).trans (congrArg (Option.map Crew.seat) hc))

theorem State.stopKeeps_unloaded : StopKeeps s (s.unloaded c cr) := by
  obtain ⟨x, hx, -⟩ := State.crew?_stopOps hc
  exact (((s.stopKeeps_stopOps c).trans (State.stopKeeps_discard _ c x hx)).trans
    (.foldl _ (fun u w => u.stopKeeps_unbindAll c w) _ _)).trans (.modCore _ cr.core _ (fun _ => rfl))

theorem State.crew?_unloaded : ∃ x, (s.unloaded c cr).crew? c = some x ∧ x.ver = [] ∧ x.held = [] ∧ x.segs = [] ∧ x.seat = cr.seat := by
  obtain ⟨y, hy, hseat⟩ := State.crew?_stopOps hc
  obtain ⟨x, hx, he⟩ := (SameCrews.foldl (fun (u : State) w => u.unbindAll c w) (fun u w => u.sameCrews_unbindAll c w)
    (cr.waves.map (·.1)) ((s.stopOps c).discard c)).crew (State.crew?_discard _ c y hy)
  refine ⟨x, hx, (congrArg Crew.ver he :), (congrArg Crew.held he :), (congrArg Crew.segs he :), ?_⟩
  exact (congrArg Crew.seat he :).trans hseat

/-- The crew of a stopped task has no version and no segments, and keeps its resources (R173). -/
theorem State.crew?_stopTask (ht : cr.task ≠ .stopped) : ∃ x, (s.stopTask c).crew? c = some x ∧ x.task = .stopped ∧
    x.ver = [] ∧ x.held = [] ∧ x.segs = [] ∧ x.seat = cr.seat := by
  obtain ⟨x, hx, hver, hheld, hsegs, hseat⟩ := State.crew?_unloaded hc
  refine ⟨x.taskStopped, ?_, rfl, hver, hheld, hsegs, hseat⟩
  rw [State.stopTask_eq hc ht, State.crew?_modCrew, if_pos rfl, hx, Option.map_some]

theorem State.traps_stopTask (ht : cr.task ≠ .stopped) (d : Nat) : ((s.stopTask c).core d).traps = (s.core d).traps := by
  rw [State.stopTask_eq hc ht]
  exact (State.stopKeeps_unloaded hc).traps d

theorem State.wave?_unloaded {w : Nat} {wv : Wave} (hw : cr.waves.find? w = some wv) (k : Nat) :
    ∃ y, (s.unloaded c cr).wave? c w = some y ∧ y.standing k = wv.standing k ∧ y.tiles = [] := by
  have hsw : s.wave? c w = some wv := by rwa [State.wave?, hc]
  obtain ⟨y, hy, hstand⟩ := Option.map_eq_some_iff.1
    (((State.stopKeeps_unloaded hc).wave c w k).trans (congrArg (Option.map (Wave.standing k)) hsw))
  exact ⟨y, hy, hstand, State.untiled_foldl_unbindAll c w _ _ (.inl (List.mem_map.2 ⟨_, Tab.mem_of_find? hw, rfl⟩)) y hy⟩

theorem State.wave?_stopTask_eq (ht : cr.task ≠ .stopped) (w : Nat) :
    (s.stopTask c).wave? c w = ((s.unloaded c cr).wave? c w).map Wave.halted := by
  rw [State.stopTask_eq hc ht]
  unfold State.wave?
  rw [State.crew?_modCrew, if_pos rfl]
  cases (s.unloaded c cr).crew? c with
  | none => rfl
  | some x => exact Tab.find?_mapV x.waves (fun _ => Wave.halted) w

/-- A wave whose strand has stopped keeps its segments and registers when the task stops, and names no tile (R173, R280). -/
theorem State.wave?_stopTask (ht : cr.task ≠ .stopped) {w k : Nat} {wv : Wave} (hw : cr.waves.find? w = some wv)
    (hs : (wv.strand k).st = .stopped) (hr : (wv.strand k).resv = none) : ∃ x, (s.stopTask c).wave? c w = some x ∧
      (x.strand k).st = .stopped ∧ (x.strand k).resv = none ∧ x.seg = wv.seg ∧ x.sr = wv.sr ∧ x.vr = wv.vr ∧ x.tiles = [] := by
  obtain ⟨y, hy, hstand, htiles⟩ := State.wave?_unloaded hc hw k
  simp only [Wave.standing, Prod.mk.injEq] at hstand
  obtain ⟨hseg, hsr, hvr, -, hyst, hyresv⟩ := hstand
  have hrest := y.halted_rest
  obtain ⟨hst, hresv⟩ := y.strand_halted k (hyst.trans hs) (hyresv.trans hr)
  refine ⟨y.halted, ?_, hst, hresv, (congrArg Wave.seg hrest :).trans hseg, (congrArg Wave.sr hrest :).trans hsr,
    (congrArg Wave.vr hrest :).trans hvr, (congrArg Wave.tiles hrest :).trans htiles⟩
  rw [State.wave?_stopTask_eq hc ht, hy, Option.map_some]

end

/-! ## The trap -/

/-- A wave whose strand `k` has just trapped: the clause is over, the strand stops and loses its reservation (R173). -/
def Wave.struck (k : Nat) (wv : Wave) : Wave :=
  Wave.modStrand { wv with clause := none } k (fun st => { st with st := .stopped, resv := none, woken := false, rel := none })

/-- The record of a trap (R174). -/
def State.trapRecord (s : State) (cr : Crew) (c w cause addr cls : Nat) : TrapRec where
  waves := 2 ^ cr.slot w
  addr := addr
  crew := cr.idx
  task := cr.taskIdx
  count := 1
  core := cr.core
  stop := true
  ev := false
  irr := cr.direct
  cls := cls
  entry := 0
  cause := cause
  ctx := cr.ctx
  kernel := cr.kernel
  who := [(c, w, cr.attempt)]
  own := (s.ctx cr.ctx).handler == some (c, w)
  opened := s.next

/-- The machine with the trapping wave's strand stopped, and the number of the record taken. -/
def State.struck (s : State) (c w k : Nat) : State := { s with next := s.next + 1 }.modWave c w (Wave.struck k)

section
variable {s : State} {c w : Nat} {cr : Crew} (hc : s.crew? c = some cr)
include hc

theorem State.crew?_struck (k : Nat) : (s.struck c w k).crew? c = some { cr with waves := cr.waves.modify w (Wave.struck k) } :=
  (State.crew?_modCrew _ c c _).trans ((if_pos rfl).trans (congrArg (Option.map _) hc))

variable (hown : (s.ctx cr.ctx).handler ≠ some (c, w))
include hown

/-- A trap of a wave that is not its context's handler: the strand stops, then the task, and the coalescer takes the record. -/
theorem State.trap_eq (k cause addr cls : Nat) : s.trap c w k cause addr cls =
    ((s.struck c w k).stopTask c).modCore cr.core (fun q => q.addTrap (s.trapRecord cr c w cause addr cls)) := by
  unfold State.trap
  rw [hc]
  dsimp only
  rw [if_neg (by simpa using hown)]
  rfl

variable (ht : cr.task ≠ .stopped)
include ht

theorem State.crew?_trap (k cause addr cls : Nat) : ∃ x, (s.trap c w k cause addr cls).crew? c = some x ∧ x.task = .stopped ∧
    x.ver = [] ∧ x.held = [] ∧ x.segs = [] ∧ x.blocks = cr.blocks ∧ x.core = cr.core ∧ x.base = cr.base ∧ x.nw = cr.nw := by
  obtain ⟨x, hx, htask, hver, hheld, hsegs, hseat⟩ := State.crew?_stopTask (State.crew?_struck hc k) ht
  simp only [Crew.seat, Prod.mk.injEq] at hseat
  rw [State.trap_eq hc hown]
  exact ⟨x, hx, htask, hver, hheld, hsegs, hseat⟩

theorem State.wave?_trap {wv : Wave} (hw : cr.waves.find? w = some wv) (k cause addr cls : Nat) :
    ∃ x, (s.trap c w k cause addr cls).wave? c w = some x ∧ (x.strand k).st = .stopped ∧ (x.strand k).resv = none ∧
      x.seg = wv.seg ∧ x.sr = wv.sr ∧ x.vr = wv.vr ∧ x.tiles = [] := by
  have hstruck : (cr.waves.modify w (Wave.struck k)).find? w = some (wv.struck k) := by
    rw [Tab.find?_modify, if_pos rfl, hw, Option.map_some]
  have hstrand : (wv.struck k).strand k = { wv.strand k with st := .stopped, resv := none, woken := false, rel := none } :=
    Wave.strand_modStrand_self _ k _
  rw [State.trap_eq hc hown]
  exact State.wave?_stopTask (wv := wv.struck k) (State.crew?_struck hc k) ht hstruck (congrArg Strand.st hstrand) (congrArg Strand.resv hstrand)

/-- The core's coalescer has the record, and is else as it was. -/
theorem State.traps_trap (k cause addr cls : Nat) : ((s.trap c w k cause addr cls).core cr.core).traps =
    ((s.core cr.core).addTrap (s.trapRecord cr c w cause addr cls)).traps := by
  rw [State.trap_eq hc hown, State.core_modCore_self]
  exact Core.addTrap_traps _ _ _ (State.traps_stopTask (State.crew?_struck hc k) ht cr.core)

end

/-- Settles O10: a trap by what it leaves of the crew, the wave and the coalescer, and the coalescer by whether the trap matches an open
record. -/
theorem trapEntry : Obligations.TrapEntry := by
  unfold Obligations.TrapEntry
  refine ⟨fun s c w k cause addr cls cr wv hc hw ht hown => ?_, fun k r hs _ ho => ⟨fun i q hq hm hfirst => ?_, fun hn hl => ?_, fun hn hl => ?_⟩⟩
  · obtain ⟨hrecs, hheld⟩ := Prod.mk.inj (State.traps_trap hc hown ht k cause addr cls)
    exact ⟨State.crew?_trap hc hown ht k cause addr cls, State.wave?_trap hc hown ht hw k cause addr cls, fun a => by rw [State.mem_trap],
      s.trapRecord cr c w cause addr cls, hrecs, hheld, rfl, rfl, rfl, rfl, rfl, rfl, rfl, rfl, rfl, rfl, rfl, rfl⟩
  · rw [k.addTrap_merges r hs ho q i hq hm hfirst]
    refine ⟨rfl, List.length_modify .., fun j hj => List.getElem?_modify_ne _ k.recs (Ne.symm hj), q.merged r, ?_, rfl, rfl, rfl, rfl, rfl⟩
    exact (List.getElem?_modify_eq ..).trans (congrArg (Option.map _) hq)
  · exact (k.addTrap_alone r hs ho hn).trans (if_pos hl)
  · exact (k.addTrap_alone r hs ho hn).trans (if_neg (Nat.not_lt.2 hl))

end Sys2Proof.Machine
end

section
/-!
The shapes of class V (R182, R183): each shared meaning of the vector instructions is a lane-wise write of its value in every active lane. A
shape's lemma takes the equation of an instruction's meaning and the value its rule gives.
-/

namespace Sys2Proof.Machine

open Sys2Proof Sys2Proof.Safety Host

section
variable {mk : Fields → Instr}

/-- Two integer operands (R185, R187). -/
theorem binResult_intBin (g : Bool → Nat → Nat → Nat → Nat) (h : ∀ f s, exec (mk f) s = intBin (mk f) f g s) :
    BinResult mk Fields.words (fun f => g f.signed f.width) := fun f => laneResult_of _ _ _ _ _ _ _ _ (h f)

/-- An integer operand and a count or descriptor of one register (R187). -/
theorem countResult_intShift (g : Nat → Nat → Nat → Nat) (h : ∀ f s, exec (mk f) s = intShift (mk f) f g s) :
    CountResult mk Fields.words (fun f => g f.width) := fun f => laneResult_of _ _ _ _ _ _ _ _ (h f)

/-- One integer operand (R188). -/
theorem unResult_intUn (nd : Fields → Nat) (g : Nat → Nat → Nat) (h : ∀ f s, exec (mk f) s = intUn (mk f) f (nd f) g s) :
    UnResult mk Fields.words nd (fun f => g f.width) := fun f => laneResult_of _ _ _ _ _ _ _ _ (h f)

/-- Two floating-point operands (R191). -/
theorem binResult_fltBin (g : Fmt → Nat → Nat → Nat → Nat) (h : ∀ f s, exec (mk f) s = fltBin (mk f) f g s) :
    BinResult mk Fields.fwords (fun f => g f.fmt f.rm) := fun f => laneResult_of _ _ _ _ _ _ _ _ (h f)

/-- One floating-point operand (R192, R195). -/
theorem unResult_fltUn (g : Fmt → Nat → Nat → Nat) (h : ∀ f s, exec (mk f) s = fltUn (mk f) f g s) :
    UnResult mk Fields.fwords Fields.fwords (fun f => g f.fmt f.rm) := fun f => laneResult_of _ _ _ _ _ _ _ _ (h f)

/-- One FP32 operand of an approximation, whatever its value is (R196). -/
theorem unResult_approx (g : Nat → Nat) (h : ∀ f s, exec (mk f) s = approx (mk f) f g s) :
    UnResult mk (fun _ => 1) (fun _ => 1) (fun _ => g) := fun f => laneResult_of _ _ _ _ _ _ _ _ (h f)

end

section
variable {mk : ImmFields → Instr}

/-- An integer operand and an immediate, as signed 32-bit integers (R65). -/
theorem immResult_intImm (g : Bool → Nat → Nat → Nat → Nat) (h : ∀ f s, exec (mk f) s = intImm (mk f) f g s) :
    ImmResult mk (g true 32) := fun f => laneResult_of _ _ _ _ _ _ _ _ (h f)

/-- A floating-point operand and an immediate, in FP32 and to nearest even (R65). -/
theorem immResult_fltImm (g : Fmt → Nat → Nat → Nat → Nat) (h : ∀ f s, exec (mk f) s = fltImm (mk f) f g s) :
    ImmResult mk (g fp32 0) := fun f => laneResult_of _ _ _ _ _ _ _ _ (h f)

end

/-- IMUL's value, by HI (R187). -/
theorem vMul_eq (hi sg : Bool) (w x y : Nat) : (if hi then vMulHi else vMul) sg w x y =
    if hi then low w (readInt sg w x * readInt sg w y / ((2 ^ w : Nat) : Int)) else (x * y) % 2 ^ w := by
  cases hi <;> rfl

/-- Settles O12: each instruction is of a shape of class V, IMUL with the half that HI picks. -/
theorem integerArithmetic : Obligations.IntegerArithmetic := by
  unfold Obligations.IntegerArithmetic
  refine ⟨?iadd, ?isub, ?imul, ?imad, ?iadds, ?iaddImm, ?isubImm, ?imulImm, ?iaddsImm⟩
  case iadd => exact binResult_intBin vAdd (fun _ _ => rfl)
  case isub => exact binResult_intBin vSub (fun _ _ => rfl)
  case imul =>
    have hmeaning : BinResult .imul Fields.words (fun f => (if f.m 5 then vMulHi else vMul) f.signed f.width) :=
      fun f => laneResult_of _ _ _ _ _ _ _ _ (fun _ => rfl)
    exact fun f => laneResult_congr _ _ _ _ _ _ _ _ _ (hmeaning f) (fun _ _ _ _ _ => vMul_eq (f.m 5) f.signed f.width _ _)
  case imad => exact fun f => laneResult_of _ _ _ _ _ _ _ _ (fun _ => rfl)
  case iadds => exact binResult_intBin vAdds (fun _ _ => rfl)
  case iaddImm => exact immResult_intImm vAdd (fun _ _ => rfl)
  case isubImm => exact immResult_intImm vSub (fun _ _ => rfl)
  case imulImm => exact immResult_intImm vMul (fun _ _ => rfl)
  case iaddsImm => exact immResult_intImm vAdds (fun _ _ => rfl)

/-- Settles O13: minimum, maximum and logic are two-operand forms, complement and absolute value one-operand forms. -/
theorem integerMinMaxLogic : Obligations.IntegerMinMaxLogic := by
  unfold Obligations.IntegerMinMaxLogic
  refine ⟨?imin, ?imax, ?iand, ?ior, ?ixor, ?iminImm, ?imaxImm, ?iandImm, ?iorImm, ?ixorImm, ?iabs, ?inot⟩
  case imin => exact binResult_intBin vMin (fun _ _ => rfl)
  case imax => exact binResult_intBin vMax (fun _ _ => rfl)
  case iand => exact binResult_intBin vAnd (fun _ _ => rfl)
  case ior => exact binResult_intBin vOr (fun _ _ => rfl)
  case ixor => exact binResult_intBin vXor (fun _ _ => rfl)
  case iminImm => exact immResult_intImm vMin (fun _ _ => rfl)
  case imaxImm => exact immResult_intImm vMax (fun _ _ => rfl)
  case iandImm => exact immResult_intImm vAnd (fun _ _ => rfl)
  case iorImm => exact immResult_intImm vOr (fun _ _ => rfl)
  case ixorImm => exact immResult_intImm vXor (fun _ _ => rfl)
  case iabs => exact unResult_intUn Fields.words vAbs (fun _ _ => rfl)
  case inot => exact unResult_intUn Fields.words vNot (fun _ _ => rfl)

/-- IBFE's value, the sign taken from the field's top bit where TY is signed and the field is not empty (R189). -/
theorem vBfe_eq (sg : Bool) (w x c : Nat) : vBfe sg w x c =
    if sg = true ∧ min (c / 256 % 256) w ≠ 0
    then low w (sextNat (min (c / 256 % 256) w) (x / 2 ^ (c % 256) % 2 ^ min (c / 256 % 256) w))
    else x / 2 ^ (c % 256) % 2 ^ min (c / 256 % 256) w := by
  simp only [vBfe, low, wrapNat, Bool.and_eq_true, bne_iff_ne]

/-- Settles O14: shifts and rotates take a count of one register; the bit-field instructions a descriptor. -/
theorem integerShiftsAndBits : Obligations.IntegerShiftsAndBits := by
  unfold Obligations.IntegerShiftsAndBits
  refine ⟨⟨?ishl, ?ishr, ?isra, ?irot, ?ishlImm, ?ishrImm, ?israImm, ?irotImm⟩, ?ipopc, ?iclz, ?ibrev, ?ibfe, ?ibfi⟩
  case ishl => exact countResult_intShift vShl (fun _ _ => rfl)
  case ishr => exact countResult_intShift vShr (fun _ _ => rfl)
  case isra => exact countResult_intShift vSra (fun _ _ => rfl)
  case irot => exact countResult_intShift vRot (fun _ _ => rfl)
  case ishlImm => exact immResult_intImm (fun _ => vShl) (fun _ _ => rfl)
  case ishrImm => exact immResult_intImm (fun _ => vShr) (fun _ _ => rfl)
  case israImm => exact immResult_intImm (fun _ => vSra) (fun _ _ => rfl)
  case irotImm => exact immResult_intImm (fun _ => vRot) (fun _ _ => rfl)
  case ipopc => exact unResult_intUn (fun _ => 1) vPopc (fun _ _ => rfl)
  case iclz => exact unResult_intUn (fun _ => 1) vClz (fun _ _ => rfl)
  case ibrev => exact unResult_intUn Fields.words vBrev (fun _ _ => rfl)
  case ibfe =>
    have hmeaning : CountResult .ibfe Fields.words (fun f => vBfe f.signed f.width) := fun f => laneResult_of _ _ _ _ _ _ _ _ (fun _ => rfl)
    exact fun f => laneResult_congr _ _ _ _ _ _ _ _ _ (hmeaning f) (fun _ w _ l _ => vBfe_eq f.signed f.width (f.ra w f.words l) (f.rb w 1 l))
  case ibfi => exact fun f => laneResult_of _ _ _ _ _ _ _ _ (fun _ => rfl)

/-- Settles O15: the floating-point instructions in the format of TY and the mode of RM; the immediate forms in FP32, to nearest even. -/
theorem floatArithmetic : Obligations.FloatArithmetic := by
  unfold Obligations.FloatArithmetic
  refine ⟨?fadd, ?fsub, ?fmul, ?ffma, ?fmin, ?fmax, ?faddImm, ?fsubImm, ?fmulImm, ?fminImm, ?fmaxImm, ?fabs, ?fneg, ?fclass, ?fscale,
    ?fround, ?fsqrt⟩
  case fadd => exact binResult_fltBin (fun t => t.add 0) (fun _ _ => rfl)
  case fsub => exact binResult_fltBin (fun t => t.sub 0) (fun _ _ => rfl)
  case fmul => exact binResult_fltBin (fun t => t.mul 0) (fun _ _ => rfl)
  case ffma => exact fun f => laneResult_of _ _ _ _ _ _ _ _ (fun _ => rfl)
  case fmin => exact binResult_fltBin (fun t _ => t.minmax false) (fun _ _ => rfl)
  case fmax => exact binResult_fltBin (fun t _ => t.minmax true) (fun _ _ => rfl)
  case faddImm => exact immResult_fltImm (fun t => t.add 0) (fun _ _ => rfl)
  case fsubImm => exact immResult_fltImm (fun t => t.sub 0) (fun _ _ => rfl)
  case fmulImm => exact immResult_fltImm (fun t => t.mul 0) (fun _ _ => rfl)
  case fminImm => exact immResult_fltImm (fun t _ => t.minmax false) (fun _ _ => rfl)
  case fmaxImm => exact immResult_fltImm (fun t _ => t.minmax true) (fun _ _ => rfl)
  case fabs => exact unResult_fltUn (fun t _ => vSign Fmt.mag t) (fun _ _ => rfl)
  case fneg => exact unResult_fltUn (fun t _ => vSign (fun t x => x ^^^ t.sign) t) (fun _ _ => rfl)
  case fclass => exact fun f => laneResult_of _ _ _ _ _ _ _ _ (fun _ => rfl)
  case fscale => exact fun f => laneResult_of _ _ _ _ _ _ _ _ (fun _ => rfl)
  case fround => exact unResult_fltUn vRound (fun _ _ => rfl)
  case fsqrt => exact unResult_fltUn vSqrt (fun _ _ => rfl)

end Sys2Proof.Machine
end

section
/-!
CVTQ (R199): the four blocks' results, their active lanes written. A block's result has an entry for each of its lanes, and a lane lies in one
block, so the word a lane's register takes is an entry of its own block's result.
-/

namespace Sys2Proof.Machine

open Sys2Proof Sys2Proof.Safety Host

/-! ## Words written by key -/

/-- A key that a list of writes names takes the word of one of its writes. -/
theorem lastOf_mem (l : List (Nat × Word)) (k : Nat) (d : Word) (h : ∃ e ∈ l, e.1 = k) : (k, lastOf l k d) ∈ l := by
  induction l generalizing d with
  | nil => simp at h
  | cons e l ih =>
    rw [lastOf_cons]
    by_cases hl : ∃ x ∈ l, x.1 = k
    · exact List.mem_cons_of_mem _ (ih _ hl)
    · obtain ⟨x, hx, hk⟩ := h
      rcases List.mem_cons.1 hx with rfl | hx
      · rw [if_pos hk, lastOf_none l k _ (fun y hy hyk => hl ⟨y, hy, hyk⟩), ← hk]
        exact List.mem_cons_self
      · exact absurd ⟨x, hx, hk⟩ hl

/-- Writes of v registers leave the s registers. -/
theorem Wave.sr_setKeys_v (w : Wave) (l : List (Nat × Word)) (h : ∀ e ∈ l, e.1 < 32768) : (w.setKeys l).sr = w.sr := by
  unfold Wave.setKeys
  induction l generalizing w with
  | nil => rfl
  | cons e l ih =>
    rw [List.foldl_cons, ih _ (fun x hx => h x (List.mem_cons_of_mem _ hx)), Wave.setKey, if_pos (h e List.mem_cons_self)]

/-- Writes of v registers leave the rest of the wave. -/
theorem Wave.rest_setKeys_v (w : Wave) (l : List (Nat × Word)) (h : ∀ e ∈ l, e.1 < 32768) : { w.setKeys l with vr := w.vr } = w :=
  calc { w.setKeys l with vr := w.vr } = { w.setKeys l with vr := w.vr, sr := w.sr } := by rw [← w.sr_setKeys_v l h]
    _ = w := w.rest_setKeys l

/-! ## Blocks -/

/-- The inputs of block `b` (R199): lanes 32b to 32b + 31, an inactive one as +0. -/
def cvtqIns (f : Fields) (w : Wave) (act : LaneMask) (b : Nat) : List (Nat × Nat) :=
  (List.range 32).map (fun n => (32 * b + n, if act.getLsbD (32 * b + n) = true then f.ra w 1 (32 * b + n) else 0))

/-- Its result. -/
def cvtqOut (f : Fields) (w : Wave) (act : LaneMask) (b : Nat) : List (Nat × Nat) :=
  cvtqBlock (f.mb 5 2) f.rm f.nsat (f.rb w 1 0) (cvtqIns f w act b)

/-- What CVTQ writes: of each block with an active lane, the entries of its active lanes. -/
def cvtqWrites (f : Fields) (w : Wave) (act : LaneMask) : List (Nat × Word) :=
  (((List.range 4).flatMap (fun b => if (List.range 32).any (fun n => act.getLsbD (32 * b + n)) then cvtqOut f w act b else [])).filter
    (fun e => act.getLsbD e.1)).map (fun e => (vKey f.d.toNat e.1, BitVec.ofNat 32 e.2))

theorem exec_cvtq (f : Fields) (s : State) (q : Cursor) (cr : Crew) (w : Wave) (act : LaneMask)
    (h : IssuesLanes s (.cvtq f) f.pn f.pred (vNamed f.kd f.d 1 ++ vNamed f.ka f.a 1) q cr w act) :
    exec (.cvtq f) s = .next (s.writeRegs q.crew q.wave (cvtqWrites f w act)) := by
  show execCvtq f s = _
  rw [execCvtq, s.laned_acts (.cvtq f) f.pn f.pred _ q cr w act _ h]
  rfl

section
variable (f : Fields) (w : Wave) (act : LaneMask)

theorem cvtqOut_keys (b : Nat) : (cvtqOut f w act b).map Prod.fst = (List.range 32).map (fun n => 32 * b + n) := by
  rw [cvtqOut, cvtqBlock_keys, cvtqIns, List.map_map]
  rfl

/-- A lane has an entry in the result of its own block and of no other. -/
theorem mem_cvtqOut_keys (b l : Nat) : (∃ v, (l, v) ∈ cvtqOut f w act b) ↔ l / 32 = b := by
  have hkeys : (∃ v, (l, v) ∈ cvtqOut f w act b) ↔ l ∈ (cvtqOut f w act b).map Prod.fst := by simp
  rw [hkeys, cvtqOut_keys]
  simp only [List.mem_map, List.mem_range]
  exact ⟨fun ⟨n, hn, hl⟩ => by omega, fun hb => ⟨l % 32, Nat.mod_lt _ (by decide), by omega⟩⟩

/-- The writes: an active lane's register takes an entry of its own block's result. -/
theorem mem_cvtqWrites (k : Nat) (x : Word) : (k, x) ∈ cvtqWrites f w act ↔
    ∃ l v, l < 128 ∧ act.getLsbD l = true ∧ (l, v) ∈ cvtqOut f w act (l / 32) ∧ k = 128 * f.d.toNat + l ∧ x = BitVec.ofNat 32 v := by
  unfold cvtqWrites
  simp only [List.mem_map, List.mem_filter, List.mem_flatMap, List.mem_range, Prod.exists, Prod.mk.injEq]
  constructor
  · rintro ⟨l, v, ⟨⟨b, hb, hm⟩, ha⟩, rfl, rfl⟩
    split at hm
    · obtain rfl := (mem_cvtqOut_keys f w act b l).1 ⟨v, hm⟩
      exact ⟨l, v, by omega, ha, hm, rfl, rfl⟩
    · simp at hm
  · rintro ⟨l, v, hl, ha, hm, rfl, rfl⟩
    have hany : (List.range 32).any (fun n => act.getLsbD (32 * (l / 32) + n)) = true :=
      List.any_eq_true.2 ⟨l % 32, List.mem_range.2 (Nat.mod_lt _ (by decide)), by rwa [Nat.div_add_mod]⟩
    exact ⟨l, v, ⟨⟨l / 32, by omega, by rwa [if_pos hany]⟩, ha⟩, rfl, rfl⟩

theorem cvtqWrites_v : ∀ e ∈ cvtqWrites f w act, e.1 < 32768 := by
  rintro ⟨k, x⟩ he
  obtain ⟨l, v, hl, -, -, rfl, -⟩ := (mem_cvtqWrites f w act k x).1 he
  have := f.d.isLt
  dsimp only
  omega

/-- An active lane's element of D. -/
theorem Wave.v_cvtq_active (l : Nat) (hl : l < 128) (ha : act.getLsbD l = true) :
    ∃ v, (l, v) ∈ cvtqOut f w act (l / 32) ∧ (w.setKeys (cvtqWrites f w act)).v f.d.toNat l = BitVec.ofNat 32 v := by
  obtain ⟨v, hv⟩ := (mem_cvtqOut_keys f w act (l / 32) l).2 rfl
  have hwritten := (mem_cvtqWrites f w act _ _).2 ⟨l, v, hl, ha, hv, rfl, rfl⟩
  obtain ⟨l', v', -, -, hv', hk, hx⟩ := (mem_cvtqWrites f w act _ _).1
    (lastOf_mem _ (128 * f.d.toNat + l) (w.v f.d.toNat l) ⟨_, hwritten, rfl⟩)
  obtain rfl : l = l' := by omega
  have hd := f.d.isLt
  exact ⟨v', hv', by rw [Wave.v_setKeys _ _ _ _ (by omega), hx]⟩

/-- Other v registers and the elements of inactive lanes. -/
theorem Wave.v_cvtq_other (r l : Nat) (hr : r < 256) (hl : l < 128) (h : r ≠ f.d.toNat ∨ act.getLsbD l = false) :
    (w.setKeys (cvtqWrites f w act)).v r l = w.v r l := by
  rw [Wave.v_setKeys _ _ _ _ (by omega), lastOf_none]
  rintro ⟨k, x⟩ he rfl
  obtain ⟨l', v, hl', ha, -, hk, -⟩ := (mem_cvtqWrites f w act _ _).1 he
  obtain ⟨rfl, rfl⟩ : r = f.d.toNat ∧ l = l' := by omega
  rcases h with h | h
  · exact h rfl
  · simp [ha] at h

end

/-- Settles O16: the approximations and conversions are lane-wise; CVTQ by what its blocks' results write. -/
theorem approximationsAndConversions : Obligations.ApproximationsAndConversions := by
  unfold Obligations.ApproximationsAndConversions
  refine ⟨⟨?frcp, ?frsq, ?fexp2, ?flog2, ?cvt, ?cvtx⟩, ?cvtq⟩
  case frcp => exact unResult_approx frcpBits (fun _ _ => rfl)
  case frsq => exact unResult_approx frsqBits (fun _ _ => rfl)
  case fexp2 => exact unResult_approx fexp2Bits (fun _ _ => rfl)
  case flog2 => exact unResult_approx flog2Bits (fun _ _ => rfl)
  case cvt => exact fun f => laneResult_of _ _ _ _ _ _ _ _ (fun _ => rfl)
  case cvtx => exact fun f => laneResult_of _ _ _ _ _ _ _ _ (fun _ => rfl)
  case cvtq =>
    intro f s q cr w act h
    have ⟨⟨hcur, _⟩, _⟩ := h
    have ⟨_, _, _, hw⟩ := s.curWave_spec q cr w hcur
    exact ⟨_, _, exec_cvtq f s q cr w act h, s.wave?_writeRegs _ _ _ w hw, Wave.v_cvtq_active f w act, Wave.v_cvtq_other f w act,
      w.rest_setKeys_v _ (cvtqWrites_v f w act), s.onlyWave_writeRegs _ _ _⟩

end Sys2Proof.Machine
end

section
/-!
Lane moves, cross-lane results and predicates (R190, R193, R201 to R212): lane-wise instructions whose values read other lanes, BALLOT's four
s registers, and the conditions that compares and votes write.
-/

namespace Sys2Proof.Machine

open Sys2Proof Sys2Proof.Safety Host

/-- In .idx over all 128 lanes the source lane is the index itself (R205). -/
theorem shflLane_idx (l y : Nat) (hl : l < 128) : shflLane 0 0 l y = y % 128 := by
  show (if 0 ≤ ((y % 128 : Nat) : Int) ∧ ((y % 128 : Nat) : Int) < ((128 : Nat) : Int)
    then l - l % 128 + ((y % 128 : Nat) : Int).toNat else l) = y % 128
  rw [if_pos ⟨by omega, by omega⟩]
  omega

/-- Settles O17: each move is lane-wise, its value read from the wave as it was; SHFL with an immediate by `shflLane_idx`. -/
theorem movesAndShuffles : Obligations.MovesAndShuffles := by
  unfold Obligations.MovesAndShuffles
  refine ⟨?mov, ?movImm, ?ldi, ?sel, ?movs, ?bcast, ?shfl, ?shflImm⟩ <;> intro f
  case mov | movImm | ldi | sel | movs | bcast | shfl => exact laneResult_of _ _ _ _ _ _ _ _ (fun _ => rfl)
  case shflImm =>
    have hmeaning : LaneResult (.shflImm f) f.pn f.pred f.kd f.d 1 (vNamed f.ka f.a 1)
        (fun _ w _ l => f.ra w 1 (shflLane 0 0 l f.imm.toNat)) := laneResult_of _ _ _ _ _ _ _ _ (fun _ => rfl)
    exact laneResult_congr _ _ _ _ _ _ _ _ _ hmeaning (fun _ w _ l hl => congrArg (f.ra w 1) (shflLane_idx l f.imm.toNat hl))

/-- A group of s registers takes the words of a number in order. -/
theorem wrGroup_s_eq (d l n v : Nat) : wrGroup true d l n v = (List.range n).map (fun j => (sKey (d + j), groupWord v j)) := by
  induction n generalizing d v with
  | zero => rfl
  | succ n ih =>
    rw [wrGroup, ih, List.range_succ_eq_map, List.map_cons, List.map_map]
    refine congrArg₂ List.cons (by simp [groupWord]) (List.map_congr_left fun j _ => ?_)
    rw [groupWord_succ, Function.comp_apply, Nat.succ_eq_add_one, Nat.add_assoc, Nat.add_comm 1 j]

/-- A wave that writes a group of s registers (R47). -/
theorem State.writesS_wrGroup (s : State) (q : Cursor) (cr : Crew) (w : Wave) (d n v : Nat) (h : s.curWave = some (q, cr, w)) :
    WritesS s (s.writeRegs q.crew q.wave (wrGroup true d 0 n v)) q w ((List.range n).map (fun j => (d + j, groupWord v j))) := by
  have hdistinct : (((List.range n).map (fun j => (d + j, groupWord v j))).map (·.1)).Nodup := by
    rw [List.map_map]
    exact List.nodup_range.map (fun a b hab => Nat.add_left_cancel hab)
  have hwrites := s.writesS_writeRegs q cr w _ h hdistinct
  rw [List.map_map] at hwrites
  rw [wrGroup_s_eq]
  exact hwrites

theorem exec_ballot (f : Fields) (s : State) (q : Cursor) (cr : Crew) (w : Wave) (act : LaneMask)
    (h : IssuesLanes s (.ballot f) f.pn f.pred [] q cr w act) : exec (.ballot f) s =
      .next (s.writeRegs q.crew q.wave (wrGroup true f.d.toNat 0 4 (w.p f.a.toNat &&& act).toNat)) := by
  show execBallot f s = _
  rw [execBallot, s.laned_acts (.ballot f) f.pn f.pred [] q cr w act _ h]

/-- Settles O18: cross-lane and complex results are lane-wise with values from the wave as it was; BALLOT writes a group of four s registers. -/
theorem crossLaneAndComplex : Obligations.CrossLaneAndComplex := by
  unfold Obligations.CrossLaneAndComplex
  refine ⟨?redux, ?scanw, ?cmul, ?bfly, ?bfly4, ?twid, ?rdtime, ?ballot⟩ <;> intro f
  case redux | scanw | cmul | bfly | bfly4 | twid | rdtime => exact laneResult_of _ _ _ _ _ _ _ _ (fun _ => rfl)
  case ballot =>
    intro s q cr w act h
    have ⟨⟨hcur, _⟩, _⟩ := h
    exact ⟨_, exec_ballot f s q cr w act h, s.writesS_wrGroup q cr w f.d.toNat 4 _ hcur⟩

/-- A predicate-writing instruction whose conditions agree with the meaning's. -/
theorem predResult_congr {i : Instr} {pn : Bool} {pred : BitVec 3} {d : BitVec 8} {vs : List (Nat × Nat)}
    {val val' : Wave → LaneMask → Nat → Bool} (h : PredResult i pn pred d vs val') (he : ∀ w act l, val' w act l = val w act l) :
    PredResult i pn pred d vs val := by
  obtain rfl : val' = val := funext fun w => funext fun act => funext (he w act)
  exact h

/-- The conditions of ICMP in the order of CC (R190). -/
theorem vCmp_eq (sg : Bool) (w cc x y : Nat) : vCmp sg w cc x y =
    if cc = 0 then decide (readInt sg w x = readInt sg w y) else if cc = 1 then decide (readInt sg w x ≠ readInt sg w y)
    else if cc = 2 then decide (readInt sg w x < readInt sg w y) else if cc = 3 then decide (readInt sg w x ≤ readInt sg w y)
    else if cc = 4 then decide (readInt sg w x > readInt sg w y) else decide (readInt sg w x ≥ readInt sg w y) := by
  match cc with
  | 0 | 1 | 2 | 3 | 4 => rfl
  | n + 5 => rfl

/-- VOTE's condition on the active lanes `m` whose predicate is set (R206): all, any, or uniform. -/
def voteCond (mode : Nat) (m act : LaneMask) : Bool :=
  match mode with
  | 0 => m == act
  | 1 => m != 0
  | _ => m == 0 || m == act

theorem voteCond_eq (mode : Nat) (m act : LaneMask) : voteCond mode m act =
    if mode = 0 then decide (m = act) else if mode = 1 then decide (m ≠ 0) else decide (m = 0 ∨ m = act) := by
  match mode with
  | 0 => rfl
  | 1 => exact decide_not.symm
  | n + 2 => exact (Bool.decide_or _ _).symm

/-- Settles O19: compares and VOTE write predicates, by the conditions of CC and of VOTE's mode. -/
theorem predicateResults : Obligations.PredicateResults := by
  unfold Obligations.PredicateResults
  refine ⟨?icmp, ?fcmp, ?vote⟩ <;> intro f
  case icmp =>
    have hmeaning : PredResult (.icmp f) f.pn f.pred f.d (vNamed f.ka f.a f.words ++ vNamed f.kb f.b f.words)
        (fun w _ l => vCmp f.signed f.width f.cc (f.ra w f.words l) (f.rb w f.words l)) := predResult_of _ _ _ _ _ _ (fun _ => rfl)
    exact predResult_congr hmeaning (fun w _ l => vCmp_eq f.signed f.width f.cc (f.ra w f.words l) (f.rb w f.words l))
  case fcmp => exact predResult_of _ _ _ _ _ _ (fun _ => rfl)
  case vote =>
    exact predResult_congr (predResult_of (.vote f) f.pn f.pred f.d [] (fun w act _ => voteCond (f.mb 5 2) (w.p f.a.toNat &&& act) act)
      (fun _ => rfl)) (fun w act _ => voteCond_eq (f.mb 5 2) (w.p f.a.toNat &&& act) act)

end Sys2Proof.Machine
end

section
/-!
The checks of one lane of an access in their order (R218): the bound of the index first, then what its space checks of the address.
-/

namespace Sys2Proof.Machine

open Sys2Proof Sys2Proof.Safety Host

/-- An index that a form's bound, if it has one, shuts out (R226). -/
def Form.ShutsOut (m : Machine.Form) (i : Int) : Prop := ∃ b, m.bound = some b ∧ (i < 0 ∨ (b : Int) ≤ i)

theorem State.checkLane_shutOut (s : State) (cr : Crew) (w : Wave) (f : Fields) (m : Machine.Form) (l : Nat)
    (h : m.ShutsOut (f.index w l)) :
    s.checkLane cr w f m l = .error (Cause.elementBounds, f.addr w l (if m.spad then 1 else 2) m.unit) := by
  obtain ⟨b, hb, hout⟩ := h
  unfold State.checkLane
  simp only [hb, Bool.or_eq_true, decide_eq_true_eq, if_pos hout]

/-- A lane whose index is in bounds is checked as under a form without a bound. -/
theorem State.checkLane_inBounds (s : State) (cr : Crew) (w : Wave) (f : Fields) (m : Machine.Form) (l : Nat)
    (h : ¬m.ShutsOut (f.index w l)) : s.checkLane cr w f m l = s.checkLane cr w f { m with bound := none } l := by
  unfold State.checkLane
  cases hb : m.bound with
  | none => rfl
  | some b =>
    have hin : ¬(f.index w l < 0 ∨ (b : Int) ≤ f.index w l) := fun hout => h ⟨b, hb, hout⟩
    simp only [Bool.or_eq_true, decide_eq_true_eq, if_neg hin, Bool.false_eq_true, if_false]

/-- A lane of a scratchpad access whose index is in bounds: protection, then alignment. -/
theorem State.checkLane_spad (s : State) (cr : Crew) (w : Wave) (f : Fields) (m : Machine.Form) (l : Nat)
    (h : ¬m.ShutsOut (f.index w l)) (hspad : m.spad = true) :
    s.checkLane cr w f m l =
      if cr.spadBytes ≤ f.addr w l 1 m.unit then .error (Cause.protection, f.addr w l 1 m.unit)
      else if f.addr w l 1 m.unit % m.align ≠ 0 then .error (Cause.misaligned, f.addr w l 1 m.unit)
      else .ok (f.addr w l 1 m.unit, 0) := by
  rw [s.checkLane_inBounds cr w f m l h]
  unfold State.checkLane
  simp only [hspad, if_true, Bool.false_eq_true, if_false]

/-- A lane of a device access whose index is in bounds: protection, then alignment, then translation. -/
theorem State.checkLane_device (s : State) (cr : Crew) (w : Wave) (f : Fields) (m : Machine.Form) (l : Nat)
    (h : ¬m.ShutsOut (f.index w l)) (hspad : m.spad = false) :
    s.checkLane cr w f m l =
      if 2 ^ 56 ≤ f.addr w l 2 m.unit ∨ m.forbidden = true then .error (Cause.protection, f.addr w l 2 m.unit)
      else if f.addr w l 2 m.unit % m.align ≠ 0 then .error (Cause.misaligned, f.addr w l 2 m.unit)
      else ((s.translate (dieOf cr.core) cr.ctx (f.addr w l 2 m.unit) m.need).map (fun pa => (f.addr w l 2 m.unit, pa))).mapError
        (fun c => (c, f.addr w l 2 m.unit)) := by
  rw [s.checkLane_inBounds cr w f m l h]
  unfold State.checkLane
  simp only [hspad, Bool.false_eq_true, if_false, Bool.or_eq_true, decide_eq_true_eq]
  cases s.translate (dieOf cr.core) cr.ctx (f.addr w l 2 m.unit) m.need <;> rfl

/-- Settles O23: an index that is shut out ends the check; one that is not goes on to what the scratchpad, or device memory, checks of
the address. -/
theorem accessCheckOrder : Obligations.AccessCheckOrder := by
  unfold Obligations.AccessCheckOrder
  intro s cr w f m l
  refine ⟨s.checkLane_shutOut cr w f m l, ?spadProtection, ?spadMisaligned, ?spadPasses, ?protection, ?misaligned, ?translates, ?faults⟩
  case spadProtection | spadMisaligned | spadPasses =>
    intro hin hspad
    rw [s.checkLane_spad cr w f m l hin hspad, hspad]
    simp +contextual only [if_true, not_le_of_gt, if_false, ne_eq, not_false_eq_true, not_true_eq_false, implies_true]
  case protection | misaligned | translates | faults =>
    intro hin hspad
    rw [s.checkLane_device cr w f m l hin hspad, hspad]
    simp +contextual only [if_true, not_le_of_gt, if_false, ne_eq, not_false_eq_true, not_true_eq_false, Bool.false_eq_true, or_self,
      Except.map, Except.mapError, implies_true]

end Sys2Proof.Machine
end

section
/-!
Accesses at issue (R213 to R231): those that launch at once, those that R98 makes irrevocable first at pod or wider, and the instructions
that order other accesses.
-/

namespace Sys2Proof.Machine

open Sys2Proof Sys2Proof.Safety Host

/-- An access that launches at once, its elements as `post` makes them, and waits for nothing. -/
theorem accessIssues_launch (mk : Fields → Instr) (vs : Fields → List (Nat × Nat)) (form : Fields → State → Crew → Wave → Machine.Form)
    (dst : Fields → Nat → List Nat) (data data2 : Fields → Wave → Nat → Nat) (post : Fields → Wave → List Elem → List Elem)
    (hex : ∀ f s, exec (mk f) s = s.access (mk f) f (vs f) (form f s) (fun _ => dst f) (data f) (data2 f)
      (fun q cr w act es u => launchAccess (mk f) q cr w act (post f w es) u)) :
    AccessIssues mk vs (fun _ _ _ => True) form dst data data2 post (fun _ _ _ _ => []) :=
  accessIssues_of mk vs _ form dst data data2 post _ _ (fun _ _ _ _ _ _ _ _ _ _ _ => rfl) hex

/-- What an access does that becomes irrevocable first at pod or wider (R98). -/
def scopedLaunch (i : Instr) (f : Fields) (q : Cursor) (w : Wave) (act : LaneMask) (es : List Elem) (s : State) : State :=
  let go (s : State) : State := match s.crew? q.crew with
    | some cr => launchAccess i q cr w act es s
    | none => s
  if 3 ≤ f.scope then s.irrevocably go else go s

/-- Below pod, or in a task that is not versioned, it launches at once. -/
theorem scopedLaunch_at_once (i : Instr) (f : Fields) (q : Cursor) (cr : Crew) (w : Wave) (act : LaneMask) (es : List Elem) (s : State)
    (h : s.curWave = some (q, cr, w)) (hw : f.scope < 3 ∨ cr.task ≠ .versioned) :
    scopedLaunch i f q w act es s = launchAccess i q cr w act es s := by
  obtain ⟨-, hcrew, -, -⟩ := State.curWave_spec s q cr w h
  unfold scopedLaunch
  by_cases hwide : 3 ≤ f.scope
  · have ht : cr.task ≠ .versioned := hw.resolve_left hwide.not_gt
    rw [if_pos hwide, s.irrevocably_pass q cr w _ h ht, hcrew]
  · rw [if_neg hwide]
    dsimp only
    rw [hcrew]

/-- An access that R98 makes irrevocable first at pod or wider, where it need not become so. -/
theorem accessIssues_scoped (mk : Fields → Instr) (vs : Fields → List (Nat × Nat)) (form : Fields → State → Crew → Wave → Machine.Form)
    (dst : Fields → Nat → List Nat) (data data2 : Fields → Wave → Nat → Nat)
    (hex : ∀ f s, exec (mk f) s = s.access (mk f) f (vs f) (form f s) (fun _ => dst f) (data f) (data2 f)
      (fun q _ w act es u => scopedLaunch (mk f) f q w act es u)) :
    AccessIssues mk vs (fun f _ cr => f.scope < 3 ∨ cr.task ≠ .versioned) form dst data data2 (fun _ _ es => es) (fun _ _ _ _ => []) :=
  accessIssues_of mk vs _ form dst data data2 _ _ _
    (fun f _ q cr w act es s1 h _ hw => scopedLaunch_at_once (mk f) f q cr w act es s1 h hw) hex

/-- Settles O20: all four launch at once, a 16-byte element as its two halves. -/
theorem loadsAndStoresIssue : Obligations.LoadsAndStoresIssue := by
  unfold Obligations.LoadsAndStoresIssue
  refine ⟨?ld, ?lds, ?st, ?sts⟩
  case ld | lds | st | sts => exact accessIssues_launch _ _ _ _ _ _ _ (fun _ _ => rfl)

/-- SCAT's meaning (R227), its two forms told apart by what OP is. -/
theorem exec_scat (f : Fields) (s : State) : exec (.scat f) s =
    s.access (.scat f) f (vNamed f.kd f.d (if f.aop = 0 then szGroup f.sz else f.agrp) ++ f.memNamed 2)
      (fun cr w => ⟨false, f.uniform, if f.aop = 0 then szBytes f.sz else atBytes f.aty,
        if f.aop = 0 then szBytes f.sz else atBytes f.aty, 0, if f.aop = 0 then Need.write else Need.atomic,
        some (w.s f.c.toNat).toNat, decide (f.aop ≠ 0) && s.walkForbids cr f.aop f.aty⟩)
      noDst
      (fun w l => f.rD w (if f.aop = 0 then szGroup f.sz else f.agrp) l % 2 ^ (8 * (if f.aop = 0 then szBytes f.sz else atBytes f.aty)))
      noData
      (fun q cr w act es u => launchAccess (.scat f) q cr w act
        (if f.aop = 0 then es.flatMap Elem.halves else combine f.aop f.aty w.inChunk es) u) := by
  show execScat f s = _
  unfold execScat
  by_cases h : f.aop = 0
  · simp only [h, beq_self_eq_true, if_true, Bool.not_true, ne_eq, not_true_eq_false, decide_false]
  · have hb : (f.aop == 0) = false := beq_eq_false_iff_ne.2 h
    simp only [h, hb, if_false, Bool.false_eq_true, Bool.not_false, ne_eq, not_false_eq_true, decide_true]

/-- Settles O21: ATOM, LR and SC are the accesses that may have to become irrevocable; the others launch at once, RED and a combining SCAT
with the lanes on one address combined. -/
theorem atomicsAndGathersIssue : Obligations.AtomicsAndGathersIssue := by
  unfold Obligations.AtomicsAndGathersIssue
  refine ⟨?atom, ?atoms, ?lr, ?sc, ?red, ?gath, ?scat⟩
  case atom | lr | sc => exact accessIssues_scoped _ _ _ _ _ _ (fun _ _ => rfl)
  case atoms | red | gath => exact accessIssues_launch _ _ _ _ _ _ _ (fun _ _ => rfl)
  case scat => exact accessIssues_launch _ _ _ _ _ _ _ exec_scat

/-! ## Instructions that order accesses -/

/-- An instruction whose meaning is to launch an operation of its strand from a state in which it is still the one that issues. -/
theorem issued_of_exec {i : Instr} {s s0 : State} {q : Cursor} {cr : Crew} {w : Wave} {op : Op} (h : s0.curWave = some (q, cr, w))
    (hex : exec i s = .next (s0.launch op)) (hcrew : op.crew = q.crew) (hwave : op.wave = q.wave) : Issued i s s0 q w op :=
  ⟨s0.launch op, hex, s0.launched q cr w op h hcrew hwave⟩

theorem State.curWave_dropLackingLanes (s : State) (cr : Crew) (w : Wave) (f : Fields) (m : Machine.Form) (act : LaneMask) :
    (s.dropLackingLanes cr w f m act).curWave = s.curWave := by
  unfold State.dropLackingLanes
  split
  · rfl
  · refine foldl_keeps State.curWave _ (fun u x => ?_) _ s
    dsimp only
    split <;> rfl

/-- Dropped translations leave what a release waits for. -/
theorem State.releaseList_of_tlb {s s1 : State} (h : { s1 with tlb := s.tlb } = s) (c w : Nat) (m : LaneMask) (sc : Nat) :
    s1.releaseList c w m sc = s.releaseList c w m sc := by
  have hlist := congrArg (fun u : State => u.releaseList c w m sc) h
  exact hlist

/-- The operation of elements that write no register. -/
theorem accessOp_of_noDst (s : State) (q : Cursor) (cr : Crew) (w : Wave) (i : Instr) (act : LaneMask) (es : List Elem)
    (h : ∀ e ∈ es, e.dst = []) : accessOp s q cr w i act es = { newOp s q cr w i act with elems := es, dsts := [] } := by
  unfold accessOp
  rw [List.flatMap_eq_nil_iff.2 h]

/-- CONFL's operation holds each lane's result from the start (R228). -/
theorem confl_issues (f : Fields) (s : State) (q : Cursor) (cr : Crew) (w : Wave) (act : LaneMask)
    (h : IssuesLanes s (.confl f) f.pn f.pred (vNamed f.kd f.d 1 ++ vNamed f.ka f.a (szGroup f.sz)) q cr w act) :
    Issued (.confl f) s s q w { newOp s q cr w (.confl f) act with
      elems := (lanesOf act).map (fun l => ⟨l, laneBit l, 0, 0, 0, conflBits act (fun k => f.ra w (szGroup f.sz) k) l, 0,
        [vKey f.d.toNat l], none, .pending⟩)
      dsts := (lanesOf act).map (fun l => vKey f.d.toNat l) } := by
  have ⟨⟨hcur, _⟩, _⟩ := h
  refine issued_of_exec hcur ?_ rfl rfl
  show execConfl f s = _
  rw [execConfl, s.laned_acts (.confl f) f.pn f.pred _ q cr w act _ h]
  dsimp only [accessOp]
  rw [List.flatMap_map, ← List.map_eq_flatMap]

/-- The form of PREF's accesses: one byte, its offset in lines (R230). -/
def prefForm (f : Fields) : Machine.Form := ⟨false, f.ka && (f.kb || f.b == 0), 1, 1, 256, Need.read, none, false⟩

/-- PREF's elements: the shares whose addresses pass the checks (R230). -/
def State.prefElems (s : State) (cr : Crew) (w : Wave) (f : Fields) (act : LaneMask) : List Elem :=
  (w.shares (prefForm f).uniform act).filterMap (fun x =>
    (s.checkLane cr w f (prefForm f) x.1).toOption.map (fun a => ⟨x.1, x.2, a.1, a.2, 1, 0, 0, [], none, .pending⟩))

theorem State.dst_prefElems (s : State) (cr : Crew) (w : Wave) (f : Fields) (act : LaneMask) :
    ∀ e ∈ s.prefElems cr w f act, e.dst = [] := by
  intro e he
  obtain ⟨x, -, hx⟩ := List.mem_filterMap.1 he
  obtain ⟨a, -, rfl⟩ := Option.map_eq_some_iff.1 hx
  rfl

theorem exec_pref (f : Fields) (s : State) (q : Cursor) (cr : Crew) (w : Wave) (act : LaneMask)
    (h : IssuesLanes s (.pref f) f.pn f.pred (f.memNamed 2) q cr w act) : exec (.pref f) s =
      .next ((s.dropLackingLanes cr w f (prefForm f) act).launch (accessOp s q cr w (.pref f) act (s.prefElems cr w f act))) := by
  show execPref f s = _
  rw [execPref, s.laned_acts (.pref f) f.pn f.pred _ q cr w act _ h]
  refine congrArg (fun es => Outcome.next ((s.dropLackingLanes cr w f (prefForm f) act).launch (accessOp s q cr w (.pref f) act es)))
    (List.filterMap_congr fun x _ => ?_)
  dsimp only [prefForm]
  generalize s.checkLane cr w f _ x.1 = r
  cases r <;> rfl

/-- A lane that fails a check gives PREF no element, and no element of PREF writes a register (R230). -/
theorem pref_issues (f : Fields) (s : State) (q : Cursor) (cr : Crew) (w : Wave) (act : LaneMask)
    (h : IssuesLanes s (.pref f) f.pn f.pred (f.memNamed 2) q cr w act) :
    Issued (.pref f) s (s.dropLackingLanes cr w f (prefForm f) act) q w { newOp s q cr w (.pref f) act with
      elems := s.prefElems cr w f act, dsts := [] } := by
  have ⟨⟨hcur, _⟩, _⟩ := h
  refine issued_of_exec ((s.curWave_dropLackingLanes cr w f (prefForm f) act).trans hcur) ?_ rfl rfl
  rw [exec_pref f s q cr w act h, accessOp_of_noDst s q cr w _ act _ (s.dst_prefElems cr w f act)]

/-- What STW does with its elements (R98, R231). -/
def stwLaunch (f : Fields) (q : Cursor) (w : Wave) (act : LaneMask) (es : List Elem) (s : State) : State :=
  s.irrevocably (fun s => match s.crew? q.crew with
    | some cr => s.launch { accessOp s q cr w (.stw f) act es with waits := s.releaseList q.crew q.wave act f.scope }
    | none => s)

theorem stwLaunch_at_once (f : Fields) (q : Cursor) (cr : Crew) (w : Wave) (act : LaneMask) (es : List Elem) (s : State)
    (h : s.curWave = some (q, cr, w)) (ht : cr.task ≠ .versioned) : stwLaunch f q w act es s =
      s.launch { accessOp s q cr w (.stw f) act es with waits := s.releaseList q.crew q.wave act f.scope } := by
  obtain ⟨-, hcrew, -, -⟩ := State.curWave_spec s q cr w h
  unfold stwLaunch
  rw [s.irrevocably_pass q cr w _ h ht, hcrew]

/-- STW of a task that is not versioned launches at once, with what its release half waits for (R231). -/
theorem stw_issues : AccessIssues .stw (fun f => vNamed f.kd f.d (szGroup f.sz) ++ f.memNamed 2) (fun _ _ cr => cr.task ≠ .versioned)
    (fun f _ _ _ => Machine.Fields.devForm f f.uniform Need.write) (fun _ _ => []) (fun f w l => f.rD w (szGroup f.sz) l)
    (fun _ _ _ => 0) (fun _ _ es => es) (fun f s q act => s.releaseList q.crew q.wave act f.scope) := by
  refine accessIssues_of _ _ _ _ _ _ _ _ _ (fun f q _ => stwLaunch f q) ?_ (fun _ _ => rfl)
  intro f s q cr w act es s1 h htlb ht
  rw [stwLaunch_at_once f q cr w act es s1 h ht, State.releaseList_of_tlb htlb]

/-- Settles O22: CONFL, the fences and PREF launch their operation from the lanes' guard; STW is an access. -/
theorem orderingInstructionsIssue : Obligations.OrderingInstructionsIssue := by
  unfold Obligations.OrderingInstructionsIssue
  refine ⟨confl_issues, ?fence, ?fencew, pref_issues, stw_issues⟩ <;> intro f s q cr w act h <;> have ⟨⟨hcur, _⟩, _⟩ := h
  case fence =>
    refine issued_of_exec hcur ?_ rfl rfl
    show execFence f s = _
    rw [execFence, s.laned_acts (.fence f) f.pn f.pred [] q cr w act _ h]
  case fencew =>
    refine issued_of_exec hcur ?_ rfl rfl
    show execFencew f s = _
    rw [execFencew, s.laned_acts (.fencew f) f.pn f.pred [] q cr w act _ h]

end Sys2Proof.Machine
end

section
/-!
Barrier instructions (R236, R241 to R243) at an object that may be acted on, and an arrival at an object in the scratchpad.
-/

namespace Sys2Proof.Machine

open Sys2Proof Sys2Proof.Safety Host

/-! ## An object's bytes (R234) -/

/-- A number written in `n` bytes reads back modulo their range (R8). -/
theorem leNat_leBytes (n v : Nat) : leNat (leBytes n v) = v % 256 ^ n := by
  induction n generalizing v with
  | zero => exact (Nat.mod_one v).symm
  | succ n ih =>
    have hb : (BitVec.ofNat 8 v).toNat = v % 256 := BitVec.toNat_ofNat v 8
    rw [leBytes, leNat, ih, hb, Nat.pow_succ', Nat.mod_mul]

/-- Bytes read where a run of them was written. -/
theorem Tab.bytes_wrBytes (t : Tab Byte) (a : Nat) (bs : List Byte) : (t.wrBytes a bs).bytes a bs.length = bs := by
  refine List.ext_getElem (by simp [Tab.bytes]) fun i _ hi => ?_
  have hrd := Tab.rd_wrBytes t a bs (a + i)
  rw [if_pos ⟨by omega, by omega⟩, Nat.add_sub_cancel_left, List.getD_eq_getElem _ _ hi] at hrd
  simp only [Tab.bytes, List.getElem_map, List.getElem_range]
  exact hrd

/-- BYTES, a signed 32-bit field (R234), reads back. -/
theorem sextNat_wrapNat (z : Int) (hl : -(2 ^ 31) ≤ z) (hu : z < 2 ^ 31) : sextNat 32 (wrapNat 32 z) = z := by
  unfold sextNat wrapNat
  split <;> omega

/-- An object's fields are within their widths (R234). -/
structure Bar.InRange (b : Bar) : Prop where
  /-- STATE. -/
  state : b.state < 4
  /-- PHASE. -/
  phase : b.phase < 2 ^ 30
  /-- BYTES, from below. -/
  bytesMin : -(2 ^ 31) ≤ b.bytes
  /-- BYTES, from above. -/
  bytesMax : b.bytes < 2 ^ 31
  /-- PENDING. -/
  pending : b.pending < 2 ^ 32
  /-- COUNT. -/
  count : b.count < 2 ^ 32

theorem Bar.toNat_lt (b : Bar) (h : b.InRange) : b.toNat < 256 ^ 16 := by
  obtain ⟨hs, hp, -, -, hn, hc⟩ := h
  unfold Bar.toNat wrapNat
  omega

/-- An object within its widths reads back from its number (R234). -/
theorem Bar.ofNat_toNat (b : Bar) (h : b.InRange) : Bar.ofNat b.toNat = b := by
  obtain ⟨hs, hp, hbl, hbu, hn, hc⟩ := h
  have hwrap : wrapNat 32 b.bytes < 2 ^ 32 := by unfold wrapNat; omega
  have hbytes := sextNat_wrapNat b.bytes hbl hbu
  obtain ⟨state, phase, bytes, pending, count⟩ := b
  dsimp only at hs hp hn hc hwrap hbytes
  unfold Bar.ofNat Bar.toNat bitsOf
  simp only [Nat.shiftRight_eq_div_pow]
  generalize wrapNat 32 bytes = y at hwrap hbytes ⊢
  congr 1
  · omega
  · omega
  · rw [← hbytes]
    congr 1
    omega
  · omega
  · omega

/-- An object written into the scratchpad of a crew reads back (R234). -/
theorem State.barRead_barWrite_scratch (s : State) (c d a : Nat) (who : Nat × Nat × Nat) (cr : Crew) (b : Bar) (h : s.crew? c = some cr)
    (hb : b.InRange) : (s.barWrite d who (.scratch c a) b).barRead d (.scratch c a) = b := by
  have hcrew : (s.spadWrite c a (leBytes 16 b.toNat)).crew? c = some { cr with sp := cr.sp.wrBytes a (leBytes 16 b.toNat) } := by
    unfold State.spadWrite
    rw [State.crew?_modCrew, if_pos rfl, h]
    rfl
  have hread : (cr.sp.wrBytes a (leBytes 16 b.toNat)).bytes a 16 = leBytes 16 b.toNat := by
    have hr := Tab.bytes_wrBytes cr.sp a (leBytes 16 b.toNat)
    rwa [length_leBytes] at hr
  show Bar.ofNat (leNat (((s.spadWrite c a (leBytes 16 b.toNat)).crew? c).elim [] (fun x => x.spadRead a 16))) = b
  rw [hcrew]
  show Bar.ofNat (leNat ((cr.sp.wrBytes a (leBytes 16 b.toNat)).bytes a 16)) = b
  rw [hread, leNat_leBytes, Nat.mod_eq_of_lt (b.toNat_lt hb), b.ofNat_toNat hb]

/-- Waking the waiters of a barrier leaves the scratchpad. -/
theorem State.barRead_wakeBarrier_scratch (s : State) (o : BarObj) (d c a : Nat) :
    (s.wakeBarrier o).barRead d (.scratch c a) = s.barRead d (.scratch c a) := by
  unfold State.barRead State.wakeBarrier State.crew?
  dsimp only
  rw [Tab.find?_mapV]
  cases s.crews.find? c <;> rfl

/-! ## Arrivals (R236) -/

/-- An arrival that expects no bytes counts PENDING down, and completes the phase where nothing is left. -/
theorem Bar.arrive_zero (b : Bar) (hl : -(2 ^ 31) ≤ b.bytes) (hu : b.bytes < 2 ^ 31) :
    b.arrive 0 = Bar.complete { b with pending := b.pending - 1 } := by
  unfold Bar.arrive Bar.expect
  rw [Int.natCast_zero, Int.add_zero, sextNat_wrapNat b.bytes hl hu]

/-- What stands in the scratchpad after an arrival at an open object with arrivals outstanding. -/
theorem State.barRead_arrive_scratch (s : State) (q : Cursor) (cr : Crew) (a n : Nat) (b : Bar) (h : s.crew? q.crew = some cr)
    (hs : b.state ≠ 2) (hp : b.pending ≠ 0) (hr : (b.arrive n).1.InRange) :
    (s.arrive q (.scratch q.crew a) b n).barRead q.crew (.scratch q.crew a) = (b.arrive n).1 := by
  have hw := s.barRead_barWrite_scratch q.crew q.crew a (q.crew, q.wave, q.strand) cr (b.arrive n).1 h hr
  unfold State.arrive
  rw [if_neg hs]
  dsimp only
  rw [if_neg hp]
  split
  · rw [State.barRead_wakeBarrier_scratch, hw]
  · exact hw

theorem arrive_scratch_open (s : State) (q : Cursor) (cr : Crew) (a : Nat) (b : Bar) (h : s.crew? q.crew = some cr) (hs : b.state = 1)
    (hph : b.phase < 2 ^ 30) (hp : b.pending < 2 ^ 31) (hc : b.count < 2 ^ 31) (hl : -(2 ^ 31) ≤ b.bytes) (hu : b.bytes < 2 ^ 31) :
    (1 < b.pending ∨ (b.pending = 1 ∧ b.bytes ≠ 0) →
      (s.arrive q (.scratch q.crew a) b 0).barRead q.crew (.scratch q.crew a) = { b with pending := b.pending - 1 }) ∧
    (b.pending = 1 → b.bytes = 0 → (s.arrive q (.scratch q.crew a) b 0).barRead q.crew (.scratch q.crew a) =
      { b with phase := (b.phase + 1) % 2 ^ 30, pending := b.count }) := by
  constructor
  · intro hmore
    have harr : (b.arrive 0).1 = { b with pending := b.pending - 1 } := by
      rw [b.arrive_zero hl hu, Bar.complete, if_neg (by dsimp only; omega)]
    rw [s.barRead_arrive_scratch q cr a 0 b h (by omega) (by omega), harr]
    rw [harr]
    exact ⟨by dsimp only; omega, hph, hl, hu, by dsimp only; omega, by dsimp only; omega⟩
  · intro hone hnone
    have harr : (b.arrive 0).1 = { b with phase := (b.phase + 1) % 2 ^ 30, pending := b.count } := by
      rw [b.arrive_zero hl hu, Bar.complete, if_pos (by dsimp only; omega)]
    rw [s.barRead_arrive_scratch q cr a 0 b h (by omega) (by omega), harr]
    rw [harr]
    exact ⟨by dsimp only; omega, Nat.mod_lt _ (by decide), hl, hu, by dsimp only; omega, by dsimp only; omega⟩

/-! ## The state in which an instruction acts -/

/-- A crew after a change of some wave differs in its waves only. -/
theorem State.crew?_modWave_waves (s : State) (c w d : Nat) (g : Wave → Wave) :
    ∃ ws : Crew → Tab Wave, (s.modWave c w g).crew? d = (s.crew? d).map (fun cr => { cr with waves := ws cr }) := by
  unfold State.modWave
  rw [State.crew?_modCrew]
  by_cases hd : d = c
  · rw [if_pos hd, hd]
    exact ⟨fun cr => cr.waves.modify w g, rfl⟩
  · rw [if_neg hd]
    exact ⟨Crew.waves, Option.map_id'.symm⟩

/-- An object does not depend on waves. -/
theorem State.barRead_modWave (s : State) (c w d : Nat) (g : Wave → Wave) (o : BarObj) :
    (s.modWave c w g).barRead d o = s.barRead d o := by
  cases o with
  | device pa => exact congrArg (fun l => Bar.ofNat (leNat l)) (s.homeBytes_modWave c w g _ pa 16)
  | crew e =>
    obtain ⟨ws, he⟩ := s.crew?_modWave_waves c w e g
    unfold State.barRead
    dsimp only
    rw [he]
    cases s.crew? e <;> rfl
  | scratch e a =>
    obtain ⟨ws, he⟩ := s.crew?_modWave_waves c w e g
    unfold State.barRead
    dsimp only
    rw [he]
    cases s.crew? e <;> rfl

/-- Whether an object may be acted on does not depend on waves. -/
theorem State.barFree_modWave (s : State) (c w : Nat) (g : Wave → Wave) (o : BarObj) : (s.modWave c w g).barFree o = s.barFree o := by
  cases o with
  | device pa => rfl
  | crew e => rfl
  | scratch e a =>
    obtain ⟨ws, he⟩ := s.crew?_modWave_waves c w e g
    unfold State.barFree State.spadFree
    dsimp only
    rw [he]
    cases s.crew? e <;> rfl

/-- Once the release half is over the cursor and the wave's registers are as before. -/
theorem State.curWave_releaseOver (s : State) (q : Cursor) (cr : Crew) (w : Wave) (h : s.curWave = some (q, cr, w)) :
    ∃ cr' x, (s.releaseOver q).curWave = some (q, cr', x) ∧ x.sr = w.sr := by
  obtain ⟨hq, -, -, hw⟩ := s.curWave_spec q cr w h
  have hx : (s.releaseOver q).wave? q.crew q.wave = some (w.modStrand q.strand (fun st => { st with rel := none })) := by
    unfold State.releaseOver
    rw [State.wave?_modWave, if_pos ⟨rfl, rfl⟩, hw]
    rfl
  obtain ⟨cr', hcur⟩ := State.curWave_of s (s.releaseOver q) q _ rfl hx hq
  exact ⟨cr', _, hcur, rfl⟩

/-- The end of the release half, as a change of the issuing strand. -/
theorem State.modCurStrand_releaseOver (s : State) (q : Cursor) (h : s.cur = some q) :
    s.modCurStrand (fun st => { st with rel := none }) = s.releaseOver q := by
  unfold State.modCurStrand
  rw [h]
  rfl

/-- An action at an object marks lanes of the issuing wave only (R93, R234). -/
theorem State.wave?_marked (s : State) (q : Cursor) (o : BarObj) (w : Wave) (h : s.wave? q.crew q.wave = some w) :
    ∃ x, (marked s q o).wave? q.crew q.wave = some x ∧ { x with marks := w.marks } = w := by
  cases o with
  | crew c => exact ⟨w, h, rfl⟩
  | scratch c a => exact ⟨w, h, rfl⟩
  | device pa =>
    unfold marked State.setMarks
    dsimp only
    cases hc : s.crew? q.crew with
    | none => exact ⟨w, h, rfl⟩
    | some cr =>
      dsimp only
      rw [State.wave?_modWave, if_pos ⟨rfl, rfl⟩, h]
      exact ⟨_, rfl, rfl⟩

/-- At an object that may be acted on, open or broken, the action takes place (R234). -/
theorem State.onBarrier_acts (s : State) (q : Cursor) (o : BarObj) (addr : Nat) (body : Bar → State → State) (hq : s.cur = some q)
    (hf : s.barFree o = true) (hs : (s.barRead q.crew o).state = 1 ∨ (s.barRead q.crew o).state = 2) :
    s.onBarrier o addr body = body (s.barRead q.crew o) (marked s q o) := by
  unfold State.onBarrier
  rw [hq]
  dsimp only
  rw [hf, if_neg (by decide), if_neg (by omega), State.barMarks_eq_marked]

/-- At LVL 0 and 1, and in a task that is not versioned, a barrier instruction acts at once (R239). -/
theorem State.barIrrevocably_pass (s : State) (q : Cursor) (cr : Crew) (w : Wave) (lvl : Nat) (body : State → State)
    (h : s.curWave = some (q, cr, w)) (hp : lvl < 3 ∨ cr.task ≠ .versioned) : s.barIrrevocably lvl body = body s := by
  unfold State.barIrrevocably
  split
  · exact s.irrevocably_pass q cr w body h (hp.resolve_left (by omega))
  · rfl

/-! ## The instructions (R241 to R243) -/

theorem binit_acts (f : Fields) (s : State) (q : Cursor) (cr : Crew) (w : Wave) (o : BarObj) (h : IssuesWave s (.binit f) [] q cr w)
    (hp : f.lvl < 3 ∨ cr.task ≠ .versioned) (ho : s.barObj q cr w f.lvl (barAddr w f.a.toNat f.lvl) Need.atomic = .ok o)
    (h0 : 0 < (w.s f.b.toNat).toNat) (h1 : (w.s f.b.toNat).toNat < 2 ^ 31) (hf : s.barFree o = true) :
    exec (.binit f) s = .next (((marked s q o).barWrite q.crew (q.crew, q.wave, q.strand) o
      ⟨1, 0, 0, (w.s f.b.toNat).toNat, (w.s f.b.toNat).toNat⟩).breakWaiters o) := by
  have hcount : ¬((w.s f.b.toNat).toNat = 0 ∨ 2 ^ 31 ≤ (w.s f.b.toNat).toNat) := by omega
  show execBinit f s = _
  rw [execBinit, s.waved_acts (.binit f) [] q cr w _ h]
  dsimp only
  rw [ho]
  dsimp only
  rw [if_neg hcount, s.barIrrevocably_pass q cr w _ _ h.1.1 hp, hf, if_neg (by decide), State.barMarks_eq_marked]

theorem barq_reads (f : Fields) (s : State) (q : Cursor) (cr : Crew) (w : Wave) (o : BarObj) (h : IssuesWave s (.barq f) [] q cr w)
    (ho : s.barObj q cr w f.lvl (barAddr w f.a.toNat f.lvl) Need.read = .ok o) (hf : s.barFree o = true)
    (hs : (s.barRead q.crew o).state = 1 ∨ (s.barRead q.crew o).state = 2) :
    ∃ t x, exec (.barq f) s = .next t ∧ (marked s q o).wave? q.crew q.wave = some x ∧ { x with marks := w.marks } = w ∧
      WritesS (marked s q o) t q x
        [(f.d.toNat, BitVec.ofNat 32 ((s.barRead q.crew o).state * 2 ^ 30 + (s.barRead q.crew o).phase))] := by
  obtain ⟨hq, -, -, hw⟩ := s.curWave_spec q cr w h.1.1
  obtain ⟨cr', y, hcur, -⟩ := s.curWave_marked q cr w o h.1.1
  obtain ⟨x, hx, hmarks⟩ := s.wave?_marked q o w hw
  obtain rfl : y = x := Option.some.inj (((marked s q o).curWave_spec q cr' y hcur).2.2.2.symm.trans hx)
  refine ⟨_, y, ?_, hx, hmarks, (marked s q o).writesS_writeRegs q cr' y _ hcur (List.nodup_singleton _)⟩
  show execBarq f s = _
  rw [execBarq, s.waved_acts (.barq f) [] q cr w _ h]
  dsimp only
  rw [ho]
  dsimp only
  rw [s.onBarrier_acts q o _ _ hq hf hs]
  rfl

/-- The release half over, an action takes place at an open object as it stood at issue (R239). -/
theorem State.onBarrier_releaseOver (s : State) (q : Cursor) (o : BarObj) (addr : Nat) (body : Bar → State → State) (hq : s.cur = some q)
    (hf : s.barFree o = true) (hs : (s.barRead q.crew o).state = 1) :
    (s.releaseOver q).onBarrier o addr body = body (s.barRead q.crew o) (marked (s.releaseOver q) q o) := by
  have hread : (s.releaseOver q).barRead q.crew o = s.barRead q.crew o := s.barRead_modWave _ _ _ _ o
  have hfree : (s.releaseOver q).barFree o = true := (s.barFree_modWave _ _ _ o).trans hf
  rw [(s.releaseOver q).onBarrier_acts q o addr body hq hfree (Or.inl (by rw [hread, hs])), hread]

theorem bara_arrives (f : Fields) (s : State) (q : Cursor) (cr : Crew) (w : Wave) (o : BarObj) (h : IssuesWave s (.bara f) [] q cr w)
    (hp : f.lvl < 3 ∨ cr.task ≠ .versioned) (ho : s.barObj q cr w f.lvl (barAddr w f.a.toNat f.lvl) Need.atomic = .ok o)
    (hm : (w.strand q.strand).mask = w.lanes) (hr : (w.strand q.strand).rel = none)
    (hl : s.releaseList q.crew q.wave allLanes (s.barScope cr f.lvl) = []) (hf : s.barFree o = true)
    (hs : (s.barRead q.crew o).state = 1) :
    ∃ s1, s1 = marked (s.modCurStrand (fun st => { st with rel := none })) q o ∧
    exec (.bara f) s = .next ((s1.writeRegs q.crew q.wave
      [(sKey f.d.toNat, BitVec.ofNat 32 (s.barRead q.crew o).phase)]).arrive q o (s.barRead q.crew o) 0) := by
  have hq := (s.curWave_spec q cr w h.1.1).1
  refine ⟨_, rfl, ?_⟩
  show execBara f s = _
  rw [execBara, s.waved_acts (.bara f) [] q cr w _ h]
  dsimp only
  rw [ho]
  dsimp only
  rw [if_neg (not_not.2 hm), s.barIrrevocably_pass q cr w _ _ h.1.1 hp,
    s.afterRelease_none q cr w _ _ h.1.1 hr hl, s.onBarrier_releaseOver q o _ _ hq hf hs, if_neg (by omega),
    s.modCurStrand_releaseOver q hq]

/-- BAR and BARX of a wave that has not diverged, from the bytes `n` that the wave's registers give (R242). -/
theorem barAndWait_acts (i : Instr) (lvl : Nat) (a : BitVec 8) (bytes : Wave → Option Nat) (s : State) (q : Cursor) (cr : Crew) (w : Wave)
    (o : BarObj) (n : Nat) (h : IssuesWave s i [] q cr w) (hn : ∀ x : Wave, x.sr = w.sr → bytes x = some n)
    (hp : lvl < 3 ∨ cr.task ≠ .versioned) (ho : s.barObj q cr w lvl (barAddr w a.toNat lvl) Need.atomic = .ok o)
    (hm : (w.strand q.strand).mask = w.lanes) (hr : (w.strand q.strand).rel = none)
    (hl : s.releaseList q.crew q.wave allLanes (s.barScope cr lvl) = []) (hf : s.barFree o = true)
    (hs : (s.barRead q.crew o).state = 1) :
    ∃ s1, s1 = marked (s.modCurStrand (fun st => { st with rel := none })) q o ∧
    barAndWait i lvl a bytes s =
      .next ((s1.arrive q o (s.barRead q.crew o) n).waitPhase q o (s.barScope cr lvl) (s.barRead q.crew o).phase) := by
  have hq := (s.curWave_spec q cr w h.1.1).1
  obtain ⟨cr', x, hcur, hsr⟩ := s.curWave_releaseOver q cr w h.1.1
  have hx := ((s.releaseOver q).curWave_spec q cr' x hcur).2.2.2
  refine ⟨_, rfl, ?_⟩
  rw [barAndWait, s.waved_acts i [] q cr w _ h]
  dsimp only
  rw [ho]
  dsimp only
  unfold State.converge
  rw [h.1.1]
  dsimp only
  rw [if_pos hm, s.barIrrevocably_pass q cr w _ _ h.1.1 hp, s.afterRelease_none q cr w _ _ h.1.1 hr hl, hx, Option.bind_some, hn x hsr]
  dsimp only
  rw [s.onBarrier_releaseOver q o _ _ hq hf hs, if_neg (by omega), s.modCurStrand_releaseOver q hq]

theorem barw_waits (f : Fields) (s : State) (q : Cursor) (cr : Crew) (w : Wave) (o : BarObj) (h : IssuesWave s (.barw f) [] q cr w)
    (ho : s.barObj q cr w f.lvl (barAddr w f.a.toNat f.lvl) Need.read = .ok o) (hm : (w.strand q.strand).mask = w.lanes)
    (hf : s.barFree o = true) (hs : (s.barRead q.crew o).state = 1) (hp : f.lvl < 3 ∨ cr.task ≠ .versioned) :
    exec (.barw f) s = .next ((marked s q o).waitPhase q o (s.barScope cr f.lvl) ((w.s f.b.toNat).toNat % 2 ^ 30)) := by
  obtain ⟨cr', x, hcur, htask, -, hsr⟩ := s.curWave_marked q cr w o h.1.1
  have hx := ((marked s q o).curWave_spec q cr' x hcur).2.2.2
  have htoken : x.s f.b.toNat = w.s f.b.toNat := congrArg (Tab.rd 0 · f.b.toNat) hsr
  show execBarw f s = _
  rw [execBarw, s.waved_acts (.barw f) [] q cr w _ h]
  dsimp only
  rw [ho]
  dsimp only
  rw [if_pos hm, s.onBarrier_acts q o _ _ (s.curWave_spec q cr w h.1.1).1 hf (Or.inl hs), hx, Option.elim_some, htoken,
    (marked s q o).barIrrevocably_pass q cr' x _ _ hcur (htask ▸ hp), ite_self]

/-- Settles O34: each instruction acts at once at the object as it stood at issue; an arrival at a scratchpad object reads back from its bytes. -/
theorem barrierInstructions : Obligations.BarrierInstructions := by
  unfold Obligations.BarrierInstructions
  refine ⟨⟨binit_acts, barq_reads, bara_arrives, ?wait, barw_waits⟩, arrive_scratch_open⟩
  intro s q cr w o i lvl a n hcur hch hp hi hn ho hm hr hl hf hs
  have hissue : IssuesWave s i [] q cr w := ⟨⟨hcur, hch⟩, fun _ hg => absurd hg List.not_mem_nil⟩
  rcases hi with ⟨f, rfl, rfl, rfl, rfl⟩ | ⟨f, rfl, rfl, rfl, rfl⟩ | ⟨f, rfl, rfl, rfl, rfl⟩
  · exact barAndWait_acts _ _ _ _ s q cr w o 0 hissue (fun _ _ => rfl) hp ho hm hr hl hf hs
  · refine barAndWait_acts _ _ _ _ s q cr w o _ hissue (fun x hx => ?_) hp ho hm hr hl hf hs
    have hcount : x.s f.b.toNat = w.s f.b.toNat := congrArg (Tab.rd 0 · f.b.toNat) hx
    rw [hcount]
    exact if_neg (Nat.not_le.2 hn)
  · exact barAndWait_acts _ _ _ _ s q cr w o _ hissue (fun _ _ => if_neg (Nat.not_le.2 hn)) hp ho hm hr hl hf hs

end Sys2Proof.Machine
end

section
/-!
WWAIT and HWAIT (R245, R248): go on, or wait with the result taken from every earlier writer (R178).
-/

namespace Sys2Proof.Machine

open Sys2Proof Sys2Proof.Safety Host

section
variable (f : Fields) (s : State) (q : Cursor) (cr : Crew) (w : Wave)

/-- WWAIT on a word that passes its checks turns on the comparison alone (R245). -/
theorem exec_wwait (pa : Nat) (h : IssuesWave s (.wwait f) [] q cr w) (hrange : (w.s64 f.a.toNat).toNat < 2 ^ 56)
    (halign : (w.s64 f.a.toNat).toNat % 8 = 0)
    (hmap : s.translate (dieOf cr.core) cr.ctx (w.s64 f.a.toNat).toNat Need.read = .ok pa) (hfree : s.unowned pa 8 = true)
    (hclean : s.poisoned pa 8 = false) :
    exec (.wwait f) s = .next (if cmpHolds (f.mb 3 2) (s.read64 pa) (w.s64 f.b.toNat).toNat = true
      then (s.writeRegs q.crew q.wave [(sKey f.d.toNat, 0)]).acquire q.crew q.wave f.scope
      else ((s.waitFor q.crew q.wave q.strand [sKey f.d.toNat]).enterWait q.crew q.wave q.strand
        (.wake pa (f.mb 3 2) (w.s64 f.b.toNat) f.scope f.d.toNat
          (if f.kc = true then some (s.cycle + (w.s f.c.toNat).toNat) else none) (f.m 5) w.clauseAddr) w.clauseAddr).settleStrands
        q.crew q.wave q.strand w.clauseAddr) := by
  show execWwait f s = _
  rw [execWwait, s.waved_acts (.wwait f) [] q cr w _ h]
  dsimp only
  rw [if_neg (Nat.not_le.2 hrange), if_neg (not_not.2 halign), hmap]
  dsimp only
  rw [hfree, hclean]
  rfl

variable (h : IssuesWave s (.hwait f) [] q cr w)
include h

/-- HWAIT on a handle that is neither pending nor faulted goes on, with the acquire half unless it is empty (R248). -/
theorem exec_hwait_settled (hc : ¬((w.handle f.a.toNat).code = 1 ∨ (w.handle f.a.toNat).code = 2)) :
    exec (.hwait f) s = .next (
      let t := s.writeRegs q.crew q.wave [(sKey f.d.toNat, BitVec.ofNat 32 (w.handle f.a.toNat).code)]
      if (w.handle f.a.toNat).code = 0 then t else t.acquire q.crew q.wave (w.handle f.a.toNat).scope) := by
  show execHwait f s = _
  rw [execHwait, s.waved_acts (.hwait f) [] q cr w _ h]
  dsimp only
  rw [if_neg hc]

theorem exec_hwait_unsettled (hc : (w.handle f.a.toNat).code = 1 ∨ (w.handle f.a.toNat).code = 2) :
    exec (.hwait f) s = .next (((s.waitFor q.crew q.wave q.strand [sKey f.d.toNat]).enterWait
      q.crew q.wave q.strand (.future f.a.toNat f.d.toNat) w.clauseAddr).settleStrands q.crew q.wave q.strand w.clauseAddr) := by
  show execHwait f s = _
  rw [execHwait, s.waved_acts (.hwait f) [] q cr w _ h]
  dsimp only
  rw [if_pos hc]

/-- The state code that HWAIT writes (R248). -/
theorem hwait_writes : WritesS s (s.writeRegs q.crew q.wave [(sKey f.d.toNat, BitVec.ofNat 32 (w.handle f.a.toNat).code)]) q w
    [(f.d.toNat, BitVec.ofNat 32 (w.handle f.a.toNat).code)] :=
  s.writesS_writeRegs q cr w [(f.d.toNat, _)] h.1.1 (List.nodup_singleton _)

end

/-- Settles O35: WWAIT by its comparison, HWAIT by the code of its handle. -/
theorem waitInstructions : Obligations.WaitInstructions := by
  unfold Obligations.WaitInstructions
  constructor
  · intro f s q cr w pa h addr hrange halign hmap hfree hclean
    have he := exec_wwait f s q cr w pa h hrange halign hmap hfree hclean
    exact ⟨fun hcmp => by rw [he, if_pos hcmp], fun hcmp => by rw [he, hcmp]; rfl⟩
  · intro f s q cr w h
    dsimp only
    have hw := hwait_writes f s q cr w h
    refine ⟨fun hc => ?empty, fun hc => ⟨_, hw, ?settled⟩, exec_hwait_unsettled f s q cr w h⟩
    case empty =>
      have he := (exec_hwait_settled f s q cr w h (by omega)).trans (congrArg _ (if_pos hc))
      rw [hc] at hw he
      exact ⟨_, he, hw⟩
    case settled => exact (exec_hwait_settled f s q cr w h (by omega)).trans (congrArg _ (if_neg (by omega)))

end Sys2Proof.Machine
end

section
/-!
Copies, RCFENCE and KICK at issue (R266 to R270, R275): each is a wave instruction that launches one operation, a copy with its future.
-/

namespace Sys2Proof.Machine

open Sys2Proof Sys2Proof.Safety Host

/-- The operation of a copy that issues: `na`, `nd` and `nb` registers captured at A, D and B (R252), the barrier object it names, and the
lowest free entry of its core's copy queue (R253, log 106). -/
def copyOp (s : State) (i : Instr) (f : Fields) (q : Cursor) (cr : Crew) (w : Wave) (na nd nb : Nat) : Op :=
  { newOp s q cr w i (w.strand q.strand).mask with
    av := sVal w f.a.toNat na
    dv := sVal w f.d.toNat nd
    bv := sVal w f.b.toNat (min nb 2)
    blk := (List.range nb).map (fun k => w.s (f.b.toNat + k))
    cv := if f.kc = true then (w.s f.c.toNat).toNat else 0
    entry := s.freeEntry (fun op => isCopy op.instr && (match s.crew? op.crew with | some c => c.core == cr.core | none => false)) }

/-- The scope at which a copy's completion is acquired (R99): crew where its destination is scratchpad, package
where it is device memory (gang only once a frame of another package is found). -/
def copyScope (f : Fields) : Nat := if f.hint = 0 then 1 else 5

theorem State.issueCopy_eq (s : State) (i : Instr) (f : Fields) (q : Cursor) (cr : Crew) (w : Wave) (na nd nb : Nat) :
    s.issueCopy i f q cr w na nd nb = s.launchH (copyOp s i f q cr w na nd nb) (copyScope f) := rfl

/-- What CPY asks of an operand of `count` bytes (R267): a device address (`dev`) below 2^56, or scratchpad bytes that the crew has. -/
def CpyInRange (cr : Crew) (dev : Prop) [Decidable dev] (x count : Nat) : Prop :=
  if dev then x < 2 ^ 56 else x + count ≤ cr.spadBytes

/-- An operand in range does not trap. -/
theorem CpyInRange.not_bad {cr : Crew} {dev : Prop} [Decidable dev] {x count : Nat} (h : CpyInRange cr dev x count) :
    ¬((if dev then decide (2 ^ 56 ≤ x) else decide (cr.spadBytes < x + count)) = true) := by
  unfold CpyInRange at h
  by_cases hdev : dev
  · rw [if_pos hdev] at h ⊢
    simpa using h
  · rw [if_neg hdev] at h ⊢
    simpa using h

section

variable (f : Fields) (s : State) (q : Cursor) (cr : Crew) (w : Wave)

/-- A copy instruction whose checks have passed launches its operation with its future (R266). -/
theorem copy_issues (i : Instr) (na nd nb : Nat) (h : s.curWave = some (q, cr, w)) (hf : fieldsOf i = some f)
    (hex : exec i s = .next (s.issueCopy i f q cr w na nd nb)) :
    IssuedH i f s q w (copyOp s i f q cr w na nd nb) (copyScope f) :=
  ⟨_, hex.trans (congrArg _ (s.issueCopy_eq i f q cr w na nd nb)), s.launchedH q cr w f _ _ h rfl rfl hf⟩

/-- CPY issues its copy where count, ranges and alignment pass; an operand on device memory is a pair of registers (R267). -/
theorem exec_cpy (h : IssuesWave s (.cpy f) [] q cr w) :
    let count := (w.s f.b.toNat).toNat
    let d := sVal w f.d.toNat (if f.hint ≠ 0 then 2 else 1)
    let a := sVal w f.a.toNat (if f.hint ≠ 1 then 2 else 1)
    16 ≤ count → count ≤ 2 ^ 24 → count % 16 = 0 → CpyInRange cr (f.hint ≠ 0) d count → CpyInRange cr (f.hint ≠ 1) a count →
    d % 16 = 0 → a % 16 = 0 →
    exec (.cpy f) s = .next (s.issueCopy (.cpy f) f q cr w (if f.hint ≠ 1 then 2 else 1) (if f.hint ≠ 0 then 2 else 1) 1) := by
  intro count d a hmin hmax hmul hd ha hd16 ha16
  have hcount : ¬(count < 16 ∨ 2 ^ 24 < count ∨ count % 16 ≠ 0) := by omega
  show execCpy f s = _
  rw [execCpy, s.waved_acts (.cpy f) [] q cr w _ h]
  simp only [bne_iff_ne]
  rw [if_neg hcount, if_neg hd.not_bad, if_neg ha.not_bad, if_neg (not_not.2 hd16), if_neg (not_not.2 ha16)]

/-- CPYT and CPYG have one meaning (R268, R269) but for the `nb` registers they capture at B: a shape record's address below 2^56 and a
multiple of 64 passes the checks. -/
theorem blockCopy_issues (i : Instr) (nb : Nat) (hf : fieldsOf i = some f)
    (hex : exec i s = s.waved i [] (fun q cr w =>
      if 2 ^ 56 ≤ sVal w f.a.toNat 2 then s.trapAt Cause.protection (sVal w f.a.toNat 2)
      else if sVal w f.a.toNat 2 % 64 ≠ 0 then s.trapAt Cause.misaligned (sVal w f.a.toNat 2)
      else s.issueCopy i f q cr w 2 1 nb))
    (h : IssuesWave s i [] q cr w) (hrange : sVal w f.a.toNat 2 < 2 ^ 56) (halign : sVal w f.a.toNat 2 % 64 = 0) :
    IssuedH i f s q w (copyOp s i f q cr w 2 1 nb) (copyScope f) := by
  refine copy_issues f s q cr w i 2 1 nb h.1.1 hf ?_
  rw [hex, s.waved_acts i [] q cr w _ h, if_neg (Nat.not_le.2 hrange), if_neg (not_not.2 halign)]

end

/-- Settles O26: a copy whose checks pass launches with its future; RCFENCE and KICK have no check and launch at once. -/
theorem copiesIssue : Obligations.CopiesIssue := by
  unfold Obligations.CopiesIssue
  intro f s q cr w
  refine ⟨?cpy, ?cpyt, ?cpyg, ?rcfence, ?kick⟩
  case cpy =>
    intro h hmin hmax hmul hd ha hd16 ha16
    exact copy_issues f s q cr w _ _ _ _ h.1.1 rfl (exec_cpy f s q cr w h hmin hmax hmul hd ha hd16 ha16)
  case cpyt => exact blockCopy_issues f s q cr w (.cpyt f) 5 rfl rfl
  case cpyg => exact blockCopy_issues f s q cr w (.cpyg f) 2 rfl rfl
  case rcfence => exact fun h => issued_of_exec h.1.1 (s.waved_acts (.rcfence f) [] q cr w _ h) rfl rfl
  case kick => exact fun h => issued_of_exec h.1.1 (s.waved_acts (.kick f) [] q cr w _ h) rfl rfl

end Sys2Proof.Machine
end
section
/-!
Matrix instructions at issue (R285 to R296): on a tile that is bound, and on one that AZERO or ALD binds.
-/

namespace Sys2Proof.Machine

open Sys2Proof Sys2Proof.Safety Host

section

variable {s : State} {q : Cursor} {cr : Crew} {w : Wave}

/-- An X instruction that needs no bound tile acts in any case (R285). -/
theorem State.matrixIssue_any {i : Instr} {name : Nat} {body : Cursor → Crew → Wave → State}
    (h : IssuesWave s i [] q cr w) (hm : (w.strand q.strand).mask = allLanes) :
    s.matrixIssue i name false (fun q cr w _ => body q cr w) = .next (body q cr w) := by
  rw [State.matrixIssue, s.waved_acts i [] q cr w _ h, if_neg (not_not.2 hm)]
  cases w.tiles.find? name <;> rfl

/-- An X instruction whose checks have passed launches its operation on its bound tile. -/
theorem matrix_issues {i : Instr} {name p : Nat} {needs : Bool} {body : Cursor → Crew → Wave → Nat → State} {op : Op}
    (h : IssuesWave s i [] q cr w) (hm : (w.strand q.strand).mask = allLanes) (hp : w.tiles.find? name = some p)
    (hex : exec i s = s.matrixIssue i name needs body) (hbody : body q cr w p = s.launch op)
    (hcrew : op.crew = q.crew) (hwave : op.wave = q.wave) : Issued i s s q w op :=
  issued_of_exec h.1.1 (hex.trans ((s.matrixIssue_acts i name needs body q cr w p h hm hp).trans (congrArg _ hbody))) hcrew hwave

/-- An instruction with a format block whose checks pass (R285, R286). -/
theorem product_issues {i : Instr} {f : Fields} {kind : MxKind} {p : Nat} (hm : (w.strand q.strand).mask = allLanes)
    (hp : w.tiles.find? f.d.toNat = some p) (hex : ∀ s, exec i s = s.productIssue i f kind) (h : IssuesWave s i [] q cr w)
    (hok : mxCheck kind cr.spadBytes (s.tile cr.core p).int (sVal w f.a.toNat 1) (sVal w f.b.toNat 1)
      ((List.range 8).map (fun n => w.s (f.c.toNat + n))) = none) :
    Issued i s s q w { newOp s q cr w i allLanes with av := sVal w f.a.toNat 1, bv := sVal w f.b.toNat 1
                                                      blk := (List.range 8).map (fun n => w.s (f.c.toNat + n)), phys := p } := by
  refine matrix_issues h hm hp (hex s) ?_ rfl rfl
  dsimp only
  rw [hok]

/-- A scratchpad range that the crew has, aligned, passes. -/
theorem State.rowCheck_passes {a n al : Nat} (k : State) (hr : a + n ≤ cr.spadBytes) (ha : a % al = 0) : s.rowCheck cr a n al k = k := by
  rw [State.rowCheck, if_neg (Nat.not_lt.2 hr), if_neg (not_not.2 ha)]

end

/-- Settles O24: each has a bound tile and passes its checks, so it launches; AZERO.rel unbinds the tile in the same step. -/
theorem matrixProductsIssue : Obligations.MatrixProductsIssue := by
  unfold Obligations.MatrixProductsIssue
  intro f s q cr w p hm hp
  refine ⟨product_issues hm hp (fun _ => rfl), product_issues hm hp (fun _ => rfl), product_issues hm hp (fun _ => rfl),
    ?aresc, ?mmask, ?ast, ?azero⟩
  case aresc =>
    intro h hint hr ha
    refine matrix_issues h hm hp rfl ?_ rfl rfl
    dsimp only
    rw [hint, if_neg Bool.false_ne_true, State.rowCheck_passes _ hr ha]
  case mmask =>
    intro h hint hr ha
    refine matrix_issues h hm hp rfl ?_ rfl rfl
    have hty : ((s.tile cr.core p).int && !f.m 0) = false := by rcases hint with hint | hint <;> simp [hint]
    dsimp only
    rw [hty, if_neg Bool.false_ne_true, State.rowCheck_passes _ hr ha]
  case ast =>
    intro h hint es hes
    refine matrix_issues h hm hp rfl ?_ rfl rfl
    dsimp only
    rw [hint, bne_self_eq_false, if_neg Bool.false_ne_true, hes]
  case azero =>
    intro h hty
    have hl := s.launched_release q cr w { newOp s q cr w (.azero f) allLanes with phys := p } true p h.1.1 rfl rfl rfl
      ⟨_, Tab.mem_of_find? hp, rfl⟩
    have hexps : w.exps.filter (fun e => !(!true && e.2 == p)) = w.exps := List.filter_eq_self.2 (fun _ _ => rfl)
    dsimp only at hl
    rw [hexps] at hl
    exact ⟨_, (s.matrixIssue_acts (.azero f) _ _ _ q cr w p h hm hp).trans (congrArg _ (if_pos hty)), hl.1, hl.2⟩

/-! ## Tiles that AZERO and ALD bind -/

/-- An instruction that first changes the machine to `s0` launches its operation there. -/
theorem launches_from {i : Instr} {s s0 : State} {q : Cursor} (op : Op) (h : ∃ cr w, s0.curWave = some (q, cr, w))
    (hcrew : op.crew = q.crew) (hwave : op.wave = q.wave) (hex : exec i s = .next (s0.launch op)) :
    ∃ t x, s0.wave? q.crew q.wave = some x ∧ exec i s = .next t ∧ Launched s0 t q (flagUp x op.flag) op := by
  obtain ⟨cr, x, hcur⟩ := h
  exact ⟨_, x, (s0.curWave_spec q cr x hcur).2.2.2, hex, s0.launched q cr x op hcur hcrew hwave⟩

section

variable {s : State} {q : Cursor} {cr : Crew} {w : Wave} {name : Nat} (int : Bool)

/-- A bound name keeps its tile, whose type is set afresh (R280). -/
theorem State.bindTile_bound {p : Nat} (h : s.curWave = some (q, cr, w)) (hp : w.tiles.find? name = some p) :
    s.bindTile q.crew q.wave name int = (s.modTile cr.core p (fun t => { t with int := int }), p) := by
  obtain ⟨-, hcrew, hw, -⟩ := s.curWave_spec q cr w h
  simp only [State.bindTile, hcrew, hw, Option.bind_some, hp]

/-- The machine once wave `(c, v)` has bound `name` to the lowest free tile of core `core` (log 93). -/
def State.tileBound (s : State) (c v core name : Nat) (int : Bool) : State :=
  (s.modCore core (fun k => { k with tiles := k.tiles.put (s.core core).tiles.freeKey ⟨int, [], [], true, []⟩ })).modWave c v
    (fun wv => { wv with tiles := wv.tiles.put name (s.core core).tiles.freeKey })

/-- An unbound name is bound to the lowest free tile, cleared (R280, log 24, 93). -/
theorem State.bindTile_unbound (h : s.curWave = some (q, cr, w)) (hn : w.tiles.find? name = none) :
    s.bindTile q.crew q.wave name int = (s.tileBound q.crew q.wave cr.core name int, (s.core cr.core).tiles.freeKey) := by
  obtain ⟨-, hcrew, hw, -⟩ := s.curWave_spec q cr w h
  simp only [State.bindTile, hcrew, hw, Option.bind_some, hn, State.tileBound]

theorem State.wave?_tileBound (h : s.curWave = some (q, cr, w)) : (s.tileBound q.crew q.wave cr.core name int).wave? q.crew q.wave =
    some { w with tiles := w.tiles.put name (s.core cr.core).tiles.freeKey } := by
  obtain ⟨-, -, -, hwave⟩ := s.curWave_spec q cr w h
  have hcore : ∀ g, (s.modCore cr.core g).wave? q.crew q.wave = some w := fun _ => hwave
  rw [State.tileBound, State.wave?_modWave, if_pos ⟨rfl, rfl⟩, hcore]
  rfl

theorem State.tile_tileBound (c v core : Nat) :
    (s.tileBound c v core name int).tile core (s.core core).tiles.freeKey = ⟨int, [], [], true, []⟩ := by
  have hcore : ∀ (u : State) g, (u.modWave c v g).core core = u.core core := fun _ _ => rfl
  rw [State.tile, State.tileBound, hcore, State.core_modCore, if_pos rfl, Tab.rd_put, if_pos rfl]

/-- The wave still issues once its tile is bound. -/
theorem State.curWave_bindTile (h : s.curWave = some (q, cr, w)) :
    ∃ cr' x, (s.bindTile q.crew q.wave name int).1.curWave = some (q, cr', x) := by
  obtain ⟨x, hw, hcur⟩ := s.bindTile_keeps q cr w name int h
  obtain ⟨cr', h'⟩ := State.curWave_of s _ q x hcur hw (s.curWave_spec q cr w h).1
  exact ⟨cr', x, h'⟩

end

/-- AZERO that does not release acts with a bound tile or without one. -/
theorem exec_azero_binds {f : Fields} {s : State} {q : Cursor} {cr : Crew} {w : Wave} (h : IssuesWave s (.azero f) [] q cr w)
    (hm : (w.strand q.strand).mask = allLanes) (hty : f.mb 0 2 ≠ 2) : exec (.azero f) s = .next
      (if s.tileRoom cr.core w f.d.toNat = false then s.retry
        else (s.bindTile q.crew q.wave f.d.toNat (f.mb 0 2 == 1)).1.launch { newOp s q cr w (.azero f) allLanes with
          phys := (s.bindTile q.crew q.wave f.d.toNat (f.mb 0 2 == 1)).2 }) := by
  show execAzero f s = _
  rw [execAzero, beq_eq_false_iff_ne.2 hty]
  simp only [if_neg hty, Bool.not_eq_true']
  exact State.matrixIssue_any h hm

/-- Settles O25: the tile is bound first, the operation launched in the state that leaves. -/
theorem tileBindingIssues : Obligations.TileBindingIssues := by
  unfold Obligations.TileBindingIssues
  constructor
  · intro f s q cr w hm
    refine ⟨?azero, ?ald, ?unbound, ?bound, ?room, ?waits⟩
    case azero =>
      intro h hty hroom
      refine launches_from { newOp s q cr w (.azero f) allLanes with phys := (s.bindTile q.crew q.wave f.d.toNat (f.mb 0 2 == 1)).2 }
        (State.curWave_bindTile _ h.1.1) rfl rfl ?_
      rw [exec_azero_binds h hm hty, hroom, if_neg Bool.true_eq_false.mp]
    case ald =>
      intro h es hes hroom
      refine launches_from { newOp s q cr w (.ald f) allLanes with elems := es, phys := (s.bindTile q.crew q.wave f.d.toNat (f.m 0)).2 }
        (State.curWave_bindTile _ h.1.1) rfl rfl ?_
      refine (State.matrixIssue_any h hm).trans (congrArg _ ?_)
      rw [hes, hroom]
      rfl
    case unbound =>
      intro int h hn
      rw [State.bindTile_unbound int h hn]
      exact ⟨rfl, State.tile_tileBound int _ _ _, State.wave?_tileBound int h⟩
    case bound =>
      intro p h hp int
      rw [State.bindTile_bound int h hp]
      exact ⟨rfl, (s.curWave_spec q cr w h).2.2.2⟩
    case room => rw [State.tileRoom, Bool.or_eq_true, decide_eq_true_iff]
    case waits =>
      intro h hty hroom
      rw [exec_azero_binds h hm hty, if_pos hroom]
  · intro f s q cr w p h hm hp
    exact matrix_issues h hm hp rfl rfl rfl rfl

end Sys2Proof.Machine
end
section
/-!
The Carillon's instructions at issue (R308 to R317).
-/

namespace Sys2Proof.Machine

open Sys2Proof Sys2Proof.Safety Host

section

variable {s : State} {q : Cursor} {cr : Crew} {w : Wave} {f : Fields}

/-- A K instruction of a whole wave whose checks pass launches its operation. -/
theorem whole_issues {i : Instr} {body : Cursor → Crew → Wave → State} {op : Op} (h : IssuesWave s i [] q cr w)
    (hm : (w.strand q.strand).mask = allLanes) (hex : exec i s = s.wholeWave i body) (hbody : body q cr w = s.launch op)
    (hcrew : op.crew = q.crew) (hwave : op.wave = q.wave) : Issued i s s q w op :=
  issued_of_exec h.1.1 (hex.trans ((s.wholeWave_acts _ _ q cr w h hm).trans (congrArg _ hbody))) hcrew hwave

/-- A wave instruction whose checks pass launches its operation. -/
theorem waved_issues {i : Instr} {vs : List (Nat × Nat)} {body : Cursor → Crew → Wave → State} {op : Op} (h : IssuesWave s i vs q cr w)
    (hex : exec i s = s.waved i vs body) (hbody : body q cr w = s.launch op) (hcrew : op.crew = q.crew) (hwave : op.wave = q.wave) :
    Issued i s s q w op :=
  issued_of_exec h.1.1 (hex.trans ((s.waved_acts i vs q cr w body h).trans (congrArg _ hbody))) hcrew hwave

/-- CENUM of the wave alone: an unused name outside a chunk, the group held, the count and first state in range (R308). -/
theorem cenum_issues (h : IssuesWave s (.cenum f) [] q cr w) (hm : (w.strand q.strand).mask = allLanes)
    (hn : w.sm.find? f.d.toNat = none) (hc : w.inChunk = false) (hmode : f.m 3 = false) (hg : w.holds f.a.toNat (f.mb 0 3 + 1) = true)
    (he : badEntry (w.s f.b.toNat).toNat (w.s (f.b.toNat + 1)).toNat = false) :
    Issued (.cenum f) s s q w { newOp s q cr w (.cenum f) allLanes with
      bv := (w.s f.b.toNat).toNat, av := (w.s (f.b.toNat + 1)).toNat, cv := f.a.toNat, count := f.mb 0 3 + 1
      dsts := if 128 < (w.s f.b.toNat).toNat then [] else carryKeys f.a.toNat (f.mb 0 3 + 1) (w.s f.b.toNat).toNat } := by
  refine whole_issues h hm rfl ?_ rfl rfl
  simp only [hn, hc, hmode, hg, he, Option.isSome_none, Bool.not_true, Bool.not_false, Bool.and_false, Bool.or_false, Bool.false_eq_true,
    if_false]

/-- CENUM of the crew checks only its name and the open chunk before the waves have come (R308). -/
theorem exec_cenum_crew (h : IssuesWave s (.cenum f) [] q cr w) (hm : (w.strand q.strand).mask = allLanes)
    (hn : w.sm.find? f.d.toNat = none) (hc : w.inChunk = false) (hmode : f.m 3 = true) :
    exec (.cenum f) s = .next ((s.launch { newOp s q cr w (.cenum f) allLanes with
      bv := (w.s f.b.toNat).toNat, av := (w.s (f.b.toNat + 1)).toNat, cv := f.a.toNat, count := f.mb 0 3 + 1 }).modOp s.next
        (fun op => { op with dsts := w.heldKeys })) := by
  refine (s.wholeWave_acts _ _ q cr w h hm).trans (congrArg _ ?_)
  simp only [hn, hc, hmode, Option.isSome_none, Bool.not_true, Bool.false_and, Bool.or_false, Bool.false_eq_true, if_false, if_true]

/-- CPRED: an unused name outside a chunk, the group held, 1 to 128 entries (R309). -/
theorem cpred_issues (h : IssuesWave s (.cpred f) [] q cr w) (hm : (w.strand q.strand).mask = allLanes)
    (hn : w.sm.find? f.d.toNat = none) (hc : w.inChunk = false) (hg : w.holds f.a.toNat (f.mb 0 3 + 1) = true)
    (hlo : 1 ≤ (w.s f.b.toNat).toNat) (hhi : (w.s f.b.toNat).toNat ≤ 128) :
    Issued (.cpred f) s s q w { newOp s q cr w (.cpred f) allLanes with
      bv := (w.s f.b.toNat).toNat, cv := f.a.toNat, count := f.mb 0 3 + 1, vcap := captureV w allLanes f.a.toNat 1 0
      dsts := carryKeys f.a.toNat (f.mb 0 3 + 1) (w.s f.b.toNat).toNat } := by
  have hcount : ((w.s f.b.toNat).toNat == 0 || decide (128 < (w.s f.b.toNat).toNat)) = false := by
    simp only [Bool.or_eq_false_iff, beq_eq_false_iff_ne, decide_eq_false_iff_not]
    omega
  refine whole_issues h hm rfl ?_ rfl rfl
  simp only [hn, hc, hg, hcount, Option.isSome_none, Bool.not_true, Bool.or_false, Bool.false_eq_true, if_false]

/-- CSEAL of a chunk that has exited, its entry's 1 KiB in the scratchpad (R312). -/
theorem cseal_issues (ch : Chunk) (h : IssuesWave s (.cseal f) [] q cr w) (hch : w.sm.find? f.d.toNat = some ch) (hst : ch.st = .exited)
    (hc : sVal w f.b.toNat 1 ≤ 65535) (at_ : Nat)
    (hat : at_ = sVal w f.a.toNat 1 + 1024 * (if ch.crewMode = true then ch.m * sVal w f.b.toNat 1 + ch.q else sVal w f.b.toNat 1))
    (hr : at_ + 1024 ≤ cr.spadBytes) (ha : sVal w f.a.toNat 1 % 8 = 0) :
    Issued (.cseal f) s s q w { newOp s q cr w (.cseal f) (w.strand q.strand).mask with av := at_ } := by
  subst hat
  refine waved_issues h rfl ?_ rfl rfl
  simp only [hch, hst, bne_self_eq_false, Bool.false_eq_true, if_false]
  rw [if_neg (Nat.not_lt.2 hc), if_neg (Nat.not_lt.2 hr), if_neg (not_not.2 ha)]

/-- A pass over ranges that all pass finds none. -/
theorem find?_none_of_all {α : Type} {l : List α} {p : α → Bool} (h : ∀ x ∈ l, p x = false) : l.find? p = none :=
  List.find?_eq_none.2 (fun x hx => by rw [h x hx]; exact Bool.false_ne_true)

/-- What ACOMP's dense form reads (R317): which register holds the address, bytes and alignment. -/
def acompRanges : List (Nat × Nat × Nat) := [(0, 32768, 32), (1, 32768, 32), (2, 256, 32), (3, 512, 4)]

/-- ACOMP's dense form on a bound FP32 tile, its ranges in the scratchpad and aligned (R317). -/
theorem acomp_dense_issues (p : Nat) (h : IssuesWave s (.acomp f) [] q cr w) (hmode : f.m 0 = true)
    (hm : (w.strand q.strand).mask = allLanes) (hp : w.tiles.find? f.d.toNat = some p) (hint : (s.tile cr.core p).int = false)
    (hr : ∀ x ∈ acompRanges, (w.s (f.a.toNat + x.1)).toNat + x.2.1 ≤ cr.spadBytes ∧ (w.s (f.a.toNat + x.1)).toNat % x.2.2 = 0) :
    Issued (.acomp f) s s q w { newOp s q cr w (.acomp f) allLanes with
      phys := p, blk := (List.range 4).map (fun k => w.s (f.a.toNat + k)) } := by
  let at_ (x : Nat × Nat × Nat) : Nat × Nat × Nat := ((w.s (f.a.toNat + x.1)).toNat, x.2)
  have hin : (acompRanges.map at_).find? (fun r => decide (cr.spadBytes < r.1 + r.2.1)) = none := by
    refine find?_none_of_all fun r hr' => ?_
    obtain ⟨x, hx, rfl⟩ := List.mem_map.1 hr'
    exact decide_eq_false (Nat.not_lt.2 (hr x hx).1)
  have hal : (acompRanges.map at_).find? (fun r => r.1 % r.2.2 != 0) = none := by
    refine find?_none_of_all fun r hr' => ?_
    obtain ⟨x, hx, rfl⟩ := List.mem_map.1 hr'
    exact bne_eq_false_iff_eq.2 (hr x hx).2
  refine matrix_issues h hm hp (if_pos hmode) ?_ rfl rfl
  dsimp only
  rw [hint, if_neg Bool.false_ne_true]
  simp only [acompRanges, List.map_cons, List.map_nil] at hin hal
  rw [hin, hal]

end

/-- Settles O27: with its checks passed each launches its operation, CENUM of the crew with what it may write noted apart. -/
theorem carillonIssues : Obligations.CarillonIssues := by
  unfold Obligations.CarillonIssues
  intro f s q cr w
  refine ⟨cenum_issues, ?cenumCrew, cpred_issues, ?cmerge, ?cexit, ?cseal, ?ccomp, ?cres, ?cabortTable, ?cabortMap, ?acomp, acomp_dense_issues⟩
  case cenumCrew =>
    intro h hm hn hc hmode
    exact ⟨_, s.launched q cr w _ h.1.1 rfl rfl, exec_cenum_crew h hm hn hc hmode⟩
  case cmerge =>
    intro h hm hc
    refine whole_issues h hm rfl ?_ rfl rfl
    rw [hc]
    rfl
  case cexit =>
    intro h hm ch hch hst
    have hok : (ch.st == .opened || (ch.st == .overflowed && ch.crewMode)) = true := by
      rcases hst with hst | ⟨hst, hcrew⟩
      · rw [hst]; rfl
      · rw [hst, hcrew]; rfl
    refine whole_issues h hm rfl ?_ rfl rfl
    rw [hch]
    exact if_pos hok
  case cseal =>
    intro h ch hch hst hc at_ hr ha
    exact cseal_issues ch h hch hst hc at_ rfl hr ha
  case ccomp =>
    intro h hok
    refine waved_issues h rfl ?_ rfl rfl
    dsimp only
    rw [hok]
  case cres =>
    intro h hok
    refine waved_issues h rfl ?_ rfl rfl
    dsimp only
    rw [hok]
    rfl
  case cabortTable =>
    intro h hmode hok
    refine waved_issues h (if_pos hmode) ?_ rfl rfl
    dsimp only
    rw [hok]
  case cabortMap =>
    intro h hmode hm hch
    refine whole_issues h hm (if_neg (by rw [hmode]; exact Bool.false_ne_true)) ?_ rfl rfl
    rw [Option.isNone_eq_false_iff.2 hch]
    rfl
  case acomp =>
    intro h hmode hm
    refine waved_issues h (if_neg (by rw [hmode]; exact Bool.false_ne_true)) ?_ rfl rfl
    exact if_neg (not_not.2 hm)

end Sys2Proof.Machine
end
section
/-!
The expansion instructions at issue (R318 to R332).
-/

namespace Sys2Proof.Machine

open Sys2Proof Sys2Proof.Safety Host

section

variable {s : State} {q : Cursor} {cr : Crew} {w : Wave} {f : Fields}

/-- A check that passes names a slot that the wave's name is bound to. -/
theorem State.bound_of_expCheck {x : Want} {ps : List Nat} (h : s.expCheck q cr w [x] = .ok ps) :
    w.exps.find? x.name = some (ps.getD 0 0) := by
  unfold State.expCheck at h
  cases hp : w.exps.find? x.name with
  | none => simp [hp] at h
  | some p =>
    simp only [hp, List.map_cons, List.map_nil] at h
    split at h
    · cases h
    · split at h
      · cases h
      · cases h
        rfl

/-- An instruction that launches its operation and sets the wave's order (R326). -/
theorem order_issues {i : Instr} {op : Op} (n : Nat) (h : s.curWave = some (q, cr, w)) (hcrew : op.crew = q.crew) (hwave : op.wave = q.wave)
    (hex : exec i s = .next ((s.launch op).modWave q.crew q.wave (fun wv => { wv with xo := n }))) :
    ∃ t, exec i s = .next t ∧ Launched s t q { flagUp w op.flag with xo := n } op :=
  ⟨_, hex, State.launched_modWave s _ q _ op _ (s.launched q cr w op h hcrew hwave)⟩

/-- A translation whose registers are bound and of the KIND asked for (R329). -/
theorem translation_issues {i : Instr} {kd ka : Nat} {ps : List Nat} (hex : ∀ s, exec i s = s.translateIssue i f kd ka)
    (h : IssuesWave s i [] q cr w) (hps : s.expCheck q cr w [⟨f.d.toNat, kd⟩, ⟨f.a.toNat, ka⟩] = .ok ps) :
    Issued i s s q w (s.expOp q cr w i (w.strand q.strand).mask (ps.getD 0 0) (ps.getD 1 0)) := by
  refine waved_issues h (hex s) ?_ rfl rfl
  rw [hps]

/-! ## Slots that XLD and XCLR bind -/

/-- A bound name keeps its slot (R320). -/
theorem State.bindExp_bound {name p : Nat} (h : s.curWave = some (q, cr, w)) (hp : w.exps.find? name = some p) :
    s.bindExp q.crew q.wave name = (s, p) := by
  obtain ⟨-, hcrew, hw, -⟩ := s.curWave_spec q cr w h
  simp only [State.bindExp, hcrew, hw, Option.bind_some, hp]

/-- The machine once wave `(c, v)` has bound `name` to the lowest free slot of core `core` (log 93). -/
def State.expBound (s : State) (c v core name : Nat) : State :=
  (s.modCore core (fun k => { k with exps := k.exps.put (s.core core).exps.freeKey Exp.empty })).modWave c v
    (fun wv => { wv with exps := wv.exps.put name (s.core core).exps.freeKey })

/-- An unbound name is bound to the lowest free slot, empty (R320, log 93). -/
theorem State.bindExp_unbound {name : Nat} (h : s.curWave = some (q, cr, w)) (hn : w.exps.find? name = none) :
    s.bindExp q.crew q.wave name = (s.expBound q.crew q.wave cr.core name, (s.core cr.core).exps.freeKey) := by
  obtain ⟨-, hcrew, hw, -⟩ := s.curWave_spec q cr w h
  simp only [State.bindExp, hcrew, hw, Option.bind_some, hn, State.expBound]

theorem State.ctxs_bindExp (c v name : Nat) : (s.bindExp c v name).1.ctxs = s.ctxs := by
  unfold State.bindExp
  split
  · rfl
  · split <;> rfl

/-- The wave still issues once its slot is bound. -/
theorem State.curWave_bindExp (s : State) (name : Nat) (h : s.curWave = some (q, cr, w)) :
    ∃ cr' x, (s.bindExp q.crew q.wave name).1.curWave = some (q, cr', x) := by
  obtain ⟨x, hw, hcur⟩ := s.bindExp_keeps q cr w name h
  obtain ⟨cr', h'⟩ := State.curWave_of s _ q x hcur hw (s.curWave_spec q cr w h).1
  exact ⟨cr', x, h'⟩

/-- The slot a name is bound to is in use, where a slot bound before was. -/
theorem State.find?_bindExp {name : Nat} (h : s.curWave = some (q, cr, w))
    (hused : ∀ p, w.exps.find? name = some p → ((s.core cr.core).exps.find? p).isSome = true) :
    ∃ e, ((s.bindExp q.crew q.wave name).1.core cr.core).exps.find? (s.bindExp q.crew q.wave name).2 = some e := by
  cases hn : w.exps.find? name with
  | some p =>
    rw [State.bindExp_bound h hn]
    exact Option.isSome_iff_exists.1 (hused p hn)
  | none =>
    have hcore : ∀ (u : State) c v g, (u.modWave c v g).core cr.core = u.core cr.core := fun _ _ _ _ => rfl
    rw [State.bindExp_unbound h hn, State.expBound, hcore, State.core_modCore_self]
    exact ⟨_, Tab.find?_put_same _ _ _⟩

/-- A change of a slot in use, read back. -/
theorem State.exp_modExp (core p : Nat) (g : Exp → Exp) (e : Exp) (h : (s.core core).exps.find? p = some e) :
    (s.modExp core p g).exp core p = g e := by
  rw [State.modExp, State.exp, State.core_modCore_self, Tab.rd, Tab.find?_modify, if_pos rfl, h]
  rfl

/-- XLD whose record is in range and aligned, with a slot to load it to (R332). -/
theorem exec_xld (h : IssuesWave s (.xld f) [] q cr w) (es : List Elem)
    (hes : s.recordCheck cr Need.read (f.m 5) (sVal w f.a.toNat (if f.m 5 then 1 else 2)) (32 + 4 * (w.xo + 1) ^ 2) = .ok es)
    (hroom : s.expRoom cr.core w f.d.toNat = true) :
    exec (.xld f) s = .next ((s.bindExp q.crew q.wave f.d.toNat).1.launch { newOp s q cr w (.xld f) allLanes with
      elems := es, av := sVal w f.a.toNat (if f.m 5 then 1 else 2)
      phys := (s.bindExp q.crew q.wave f.d.toNat).2, phys2 := (s.bindExp q.crew q.wave f.d.toNat).2 }) := by
  have hnew : newOp (s.bindExp q.crew q.wave f.d.toNat).1 q cr w (.xld f) allLanes = newOp s q cr w (.xld f) allLanes := by
    simp only [newOp, State.ctx, State.ctxs_bindExp]
  refine (s.waved_acts (.xld f) [] q cr w _ h).trans (congrArg _ ?_)
  dsimp only
  rw [hes, hroom, hnew]
  rfl

/-- The machine in which XCLR.mp or XCLR.loc launches: its name is bound and the slot's descriptor written (R318, R327). -/
def State.cleared (s : State) (q : Cursor) (cr : Crew) (w : Wave) (f : Fields) : State :=
  (s.bindExp q.crew q.wave f.d.toNat).1.modExp cr.core (s.bindExp q.crew q.wave f.d.toNat).2
    (fun e => clearedExp e (f.mb 0 2 + 1) ((List.range 4).map (fun n => w.s (f.a.toNat + n))))

/-- The wave still issues once its slot is cleared. -/
theorem State.curWave_cleared (f : Fields) (h : s.curWave = some (q, cr, w)) : ∃ cr' x, (s.cleared q cr w f).curWave = some (q, cr', x) :=
  s.curWave_bindExp f.d.toNat h

/-- XCLR that does not release waits for a slot where none is free, else clears one and launches its operation. -/
theorem exec_xclr_clears (h : IssuesWave s (.xclr f) [] q cr w) (hop : f.mb 0 2 ≠ 2) : exec (.xclr f) s = .next
    (if s.expRoom cr.core w f.d.toNat = false then s.retry
      else (s.cleared q cr w f).launch { (s.cleared q cr w f).expOp q cr w (.xclr f) allLanes (s.bindExp q.crew q.wave f.d.toNat).2
        (s.bindExp q.crew q.wave f.d.toNat).2 with blk := (List.range 4).map (fun n => w.s (f.a.toNat + n)) }) := by
  refine (s.waved_acts (.xclr f) [] q cr w _ h).trans (congrArg _ ?_)
  simp only [if_neg hop, Bool.not_eq_true']
  rfl

/-- The descriptor that XCLR.mp or XCLR.loc leaves in its slot: KIND 1 or 2, ORD 0, centre and radius from the four s registers (R318). -/
theorem State.exp_cleared (h : s.curWave = some (q, cr, w))
    (hused : ∀ p, w.exps.find? f.d.toNat = some p → ((s.core cr.core).exps.find? p).isSome = true) :
    ∃ e, (s.cleared q cr w f).exp cr.core (s.bindExp q.crew q.wave f.d.toNat).2 =
      clearedExp e (f.mb 0 2 + 1) ((List.range 4).map (fun n => w.s (f.a.toNat + n))) := by
  obtain ⟨e, he⟩ := State.find?_bindExp h hused
  exact ⟨e, State.exp_modExp _ _ _ e he⟩

end

/-- Settles O28: registers bound and of the KIND asked for, each launches; XLD and XCLR bind their slot first. -/
theorem expansionIssues : Obligations.ExpansionIssues := by
  unfold Obligations.ExpansionIssues
  constructor
  · intro f s q cr w
    refine ⟨?xord, ?xordImm, ?release, ?xform, fun h _ => translation_issues (fun _ => rfl) h,
      fun h _ => translation_issues (fun _ => rfl) h, fun h _ => translation_issues (fun _ => rfl) h, ?xeval, ?xadm, ?xst, ?xld⟩
    case xord =>
      intro h hn
      exact order_issues _ h.1.1 rfl rfl ((s.waved_acts (.xord f) [] q cr w _ h).trans (congrArg _ (if_neg (Nat.not_lt.2 hn))))
    case xordImm =>
      intro g h
      exact order_issues _ h.1.1 rfl rfl (s.waved_acts (.xordImm g) [] q cr w _ h)
    case release =>
      intro h hop ps hps
      have hl := s.launched_release q cr w (s.expOp q cr w (.xclr f) allLanes (ps.getD 0 0) (ps.getD 0 0)) false (ps.getD 0 0) h.1.1 rfl rfl rfl
        ⟨_, Tab.mem_of_find? (State.bound_of_expCheck hps), rfl⟩
      have htiles : w.tiles.filter (fun e => !(false && e.2 == ps.getD 0 0)) = w.tiles := List.filter_eq_self.2 (fun _ _ => rfl)
      dsimp only at hl
      rw [htiles] at hl
      refine ⟨_, (s.waved_acts (.xclr f) [] q cr w _ h).trans (congrArg _ ?_), hl.1, hl.2⟩
      rw [if_pos hop, hps]
      rfl
    case xform =>
      intro act h ps hps hg
      refine issued_of_exec h.1.1 ?_ rfl rfl
      show execXform f s = _
      rw [execXform, s.laned_acts (.xform f) f.pn f.pred [] q cr w act _ h, hps, hg]
      rfl
    case xeval =>
      intro act h ps hps
      constructor
      · intro hk
        show execXeval f s = _
        rw [execXeval, s.laned_acts (.xeval f) f.pn f.pred [] q cr w act _ h, hps]
        exact congrArg _ (if_pos hk)
      · intro hk hd hb
        refine issued_of_exec h.1.1 ?_ rfl rfl
        show execXeval f s = _
        rw [execXeval, s.laned_acts (.xeval f) f.pn f.pred [] q cr w act _ h, hps, hd, hb]
        exact congrArg _ (if_neg hk)
    case xadm =>
      intro act h ps hps
      refine issued_of_exec h.1.1 ?_ rfl rfl
      show execXadm f s = _
      rw [execXadm, s.laned_acts (.xadm f) f.pn f.pred _ q cr w act _ h, hps]
    case xst =>
      intro h ps hps es hes
      refine waved_issues h rfl ?_ rfl rfl
      dsimp only
      rw [hps]
      dsimp only
      rw [hes]
    case xld =>
      intro h es hes hroom
      exact launches_from { newOp s q cr w (.xld f) allLanes with
        elems := es, av := sVal w f.a.toNat (if f.m 5 then 1 else 2)
        phys := (s.bindExp q.crew q.wave f.d.toNat).2, phys2 := (s.bindExp q.crew q.wave f.d.toNat).2 }
        (s.curWave_bindExp _ h.1.1) rfl rfl (exec_xld h es hes hroom)
  · intro f s q cr w h hop
    refine ⟨?room, ?waits, ?clears⟩
    case room => rw [State.expRoom, Bool.or_eq_true, decide_eq_true_iff]
    case waits =>
      intro hroom
      rw [exec_xclr_clears h hop, if_pos hroom]
    case clears =>
      intro hroom hused
      obtain ⟨t, x, hx, hex, hl⟩ := launches_from { (s.cleared q cr w f).expOp q cr w (.xclr f) allLanes
        (s.bindExp q.crew q.wave f.d.toNat).2 (s.bindExp q.crew q.wave f.d.toNat).2 with
          blk := (List.range 4).map (fun n => w.s (f.a.toNat + n)) } (State.curWave_cleared f h.1.1) rfl rfl
        (by rw [exec_xclr_clears h hop, hroom, if_neg Bool.true_eq_false.mp])
      obtain ⟨e, he⟩ := State.exp_cleared (f := f) h.1.1 hused
      have hcores := congrArg (fun u : State => u.cores) hl.rest
      dsimp only at hcores
      have hexp : t.exp cr.core (s.bindExp q.crew q.wave f.d.toNat).2 =
          clearedExp e (f.mb 0 2 + 1) ((List.range 4).map (fun n => w.s (f.a.toNat + n))) := by
        rw [← he, State.exp, State.core, hcores]
        rfl
      refine ⟨t, x, hx, hex, hl, ?_⟩
      rw [hexp]
      exact ⟨rfl, rfl, rfl, rfl, rfl, rfl⟩

end Sys2Proof.Machine
end
section
/-!
Token-merging and beam operations at issue (R339 to R343, R350 to R352).
-/

namespace Sys2Proof.Machine

open Sys2Proof Sys2Proof.Safety Host

/-- Addresses below 2^56, each a multiple of the alignment beside it, with counts in range pass R339's checks. -/
theorem tokenCheck_passes {ok : Bool} {l : List (Nat × Nat)} (hok : ok = true) (hl : ∀ x ∈ l, x.1 < 2 ^ 56 ∧ x.1 % x.2 = 0) :
    tokenCheck ok l = none := by
  have hin : l.find? (fun a => decide (2 ^ 56 ≤ a.1)) = none :=
    find?_none_of_all fun x hx => decide_eq_false (Nat.not_le.2 (hl x hx).1)
  have hal : l.find? (fun a => a.1 % a.2 != 0) = none := find?_none_of_all fun x hx => bne_eq_false_iff_eq.2 (hl x hx).2
  rw [tokenCheck, hok, hin, hal]
  rfl

section

variable {s : State} {q : Cursor} {cr : Crew} {w : Wave} {f : Fields}

/-- An instruction whose meaning is to launch an operation of its strand with a future. -/
theorem issuedH_of_exec {i : Instr} {op : Op} {scope : Nat} (h : s.curWave = some (q, cr, w)) (hex : exec i s = .next (s.launchH op scope))
    (hcrew : op.crew = q.crew) (hwave : op.wave = q.wave) (hf : fieldsOf op.instr = some f) : IssuedH i f s q w op scope :=
  ⟨_, hex, s.launchedH q cr w f op scope h hcrew hwave hf⟩

/-- PROOT of a task that is not versioned, its checks passed, launches at once (R98). -/
theorem exec_proot_at_once (h : IssuesWave s (.proot f) [] q cr w) (ht : cr.task ≠ .versioned)
    (hk : (if f.m 0 = true then tokenCheck (decide ((w.s (f.b.toNat + 2)).toNat ≤ 65536))
        [(sVal w f.d.toNat 2, 64), (sVal w f.a.toNat 2, 16), (sVal w f.b.toNat 2, 1)]
      else tokenCheck (decide (1 ≤ (w.s (f.b.toNat + 0)).toNat) && decide ((w.s (f.b.toNat + 0)).toNat ≤ 64) &&
        decide (1 ≤ (w.s (f.b.toNat + 1)).toNat) && decide ((w.s (f.b.toNat + 1)).toNat ≤ 65536))
        [(sVal w f.d.toNat 2, 16), (sVal w f.a.toNat 2, 16), (sVal w (f.b.toNat + 2) 2, 32)]) = none) :
    exec (.proot f) s = .next (s.issueBeam (.proot f) f q cr w 8) := by
  have hex := (proot_first f s q cr w h _ rfl hk).1 ht
  dsimp only at hex
  rw [(s.curWave_spec q cr w h.1.1).2.1] at hex
  exact hex

end

/-- Settles O29: the checks are R339's, of counts and then of each address; PROOT launches at once in a task that is not versioned. -/
theorem tokenAndBeamIssue : Obligations.TokenAndBeamIssue := by
  unfold Obligations.TokenAndBeamIssue
  intro f s q cr w
  refine ⟨?tkmatch, ?tkmerge, ?tkunmerge, ?tksize, ?beam, ?prootCmt, ?proot⟩
  case tkmatch =>
    intro h h1 h2 h3 h4 h5 h6 h7 h8 h9 hl
    refine issuedH_of_exec h.1.1 ?_ rfl rfl rfl
    show execTkmatch f s = _
    rw [execTkmatch, s.waved_acts (.tkmatch f) [] q cr w _ h]
    dsimp only at hl ⊢
    rw [tokenCheck_passes (by simp only [Bool.and_eq_true, decide_eq_true_eq, beq_iff_eq, and_assoc]; exact ⟨h1, h2, h3, h4, h5, h6, h7, h8, h9⟩) hl]
    rfl
  case tkmerge =>
    intro h h1 h2 h3 h4 hl
    refine issuedH_of_exec h.1.1 ?_ rfl rfl rfl
    show execTkmerge f s = _
    rw [execTkmerge, s.waved_acts (.tkmerge f) [] q cr w _ h]
    dsimp only at hl ⊢
    rw [tokenCheck_passes (by simp [h1, h2, h3, h4]) hl]
    rfl
  case tkunmerge =>
    intro h h1 h2 h3 h4 hl
    refine issuedH_of_exec h.1.1 ?_ rfl rfl rfl
    show execTkunmerge f s = _
    rw [execTkunmerge, s.waved_acts (.tkunmerge f) [] q cr w _ h]
    dsimp only at hl ⊢
    rw [tokenCheck_passes (by simp [h1, h2, h3, h4]) hl]
    rfl
  case tksize =>
    intro h hr hl
    refine issuedH_of_exec h.1.1 ?_ rfl rfl rfl
    show execTksize f s = _
    rw [execTksize, s.waved_acts (.tksize f) [] q cr w _ h]
    dsimp only at hl ⊢
    rw [if_neg (Nat.not_lt.2 hr), tokenCheck_passes rfl hl]
    rfl
  case beam =>
    intro h h1 h2 h3 h4 h5 h6 h7 h8 hl
    refine issuedH_of_exec h.1.1 ?_ rfl rfl rfl
    show execBeam f s = _
    rw [execBeam, s.waved_acts (.beam f) [] q cr w _ h]
    dsimp only at hl ⊢
    rw [tokenCheck_passes (by simp only [Bool.and_eq_true, decide_eq_true_eq, and_assoc]; exact ⟨h1, h2, h3, h4, h5, h6, h7, h8⟩) hl]
    rfl
  case prootCmt =>
    intro h ht hc h1 hl
    refine issuedH_of_exec h.1.1 (exec_proot_at_once h ht ?_) rfl rfl rfl
    rw [if_pos hc]
    exact tokenCheck_passes (decide_eq_true h1) hl
  case proot =>
    intro h ht hc h1 h2 h3 h4 hl
    refine issuedH_of_exec h.1.1 (exec_proot_at_once h ht ?_) rfl rfl rfl
    dsimp only at h1 h2 h3 h4 hl
    rw [hc, if_neg Bool.false_ne_true]
    exact tokenCheck_passes (by simp only [Bool.and_eq_true, decide_eq_true_eq, and_assoc]; exact ⟨h1, h2, h3, h4⟩) hl

end Sys2Proof.Machine
end
section
/-!
QUIESCE, TLBINV and ICINV at issue, in a task that is not versioned (R361 to R364).
-/

namespace Sys2Proof.Machine

open Sys2Proof Sys2Proof.Safety Host

theorem otherWaves_trans {s t u : State} {c w : Nat} (h : OtherWaves s t c w) (g : OtherWaves t u c w) : OtherWaves s u c w :=
  ⟨fun d => (g.1 d).trans (h.1 d), fun d x hx => (g.2 d x hx).trans (h.2 d x hx)⟩

/-- The operation that QUIESCE launches: it carries the epoch to retire (R363). -/
def quiesceOp (f : Fields) (s : State) (q : Cursor) (cr : Crew) (w : Wave) : Op :=
  { newOp s q cr w (.quiesce f) allLanes with av := (s.ctx cr.ctx).epoch }

/-- The machine once QUIESCE is launched and the context's next epoch has begun. -/
def quiesceLaunched (f : Fields) (s : State) (q : Cursor) (cr : Crew) (w : Wave) : State :=
  (s.launch (quiesceOp f s q cr w)).modCtx cr.ctx (fun cx => { cx with epoch := cx.epoch + 1 })

section

variable {f : Fields} {s : State} {q : Cursor} {cr : Crew} {w : Wave}

/-- In a task that is not versioned QUIESCE launches, begins the epoch and writes the old one at once. -/
theorem exec_quiesce_at_once (h : IssuesWave s (.quiesce f) [] q cr w) (ht : cr.task ≠ .versioned) : exec (.quiesce f) s =
    .next ((quiesceLaunched f s q cr w).writeRegs q.crew q.wave (wrGroup true f.d.toNat 0 2 (s.ctx cr.ctx).epoch)) := by
  have hex := (quiesce_first f s q cr w h).1 ht
  dsimp only at hex
  rw [(s.curWave_spec q cr w h.1.1).2.1] at hex
  exact hex

theorem quiesce_launches (f : Fields) (h : s.curWave = some (q, cr, w)) :
    Launched s (s.launch (quiesceOp f s q cr w)) q (flagUp w (quiesceOp f s q cr w).flag) (quiesceOp f s q cr w) :=
  s.launched q cr w _ h rfl rfl

theorem curWave_quiesceLaunched (f : Fields) (h : s.curWave = some (q, cr, w)) :
    ∃ cr', (quiesceLaunched f s q cr w).curWave = some (q, cr', flagUp w (quiesceOp f s q cr w).flag) :=
  State.curWave_of s (quiesceLaunched f s q cr w) q _ rfl (quiesce_launches f h).wave (s.curWave_spec q cr w h).1

theorem epoch_quiesceLaunched : ((quiesceLaunched f s q cr w).ctx cr.ctx).epoch = (s.ctx cr.ctx).epoch + 1 := by
  rw [quiesceLaunched, State.ctx_modCtx_self]
  rfl

/-- An operation whose destinations a change may have taken keeps what it is. -/
theorem op?_of_opsKeep {s t : State} {o : Nat} {op : Op} (h : OpsKeep s t) (ho : s.op? o = some op) :
    ∃ p, t.op? o = some p ∧ { p with dsts := [] } = { op with dsts := [] } := by
  have hmap := (h o).1
  rw [ho] at hmap
  exact Option.map_eq_some_iff.1 hmap

/-- QUIESCE returns the epoch it retires and begins the next, in one step (R363). -/
theorem quiesce_acts (ht : cr.task ≠ .versioned) (h : IssuesWave s (.quiesce f) [] q cr w) : ∃ t x, exec (.quiesce f) s = .next t ∧
    t.wave? q.crew q.wave = some x ∧ (t.ctx cr.ctx).epoch = (s.ctx cr.ctx).epoch + 1 ∧
    x.s f.d.toNat = BitVec.ofNat 32 (s.ctx cr.ctx).epoch ∧ x.s (f.d.toNat + 1) = BitVec.ofNat 32 ((s.ctx cr.ctx).epoch / 2 ^ 32) ∧
    (∀ r, r ≠ f.d.toNat → r ≠ f.d.toNat + 1 → x.s r = w.s r) ∧
    { x with sr := w.sr, fl := w.fl } = w ∧ SameMemory s t ∧ OtherWaves s t q.crew q.wave ∧
    ∃ op, t.op? s.next = some op ∧ op.av = (s.ctx cr.ctx).epoch ∧ op.instr = .quiesce f ∧ op.st = .queued := by
  have hl := quiesce_launches f h.1.1
  obtain ⟨cr', hcur⟩ := curWave_quiesceLaunched f h.1.1
  obtain ⟨x, hx, hwritten, hother, hrest, honly⟩ := State.writesS_wrGroup _ q cr' _ f.d.toNat 2 (s.ctx cr.ctx).epoch hcur
  obtain ⟨op, hop, hsame⟩ := op?_of_opsKeep honly.ops hl.inFlight
  refine ⟨_, x, exec_quiesce_at_once h ht, hx, ?_, ?_, ?_, ?_, ?_, fun a => (honly.memory a).trans (hl.memory a),
    otherWaves_trans hl.waves honly.waves, op, hop, ?_⟩
  · exact epoch_quiesceLaunched
  · simpa [groupWord] using hwritten f.d.toNat (groupWord (s.ctx cr.ctx).epoch 0) (by simp [List.range_succ])
  · exact hwritten (f.d.toNat + 1) (groupWord (s.ctx cr.ctx).epoch 1) (by simp [List.range_succ])
  · intro r h0 h1
    exact hother r (by simp [List.range_succ, h0, h1])
  · exact congrArg (fun v : Wave => { v with sr := w.sr, fl := w.fl }) hrest
  · exact ⟨congrArg (fun p : Op => p.av) hsame, congrArg (fun p : Op => p.instr) hsame, congrArg (fun p : Op => p.st) hsame⟩

/-- An instruction whose meaning in a task that is not versioned is to launch an operation at once (R98). -/
theorem issued_at_once {i : Instr} {op : State → Crew → Op} (h : s.curWave = some (q, cr, w)) (ht : cr.task ≠ .versioned)
    (hfirst : FirstIrrevocable i s s q cr (launchIn q.crew op)) (hcrew : (op s cr).crew = q.crew) (hwave : (op s cr).wave = q.wave) :
    Issued i s s q w (op s cr) := by
  have hex := hfirst.1 ht
  rw [launchIn, (s.curWave_spec q cr w h).2.1] at hex
  exact issued_of_exec h hex hcrew hwave

end

/-- Settles O38: outside a versioned task nothing is to be committed first, so each acts in the step in which it issues. -/
theorem systemLaunches : Obligations.SystemLaunches := by
  unfold Obligations.SystemLaunches
  intro f s q cr w ht
  refine ⟨quiesce_acts ht, ?tlbinv, ?icinv⟩
  case tlbinv => exact fun h hk => issued_at_once h.1.1 ht (tlbinv_first f s q cr w h hk) rfl rfl
  case icinv => exact fun h hk => issued_at_once h.1.1 ht (icinv_first f s q cr w h hk) rfl rfl

end Sys2Proof.Machine
end
section
/-!
The machine after power-on reset.
-/

namespace Sys2Proof.Machine

open Sys2Proof Sys2Proof.Safety Host

/-- A table with no entry reads its default everywhere. -/
theorem Tab.rd_nil {α : Type} (d : α) (k : Nat) : Tab.rd d [] k = d := rfl

/-- Settles O7: the tables of contexts, kernels, crews, operations, ports and memory are empty after reset. -/
theorem resetState : Obligations.ResetState := by
  unfold Obligations.ResetState
  refine ⟨rfl, rfl, rfl, rfl, fun x => ?_, fun _ => rfl, fun _ => rfl, fun _ => rfl, fun p => ?_, fun a => Tab.rd_nil 0 a⟩
  · have hctx : State.reset.ctx x = Tab.rd _ [] x := rfl
    rw [hctx, Tab.rd_nil]
    rfl
  · have hport : State.reset.port p = Tab.rd _ [] p := rfl
    rw [hport, Tab.rd_nil]
    exact ⟨rfl, rfl, rfl⟩

end Sys2Proof.Machine
end
section
/-!
Firings of the Clave (R374, R375, R379); and what lies outside the cores and contexts, which traps, the ends of operations and the settling
of waves leave alone.
-/

namespace Sys2Proof.Machine

open Sys2Proof Sys2Proof.Safety Host

/-! ## What leaves the clocks and the ports alone -/

/-- What lies outside the cores and contexts: the ports, the Tabor count, the cycle count, and the cycle in which the present latch
began. -/
def State.outer (s : State) : Tab Port × Dword × Nat × Nat := (s.ports, s.tabor, s.cycle, s.claveSince)

/-- A fold of updates that leave the clocks and the ports alone leaves them alone. -/
theorem outer_foldl {α : Type} (f : State → α → State) (h : ∀ s x, (f s x).outer = s.outer) (l : List α) (s : State) :
    (l.foldl f s).outer = s.outer := foldl_keeps State.outer f h l s

@[simp] theorem State.outer_ite (p : Prop) [Decidable p] (a b : State) : (if p then a else b).outer = if p then a.outer else b.outer :=
  apply_ite State.outer p a b

@[simp] theorem State.outer_modCore (s : State) (c : Nat) (f : Core → Core) : (s.modCore c f).outer = s.outer := rfl
@[simp] theorem State.outer_modCrew (s : State) (c : Nat) (f : Crew → Crew) : (s.modCrew c f).outer = s.outer := rfl
@[simp] theorem State.outer_modWave (s : State) (c w : Nat) (f : Wave → Wave) : (s.modWave c w f).outer = s.outer := rfl
@[simp] theorem State.outer_modStrand (s : State) (c w k : Nat) (f : Strand → Strand) : (s.modStrand c w k f).outer = s.outer := rfl
@[simp] theorem State.outer_modCtx (s : State) (x : Nat) (f : Context → Context) : (s.modCtx x f).outer = s.outer := rfl
@[simp] theorem State.outer_modOp (s : State) (o : Nat) (f : Op → Op) : (s.modOp o f).outer = s.outer := rfl
@[simp] theorem State.outer_future (s : State) (o code : Nat) : (s.future o code).outer = s.outer := rfl

@[simp] theorem State.outer_dropOp (s : State) (o : Nat) : (s.dropOp o).outer = s.outer :=
  State.dropOp_keeps State.outer (fun _ _ _ _ => rfl) s o

@[simp] theorem State.outer_flagDown (s : State) (op : Op) : (s.flagDown op).outer = s.outer := by
  fun_cases State.flagDown s op <;> rfl

@[simp] theorem State.outer_endOp (s : State) (o code : Nat) : (s.endOp o code).outer = s.outer := by
  fun_cases State.endOp s o code <;> simp

@[simp] theorem State.outer_breakObject (s : State) (c a : Nat) : (s.breakObject c a).outer = s.outer := by
  fun_cases State.breakObject s c a <;> rfl

@[simp] theorem State.outer_endRequest (s : State) (o : Nat) (op : Op) (status detail : Nat) :
    (s.endRequest o op status detail).outer = s.outer := by
  simp [State.endRequest]

@[simp] theorem State.outer_stopOp (s : State) (o : Nat) (op : Op) (irr : Bool) : (s.stopOp o op irr).outer = s.outer := by
  unfold State.stopOp
  (repeat' split) <;> simp

@[simp] theorem State.outer_stopOps (s : State) (c : Nat) : (s.stopOps c).outer = s.outer := by
  unfold State.stopOps
  split
  · rfl
  · exact outer_foldl _ (fun s x => State.outer_stopOp s _ _ _) _ _

@[simp] theorem State.outer_discard (s : State) (c : Nat) : (s.discard c).outer = s.outer := by
  unfold State.discard
  split
  · rfl
  · exact (outer_foldl (fun (s : State) (x : Nat × Nat) => s.modOp x.1 _) (fun _ _ => rfl) _ _).trans rfl

@[simp] theorem State.outer_unbindAll (s : State) (c w : Nat) : (s.unbindAll c w).outer = s.outer := by
  fun_cases State.unbindAll s c w <;> rfl

@[simp] theorem State.outer_stopTask (s : State) (c : Nat) : (s.stopTask c).outer = s.outer := by
  unfold State.stopTask
  split
  · rfl
  · split
    · simp
    · rw [State.outer_modCrew, State.outer_modCore, outer_foldl _ (fun s x => State.outer_unbindAll s c x)]
      simp

@[simp] theorem State.outer_loseHandler (s : State) (x : Nat) : (s.loseHandler x).outer = s.outer := by
  refine (State.outer_modCtx _ x _).trans (outer_foldl _ (fun s e => ?_) _ s)
  split <;> rfl

@[simp] theorem State.outer_trap (s : State) (c w k cause addr cls : Nat) : (s.trap c w k cause addr cls).outer = s.outer := by
  unfold State.trap
  split
  · rfl
  · dsimp only
    split <;> simp <;> rfl

@[simp] theorem State.outer_settleCtx (s : State) (x : Nat) : (s.settleCtx x).outer = s.outer :=
  State.settleCtx_keeps State.outer (fun _ _ => rfl) s x

theorem State.outer_rewave (s : State) (c : Nat) : (s.rewave c).outer = s.outer := by
  unfold State.rewave
  split
  · rfl
  · split
    · rfl
    · rw [State.outer_modCrew, outer_foldl _ (fun _ _ => by rfl)]
      rfl

theorem State.outer_settleRestart (s : State) (c : Nat) : (s.settleRestart c).outer = s.outer := by
  unfold State.settleRestart
  (repeat' split) <;> simp [State.outer_rewave, outer_foldl]

theorem State.outer_removeCrew (s : State) (c : Nat) : (s.removeCrew c).outer = s.outer := by
  have hrest : ∀ (u : State) crews ops dsts, State.outer { u with crews := crews, ops := ops, waitDst := dsts } = u.outer :=
    fun _ _ _ _ => rfl
  unfold State.removeCrew
  split
  · rfl
  · dsimp only
    rw [State.outer_settleCtx, hrest]
    split <;> simp [outer_foldl]

theorem State.outer_settleFailed (s : State) (c : Nat) : (s.settleFailed c).outer = s.outer := by
  fun_cases State.settleFailed s c <;> simp [State.outer_removeCrew]

theorem State.outer_settleRestarts (s : State) : s.settleRestarts.outer = s.outer := by
  unfold State.settleRestarts
  split
  · exact outer_foldl _ (fun s c => (State.outer_settleFailed _ c).trans (s.outer_settleRestart c)) _ s
  · rfl

theorem State.outer_farWakes (s : State) : s.farWakes.outer = s.outer := by
  simp only [State.farWakes]
  rw [outer_foldl _ (fun _ _ => by simp), outer_foldl _ (fun _ _ => by simp)]
  rfl

theorem State.outer_farQueues (s : State) : s.farQueues.outer = s.outer := by
  unfold State.farQueues
  split <;> rfl

@[simp] theorem State.outer_choose (s : State) (c w : Nat) : (s.choose c w).outer = s.outer := by
  fun_cases State.choose s c w <;> rfl

theorem State.outer_stallOnce (s : State) (c w : Nat) : (s.stallOnce c w).outer = s.outer := by
  fun_cases State.stallOnce s c w <;> simp

@[simp] theorem State.outer_unstall (s : State) (c w : Nat) : (s.unstall c w).outer = s.outer := by
  fun_cases State.unstall s c w <;> rfl

theorem State.outer_settleWave (s : State) (c w : Nat) : (s.settleWave c w).outer = s.outer := by
  unfold State.settleWave
  dsimp only
  (repeat' split) <;> simp [outer_foldl, State.outer_stallOnce]

/-- A crew's waves are brought up to date. -/
def State.settleWaves (s : State) (e : Nat × Crew) : State := (e.2.waves.map (·.1)).foldl (fun (s : State) w => s.settleWave e.1 w) s

theorem State.outer_settleWaves (s : State) (e : Nat × Crew) : (s.settleWaves e).outer = s.outer :=
  outer_foldl _ (fun s w => s.outer_settleWave e.1 w) _ s

/-- What the passing of time does before the counters move. -/
def State.settled (s : State) : State :=
  s.settleRestarts.farWakes.farQueues.crews.foldl State.settleWaves s.settleRestarts.farWakes.farQueues

theorem State.outer_settled (s : State) : s.settled.outer = s.outer := by
  rw [State.settled, outer_foldl _ State.outer_settleWaves, State.outer_farQueues, State.outer_farWakes, State.outer_settleRestarts]

/-- A latch is over once 64 cycles have passed since it began (R374). -/
theorem State.claveBusy_tick (s : State) (c n : Nat) (h : s.claveSince + 64 ≤ s.cycle + c) : (s.tick c n).claveBusy = false := by
  have htick : (s.tick c n).claveBusy = (s.settled.claveBusy && decide (s.settled.cycle + c < s.settled.claveSince + 64)) := rfl
  have hcycle : s.settled.cycle = s.cycle := congrArg (·.2.2.1) s.outer_settled
  have hsince : s.settled.claveSince = s.claveSince := congrArg (·.2.2.2) s.outer_settled
  rw [htick, hcycle, hsince, decide_eq_false (Nat.not_lt.2 h), Bool.and_false]

/-! ## The obligation -/

/-- Settles O56: each source fires by `State.fireClave`, which latches or merges. -/
theorem claveFirings : Obligations.ClaveFirings := by
  unfold Obligations.ClaveFirings
  intro s
  refine ⟨?host, ?unreached, ?management, ?tabor, ?taborWaits, ?atTick, ?tickWaits, ?latchDone, ?latchLasts, s.claveBusy_tick⟩
  case host => exact fun v hr => ⟨_, if_pos hr, s.claveFires_fireClave 1 none⟩
  case unreached => exact fun v hr => if_neg (ne_true_of_eq_false hr)
  case management => exact ⟨_, rfl, s.claveFires_fireClave 2 none⟩
  case tabor =>
    intro harmed htick hcome
    have hfires : (s.claveArmed && s.claveTick != 0 && decide (s.claveTick ≤ s.tabor.toNat)) = true := by
      rw [harmed, bne_iff_ne.2 htick, decide_eq_true hcome]
      rfl
    have hclave := State.claveFires_fireClave { s with claveArmed := false } 5 none
    simp only [true_and] at hclave
    exact ⟨_, if_pos hfires, hclave⟩
  case taborWaits =>
    intro hwait
    have hwaits : (s.claveArmed && s.claveTick != 0 && decide (s.claveTick ≤ s.tabor.toNat)) = false := by
      rcases hwait with hlate | harmed
      · rw [decide_eq_false (Nat.not_le.2 hlate), Bool.and_false]
      · rw [harmed, Bool.false_and, Bool.false_and]
    exact if_neg (ne_true_of_eq_false hwaits)
  case atTick =>
    rintro idx ⟨tick, own⟩ ht hcome
    have hex : exec (.snapTickFire idx) s =
        .next ({ s with claveTicks := s.claveTicks.eraseIdx idx }.fireClave (if own = true then 3 else 4) (some false)) := by
      show execSnapTickFire idx s = _
      rw [execSnapTickFire, ht]
      exact if_pos hcome
    cases own <;> exact ⟨_, hex, State.claveFires_fireClave _ _ _⟩
  case tickWaits =>
    intro idx t ht hlate
    show execSnapTickFire idx s = _
    rw [execSnapTickFire, ht]
    exact if_neg (Nat.not_le.2 hlate)
  case latchDone => exact fun hc => if_neg hc
  case latchLasts => exact fun hc => if_pos hc

end Sys2Proof.Machine
end
section
/-!
Power, temperature, the emergency stop, boot and attestation (R380 to R385).
-/

namespace Sys2Proof.Machine

open Sys2Proof Sys2Proof.Safety Host

/-! ## The emergency stop and the restart -/

/-- Whether the dies are stopped, and the Tabor count. -/
def State.stopClock (s : State) : Bool × Dword := (s.stopped, s.tabor)

theorem State.stopClock_stopContext (s : State) (x : Nat) : (s.stopContext x).stopClock = s.stopClock := by
  unfold State.stopContext
  split <;> rfl

theorem stopClock_stopContexts (l : List Nat) (s : State) : (l.foldl State.stopContext s).stopClock = s.stopClock :=
  foldl_keeps State.stopClock State.stopContext State.stopClock_stopContext l s

/-- Where the dies run and a limit is passed, the stop is told to the controller and to the host, stamped with the count at the stop. -/
theorem exec_emergencyStop_stops {s : State} {c mv : Nat} (hrun : s.stopped = false) (hlim : 115 ≤ c ∨ mv < 585 ∨ 715 < mv) :
    ∃ t, exec (.emergencyStop c mv) s = .next t ∧ t.stopped = true ∧
      t.outbox.head? = some .stopNotice ∧ t.events.getLast? = some ⟨s.tabor.toNat, 0, 0, 0x74, 7⟩ := by
  have hgo : ¬(s.stopped || (decide (c < 115) && supplyOk mv)) = true := by
    simp only [hrun, supplyOk, Bool.false_or, Bool.and_eq_true, decide_eq_true_eq]
    omega
  have hkept := stopClock_stopContexts (s.ctxs.map (·.1)) s.stopDies
  have hstopped := congrArg Prod.fst hkept
  have htabor := congrArg Prod.snd hkept
  refine ⟨_, if_neg hgo, hstopped, rfl, ?_⟩
  rw [← show _ = s.tabor from htabor]
  exact List.getLast?_concat

/-- Within the limits nothing stops. -/
theorem exec_emergencyStop_within {s : State} {c mv : Nat} (hc : c < 115) (hlow : 585 ≤ mv) (hhigh : mv ≤ 715) :
    exec (.emergencyStop c mv) s = .next s :=
  if_pos (by simp [supplyOk, hc, hlow, hhigh])

/-- A write of RESTART that is not a 1, or that comes while the dies run, are hot or lack supply, is refused. -/
theorem State.restartDies_refused {s : State} {val c mv : Nat} (h : val ≠ 1 ∨ s.stopped = false ∨ 95 ≤ c ∨ supplyOk mv = false) :
    s.restartDies val c mv = { s with bootErr := true } := by
  refine if_neg fun ⟨hval, hstop, hcool, hsup⟩ => ?_
  rcases h with h | h | h | h
  · exact h hval
  · simp [h] at hstop
  · omega
  · simp [h] at hsup

/-! ## Attestation -/

@[simp] theorem length_sha384 (m : List Byte) : (sha384 m).length = 48 := by
  simp [sha384, beBytes]

/-- The `n` elements of a list that stand after `i` others. -/
theorem take_drop_append_mid {α : Type} {a b c : List α} {i n : Nat} (ha : a.length = i) (hb : b.length = n) :
    ((a ++ (b ++ c)).drop i).take n = b := by
  rw [List.drop_left' ha, List.take_left' hb]

/-- The report's body has the nonce, the three digests and the count, each at its place (R385). -/
theorem State.reportBody_layout (s : State) {nonce : List Byte} (hn : nonce.length = 32) :
    (s.reportBody nonce).take 32 = nonce ∧ (s.reportBody nonce).length = 184 ∧
      ((s.reportBody nonce).drop 32).take 48 = sha384 (s.booted.rd [] 0) ∧
      ((s.reportBody nonce).drop 80).take 48 = sha384 (s.booted.rd [] 1) ∧
      ((s.reportBody nonce).drop 128).take 48 = sha384 (Config.certChain (s.booted.rd [] 0)) ∧
      (s.reportBody nonce).drop 176 = leBytes 8 s.tabor.toNat := by
  unfold State.reportBody
  refine ⟨?_, by simp [hn], ?_, ?_, ?_, List.drop_left' (by simp [hn])⟩
  · simp only [List.append_assoc]
    exact List.take_left' hn
  · simp only [List.append_assoc]
    exact take_drop_append_mid hn (length_sha384 _)
  · rw [List.append_assoc, List.append_assoc]
    exact take_drop_append_mid (by simp [hn]) (length_sha384 _)
  · rw [List.append_assoc]
    exact take_drop_append_mid (by simp [hn]) (length_sha384 _)

/-- Settles O60: one branch of each event's definition per clause; the stop's and the report's by their lemmas above. -/
theorem powerAndBoot : Obligations.PowerAndBoot := by
  unfold Obligations.PowerAndBoot
  intro s
  refine ⟨fun w => rfl, fun c hc => if_neg (by omega), fun c hc => if_pos hc, rfl, fun h => if_pos h, fun h => if_neg (by simp [h]),
    fun c mv => exec_emergencyStop_stops, fun c mv => exec_emergencyStop_within,
    fun c mv hstop hcool hsup => congrArg Outcome.next (if_pos ⟨rfl, hstop, hcool, hsup⟩), fun val c mv h => ?_,
    fun cfg fw ver mn hst => ?_, fun cfg fw ver mn hst => if_pos hst, fun nonce hn => ?_⟩
  · exact congrArg Outcome.next (State.restartDies_refused (h.imp_left fun hv hn => hv (BitVec.eq_of_toNat_eq hn)))
  · have hgo : ¬(s.stage = 1 ∨ s.stage = 2) := by omega
    refine ⟨?_, ?_, ?_⟩
    · rintro rfl
      exact (if_neg hgo).trans (if_pos rfl)
    · rintro rfl rfl hver
      refine (if_neg hgo).trans ((if_neg (by decide)).trans (congrArg Outcome.next (if_pos ?_)))
      simp [hver]
    · rintro rfl hbad
      refine (if_neg hgo).trans ((if_neg (by decide)).trans (congrArg Outcome.next (if_neg ?_)))
      simp only [Bool.and_eq_true, decide_eq_true_eq, not_and, Nat.not_le]
      intro hfw
      exact hbad.resolve_left (by simp [hfw])
  · exact ⟨_, _, if_neg (not_not_intro hn), by simp, rfl, s.reportBody_layout hn⟩

end Sys2Proof.Machine
end
section
/-!
Events of the ports (R369, R370).
-/

namespace Sys2Proof.Machine

open Sys2Proof Sys2Proof.Safety Host

/-! ## A message whose path is lost leaves the ports alone -/

@[simp] theorem State.outer_evFault (s : State) (o : Nat) (op : Op) (core cause addr : Nat) : (s.evFault o op core cause addr).outer = s.outer := rfl

@[simp] theorem State.outer_poisonTask (s : State) (g : Origin) (va : Nat) : (s.poisonTask g va).outer = s.outer := by
  fun_cases State.poisonTask s g va <;> simp

@[simp] theorem State.outer_dropFaulted (s : State) (die x cause a : Nat) : (s.dropFaulted die x cause a).outer = s.outer := by
  unfold State.dropFaulted
  split <;> rfl

@[simp] theorem State.outer_haltRing (s : State) (o : Nat) (op : Op) (r : Ring) (cause addr : Nat) :
    (s.haltRing o op r cause addr).outer = s.outer := by
  simp [State.haltRing]

theorem State.outer_lostMessage (s : State) (m : Msg) : (s.lostMessage m).outer = s.outer := by
  unfold State.lostMessage
  dsimp only
  split
  · rfl
  · split
    · rfl
    · split
      · exact State.outer_poisonTask _ _ _
      · split
        · split
          · exact State.outer_haltRing _ _ _ _ _ _
          · exact State.outer_poisonTask _ _ _
        · exact State.outer_poisonTask _ _ _

/-! ## What requeueing a port's messages leaves -/

/-- The Tabor count, and a port's state and lanes. -/
def State.line (p : Nat) (s : State) : Dword × PortState × Nat := (s.tabor, (s.port p).st, (s.port p).lanes)

/-- A change of a port that keeps its state and lanes leaves every port's state and lanes alone. -/
theorem State.line_modPort (s : State) (p q : Nat) (f : Port → Port) (hst : (f (s.port q)).st = (s.port q).st)
    (hlanes : (f (s.port q)).lanes = (s.port q).lanes) : (s.modPort q f).line p = s.line p := by
  unfold State.line
  rw [State.port_modPort]
  split
  case isTrue h => rw [h, hst, hlanes]; rfl
  case isFalse => rfl

theorem State.line_of_outer {s t : State} (p : Nat) (h : t.outer = s.outer) : t.line p = s.line p := by
  unfold State.line State.port
  rw [show t.ports = s.ports from congrArg (·.1) h, show t.tabor = s.tabor from congrArg (·.2.1) h]

theorem State.line_requeueMsgs (s : State) (p q : Nat) (trains : Bool) : (s.requeueMsgs p trains).line q = s.line q := by
  unfold State.requeueMsgs
  dsimp only
  split
  · rw [State.line_modPort _ _ _ _ rfl rfl, State.line_modPort _ _ _ _ rfl rfl]
  · split
    · rw [State.line_modPort _ _ _ _ rfl rfl, State.line_modPort _ _ _ _ rfl rfl]
    · split
      · rw [State.line_modPort _ _ _ _ rfl rfl]
      · split
        · rw [State.line_modPort _ _ _ _ rfl rfl, State.line_modPort _ _ _ _ rfl rfl]
        · exact (State.line_of_outer q (outer_foldl _ State.outer_lostMessage _ _)).trans (State.line_modPort _ _ _ _ rfl rfl)

/-- A port put in a state, whose messages are then requeued elsewhere, is in that state; the Tabor count is as it was. -/
theorem State.line_modPort_requeueMsgs (s : State) (p : Nat) (f : Port → Port) :
    ((s.modPort p f).requeueMsgs p false).line p = (s.tabor, (f (s.port p)).st, (f (s.port p)).lanes) := by
  rw [State.line_requeueMsgs, State.line, State.port_modPort_self]
  rfl

/-! ## The obligation -/

/-- Settles O57: an event's definition gives the port it makes; requeueing messages leaves the states of the ports. -/
theorem portEvents : Obligations.PortEvents := by
  unfold Obligations.PortEvents
  intro s p
  refine ⟨?enable, ?enableUp, ?disable, ?done, ?failed, ?laneLoss, ?retry, ?noRetry, ?replays, ?timeout⟩
  case enable => exact fun hdown hp => if_pos (by rw [hdown, decide_eq_true hp]; rfl)
  case enableUp => exact fun hup => if_neg (by simp [hup])
  case disable =>
    intro hp
    have hline := s.line_modPort_requeueMsgs p (fun q => { q with st := .down, lanes := 0 })
    exact ⟨_, if_neg (Nat.not_le.2 hp), congrArg (·.2.1) hline, congrArg (·.2.2) hline⟩
  case done =>
    intro lanes hst hlow hhigh
    refine ⟨_, if_neg ?_, s.onlyPort_modPort p _, s.port_modPort_self p _⟩
    simp [hst]
    omega
  case failed =>
    intro hst
    have hline := s.line_modPort_requeueMsgs p (fun q => { q with st := .failed })
    refine ⟨_, if_neg (by simp [hst]), congrArg (·.2.1) hline, ?_⟩
    rw [← show _ = s.tabor from congrArg (·.1) hline]
    exact List.getLast?_concat
  case laneLoss => exact fun hw l => if_pos hw
  case retry => exact fun hw htries => if_pos (by rw [hw, decide_eq_true htries]; rfl)
  case noRetry => exact fun htries => if_neg (by simp [htries])
  case replays =>
    intro hp
    have honly := s.onlyPort_modPort p (fun q => { q with replays := 0 })
    exact ⟨_, if_neg (Nat.not_le.2 hp), s.port_modPort_self p (fun q => { q with replays := 0 }), rfl, honly.others⟩
  case timeout => exact ⟨_, rfl, s.onlyPort_modPort p _, s.port_modPort_self p _⟩

end Sys2Proof.Machine
end
section
/-!
Messages of other packages are acted on and answered (R366, R367, R372, R373, R375).
-/

namespace Sys2Proof.Machine

open Sys2Proof Sys2Proof.Safety Host

/-! ## Reads and writes at the lines' home -/

section Mail
variable {s : State} {idx : Nat} {m : Msg}

theorem exec_readRequest (hm : s.mail idx 1 = some m) {len : Nat} (hpos : 0 < len) (hlen : len ≤ 256) (hr : s.mailReady m len = true) :
    exec (.readRequest idx len) s = .next ((s.readMail idx).answer 2 m (bytesWords (s.homeBytes View.plain m.addr len))) := by
  show execReadRequest idx len s = _
  rw [execReadRequest, hm]
  dsimp only
  rw [Nat.min_eq_left hlen, hr, if_neg (by simp; omega), if_neg (by omega)]

theorem exec_readRequest_tagged (hm : s.mail idx 1 = some m) (hr : s.mailReady m 256 = true) :
    exec (.readRequest idx 268) s =
      .next (({ s with fresh := s.fresh + 12 }.readMail idx).answer 2 m (bytesWords (s.homeBytes View.plain m.addr 256 ++ s.tagOf m.addr))) := by
  show execReadRequest idx 268 s = _
  rw [execReadRequest, hm]
  dsimp only
  rw [show min 268 256 = 256 from rfl, hr, if_neg (by decide), if_pos rfl]

theorem exec_writeMessage (hm : s.mail idx 3 = some m) {len : Nat} (hwords : (len + 3) / 4 = m.data.length) (hlen : len ≤ 256)
    (hr : s.mailReady m len = true) :
    exec (.writeMessage idx len) s = .next (((s.agentWrite m.addr ((wordBytes m.data).take len)).readMail idx).answer 5 m []) := by
  show execWriteMessage idx len s = _
  rw [execWriteMessage, hm]
  dsimp only
  rw [Nat.min_eq_left hlen, hr, if_neg (by simp [hwords]; omega), if_neg (by omega)]

theorem exec_writeMessage_tagged (hm : s.mail idx 3 = some m) (hwords : m.data.length = 67) (hr : s.mailReady m 256 = true) :
    exec (.writeMessage idx 268) s = .next ((((s.agentWrite m.addr ((wordBytes m.data).take 256)).keepTag m.addr
      ((wordBytes m.data).take 268)).readMail idx).answer 5 m []) := by
  show execWriteMessage idx 268 s = _
  rw [execWriteMessage, hm]
  dsimp only
  rw [show min 268 256 = 256 from rfl, hr, hwords, if_neg (by decide), if_pos rfl]

theorem exec_atomicMessage (hm : s.mail idx 4 = some m) {aop aty : Nat} (hr : s.mailReady m (atBytes aty) = true) :
    let old := leNat (s.mem.bytes m.addr (atBytes aty))
    let c := leNat (wordBytes (m.data.take (m.data.length / 2))) % 2 ^ (8 * atBytes aty)
    let c2 := leNat (wordBytes (m.data.drop (m.data.length / 2))) % 2 ^ (8 * atBytes aty)
    exec (.atomicMessage idx aop aty false) s = .next (((if atomWrites aop old c c2 = true
      then s.agentWrite m.addr (leBytes (atBytes aty) (atomNew aop aty old c c2 1)) else s).readMail idx).answer 2 m
        (bytesWords (leBytes (atBytes aty) old))) := by
  show execAtomicMessage idx aop aty false s = _
  rw [execAtomicMessage, hm]
  exact if_neg (by simp [hr])

theorem exec_wakeWrite (hm : s.mail idx 6 = some m) {len : Nat} (hlen : len = 4 ∨ len = 8) (hr : s.mailReady m len = true) :
    exec (.wakeWrite idx len) s =
      .next (((s.wakeStore none none m.addr ((wordBytes m.data).take len) State.evalWakes).readMail idx).answer 5 m []) := by
  show execWakeWrite idx len s = _
  rw [execWakeWrite, hm]
  exact if_neg (by simp [hr]; omega)

/-! ## Answers -/

theorem exec_readResponse (hm : s.mail idx 2 = some m) {pd : Pend} {op : Op} {e : Elem} (hp : (s.readMail idx).pend.find? m.no = some pd)
    (ho : s.op? pd.op = some op) (hn : pd.elem < noOp) (he : op.elems[pd.elem]? = some e)
    (hw : e.w ≤ ((wordBytes m.data).take 256).length) :
    exec (.readResponse idx) s = .next ({ s.readMail idx with pend := (s.readMail idx).pend.del m.no }.remoteValue pd.op pd.elem op e
      (leNat (((wordBytes m.data).take 256).take e.w))) := by
  have ho' : State.op? { s.readMail idx with pend := (s.readMail idx).pend.del m.no } pd.op = some op := ho
  show execReadResponse idx s = _
  rw [execReadResponse, hm]
  dsimp only
  rw [hp]
  dsimp only
  rw [ho']
  dsimp only
  rw [if_neg (Nat.not_le.2 hn), he]
  exact if_neg (Nat.not_lt.2 hw)

/-- The state after the acknowledgement of a message that waited for it. -/
def State.acknowledged (s : State) (idx no : Nat) (pd : Pend) : State :=
  { s.readMail idx with pend := (s.readMail idx).pend.del no }.clearOthers pd.who pd.msg.addr pd.n

/-- An acknowledgement of anything but a read, by what its operation is now. -/
theorem exec_endToEndAck (hm : s.mail idx 5 = some m) {pd : Pend} (hp : (s.readMail idx).pend.find? m.no = some pd) (hk : pd.msg.kind ≠ 1) :
    exec (.endToEndAck idx) s = match s.op? pd.op with
      | none => .next (s.acknowledged idx m.no pd)
      | some op => match op.instr, op.elems[pd.elem]? with
        | .sc _, some e => .next ((s.acknowledged idx m.no pd).remoteValue pd.op pd.elem op e 0)
        | .atom _, _ => .next (s.readMail idx)
        | _, _ => .next ((s.acknowledged idx m.no pd).modElem pd.op pd.elem (fun e => { e with st := .complete })) := by
  show execEndToEndAck idx s = _
  rw [execEndToEndAck, hm]
  dsimp only
  rw [hp]
  exact if_neg hk

theorem exec_endToEndAck_plain (hm : s.mail idx 5 = some m) {pd : Pend} (hp : (s.readMail idx).pend.find? m.no = some pd)
    (hk : pd.msg.kind ≠ 1) {op : Op} (ho : s.op? pd.op = some op) (hsc : ∀ f, op.instr ≠ .sc f) (hatom : ∀ f, op.instr ≠ .atom f) :
    exec (.endToEndAck idx) s = .next ((s.acknowledged idx m.no pd).modElem pd.op pd.elem (fun e => { e with st := .complete })) := by
  rw [exec_endToEndAck hm hp hk, ho]
  dsimp only
  split
  case h_1 f _ h _ => exact absurd h (hsc f)
  case h_2 f h => exact absurd h (hatom f)
  case h_3 => rfl

/-! ## Time and gang messages -/

theorem exec_taborSynchronisation_answer (hm : s.mail idx 7 = some m) {t1 t2 t3 t4 : Nat} (hs : s.master ≠ Config.package)
    (h0 : m.dword 0 = BitVec.ofNat 64 t3) (h1 : m.dword 1 = BitVec.ofNat 64 t2 - BitVec.ofNat 64 t1) (h2 : m.dword 2 = BitVec.ofNat 64 t4) :
    exec (.taborSynchronisation idx t1 t2 t3 t4) s =
      .next (((s.readMail idx).answer 5 m []).adjust (BitVec.ofNat 64 t2 - BitVec.ofNat 64 t1) (BitVec.ofNat 64 t4 - BitVec.ofNat 64 t3)) := by
  show execTaborSynchronisation idx t1 t2 t3 t4 s = _
  rw [execTaborSynchronisation, hm]
  dsimp only
  rw [if_neg hs, h0, h1, h2]
  exact if_neg (by simp)

theorem exec_taborSynchronisation_master (hm : s.mail idx 7 = some m) {t1 t2 : Nat} (t3 t4 : Nat) (hs : s.master = Config.package)
    (h0 : m.dword 0 = BitVec.ofNat 64 t1) (h2 : m.dword 2 = BitVec.ofNat 64 t2) :
    exec (.taborSynchronisation idx t1 t2 t3 t4) s = .next (((s.readMail idx).answer 5 m []).tell 7 m.src 0
      (splitWords 2 0 ++ splitWords 2 (BitVec.ofNat 64 t2 - BitVec.ofNat 64 t1).toNat)) := by
  show execTaborSynchronisation idx t1 t2 t3 t4 s = _
  rw [execTaborSynchronisation, hm]
  dsimp only
  rw [if_pos hs, h0, h2]
  exact if_neg (by simp)

/-- A package that is behind steps forward; one that is ahead keeps its count and runs slow. -/
theorem State.adjust_sign (s : State) (a b : Dword) :
    (0 ≤ a.toInt - b.toInt →
      s.adjust a b = { s with tabor := s.tabor + BitVec.ofNat 64 ((a.toInt - b.toInt) / 2).toNat, ahead := 0, slowHalf := false }) ∧
    (a.toInt - b.toInt < 0 → (s.adjust a b).tabor = s.tabor ∧ 0 < (s.adjust a b).ahead) := by
  refine ⟨fun h => if_pos (by omega), fun h => ?_⟩
  have hslow : s.adjust a b = { s with ahead := (-((a.toInt - b.toInt) / 2)).toNat, slowHalf := false } := if_neg (by omega)
  rw [hslow]
  exact ⟨rfl, by dsimp only; omega⟩

/-- The gang that a gang message names. -/
theorem gangWords_gang (tick : Nat) (abort : Bool) {gang : Nat} (h : gang < 2 ^ 32) : ((gangWords tick abort gang).getD 3 0).toNat = gang :=
  Nat.mod_eq_of_lt h

/-- A start, and an abort of another gang, are only acknowledged. -/
theorem exec_gangStartOrAbort_other (hm : s.mail idx 8 = some m) {tick gang : Nat} {abort : Bool} (hd : m.data = gangWords tick abort gang)
    (hg : gang < 2 ^ 32) (ho : abort = false ∨ gang ≠ s.master) :
    exec (.gangStartOrAbort idx abort tick) s = .next ((s.readMail idx).answer 5 m []) := by
  show execGangStartOrAbort idx abort tick s = _
  rw [execGangStartOrAbort, hm]
  dsimp only
  rw [hd, gangWords_gang tick abort hg, if_neg (by simp), if_pos (by simpa using ho)]

theorem exec_gangStartOrAbort_own (hm : s.mail idx 8 = some m) {tick gang : Nat} (hd : m.data = gangWords tick true gang)
    (hg : gang < 2 ^ 32) (ho : gang = s.master) :
    exec (.gangStartOrAbort idx true tick) s = .next
      (let s1 := (s.readMail idx).answer 5 m []
       let s2 := (s1.kernels.filter (fun e => e.2.start == tick && tick != 0 && (e.2.st == .waiting || s1.stillRunning e.2))).foldl
          (fun (u : State) e => u.failKernel e.1 4 0 0) s1
       { s2 with aborts := distinct ((s2.aborts ++ [tick]).filter (fun t => decide (s.tabor.toNat ≤ t))) }) := by
  show execGangStartOrAbort idx true tick s = _
  rw [execGangStartOrAbort, hm]
  dsimp only
  rw [hd, gangWords_gang tick true hg, if_neg (by simp), if_neg (by simp [ho])]

theorem exec_claveFiring (hm : s.mail idx 9 = some m) {tick : Nat} (hd : m.data = splitWords 4 tick) :
    exec (.claveFiring idx tick) s = .next (
      let s1 := (s.readMail idx).answer 5 m []
      if tick < s.tabor.toNat then s1.fireClave 4 (some true) else { s1 with claveTicks := s1.claveTicks ++ [(tick, false)] }) := by
  show execClaveFiring idx tick s = _
  rw [execClaveFiring, hm]
  dsimp only
  rw [if_neg (by simp [hd])]
  exact (apply_ite Outcome.next _ _ _).symm

end Mail

theorem exec_gangFormation {s : State} {master : Nat} {members : List Nat} {count : Dword} (hr : s.recovering = false)
    (hl : members.length ≤ 4096) (hm : master ∈ members) :
    exec (.gangFormation master members count) s = .next { s.takeCount count with gang := distinct members, master := master } :=
  if_neg (by simp [hr, hm, Config.gangPackages, Nat.not_lt.2 hl])

/-- Settles O59: one lemma per kind of message. -/
theorem messagesActedOn : Obligations.MessagesActedOn := by
  unfold Obligations.MessagesActedOn
  intro s idx m
  refine ⟨fun len hm => exec_readRequest hm, exec_readRequest_tagged, fun hm pd op e => exec_readResponse hm, fun len hm => exec_writeMessage hm,
    exec_writeMessage_tagged, fun aop aty hm => exec_atomicMessage hm, ?ack, fun len hm => exec_wakeWrite hm,
    fun t1 t2 t3 t4 hm => exec_taborSynchronisation_answer hm, fun t1 t2 t3 t4 hm => exec_taborSynchronisation_master hm t3 t4, s.adjust_sign,
    ?timer, fun tick gang hm hd hg => exec_gangStartOrAbort_other hm hd hg (.inl rfl), ?abort, ?clave, ?formation⟩
  case ack =>
    intro hm pd hp hk
    refine ⟨fun ho => ?_, fun op => exec_endToEndAck_plain hm hp hk, fun op f e ho hi he => ?_⟩
    · rw [exec_endToEndAck hm hp hk, ho]
      rfl
    · rw [exec_endToEndAck hm hp hk, ho]
      dsimp only
      rw [hi, he]
      rfl
  case timer => exact fun hgang hs => if_neg (by simp [hgang, hs])
  case abort =>
    exact fun tick gang hm hd hg => ⟨_, rfl, fun ho => exec_gangStartOrAbort_other hm hd hg (.inr ho), exec_gangStartOrAbort_own hm hd hg⟩
  case clave =>
    intro tick hm hd
    refine ⟨fun hnot => ?_, fun hpast => ⟨_, ?_, State.claveFires_fireClave _ 4 (some true)⟩⟩
    · rw [exec_claveFiring hm hd]
      exact congrArg Outcome.next (if_neg hnot)
    · rw [exec_claveFiring hm hd]
      exact congrArg Outcome.next (if_pos hpast)
  case formation =>
    exact fun master members count hr hl hm => ⟨exec_gangFormation hr hl hm, fun h => if_pos h, fun h => if_neg (BitVec.not_le.2 h)⟩

end Sys2Proof.Machine
end
section
/-!
What the host and the management controller do to the package (R376 to R381).
-/

namespace Sys2Proof.Machine

open Sys2Proof Sys2Proof.Safety Host

/-! ## Registers -/

/-- BOOTSTAT.ERR is bit 7. -/
theorem State.bootstat_err (s : State) : s.bootstat / 2 ^ 7 % 2 = s.bootErr.toNat := by
  have herr := s.bootErr.toNat_le
  have hup := s.hostUp.toNat_le
  unfold State.bootstat
  omega

/-- A host's write of a global register through function 0. -/
theorem exec_registerWrite_global {s : State} (hr : s.hostReaches = true) (off : Nat) (val : Dword) :
    exec (.registerWrite 0 0 off val) s =
      .next ((s.writeGlobal false off val).send (.value ((s.writeGlobal false off val).readGlobal off))) :=
  if_neg (by simp [hr])

/-- The link is down, or the package recovers: the write does nothing. -/
theorem exec_registerWrite_unreached {s : State} (hr : s.hostReaches = false) (fn bar off : Nat) (val : Dword) :
    exec (.registerWrite fn bar off val) s = .next s :=
  if_pos (by simp [hr])

theorem State.writeGlobal_power (s : State) (val : Dword) (hlow : 1400 ≤ val.toNat) (hhigh : val.toNat ≤ 2300) :
    s.writeGlobal false 0x10 val = { s with pwrLim := val.toNat } := by
  have hv : val.toNat % 2 ^ 32 = val.toNat := Nat.mod_eq_of_lt (by omega)
  refine (if_pos (by rw [hv]; exact ⟨hlow, hhigh⟩)).trans ?_
  rw [hv]

theorem State.writeGlobal_power_refused (s : State) (val : Dword) (hout : val.toNat < 1400 ∨ 2300 < val.toNat) (hv : val.toNat < 2 ^ 32) :
    s.writeGlobal false 0x10 val = s.refuseWrite := by
  refine if_neg ?_
  rw [Nat.mod_eq_of_lt hv]
  omega

theorem State.writeGlobal_bootstat (s : State) (val : Dword) :
    s.writeGlobal false 0x00 val = { s with bootErr := s.bootErr && !val.toNat.testBit 7 } := by
  have hw : s.writeGlobal false 0x00 val = if val.toNat.testBit 7 then { s with bootErr := false } else s := rfl
  rw [hw]
  cases val.toNat.testBit 7
  · rw [Bool.not_false, Bool.and_true]
    rfl
  · rw [Bool.not_true, Bool.and_false]
    rfl

/-! ## The aperture -/

theorem homeOf_of_lt {pa : Nat} (h : pa < Config.hbmBytes) : homeOf pa = .hbm := by
  have hbit : bitOf pa 51 = false := Nat.testBit_lt_two_pow (h.trans (by decide))
  unfold homeOf
  rw [hbit, if_neg (by simp), if_pos h]

/-- All of a function's aperture is device memory. -/
theorem apertureBase_add_lt (fn : Nat) {off : Nat} (h : off < 2 ^ 24) : Config.apertureBase fn + off < Config.hbmBytes := by
  have hmod : Config.apertureBase fn < Config.hbmBytes - Config.apertureBytes + 1 := Nat.mod_lt _ (Nat.succ_pos _)
  have hle : Config.apertureBytes ≤ Config.hbmBytes := by decide
  have hsize : Config.apertureBytes = 2 ^ 24 := rfl
  omega

theorem State.homeBytes_plain {s : State} {pa n : Nat} (h : ∀ i < n, homeOf (pa + i) = .hbm) :
    s.homeBytes View.plain pa n = (List.range n).map (fun i => s.mem.rd 0 (pa + i)) := by
  refine List.map_congr_left fun i hi => ?_
  show s.byteAt (pa + i) = _
  rw [State.byteAt, h i (List.mem_range.1 hi)]

/-- An access that the host reaches, inside the aperture, with its lines free. -/
theorem aperture_open {s : State} {fn off n : Nat} (hr : s.hostReaches = true) (hfn : fn ≤ 63) (hpos : 0 < n) (hin : off + n ≤ 2 ^ 24)
    (hu : s.unowned (Config.apertureBase fn + off) n = true) :
    (!s.hostReaches || n == 0 || decide (Config.virtualFunctions < fn) || decide (Config.apertureBytes < off + n) ||
      !s.unowned (Config.apertureBase fn + off) n) = false := by
  have hfn' : ¬Config.virtualFunctions < fn := Nat.not_lt.2 hfn
  have hin' : ¬Config.apertureBytes < off + n := Nat.not_lt.2 hin
  have hpos' : n ≠ 0 := by omega
  simp [hr, hpos', hfn', hin', hu]

theorem exec_hostApertureAccess_write {s : State} {fn off : Nat} {b : List Byte} (len : Nat) (hr : s.hostReaches = true) (hfn : fn ≤ 63)
    (hb : b ≠ []) (hin : off + b.length ≤ 2 ^ 24) (hu : s.unowned (Config.apertureBase fn + off) b.length = true) :
    exec (.hostApertureAccess ⟨fn, off⟩ (some b) len) s = .next (s.agentWrite (Config.apertureBase fn + off) b) :=
  if_neg (ne_true_of_eq_false (aperture_open hr hfn (List.length_pos_iff.2 hb) hin hu))

theorem exec_hostApertureAccess_read {s : State} {fn off len : Nat} (hr : s.hostReaches = true) (hfn : fn ≤ 63) (hpos : 0 < len)
    (hin : off + len ≤ 2 ^ 24) (hu : s.unowned (Config.apertureBase fn + off) len = true) :
    exec (.hostApertureAccess ⟨fn, off⟩ none len) s =
      .next { s with outbox := .bytes ((List.range len).map (fun i => s.mem.rd 0 (Config.apertureBase fn + off + i))) :: s.outbox } := by
  have hhome : ∀ i < len, homeOf (Config.apertureBase fn + off + i) = .hbm := fun i hi =>
    homeOf_of_lt (by rw [Nat.add_assoc]; exact apertureBase_add_lt fn (by omega))
  rw [← State.homeBytes_plain hhome]
  exact if_neg (ne_true_of_eq_false (aperture_open hr hfn hpos hin hu))

/-! ## Events -/

/-- What an agent writes to this package's HBM moves only memory, cores, sharers, crews' reservations and contexts' queues. -/
theorem State.agentWrite_keeps {β : Type} (f : State → β) (hf : ∀ (s : State) m k t c x,
      f { s with mem := m, cores := k, sharers := t, crews := c, ctxs := x } = f s) (s : State) (pa : Nat) (bs : List Byte)
    (h : homeOf pa = .hbm) : f (s.agentWrite pa bs) = f s :=
  State.commitFor_keeps f hf s _ none none pa bs h

/-- The global ring's next slot (R380). -/
def State.eventSlot (s : State) : Nat := s.evBase + 32 * (s.evW % 4096)

theorem exec_eventDelivery_global {s : State} {e : Event} (he : s.events.find? (fun e => s.ringOf e == none) = some e) (hbase : s.evBase ≠ 0)
    (hroom : (s.evW + 2 ^ 32 - s.evR) % 2 ^ 32 < 4096) (hu : s.unowned s.eventSlot 32 = true) (hh : homeOf s.eventSlot = .hbm) :
    exec (.eventDelivery none) s = .next (State.send
      { { s with events := s.events.erase e }.agentWrite s.eventSlot (leBytes 32 e.toNat) with evW := (s.evW + 1) % 2 ^ 32 } (.msix 0)) := by
  have hevW : ({ s with events := s.events.erase e }.agentWrite s.eventSlot (leBytes 32 e.toNat)).evW = s.evW :=
    State.agentWrite_keeps State.evW (fun _ _ _ _ _ _ => rfl) _ _ _ hh
  show execEventDelivery none s = _
  rw [execEventDelivery, he]
  dsimp only
  rw [if_neg (Nat.not_le.2 hroom)]
  refine (if_neg ?_).trans ?_
  · rintro (h | h)
    · exact hbase h
    · rw [show s.unowned (s.evBase + 32 * (s.evW % 4096)) 32 = true from hu] at h
      cases h
  · exact congrArg (fun n : Nat => Outcome.next (State.send
      { { s with events := s.events.erase e }.agentWrite s.eventSlot (leBytes 32 e.toNat) with evW := (n + 1) % 2 ^ 32 } (.msix 0))) hevW

/-- Settles O53: one lemma per register, access and event; the rest is a branch of the definition. -/
theorem hostAccesses : Obligations.HostAccesses := by
  unfold Obligations.HostAccesses
  refine ⟨?power, ?refused, ?bootstat, fun s fn bar off val hr => exec_registerWrite_unreached hr fn bar off val, ?write,
    fun s fn off len hr hfn hpos hin hu => exec_hostApertureAccess_read hr hfn hpos hin hu, fun s bar off val => rfl, fun s => rfl,
    fun s fw copy bytes hcopy => if_neg (Nat.not_le.2 hcopy), ?event, ?cxl, fun s up => rfl⟩
  case power =>
    intro s val hr hlow hhigh
    rw [exec_registerWrite_global hr, s.writeGlobal_power val hlow hhigh]
    rfl
  case refused =>
    intro s val hr hout hv
    refine ⟨_, exec_registerWrite_global hr _ _, ?_, ?_⟩
    · rw [s.writeGlobal_power_refused val hout hv]
      rfl
    · rw [State.bootstat_err, s.writeGlobal_power_refused val hout hv]
      rfl
  case bootstat =>
    intro s val hr
    refine ⟨_, exec_registerWrite_global hr _ _, ?_, ?_, State.bootstat_err _⟩
    · rw [s.writeGlobal_bootstat val]
      rfl
    · rw [s.writeGlobal_bootstat val]
      rfl
  case write =>
    intro s fn off b len hr hfn hb hin addr hu
    have hlen := List.length_pos_iff.2 hb
    exact ⟨_, exec_hostApertureAccess_write len hr hfn hb hin hu,
      s.rd_mem_agentWrite addr b (homeOf_of_lt (apertureBase_add_lt fn (by omega)))⟩
  case event =>
    intro s e he hbase hroom hu hh
    refine ⟨_, exec_eventDelivery_global he hbase hroom hu hh, ?_, rfl, rfl, ?_⟩
    · exact State.agentWrite_keeps State.events (fun _ _ _ _ _ _ => rfl) { s with events := s.events.erase e } s.eventSlot _ hh
    · intro a
      refine (State.rd_mem_agentWrite _ s.eventSlot _ hh a).trans ?_
      rw [length_leBytes]
      rfl
  case cxl =>
    intro s dev hdev hnew
    exact if_neg (by simp [hnew]; omega)

end Sys2Proof.Machine
end
section
/-!
Turns of the units and of the pools: TKSIZE, PROOT and a quarantined pool page (R336, R337, R346, R351).
-/

namespace Sys2Proof.Machine

open Sys2Proof Sys2Proof.Safety Host

/-! ## TKSIZE -/

/-- The first operation of its pod whose maps and sources are read writes its bias array and completes (R336, R337). -/
theorem exec_gOperationCompletion_tksize {s : State} {o : Nat} {op : Op} {cr : Crew} {f : Fields} {tab tab2 : Tab Byte} {mp p}
    (ho : s.op? o = some op) (hc : s.crew? op.crew = some cr) (hi : op.instr = .tksize f) (ha : op.st = .active) (hoff : op.off = 0)
    (hfirst : ∀ e ∈ s.ops, s.onPod (podOf cr.core) e.2 = true → e.2.st = .active → op.phys ≤ e.2.phys)
    (hmaps : s.tokenMaps o op (dieOf cr.core) = .ok (tab, mp, p))
    (hread : s.gather o { op with buf := tab } (dieOf cr.core) ((op.tokenRanges mp p).1.map (fun r => Src.dev r.1 r.2)) = .ok tab2) :
    exec (.gOperationCompletion o) s = .next (((s.spadWrite op.crew op.dv (op.biasArray mp)).noteAcquire op 1).endOp o 3) := by
  have hturn : s.ops.any (fun e => s.onPod (podOf cr.core) e.2 && e.2.st == .active && decide (e.2.phys < op.phys)) = false := by
    rw [List.any_eq_false]
    intro e he hbad
    simp only [Bool.and_eq_true, beq_iff_eq, decide_eq_true_eq] at hbad
    obtain ⟨⟨hpod, hact⟩, hlt⟩ := hbad
    exact absurd (hfirst e he hpod hact) (Nat.not_le.2 hlt)
  have hgo : (!isToken op.instr || !(op.st == .active) ||
      s.ops.any (fun e => s.onPod (podOf cr.core) e.2 && e.2.st == .active && decide (e.2.phys < op.phys))) = false := by
    rw [hturn, hi, ha]
    rfl
  have hoff' : ¬op.off = 1 := by omega
  show execGOperationCompletion o s = _
  rw [execGOperationCompletion, ho]
  dsimp only
  rw [hc]
  dsimp only
  rw [hgo, if_neg (by decide), if_neg hoff', hmaps]
  dsimp only [Got.bind]
  rw [hread]
  dsimp only [Got.bind]
  rw [hi]

/-! ## PROOT -/

theorem State.dropRuns_keeps {β : Type} (g : State → β) (h : ∀ (s : State) t, g { s with tlb := t } = g s) (s : State) (die x : Nat)
    (t : Tab Byte) : g (s.dropRuns die x t) = g s :=
  foldl_keeps g _ (fun s _ => h s _) _ s

/-- What a PROOT writes, committed in one step (R349). -/
def State.rootCommitted (s : State) (g : Origin) (die x : Nat) (out : Tab Byte) (l : List (Nat × List Byte)) : State :=
  l.foldl (fun (s : State) e => s.commitFor g none none e.1 e.2) (s.dropRuns die x out)

/-- Where all of it is this package's HBM, no part of the state but these moves. -/
theorem State.rootCommitted_keeps {β : Type} (f : State → β) (hf : ∀ (s : State) m k t c x b,
      f { s with mem := m, cores := k, sharers := t, crews := c, ctxs := x, tlb := b } = f s) (s : State) (g : Origin) (die x : Nat)
    (out : Tab Byte) (l : List (Nat × List Byte)) (hl : ∀ e ∈ l, homeOf e.1 = .hbm) : f (s.rootCommitted g die x out l) = f s := by
  have hcommits : ∀ (l : List (Nat × List Byte)) (u : State), (∀ e ∈ l, homeOf e.1 = .hbm) →
      f (l.foldl (fun (s : State) e => s.commitFor g none none e.1 e.2) u) = f u := by
    intro l
    induction l with
    | nil => exact fun u _ => rfl
    | cons e l ih =>
      intro u hl
      obtain ⟨he, hl⟩ := List.forall_mem_cons.1 hl
      rw [List.foldl_cons, ih _ hl]
      exact State.commitFor_keeps f (fun s m k t c x => hf s m k t c x s.tlb) u g none none e.1 e.2 he
  rw [State.rootCommitted, hcommits l _ hl]
  exact State.dropRuns_keeps f (fun s t => hf s s.mem s.cores s.sharers s.crews s.ctxs t) s die x out

/-- No page is released, and none waits: nothing enters the quarantine queue. -/
theorem State.settlePool_nothing_freed (s : State) (x pool : Nat) (h : NoPoolWait s x) :
    State.settlePool { s with poolWait := s.poolWait ++ ([] : List Nat).map (fun p => (pool, p, x)) } x = s := by
  rw [List.map_nil, List.append_nil]
  exact s.settlePool_none x h

theorem State.outputsDone_at_once {s : State} {o : Nat} (h : s.unacked o = false) (op : Op) (scope : Nat) :
    s.outputsDone o op scope = ((s.noteAcquire op scope).noteFuture op o scope).endOp o 3 :=
  if_neg (ne_true_of_eq_false h)

theorem exec_prootCompletion_here {s : State} {o : Nat} {op : Op} {cr : Crew} {f : Fields} {r} {l : List (Nat × List Byte)}
    (ho : s.op? o = some op) (hc : s.crew? op.crew = some cr) (hi : op.instr = .proot f) (ha : op.st = .active) (hoff : op.off = 0)
    (hr : s.rootStep o op (dieOf cr.core) = .ok r)
    (hown : (s.mappedLines op (dieOf cr.core) r.touched).all (fun x => op.lines.contains x) = true)
    (hturn : (s.mappedLines op (dieOf cr.core) r.touched).all (fun x => s.turnOf o x) = true) (hfreed : r.freed = [])
    (hheld : s.runsHeld (dieOf cr.core) op.ctx r.out = false) (hruns : s.writeRuns op (dieOf cr.core) r.out = .ok l)
    (hl : ∀ e ∈ l, homeOf e.1 = .hbm) (hacked : s.unacked o = false) (hp : NoPoolWait s op.ctx) :
    exec (.prootCompletion o) s = .next
      ((((s.rootCommitted { op.origin o with vas := outPages r.out l } (dieOf cr.core) op.ctx r.out l).noteAcquire op (runsScope l)).noteFuture
        op o (runsScope l)).endOp o 3) := by
  have hkeep {β : Type} (f : State → β) (hf) :=
    State.rootCommitted_keeps f hf s { op.origin o with vas := outPages r.out l } (dieOf cr.core) op.ctx r.out l hl
  generalize hu : s.rootCommitted { op.origin o with vas := outPages r.out l } (dieOf cr.core) op.ctx r.out l = u at hkeep ⊢
  have hops : u.op? o = some op := (hkeep (State.op? · o) (fun _ _ _ _ _ _ _ => rfl)).trans ho
  have hpend : u.unacked o = false := (hkeep (State.unacked · o) (fun _ _ _ _ _ _ _ => rfl)).trans hacked
  have hwait : NoPoolWait u op.ctx := by
    unfold NoPoolWait
    rw [hkeep State.poolWait (fun _ _ _ _ _ _ _ => rfl)]
    exact hp
  have hgo : (!(op.st == .active) || !isBeam op.instr) = false := by
    rw [ha, hi]
    rfl
  have hoff' : ¬op.off = 1 := by omega
  show execProotCompletion o s = _
  rw [execProotCompletion, ho]
  dsimp only
  rw [hc]
  dsimp only
  rw [hgo, if_neg (by decide), if_neg hoff', hr]
  dsimp only
  rw [hown, hturn, hheld, hruns, hfreed, if_neg (by decide), if_neg (by decide), if_neg (by decide)]
  dsimp only
  rw [show List.foldl _ (s.dropRuns (dieOf cr.core) op.ctx r.out) l = u from hu, u.settlePool_nothing_freed op.ctx r.pool hwait, hops]
  exact congrArg Outcome.next (State.outputsDone_at_once hpend op _)

/-! ## Pages of a pool -/

section Page
variable {s : State} {idx pool page x e : Nat} (hq : s.poolQ[idx]? = some (pool, page, x, e))
include hq

theorem exec_poolPageFree_waits (hr : s.retired x e = false) : exec (.poolPageFree idx) s = .next s := by
  show execPoolPageFree idx s = _
  rw [execPoolPageFree, hq]
  exact if_pos (by simp [hr])

theorem exec_poolPageFree_stores (hr : s.retired x e = true) {pa wa sa slot : Nat} (hheld : s.walkHeld 0 x pool Need.read = false)
    (hheldw : s.walkHeld 0 x (pool + 20) Need.atomic = false) (hpa : s.translate 0 x pool Need.read = .ok pa)
    (hwa : s.translate 0 x (pool + 20) Need.atomic = .ok wa)
    (hslot : slot = bitsOf (leNat (s.bytesAt pa 20)) 64 64 + 4 * (leNat (s.bytesAt wa 4) % bitsOf (leNat (s.bytesAt pa 20)) 128 32))
    (hlt : slot < 2 ^ 56) (hhelds : s.walkHeld 0 x slot Need.write = false) (hsa : s.translate 0 x slot Need.write = .ok sa)
    (hu : s.unowned pa 24 = true) (hus : s.unowned sa 4 = true) :
    exec (.poolPageFree idx) s = .next
      ((({ s with poolQ := s.poolQ.eraseIdx idx }.ctxWrite x (s.ctx x).epoch sa (leBytes 4 page)).ctxWrite x (s.ctx x).epoch wa
        (leBytes 4 ((leNat (s.bytesAt wa 4) + 1) % 2 ^ 32))).settleQuarantine x) := by
  show execPoolPageFree idx s = _
  rw [execPoolPageFree, hq]
  dsimp only
  rw [hr, hheld, hheldw, if_neg (by decide), hpa, hwa]
  dsimp only
  rw [← hslot, hhelds, if_neg (fun h => h.elim (Nat.not_le.2 hlt) Bool.false_ne_true), hsa]
  dsimp only
  rw [hu, hus, if_neg (by decide)]

end Page

/-- Settles O55: each turn's definition followed to the branch that its premises leave. -/
theorem unitAndPoolTurns : Obligations.UnitAndPoolTurns := by
  unfold Obligations.UnitAndPoolTurns
  refine ⟨fun s o op cr f tab mp p tab2 => exec_gOperationCompletion_tksize, fun s o op cr f r l => exec_prootCompletion_here,
    fun s idx pool page x e hq => ⟨exec_poolPageFree_waits hq, ?_⟩⟩
  intro hr pa wa sa hheld hheldw hpa hwa slot hlt hhelds hsa hu hus
  exact exec_poolPageFree_stores hq hr hheld hheldw hpa hwa rfl hlt hhelds hsa hu hus

end Sys2Proof.Machine
end
